-- ==== Sys2Proof/Word.lean ====
section
/-! DEFINITION. The word types: bytes, 32-bit and 64-bit words (00 R5, R6), and the list of bytes that a
    dictionary value, a frame or a record travels as. -/

namespace Sys2Proof

/-- One byte. -/
abbrev Byte := BitVec 8
/-- The 32-bit word of membranes and readouts. -/
abbrev W32 := BitVec 32
/-- The 64-bit word of flits, records and dictionary values. -/
abbrev W64 := BitVec 64
/-- A byte string, lowest address first (00 R7). -/
abbrev Bytes := List Byte

end Sys2Proof
end

