-- ==== Sys2Proof/Syntax.lean ====
section
/-! DEFINITION. The commands of the block: one constructor of `Instr` for each row of spec/opcode_table.json,
    with the operands its rule names. What the block's environment supplies (host memory read back, boot
    flash, self-test outcomes, frames, messages of peers, samples, faults) is an operand (log 6). -/

namespace Sys2Proof

/-- An access path (11 R373). -/
inductive Path where
  | pcie
  | sdio
  | hkc
  | peer (n : Nat)
deriving DecidableEq, Repr

/-- The cause of a device reset (12 R398). -/
inductive ResetCause where
  | powerOn
  | pin
  | command
  | supply
deriving DecidableEq, Repr

/-- One image slot of the boot flash (12 R403): its 512-byte header and its body. -/
structure Image where
  header : Bytes
  body   : Bytes
deriving DecidableEq, Repr

/-- What SUNRISE finds (12 R406, R407): the GiB of each of the 32 channels, whether each channel trained,
    and the units that fail their self-test. Cores are numbered 136 × tile + core. -/
structure Sunrise where
  density   : List Nat
  untrained : List Nat
  coreFail  : List Nat
  tileFail  : List Nat
  rows      : List (Nat × Nat)
  router    : Option Nat
deriving DecidableEq, Repr

/-- A bring-up step that reaches its time limit (12 R400, Table 12.1). -/
inductive BootStep where
  | supply (aon core : Bool)
  | fuse (word : Nat)
  | image
  | lockstep (pc : BitVec 32)
  | portTraining (p : Nat)
deriving DecidableEq, Repr

/-- A register of the PCIe function's configuration space that the host writes (11 R356, Table 11.1): memory accesses
    on or off, an address of BAR0 or BAR2, Max Payload Size and Max Read Request Size in bytes, 10-bit tags. -/
inductive CfgReg where
  | memory (on : Bool)
  | bar0 (a : W64)
  | bar2 (a : W64)
  | sizes (payload read : Nat)
  | tags10 (on : Bool)
deriving DecidableEq, Repr

/-- A register of REGISTER_WRITE: a dictionary entry, a BAR0 register, an SDIO register, or the MSI-X
    control of configuration space (11 R361, R366, R367, R378). -/
inductive RegTarget where
  | entry (p : Path) (idx sub : Nat) (data : Bytes)
  | bar0 (off : Nat) (data : Bytes)
  | sdio (addr : Nat) (data : Byte)
  | ien1 (on : Bool)
  | msixControl (enable mask : Bool)
  | config (r : CfgReg)
deriving DecidableEq, Repr

/-- What one other device contributes to a closure wave (02 R63). -/
structure WaveIn where
  sent : BitVec 48
  acc  : BitVec 48
  done : Bool
deriving DecidableEq, Repr

/-- Who acknowledges SETTLE (02 R68): a mesh node of this device, or another device (Table 8.6). -/
inductive SackFrom where
  | node (n : Nat)
  | device (d : Nat) (reconf : BitVec 2) (diverge : Bool)
deriving DecidableEq, Repr

/-- The sending end of a segment (08 R255): a mesh node or a fabric port. -/
inductive Seg where
  | node (n : Nat)
  | port (p : Nat)
deriving DecidableEq, Repr

/-- Where a flit waits for its next hop: a node's transmitter or a router input port. -/
inductive Hop where
  | inject (node vc : Nat)
  | router (r port vc : Nat)
deriving DecidableEq, Repr

/-- Where a link-control message arrives: the head of a node's VC2 input, or a LINK word on a port. -/
inductive LinkAt where
  | node (n : Nat)
  | port (p : Nat) (w : W64)
deriving DecidableEq, Repr

/-- A readout or TYPE 1 record on its way (03 R107, 04 R149), with the device of its destination and the handle of
    the destination half there. -/
structure Record where
  id      : Nat
  core    : Nat
  ddev    : Nat
  handle  : BitVec 16
  readout : Bool
  value   : W32
  step    : W32
  dev     : Nat
  lcid    : BitVec 16
  neuron  : BitVec 12
deriving DecidableEq, Repr

/-- A descriptor or token on its way to the destination half of a connection (07 R219, R220). -/
structure DescMsg where
  id     : Nat
  core   : Nat
  ddev   : Nat
  src    : BitVec 16      -- handle of the source half on its device
  dst    : BitVec 16      -- handle of the destination half on its device
  skind  : BitVec 3
  lcid   : BitVec 16      -- source core, descriptor ring or line
  step   : W32
  dev    : Nat
  words  : W64 × W64 × W64 × W64
deriving DecidableEq, Repr

/-- A contribution on its way to a combining queue (07 R229): the device it comes from, the device of the queue, and the
    handle of the destination half there. -/
structure Contrib where
  id     : Nat
  core   : Nat
  sdev   : Nat
  dev    : Nat
  handle : BitVec 16
  slot   : Nat            -- DSLOT_ST that the COMBINE names
  lanes  : List W32
deriving DecidableEq, Repr

/-- A VC3 message (11 Table 11.10). -/
structure Msg3 where
  mkind : Nat
  sdev  : Nat
  ddev  : Nat
  tag   : BitVec 8
  idx   : Nat
  sub   : Nat
  op    : Nat
  body  : Bytes
deriving DecidableEq, Repr

/-- What travels as the payload of packets: an event or a record, which is one flit; or a message of several flits, of
    which `frag` is the part that one packet carries when it needs more than one (08 R252, R254; 11 R381; log 11). -/
inductive Item where
  | event (id core : Nat) (flit : W64)
  | record (r : Record)
  | desc (d : DescMsg)
  | contrib (c : Contrib)
  | lanes (queue dev : Nat) (lcid : BitVec 16) (first : Nat) (vals : List W32)
  | sum (queue src dev : Nat) (round : W64) (ring group : Nat) (vals : List W32)
  | park (id v : Nat) (flit : W64) (t : W32)
  | parkDesc (v : Nat) (slot q : Nat) (d : DescMsg)
  | data (id dev addr : Nat) (bytes : Bytes)   -- id names the DMA descriptor that writes it
  | msg (m : Msg3)
  | vc2 (dev : Nat) (ws : List W64)
  | drain (dev : Nat)
  | mark (v holder dest : Nat)        -- the tile map's DRAIN of a holder, for mesh node `dest` (08 R266)
  | frag (i : Item) (seg : Nat) (last : Bool)
  | transit (sdev : Nat) (i : Item)   -- on its way through this device, with the SDEV it came with
deriving DecidableEq, Repr

/-- A packet of a segment (08 R252, R260): payload, stream sequence number and packet kind. -/
structure Packet where
  vc    : Nat
  seq   : Nat
  drain : Bool
  sdev  : Nat
  ddev  : Nat
  items : List Item
deriving DecidableEq, Repr

/-- Where a packet arrives: complete at a mesh node, or on a fabric port, as its head word and payload flits; `what` is
    what the flits of a VC1 or VC3 packet, or a record on VC0, mean (08 R256, R260; log 11). -/
inductive RxAt where
  | node (n vc : Nat)
  | port (p : Nat) (head : W64) (flits : List W64) (what : List Item)
deriving DecidableEq, Repr

/-- The verdict of one qualification window of a port (12 R412, Table 12.5). -/
structure QualWindow where
  laneErr  : List Nat     -- bit errors of the nine physical lanes, receive direction
  corr     : Nat          -- codewords that the FEC corrected, and could not correct (08 Table 8.13)
  uncorr   : Nat
  peerPass : Bool
  peerFail : List Nat     -- active lanes the peer's receiver fails
deriving DecidableEq, Repr

/-- The JOIN record a peer sends on a port (08 Table 8.14). -/
structure JoinRec where
  fmt      : Nat
  devnum   : Nat
  genMin   : Nat
  genMax   : Nat
  leader   : Nat
  members  : BitVec 8
  running  : Bool
  port     : Nat
  schema   : BitVec 16
  serial   : W64
  fwver    : W32
  hash     : Bytes
  step     : W64
  timebase : W64
  delayNs  : Nat          -- half the round trip of the exchange, as this device measures it (R274)
  agreed   : BitVec 8     -- the devices whose report of agreement comes with this exchange (R277, log 36)
deriving DecidableEq, Repr

/-- What a read of LPDDR5X under INLINE meets: a clean word, a single-bit error that it corrects, or an uncorrectable
    word (09 R291). -/
inductive Ecc where
  | clean | corrected | bad
deriving DecidableEq, Repr

/-- What the fetch of a DMA descriptor finds: the bytes in a ring of the host, or the state of the words in one in LPDDR5X
    (09 R298). -/
structure RingRead where
  host : Bytes
  ecc  : Ecc
deriving DecidableEq, Repr

/-- What an array does until the next command: `n` beats of a DENSE operation, the last of which meets a residue mismatch
    with `bad`; or `n` rows of MIDNIGHT, the row after which does (03 R117, 05 R177, 06 R207). -/
structure Work where
  n   : Nat
  bad : Bool
deriving DecidableEq, Repr

/-- What a window of 10 µs shows of one lane: loss of lock or symbol errors; and the codewords that the FEC of the port
    corrected and could not correct (08 R261, Table 8.13). -/
structure LaneWindow where
  lockLoss : Bool
  errs     : Nat
  corr     : Nat
  uncorr   : Nat
deriving DecidableEq, Repr

/-- What the scrubber, or another read (`read`), finds in one SEC-DED word (12 R417, R418). -/
inductive ScrubHit where
  | corrected
  | core (c off : Nat) (read : Bool)
  | tsm (t off : Nat) (read : Bool)
  | buffer (read : Bool)
deriving DecidableEq, Repr

/-- A unit with a handshake watchdog (12 R419). -/
inductive WdUnit where
  | core (c : Nat)
  | ni (t : Nat)
  | router (r : Nat)
  | portBridge (p : Nat)
  | bridge (n : Nat)
deriving DecidableEq, Repr

/-- The rail that a domain's voltage monitor judges (14 Table 14.5; the spec does not tie a domain to a rail). -/
inductive Rail where
  | core | sram | serdesL | serdesH | memQ | io | aon
deriving DecidableEq, Repr

/-- How a write of WINBASE arrives (11 R362). -/
inductive WinVia where
  | dict (p : Path)
  | bar0
deriving DecidableEq, Repr

/-- Where a contribution is added: at a combining queue of tile t, or at one of another device, of which the COMBINE of
    core c hears (07 R229). -/
inductive CombAt where
  | tile (t : Nat)
  | far (c : Nat)
deriving DecidableEq, Repr

/-- What a CAPIN write changes (10 R349). -/
inductive CapField where
  | prescale | edge
deriving DecidableEq, Repr

/-- The commands of the block, one constructor per row of the table, in the table's order. -/
inductive Instr where
  | deviceReset (cause : ResetCause) (devid : BitVec 3) (cc : Bool)
  | porstPulse (ns : Nat) (devid : BitVec 3) (cc : Bool)
  | dawnEnd (slot0 slot1 : Image) (us : Nat)
  | sunriseEnd (r : Sunrise) (us : Nat)
  | memTrainingTimeout
  | morningEnd (us : Nat)
  | bootStepTimeout (b : BootStep)
  | bootReset (p : Path)
  | bootForceReset (p : Path)
  | resetDelayExpire (devid : BitVec 3) (cc : Bool)
  | registerWrite (t : RegTarget)
  | coreWindowWrite (lcid off : Nat) (data : Bytes)
  | stepRun (p : Path)
  | stepStop (p : Path)
  | stepFence (p : Path)
  | stepFenceTimeout (p : Path)
  | stepPeriodWrite (p : Path) (v : W32)
  | stepDeadline
  | stepSourceEvent (src : Nat)
  | wave (peers : List WaveIn)
  | settle (lead : Option W64)
  | sack (u : SackFrom)
  | openStep (lead : Option W64)
  | reconfCommitBoundary (p : Path)
  | reconfCommitGeneration (p : Path)
  | reconfCancel (p : Path)
  | nop (c : Nat)
  | fire (c : Nat)
  | leak (c : Nat)
  | trace (c : Nat)
  | dense (c : Nat) (w : Work)
  | send (c : Nat)
  | recv (c : Nat)
  | combine (c : Nat)
  | fence (c : Nat)
  | fenceDone (c : Nat)
  | repeatOp (c : Nat)
  | waitstep (c : Nat)
  | passDone (c : Nat)
  | emit (c : Nat) (credit : Bool)
  | eventAccumulate (c : Nat) (bad : Option Nat)
  | stallLimitReached (c : Nat)
  | coreFence (p : Path)
  | coreRelease (p : Path)
  | midnight (c : Nat) (w : Work) (ticks : Nat)
  | lrnCmdMidnight (p : Path) (w : Work) (ticks : Nat)
  | lrnCmdClear (p : Path)
  | packetSend (s : Seg) (vc : Nat)
  | routerForward (h : Hop) (flips : List Nat)
  | packetReceive (e : RxAt)
  | delayRingPlace (t : Nat)
  | ack (e : LinkAt)
  | nak (e : LinkAt)
  | retransmitTimeout (s : Seg) (dst vc : Nat)
  | skip (e : LinkAt)
  | haveAns (e : LinkAt)
  | absent (e : LinkAt)
  | credit (p : Nat) (w : W64)
  | laneFailure (p lane : Nat) (w : LaneWindow)
  | lane (p : Nat) (w : W64)
  | portRetentionNotice (p : Nat) (w : W64)
  | portTrain (a : Path) (p : Nat)
  | portTrainingDone (p : Nat)
  | qualWindowEnd (p : Nat) (q : QualWindow)
  | portDown (a : Path) (p : Nat)
  | portRxNextReply (p : Nat) (rxNext : BitVec 48)
  | portDownReconcileTimeout (p : Nat)
  | mapTileWrite (a : Path) (v : Nat) (val : BitVec 16)
  | drain (holder v : Nat)
  | mapCoreWrite (a : Path) (s : Nat) (val : Byte)
  | routeWrite (a : Path) (e : Nat) (val : BitVec 16)
  | drained (e : Nat)
  | join (p : Nat) (r : JoinRec)
  | sysRejoin (a : Path)
  | sysAdoptStep (a : Path) (leaderStep : W64)
  | tickSend
  | tick (p : Nat) (dev : Nat) (tb : BitVec 56)
  | lossRateUpdate
  | connOpen (a : Path)
  | connConfirm (dev : Nat) (tag : Byte) (handle : BitVec 16) (rec : Bytes)
  | connAck (dev : Nat) (tag : Byte) (status : Byte) (dkind : BitVec 3) (lanes : BitVec 4)
  | connOpenTimeout (a : Path)
  | connClose (a : Path)
  | connCloseMessage (dev : Nat) (handle : BitVec 16)
  | connCloseTimeout (i : Nat) (peerSilent : Bool)
  | queueDeliver (t : Nat)
  | queueCreditReturn (i : Nat)
  | recordHandoff (t : Nat)
  | combContribute (at' : CombAt)
  | combDeliver (n : Nat)
  | hringWrite (r : Nat)
  | hringHoldoffExpire (r : Nat)
  | hringConsWrite (a : Path) (r : Nat) (v : W32)
  | hringEnable (a : Path) (r : Nat)
  | hringDisable (a : Path) (r : Nat)
  | hringForceDisable (a : Path) (r : Nat)
  | dringEnable (a : Path) (r : Nat)
  | dringDisable (a : Path) (r : Nat)
  | dringProdWrite (a : Path) (r : Nat) (v : W32)
  | dringFetch (r : Nat) (d : Bytes)
  | dmaOpen (a : Path)
  | dmaStart (a : Path)
  | dmaStop (a : Path)
  | dmaClose (a : Path)
  | dmaProdWrite (a : Path) (c : Nat) (v : W32)
  | dmaDescFetch (c : Nat) (r : RingRead)
  | dmaReadBeat (data : Bytes) (ecc : Ecc)
  | dmaWriteBeat
  | dmaDescComplete (c : Nat)
  | dmaDescFault (c : Nat)
  | parkWrite
  | descPark
  | replay (v : Nat) (ecc : Ecc)
  | swapOut (a : Path)
  | swapIn (a : Path)
  | swapExchange (a : Path)
  | swapFreeze
  | swapCopyOut
  | swapCopyOutDone (ue : Option Nat) (ticks : Nat)
  | swapCopyInDone (ue : Option Nat) (ticks : Nat)
  | swapMapDone (ticks : Nat)
  | memPatrolPass (ue : List Nat) (ce : Nat)
  | frameReceive (p : Nat) (frame : Bytes) (fcsOk : Bool)
  | pauseFrameReceive (p : Nat) (quanta : BitVec 16)
  | sampleConvert (p x : Nat)
  | egressRecord (p : Nat)
  | egressHoldoffExpire (x : Nat)
  | egressFrameTransmit (p : Nat)
  | sctxEnable (a : Path) (x : Nat)
  | sctxDisable (a : Path) (x : Nat)
  | schEntryWrite (a : Path) (v : W64)
  | spUp (a : Path) (p : Nat)
  | spDown (a : Path) (p : Nat)
  | spLinkChange (p : Nat) (up : Bool)
  | timerWrap (n : Nat)
  | timerMatch (n k : Nat)
  | tmrCountWrite (a : Path) (n : Nat) (v : W32)
  | tmrCmpWrite (a : Path) (n k : Nat) (v : W32)
  | tmrEnWrite (a : Path) (n : Nat) (v : Byte)
  | tmrFlagsWrite (a : Path) (n : Nat) (v : Byte)
  | tmrCaptRead (a : Path) (n : Nat)
  | trgForceWrite (a : Path) (m : Nat) (v : Byte)
  | trgPulseEnd (m : Nat)
  | captureFilterAccept (k : Nat) (level : Bool)
  | capinConfigWrite (a : Path) (k : Nat) (f : CapField) (v : BitVec 16)
  | pcieFlr (perst : Bool)
  | busMasterEnableChange (bme d3 link : Bool) (speed width : Byte)
  | winbaseWrite (via : WinVia) (v : W64)
  | bar2Read (off len : Nat) (ecc : Ecc)
  | bar2Write (off : Nat) (data : Bytes)
  | dwRead (p : Path) (addr ctl : W64)
  | dwWrite (p : Path) (addr ctl : W64) (data : Bytes)
  | dwInfo (p : Path) (addr ctl : W64)
  | dictOpComplete (p : Path)
  | dictHkcTimeout (p : Path)
  | dreq (dev : Nat) (tag : Byte) (op idx sub : Nat) (data : Bytes)
  | drsp (dev : Nat) (tag status : Byte) (data : Bytes)
  | dictForwardTimeout
  | cmd5
  | cmd11
  | cmd19
  | cmd52 (write : Bool) (addr : Nat) (v : Byte)
  | cmd53 (write : Bool) (addr : Nat) (incr : Bool) (count : Nat) (data : Bytes)
  | ioAbort
  | sdioRes
  | intPendWrite (v : Byte)
  | hostOpen (p : Path)
  | hostClose (p : Path)
  | mbLockRead (a : Path) (i : Nat)
  | mbLockWrite (a : Path) (i : Nat) (v : Byte)
  | mbMsgWrite (a : Path) (i : Nat) (data : Bytes)
  | mbSend (a : Path) (i : Nat)
  | mbSendTimeout (i : Nat)
  | mbDoorbell (a : Path) (i : Nat)
  | mbReset (a : Path) (i : Nat)
  | mbConsWrite (a : Path) (i : Nat) (v : W32)
  | mbReceiverWrite (a : Path) (i : Nat) (v : Byte)
  | notice (dev : Nat) (mask : BitVec 24)
  | mbNoticeRead (a : Path) (d : Nat)
  | secAttest (a : Path)
  | secAdvanceArb (a : Path)
  | secProvision (a : Path)
  | defectMark (a : Path)
  | defectUnmark (a : Path)
  | scrubPass (a : Path)
  | scrubPassStart (hits : List ScrubHit)
  | watchdogExpire (u : WdUnit) (stage : BitVec 16)
  | lockstepMismatch (pc : BitVec 32) (inLastSecond : Nat)
  | hkcRestartDone (slot0 slot1 : Image)
  | faultRingWrite
  | faultRingEnable (a : Path)
  | faultRingDisable (a : Path)
  | domainOn (a : Path) (d : Nat)
  | domainRetention (a : Path) (d : Nat)
  | domainOff (a : Path) (d : Nat)
  | domainOffForce (a : Path) (d : Nat)
  | domainEntryDone (d : Nat)
  | domainEntryAbandon (d : Nat)
  | domainWake (d : Nat) (src : Nat)
  | domainWakeDone (d : Nat)
  | tempSample (s : Nat) (v : Int)
  | voltSample (d : Nat) (rail : Rail) (mv : Nat)
  | procSample (t : Nat) (ps : Nat)
  | monExtremeClear (a : Path) (volt : Bool) (i : Nat) (v : W32)
  | vwarnLatch (mv : Nat)
  | vwarnClear (mv us : Nat)
  | supplyReset (mv : Nat) (devid : BitVec 3) (cc : Bool)
  | scrubPassEnd (ms : Nat)
  | refclkLoss
  | perstRelease
  | bar0Read (off len : Nat)
  | unsupportedRequest (bar : Nat)
  | msixPendingSend (v : Nat)
  | captureGlitch (k : Nat)
  | pauseExpire (p : Nat)
deriving DecidableEq, Repr

end Sys2Proof
end

