-- ==== Sys2Proof/Machine/Tab.lean ====
section
/-! DEFINITION. Sparse tables: a list of (key, value) pairs with strictly rising keys and no entry equal to
    what an unlisted key reads as. Memories, register files and banks of contexts are all tables, so two
    equal contents are one list. -/

namespace Sys2Proof.Machine

/-- A sparse table; a memory is a table of bytes, that is, a list of Host.Cell. -/
abbrev Tab (α : Type) := List (Nat × α)

/-- A byte memory. Every memory of the block reads zero where nothing has been written (03 R128; log 4). -/
abbrev Mem := Tab Byte

/-- The value at key k, d being what an unlisted key reads as. -/
def Tab.get {α : Type} (d : α) : Tab α → Nat → α
  | [], _ => d
  | (k', v) :: t, k => if k' = k then v else Tab.get d t k

/-- Remove every entry of key k. -/
def Tab.erase {α : Type} : Tab α → Nat → Tab α
  | [], _ => []
  | (k', v) :: t, k => if k' = k then Tab.erase t k else (k', v) :: Tab.erase t k

/-- Put v at key k, in the sorted place. -/
def Tab.put {α : Type} : Tab α → Nat → α → Tab α
  | [], k, v => [(k, v)]
  | (k', v') :: t, k, v =>
    if k < k' then (k, v) :: (k', v') :: t
    else if k' = k then (k, v) :: t
    else (k', v') :: Tab.put t k v

/-- Write v at key k, keeping the canonical form. -/
def Tab.set {α : Type} [DecidableEq α] (d : α) (t : Tab α) (k : Nat) (v : α) : Tab α :=
  if v = d then Tab.erase t k else Tab.put t k v

/-- Change the value at key k. -/
def Tab.upd {α : Type} [DecidableEq α] (d : α) (t : Tab α) (k : Nat) (f : α → α) : Tab α :=
  Tab.set d t k (f (Tab.get d t k))

/-- The keys are at least lo and rise strictly, and no entry reads as the default d. -/
def Tab.wfFrom {α : Type} [DecidableEq α] (d : Nat → α) : Nat → Tab α → Bool
  | _, [] => true
  | lo, (k, v) :: t => decide (lo ≤ k) && decide (v ≠ d k) && Tab.wfFrom d (k + 1) t

/-- The canonical form. -/
def Tab.wf {α : Type} [DecidableEq α] (d : Nat → α) (t : Tab α) : Bool := Tab.wfFrom d 0 t

/-- Keep only the entries whose key satisfies p. -/
def Tab.keep {α : Type} (p : Nat → Bool) (t : Tab α) : Tab α := t.filter (fun e => p e.1)

/-- Little-endian number of a byte string (00 R7). -/
def leNat : Bytes → Nat
  | [] => 0
  | b :: t => b.toNat + 256 * leNat t

/-- The n little-endian bytes of a number. -/
def leBytes : Nat → Nat → Bytes
  | 0, _ => []
  | n + 1, v => BitVec.ofNat 8 (v % 256) :: leBytes n (v / 256)

/-- Big-endian number of a byte string (network byte order, 00 R7). -/
def beNat (b : Bytes) : Nat := leNat b.reverse

/-- The n big-endian bytes of a number. -/
def beBytes (n v : Nat) : Bytes := (leBytes n v).reverse

/-- Read one byte. -/
def Mem.rd (m : Mem) (a : Nat) : Byte := Tab.get 0 m a

/-- Write one byte. -/
def Mem.wr (m : Mem) (a : Nat) (b : Byte) : Mem := Tab.set 0 m a b

/-- Read n bytes from address a upward. -/
def Mem.rdBytes (m : Mem) : Nat → Nat → Bytes
  | _, 0 => []
  | a, n + 1 => Mem.rd m a :: Mem.rdBytes m (a + 1) n

/-- Write bytes from address a upward. -/
def Mem.wrBytes : Mem → Nat → Bytes → Mem
  | m, _, [] => m
  | m, a, b :: t => Mem.wrBytes (Mem.wr m a b) (a + 1) t

/-- Read a little-endian number of n bytes. -/
def Mem.rdN (m : Mem) (a n : Nat) : Nat := leNat (m.rdBytes a n)

/-- Read the 64-bit word at address a. -/
def Mem.rd64 (m : Mem) (a : Nat) : W64 := BitVec.ofNat 64 (m.rdN a 8)

/-- Write the 64-bit word at address a. -/
def Mem.wr64 (m : Mem) (a : Nat) (v : W64) : Mem := m.wrBytes a (leBytes 8 v.toNat)

/-- Read the 32-bit word at address a. -/
def Mem.rd32 (m : Mem) (a : Nat) : W32 := BitVec.ofNat 32 (m.rdN a 4)

/-- Write the 32-bit word at address a. -/
def Mem.wr32 (m : Mem) (a : Nat) (v : W32) : Mem := m.wrBytes a (leBytes 4 v.toNat)

/-- The cells of src in [lo, lo + n), moved to start at address d. -/
def Mem.slice (src : Mem) (lo n d : Nat) : Mem :=
  (Tab.keep (fun k => decide (lo ≤ k) && decide (k < lo + n)) src).map (fun e => (e.1 - lo + d, e.2))

/-- Replace [d, d + n) of dst by [lo, lo + n) of src: the copy of an image (09 R315). -/
def Mem.copy (dst src : Mem) (lo n d : Nat) : Mem :=
  Tab.keep (fun k => decide (k < d)) dst ++ Mem.slice src lo n d ++
    Tab.keep (fun k => decide (d + n ≤ k)) dst

/-- Clear [a, a + n) to zero. -/
def Mem.clear (m : Mem) (a n : Nat) : Mem :=
  Tab.keep (fun k => decide (k < a) || decide (a + n ≤ k)) m

/-- The canonical form of a memory: every unlisted byte reads zero (03 R128). -/
abbrev Mem.wf (m : Mem) : Prop := Tab.wf (fun _ => (0 : Byte)) m = true

end Sys2Proof.Machine
end

