-- ==== Sys2Proof/Machine/State.lean ====
section
/-! DEFINITION. The state of the block as plain data, and its state after reset.

    Registers and counters that the dictionary serves under an index and a subindex stand in the register
    file `regs`, keyed by `rk bank index subindex`; `regDefault` gives each its Default of the tables. The
    bank tells one copy from another: 0 the device, 1 to 15 an access path (its sender number, 11 R373),
    16 + t physical tile t, 96 + r router r, 176 + n mesh node n. Everything else has a field of its own. -/

namespace Sys2Proof.Machine

/-- Status codes (00 Table 0.2). -/
inductive Status where
  | ok | busy | noEntry | access | type | range | state | rsvdSet | noContext | closed | aborted
  | timeout | version | auth | fault
deriving DecidableEq, Repr

/-- STEP.PHASE (02 Table 2.9). -/
inductive Phase where
  | stopped | fire | deliver | dusk | settle | held | quiet
deriving DecidableEq, Repr

/-- STATUS.STATE of a core (03 Table 3.16). -/
inductive CoreState where
  | unconfigured | ready | running | fenced
deriving DecidableEq, Repr

/-- RECONF.STATE (02 Table 2.9). -/
inductive RState where
  | idle | loading | armed | window
deriving DecidableEq, Repr

/-- Where a core's step-table pass stands (03 R118): not in a pass; executing the entry at PC; waiting for
    the emitter to hand on what a FIRE visit caused; blocked in SEND, RECV or COMBINE on a connection handle
    and slot, with the identity of a COMBINE's contribution; in a FENCE that awaits items; at WAITSTEP with its delay ring releasing; or done. -/
inductive Pass where
  | idle
  | run
  | drain
  | blocked (op : BitVec 4) (handle : BitVec 16) (slot id : Nat)
  | fence (ids : List Nat)
  | release
  | done
deriving DecidableEq, Repr

/-- REPEAT in progress (03 R120): repetitions, stride, and the one now running. -/
structure Rep where
  n      : Nat
  stride : Nat
  k      : Nat
deriving DecidableEq, Repr

/-- One copy of a flit at its destination (04 R152): the item it came in, the flit with the core slot in LCID and SPAN 0,
    the flight that waits for it, how it was classified (02 R47), the tag of the step it is a delivery of: the tag
    reference when the core took it into its input (02 R54, R69; log 76), and where it stands in the tile's TSM while it is
    in the core's spill area (03 R111). -/
structure Copy where
  id     : Nat
  flit   : W64
  slot   : Nat
  flight : Nat
  delay  : Bool
  late   : Bool
  into   : BitVec 2
  spill  : Option Nat
deriving DecidableEq, Repr

/-- What the emitter of a core still has to hand on for one firing, forward or readout (03 R109). -/
structure Job where
  neuron  : Nat
  readout : Bool
  handle  : BitVec 16
  value   : W32
  shift   : Nat
  pos     : Nat
  stop    : Nat
  step    : W64
  flight  : Nat
  pass    : Bool
  counted : Bool
deriving DecidableEq, Repr

/-- A DENSE operation in progress (05 R171, R173): output blocks completed, beats done of the present block, and the
    accumulators of its outputs. -/
structure DenseRun where
  block : Nat
  beat  : Nat
  acc   : List Int
deriving DecidableEq, Repr

/-- MIDNIGHT in progress (06 R199): rows completed, those of stage 2 before those of stage 4, the sums of stage 2 and
    the ratios of stage 3, each plus one. -/
structure NightRun where
  row   : Nat
  sums  : Tab Nat
  ratio : Tab Nat
deriving DecidableEq, Repr

/-- MIDNIGHT before its first row. -/
def NightRun.start : NightRun := { row := 0, sums := [], ratio := [] }

/-- What a commit that applied at SETTLE changed in a core, kept until OPEN in a system of several members, so that
    CANCEL or a shadow write can take it back while a split is held (02 R80, R86; log 27): the shadows it applied, the
    words they replaced, and the core's generation, state and marks before it. -/
structure Undo where
  shadow    : Tab (Option W64)
  words     : List (Nat × W64)
  cgen      : Bool
  fresh     : Bool
  committed : Bool
  written   : Bool
deriving DecidableEq, Repr

/-- A physical core. Its memories are one byte memory over the window offsets of Table 3.1 (the copies in
    force, and the live areas); `shadow` holds the shadow copy of a shadowed word once it is written, and `due` the
    shadows that a commit took at its SETTLE and that the core has still to apply (02 R83, 06 R196). -/
structure Core where
  mem       : Mem
  shadow    : Tab (Option W64)
  due       : Option (Tab (Option W64))
  undo      : Option Undo
  state     : CoreState
  cause     : BitVec 4
  cgen      : Bool
  passDone  : Bool
  stalled   : Bool
  emitHold  : Bool
  pc        : BitVec 8
  pass      : Pass
  rep       : Option Rep
  inbuf     : List Copy
  spillPos  : Nat
  jobs      : List Job
  macc      : Tab W32
  committed : Bool
  written   : Bool
  dn        : Option DenseRun
  evLast    : Bool
  midnight  : Bool
  night     : NightRun
  bad       : List Nat
deriving DecidableEq, Repr

/-- The memories of a reset core: all zero but CFG.STALL_LIMIT, which reads 2,000 (03 Table 3.15). -/
def resetMem : Mem := [(0x1C904, 0xD0), (0x1C905, 0x07)]

/-- A core after device reset (03 R128). -/
def Core.reset : Core :=
  { mem := resetMem, shadow := [], due := none, undo := none, state := .unconfigured, cause := 0, cgen := false,
    passDone := false, stalled := false, emitHold := false, pc := 0, pass := .idle,
    rep := none, inbuf := [], spillPos := 0, jobs := [], macc := [], committed := false, written := false,
    dn := none, evLast := false, midnight := false, night := .start, bad := [] }

/-- One delay ring of a tile (04 R154): the position of its oldest entry and how many it holds. The entries
    themselves stand in the delay area of the TSM. -/
structure Ring where
  head : Nat
  held : Nat
deriving DecidableEq, Repr

/-- The state the NI keeps of an input queue (07 R222). -/
structure Queue where
  handle : BitVec 16
  head   : Nat
  held   : Nat
deriving DecidableEq, Repr

/-- An input queue that no connection is bound to. -/
def Queue.unbound : Queue := { handle := 0xFFFF, head := 0, held := 0 }

/-- A physical tile: TSM, poisoned TSM words (12 R418), delay rings by 4 × slot + tag, input queues by
    4 × slot + queue, copies its NI has not yet handed on, records its cores handed it, VC1 items arrived. -/
structure Tile where
  tsm    : Mem
  poison : List Nat
  rings  : Tab Ring
  queues : Tab Queue
  copies : List Copy
  recs   : List Record
  vc1    : List Item
deriving DecidableEq, Repr

/-- A tile after device reset. -/
def Tile.reset : Tile :=
  { tsm := [], poison := [], rings := [], queues := [], copies := [], recs := [], vc1 := [] }

/-- What a flit on the mesh was formed from: payload flit k of an item, the trailer of a packet that node `src` sent to
    node `dst`, or a link-control flit. -/
inductive FlitBody where
  | payload (i : Item) (k : Nat)
  | trailer (pk : Packet) (src dst : Nat)
  | ctl (w : W64)
deriving DecidableEq, Repr

/-- A mesh flit with its sideband (08 Table 8.4): what it was formed from, the flit bits that links have flipped since,
    and the sideband as it is. -/
structure MeshFlit where
  body : FlitBody
  xor  : W64
  side : BitVec 16
deriving DecidableEq, Repr

/-- A packet in a retransmit buffer, with its failed or pending attempts (08 R255, R257). -/
structure Rtx where
  pk       : Packet
  attempts : Nat
deriving DecidableEq, Repr

/-- The sending side of one stream (08 R255): next sequence number, unacknowledged packets oldest first,
    and the number of the packet given up whose SKIP awaits an answer (R258). -/
structure TxStream where
  next : Nat
  buf  : List Rtx
  skip : Option Nat
deriving DecidableEq, Repr

/-- A stream that has sent nothing. -/
def TxStream.reset : TxStream := { next := 0, buf := [], skip := none }

/-- What a mesh node holds (08 Table 8.1): items waiting to be packed by VC, flits being injected by VC,
    flits received by VC, stream state by 4 × node + VC (for a receiver also when it last sent a NAK, log 19), messages
    received in part with the packets of each so far (11 R381), step-closure counters by tag. -/
structure Node where
  out    : Tab (List Item)
  inj    : Tab (List MeshFlit)
  rx     : Tab (List MeshFlit)
  tx     : Tab TxStream
  rxNext : Tab Nat
  naked  : Tab Nat
  parts  : List (Item × Nat)
  sent   : Tab (BitVec 48)
  acc    : Tab (BitVec 48)
deriving DecidableEq, Repr

/-- A node after device reset. -/
def Node.reset : Node :=
  { out := [], inj := [], rx := [], tx := [], rxNext := [], naked := [], parts := [], sent := [], acc := [] }

/-- A router: input buffers by 4 × port + VC, the input port that owns each output and VC until its trailer
    has passed, and whether VC1 was the last of VC0 and VC1 served at an output (08 R247, R248). -/
structure Router where
  inb  : Tab (List MeshFlit)
  lock : Tab (Option Nat)
  alt  : Tab Bool
deriving DecidableEq, Repr

/-- A router after device reset. -/
def Router.reset : Router := { inb := [], lock := [], alt := [] }

/-- What a port puts on its line between IDLE words (08 R260): a packet, which is a head word and its payload flits, or
    a LINK word. -/
inductive LineOut where
  | packet (pk : Packet)
  | link (w : W64)
deriving DecidableEq, Repr

/-- Why a port is fenced (08 Table 8.15). -/
inductive JoinReason where
  | agreed | version | dupDev | notMember | dupPeer | schema | leader | hash | step | members
deriving DecidableEq, Repr

/-- A fabric port beyond its dictionary registers: items to send by VC, the numbers of the packets to send again by VC,
    credits taken by VC (the credit
    held is the start value of Table 8.3 less this), stream state, when each stream last sent a NAK, whether VC1 went last of VC0 and VC1, lanes, qualification, what it has put on
    the line, the DRAIN answers owed by device with the sequence numbers they wait for (R272), the facing
    port, and the DOWN reconciliation in progress (08 R263). -/
structure Port where
  out     : Tab (List Item)
  again   : Tab (List Nat)
  taken   : Tab Nat
  tx      : Tab TxStream
  rxNext  : Tab Nat
  naked   : Tab Nat
  line    : List LineOut
  last1   : Bool
  half    : Bool
  swapped : Option Nat
  cause   : Option (Nat × Bool)
  found   : Nat
  drains  : List (Nat × List (Nat × Nat))
  facing  : Nat
  windows : Nat
  qual    : Bytes
  joined  : Bool
  recon   : Bool
  reason  : JoinReason
deriving DecidableEq, Repr

/-- LINK.QUAL[p] after reset: SWAPPED reads 0xF (12 Table 12.5). -/
def qualReset : Bytes := leBytes 8 (0xF * 2 ^ 52) ++ List.replicate 88 0

/-- A port after device reset. -/
def Port.reset : Port :=
  { out := [], again := [], taken := [], tx := [], rxNext := [], naked := [], line := [], last1 := false, half := false, swapped := none,
    cause := none, found := 0xF,
    drains := [], facing := 0xF, windows := 0, qual := qualReset, joined := false, recon := false,
    reason := .agreed }

/-- CONN.STATE (07 Table 7.13). -/
inductive ConnState where
  | free | opn | closing
deriving DecidableEq, Repr

/-- A connection context (07 R212, R213): its open record, credits taken by a QUEUE source, credits on their
    way back, what a REMOTE half learnt of its peer, the peers confirmed at a destination half, and the
    open or close in progress: the device to acknowledge, the halves to be told once nothing of this half is in flight, the
    halves told that have not acknowledged, the items aborted, and the path that waits. -/
structure Conn where
  state    : ConnState
  gen      : BitVec 4
  recd     : W64 × W64 × W64 × W64
  taken    : Nat
  creditsBack : Nat
  qhwm     : Nat
  sent     : W64
  blockT   : W64
  tokens   : Nat
  rdkind   : BitVec 3
  rlanes   : BitVec 4
  peers    : List (Nat × BitVec 16)
  ackTo    : Option Nat
  untold   : List (Nat × BitVec 16)
  unacked  : List (Nat × BitVec 16)
  aborted  : Nat
  path     : Option Nat
deriving DecidableEq, Repr

/-- A free context of generation 0 (07 R244). -/
def Conn.reset : Conn :=
  { state := .free, gen := 0, recd := (0, 0, 0, 0), taken := 0, creditsBack := 0, qhwm := 0, sent := 0,
    blockT := 0, tokens := 0, rdkind := 0, rlanes := 0, peers := [], ackTo := none, untold := [], unacked := [],
    aborted := 0, path := none }

/-- A combining queue (07 R228): its connection, the accumulating bank and its count, the delivering bank
    with its round number, the last bank delivered (09 R287), and its counters. -/
structure Comb where
  bound   : Option Nat
  senders : Nat
  lanes   : Nat
  blbase  : Nat
  bllen   : Nat
  acc     : List W32
  count   : Nat
  deliver : Option (W64 × List W32)
  last    : List W32
  round   : W64
  sat     : W64
  aborted : W64
  blockT  : W64
deriving DecidableEq, Repr

/-- An unbound combining queue. -/
def Comb.reset : Comb :=
  { bound := none, senders := 0, lanes := 0, blbase := 0, bllen := 0, acc := [], count := 0, deliver := none,
    last := [], round := 0, sat := 0, aborted := 0, blockT := 0 }

/-- A message on its way into a host output ring (07 R233, Table 7.10), with the handle it came on
    (0xFFFF none) and the item that step closure and FENCE wait for. -/
structure HMsg where
  kind   : Nat
  value  : W32
  step   : W32
  dev    : Nat
  lcid   : BitVec 16
  neuron : BitVec 12
  group  : Nat
  frames : List W64
  conn   : BitVec 16
  item   : Option (Nat × Nat × Bool)    -- item id, core, counted in ACC (a record)
deriving DecidableEq, Repr

/-- A host output ring beyond its registers (07 R232 to R237): the next SEQ, the messages staged, those that no raise has
    covered, and whether a FORCE_DISABLE disabled it (R243). -/
structure HRing where
  seq    : BitVec 16
  staged : List HMsg
  since  : Nat
  forced : Bool
deriving DecidableEq, Repr

/-- A ring after ENABLE. -/
def HRing.reset : HRing := { seq := 0, staged := [], since := 0, forced := false }

/-- A started DMA descriptor (09 Table 9.4) with an identity of its own, the bytes read and written so far and its staged beats. -/
structure DDesc where
  id     : Nat
  zero   : Bool
  sspace : Nat
  dspace : Nat
  lineEn : Bool
  lineNo : Nat
  halt   : Bool
  len    : Nat
  saddr  : Nat
  daddr  : Nat
  rd     : Nat
  wr     : Nat
  staged : List (Nat × Bytes)
  failed : Option Status
deriving DecidableEq, Repr

/-- DMA.CH[c].STATE (09 Table 9.12). -/
inductive ChanState where
  | free | stopped | running | stopping
deriving DecidableEq, Repr

/-- A DMA channel context (09 R294 to R303); PROD, CONS, STATUS and the counters are registers. -/
structure Chan where
  state : ChanState
  gen   : BitVec 4
  prio  : Nat
  host  : Bool
  rsize : Nat
  quota : Nat
  rbase : Nat
  descs : List DDesc
deriving DecidableEq, Repr

/-- A free channel of generation 0 (09 R321). -/
def Chan.reset : Chan :=
  { state := .free, gen := 0, prio := 0, host := false, rsize := 0, quota := 0, rbase := 0, descs := [] }

/-- SWAP.STATE (09 Table 9.12). -/
inductive SwapState where
  | drain | freeze | copyOut | copyIn | map
deriving DecidableEq, Repr

/-- The swap in progress (09 R313 to R316): tiles, stage, the holders whose DRAIN it waits for, those of them whose DRAIN
    packet has come, whether an IN follows (EXCHANGE), and the staging beats of the copy that the sequencer has won at the
    read and at the write engine (R299, log 47). -/
structure Swap where
  stage  : SwapState
  vt     : Nat
  pt     : Nat
  next   : Option Nat
  wait   : List Nat
  got    : List Nat
  frozen : Bool
  beatR  : Nat
  beatW  : Nat
deriving DecidableEq, Repr

/-- Parking queue of a virtual tile: position of the oldest entry and, after a swap-in, entries to replay
    (09 R309, R312). -/
structure Park where
  head : Nat
deriving DecidableEq, Repr

/-- A frame held by a stream port for a context (10 R324, R334): its samples still to convert. -/
structure InFrame where
  ctx     : Nat
  bytes   : Nat
  samples : List Int
  chan    : Nat
deriving DecidableEq, Repr

/-- A stream port beyond its registers (10 R323 to R341): held ingress frames, their bytes, whether PAUSE
    has been sent, whether a received PAUSE holds the transmitter, the contexts whose converters hold for mesh credit, records arrived for its
    contexts, closed frames waiting, and the frames transmitted. -/
structure SPort where
  frames : List InFrame
  paused : Bool
  hold   : Bool
  stuck  : List Nat
  recs   : List Record
  staged : List (Nat × List Record × Bytes)
  sent   : List Bytes
deriving DecidableEq, Repr

/-- A stream port after device reset. -/
def SPort.reset : SPort :=
  { frames := [], paused := false, hold := false, stuck := [], recs := [], staged := [], sent := [] }

/-- A stream context beyond its registers: the expected SEQ once set, and the egress frame being built. -/
structure SCtx where
  expect : Option (BitVec 16)
  seq    : BitVec 16
  build  : List (Record × Bool)
deriving DecidableEq, Repr

/-- A context that has done nothing since ENABLE. -/
def SCtx.reset : SCtx := { expect := none, seq := 0, build := [] }

/-- A session of a path (11 R392, R393). -/
structure Session where
  gen      : BitVec 4
  features : W32
  driver   : W64
deriving DecidableEq, Repr

/-- What an operation of a path waits for. -/
inductive Wait where
  | fence (ids : List Nat)
  | lrn
  | lrnHeld
  | connOpen (i : Nat)
  | connClose (i : Nat)
  | mapDrain (v : Nat)
  | sctx (x : Nat)
  | mbSend (i : Nat)
  | forward (dev : Nat) (tag : Byte) (cmd : Bool)
  | hkc (op idx sub : Nat) (data : Bytes)
deriving DecidableEq, Repr

/-- The one operation of a path (11 R373): served and waiting to be reported, answered by another device, or still
    waiting. -/
inductive PathOp where
  | answered (st : Status) (hkc : Bool) (data : Bytes)
  | relayed (st : Status) (data : Bytes)
  | waiting (w : Wait)
deriving DecidableEq, Repr

/-- An access path: its session, its operation, its window (11 Table 11.7; a peer's path keeps the tag of its request
    there), whether its operation is an ATTEST (12 R427), and its BLOBs. -/
structure PathSt where
  session : Option Session
  op      : Option PathOp
  addr    : W64
  ctl     : W64
  status  : W64
  data    : Bytes
  attest  : Bool
  blobs   : Tab Bytes
deriving DecidableEq, Repr

/-- A path after device reset (11 R395). -/
def PathSt.reset : PathSt :=
  { session := none, op := none, addr := 0, ctl := 0, status := 0, data := [], attest := false, blobs := [] }

/-- A mailbox beyond its registers (11 R382 to R388): staging, ring, next SEQ, the path whose SEND waits,
    and the messages written since the receiver reset, by first unit and sender number. -/
structure Mbox where
  staged  : Option Bytes
  ring    : Mem
  seq     : BitVec 16
  waiting : Option Nat
  msgs    : List (Nat × Nat)
deriving DecidableEq, Repr

/-- An empty mailbox. -/
def Mbox.reset : Mbox := { staged := none, ring := [], seq := 0, waiting := none, msgs := [] }

/-- The SDIO function (11 R377 to R379): its registers and the CMD53 transfer in progress. -/
structure Sdio where
  intPend : Byte
  intEn   : Byte
  mbsel   : Byte
  ien1    : Bool
  tuned   : Bool
  xfer    : Bool
  resp    : Bytes
deriving DecidableEq, Repr

/-- The part of the PCIe function's configuration space that the host writes beside Bus Master Enable, the power state and
    the MSI-X control (11 R356, Table 11.1). -/
structure PcieCfg where
  memory  : Bool
  bar0    : W64
  bar2    : W64
  payload : Nat
  read    : Nat
  tags10  : Bool
deriving DecidableEq, Repr

/-- It after a reset of the function (the base specification's values, PRESUMED, log 8). -/
def PcieCfg.reset : PcieCfg := { memory := false, bar0 := 0, bar2 := 0, payload := 128, read := 512, tags10 := false }

/-- The host side of PCIe (11 R359 to R366): requests allowed, MSI-X table and pending bits, the posted
    BAR2 writes that a target holds (identity, address, data), the messages for full host output rings in their order (07
    R237), configuration space, the reads that a target holds, the last read completion, and the messages sent by vector (log 6). -/
structure Pcie where
  bme      : Bool
  d3       : Bool
  link     : Bool
  training : Bool
  perst    : Bool
  msixEn   : Bool
  msixMask : Bool
  table    : Mem
  pend     : Tab Bool
  sent     : Tab Nat
  held     : List (Nat × Nat × Bytes)
  wait     : List (Nat × HMsg)
  cfg      : PcieCfg
  heldRd   : List (Nat × Nat × Ecc)
  cpl      : Bytes
  poisoned : Bool
  ur       : Bool
deriving DecidableEq, Repr

/-- The fuse bank (12 DAWN). Cores are numbered 136 × tile + core. -/
structure Fuses where
  serial   : W64
  grade    : BitVec 16
  mac0     : BitVec 48
  mac1     : BitVec 48
  cores    : List Nat
  tiles    : List Nat
  keyHash  : Bytes
  arb      : Nat
  custHash : Bytes
deriving DecidableEq, Repr

/-- BOOT.STAGE (12 R397). -/
inductive Stage where
  | dawn | sunrise | morning | noon | fault
deriving DecidableEq, Repr

/-- Bring-up state (12 R397 to R408): the running image's SVN, measurement and boot configuration, the
    self-test outcome, the NIs and routers that a watchdog found stuck (R419), the hash of the fuses as read at DAWN, the
    run-time marks, the reset that a BOOT.CMD has started, and whether REFCLK runs (14 R470). -/
structure Boot where
  stage     : Stage
  svn       : Nat
  meas      : Bytes
  inline    : Bool
  fpmask    : BitVec 7
  stCores   : List Nat
  stTiles   : List Nat
  deadNis   : List Nat
  deadRtrs  : List Nat
  fuseSum   : Bytes
  rows      : Tab Nat
  markCores : List Nat
  markTiles : List Nat
  pending   : Bool
  refclk    : Bool
deriving DecidableEq, Repr

/-- A fault record (12 Table 12.8) as its four words. -/
abbrev FRec := W64 × W64 × W64 × W64

/-- The fault log and the queue before the fault ring (12 R422 to R424). -/
structure FLog where
  recs  : Tab FRec
  seq   : BitVec 16
  queue : List FRec
deriving DecidableEq, Repr

/-- A settle round in progress (02 R65, R86): the step it opens; whether its boundary work has begun (13 R454
    withholds it); the mesh nodes and devices that have acknowledged, with the reconfiguration states they
    reported; the commit that applies in it (generation?); whether it is a MIDNIGHT boundary; whether the MIDNIGHT of
    its first core has begun; whether a RECONF_SPLIT has been posted; the cores whose pass was not done at SETTLE (R68);
    and the reconfiguration state in the acknowledgement that a follower has sent. -/
structure Round where
  step   : W64
  work   : Bool
  acked  : List Nat
  peers  : List (Nat × BitVec 2)
  commit : Option Bool
  night  : Bool
  begun  : Bool
  split  : Bool
  late   : List Nat
  sent   : Option Nat
deriving DecidableEq, Repr

/-- The step engine beyond its registers (02 R45 to R73). `settled` is the step of the last SETTLE and `tagRef`
    the tag reference that every NI, bridge and core took at it; `timer` counts 2 ns ticks since that SETTLE;
    `deadline` is its value at the deadline; `prev` says that step settled − 1 is still open under DEADLINE;
    the waves keep the last balanced SENT sum of each open step. -/
structure Eng where
  phase    : Phase
  count    : W64
  settled  : W64
  tagRef   : BitVec 2
  timer    : Nat
  deadline : Option Nat
  closed   : Bool
  prev     : Bool
  waveCur  : Option (BitVec 48)
  wavePrev : Option (BitVec 48)
  turn     : Bool
  stopReq  : Bool
  starting : Bool
  round    : Option Round
  heldAt   : Option Nat
  diverge  : Bool
deriving DecidableEq, Repr

/-- Live reconfiguration (02 R80 to R86): the commit requested (generation?) and its step; the first step of
    the window in force; a shadow write made during it; and the manifest digest it will chain (12 R428). -/
structure Reconf where
  state  : RState
  cgen   : Bool
  req    : Option (Bool × W64)
  win    : Option W64
  late   : Bool
  digest : Bytes
  named  : Bool
  hash   : Bytes
  joinHash : Bytes
deriving DecidableEq, Repr

/-- Device-wide learning state (06 R195, R209): EPOCH, and whether LRN.CMD has asked for a MIDNIGHT boundary. -/
structure Lrn where
  epoch : W64
  pend  : Bool
deriving DecidableEq, Repr

/-- A power domain in transition (13 R438 to R444, R454): the state it enters (true: OFF), a wake source that
    waits for the entry or for VWARN to clear, an accepted request (2 RETENTION, 3 OFF; forced?) that VWARN holds, and
    whether it wakes from OFF. -/
structure Dom where
  off    : Bool
  wake   : Option Nat
  held   : Option (Nat × Bool)
  fromOff : Bool
deriving DecidableEq, Repr

/-- A domain in no transition. -/
def Dom.reset : Dom := { off := false, wake := none, held := none, fromOff := false }

/-- The monitors beyond their registers (13 R450 to R455): sensors above a threshold, domains out of
    limits, the latches, whether a sensor has read above 105 °C since every sensor last read 103 °C or below, the sensors
    and domains read at all, and those read since HKC.STATE last became RUNNING (12 R434). -/
structure Mon where
  warn      : List Nat
  hot       : List Nat
  trip      : List Nat
  volt      : List Nat
  thermtrip : Bool
  vwarn     : Bool
  tooHot    : Bool
  firstT    : List Nat
  firstV    : List Nat
  sinceT    : List Nat
  sinceV    : List Nat
deriving DecidableEq, Repr

/-- A map write that drains (08 R266): the old physical tile, the holders whose DRAIN it waits for, and those of them
    whose DRAIN packet has come. -/
structure MapDrain where
  v     : Nat
  old   : Nat
  wait  : List Nat
  got   : List Nat
deriving DecidableEq, Repr

/-- The peer information of SYS.PEER[e] that does not fit a register (08 Table 8.16). -/
structure PeerInfo where
  hash   : Bytes
  agrees : Bool
  port   : Option Nat
  stopped : Bool
deriving DecidableEq, Repr

/-- A peer nothing is known of. -/
def PeerInfo.reset : PeerInfo := { hash := [], agrees := false, port := none, stopped := true }

/-- The state of the block. -/
structure State where
  regs     : Tab W64
  fuses    : Fuses
  straps   : BitVec 3
  cc       : Bool
  boot     : Boot
  eng      : Eng
  reconf   : Reconf
  lrn      : Lrn
  cores    : Tab Core
  tiles    : Tab Tile
  nodes    : Tab Node
  rtrs     : Tab Router
  ports    : Tab Port
  conns    : Tab Conn
  combs    : Tab Comb
  hrings   : Tab HRing
  hostMem  : Mem
  lpddr    : Mem
  chans    : Tab Chan
  turnR    : Tab Nat
  turnW    : Tab Nat
  swap     : Option Swap
  parks    : Tab Park
  parkq    : List Item
  sports   : Tab SPort
  sctxs    : Tab SCtx
  sch      : Tab W64
  was      : Tab Bool
  hits     : Tab Nat
  capOld   : Tab (Nat × W64)
  capPre   : Tab Nat
  paths    : Tab PathSt
  mboxes   : Tab Mbox
  sdio     : Sdio
  pcie     : Pcie
  log      : FLog
  doms     : Tab Dom
  mon      : Mon
  drains   : List MapDrain
  routes   : Tab (Option (Nat × Bool))
  peers    : Tab PeerInfo
  lossSnap : Nat × Nat
  flights  : Tab (Nat × Nat × Nat)
  live     : List (Nat × Nat)
  ids      : Nat
  now      : Nat
  slew     : Option Bool
  scrub    : Nat
  scrubbed : Bool
  free     : Nat
  pending  : List Instr
deriving DecidableEq, Repr

/-- Why the machine may stop with a fault. The spec gives every command of the table an effect or says that
    a happening whose condition does not hold is none, so no meaning of this model raises one. -/
inductive Fault where
  /-- No meaning raises it: kept so that the type has a value. Safe. -/
  | unused
deriving DecidableEq, Repr

/-- Why a command may have no meaning. -/
inductive Refusal where
  /-- Raised by an arm of exec whose command is not modelled yet. Safe. -/
  | notModelled (mnemonic : String)
deriving DecidableEq, Repr

/-- The key of a register in the register file. -/
def rk (bank idx sub : Nat) : Nat := bank * 0x1000000 + idx * 0x100 + sub

/-- The Default of a register, by index and subindex (the tables of the owning chapters); 0 where the table
    says 0. SYS.MEMBERS, whose default is the device's own bit, and what the fuses give are written at reset. -/
def regDefault (key : Nat) : W64 :=
  let idx := key / 0x100 % 0x10000
  let sub := key % 0x100
  if idx = 0x3C01 then (if sub = 0 then 1000000 else 0)
  else if idx = 0x3800 then (if sub = 3 then 0xFFFF else 0)
  else if 0x3810 ≤ idx ∧ idx ≤ 0x384F then
    (if sub = 2 then 12 else if sub = 3 then 0xFFFF else if sub = 4 then 1 else if sub = 5 then 100 else 0)
  else if 0x3850 ≤ idx ∧ idx ≤ 0x388F then
    (if sub = 2 then 12 else if sub = 7 then 0xFFFF else 0)
  else if idx = 0x1200 then (if sub = 2 then 31 else if sub = 3 then 16 else 0)
  else if idx = 0x2000 then (if sub = 1 then 200 else 0)
  else if 0x2010 ≤ idx ∧ idx ≤ 0x2016 then
    (if sub = 2 then 0xFF else if sub = 4 then 200 else if sub = 5 then 0xFF else if sub = 6 then 64 else 0)
  else if 0x2200 ≤ idx ∧ idx ≤ 0x223F then BitVec.ofNat 64 (0x4000 + (idx - 0x2200) * 0x80)
  else if idx = 0x2401 then BitVec.ofNat 64 sub
  else if idx = 0x4800 then (if sub = 3 then 0xFF else if sub = 4 then 1 else 0)
  else if idx = 0x3400 then (if sub = 3 then 0xFFFF else 0)
  else if idx = 0x3500 then (if sub = 8 then 3600 else 0)
  else if idx = 0x3502 then (if sub = 7 then 0xFF else if sub = 8 then 7 else 0)
  else if 0x3600 ≤ idx ∧ idx ≤ 0x37FF then (if sub = 2 then 0xFFFF else 0)
  else if idx = 0x3200 then 0x3F800000
  else if idx = 0x4000 ∨ idx = 0x4001 then (if sub = 6 then 9216 else 0)
  else if 0x3C10 ≤ idx ∧ idx ≤ 0x3C2F then
    (if sub = 4 then 0xFFFFFFFF else if sub = 7 then 0xFFFF else if sub = 8 then 0xFFFF else 0)
  else if 0x3C40 ≤ idx ∧ idx ≤ 0x3C4F then (if sub = 2 ∨ sub = 3 ∨ sub = 4 then 1 else 0)
  else if 0x3C50 ≤ idx ∧ idx ≤ 0x3C57 then (if sub = 1 ∨ sub = 2 then 0xFF else 0)
  else if idx = 0x3001 then (if sub = 4 ∨ sub = 5 then 0xFFFF else 0)
  else if 0x3100 ≤ idx ∧ idx ≤ 0x3117 then
    (if sub = 1 then (if idx < 0x310C then 1 else if idx < 0x3114 then 3 else 2)
     else if sub = 7 then 0xFFFF else 0)
  else if idx = 0x0111 then (if sub = 3 then 0x0F else 0)
  else if idx = 0x0112 then (if sub = 2 then 12 else if sub = 3 then 0xFFFF else 0)
  else if idx = 0x0120 then (if sub = 1 then 1 else 0)
  else if 0x0400 ≤ idx ∧ idx ≤ 0x0459 then (if sub = 1 ∨ sub = 3 then 1 else 0)
  else if idx = 0x0802 then (if sub = 1 then 95 else 0)
  else 0

/-- What an unlisted byte of the MSI-X table reads as: every vector masked (PRESUMED, the base
    specification's; log 8). -/
def msixDefault (off : Nat) : Byte := if off % 16 = 12 then 1 else 0

/-- The fuse bank of the reset state: blank (log 3). -/
def Fuses.blank : Fuses :=
  { serial := 0, grade := 96, mac0 := 0, mac1 := 0, cores := [], tiles := [], keyHash := List.replicate 48 0,
    arb := 0, custHash := List.replicate 48 0 }

/-- The step engine after reset (02 R71). -/
def Eng.reset : Eng :=
  { phase := .stopped, count := 0, settled := 0, tagRef := 0, timer := 0, deadline := none, closed := false,
    prev := false, waveCur := none, wavePrev := none, turn := false, stopReq := false, starting := false,
    round := none, heldAt := none, diverge := false }

/-- CONFIG.JOIN_HASH after reset: SHA-384 over 48 zero bytes and the default settings block (12 R429); the
    tests show that the model's SHA-384 gives it. -/
def joinHashReset : Bytes :=
  beBytes 48 0x25ce2430a0d3debc451f4b0e4cdddc1df2b0e5a91884bfaaceaee8c4ca963e281689233e368ef0d6da09a539abbffa50

/-- Reconfiguration after reset (02 R71, 12 R428). -/
def Reconf.reset : Reconf :=
  { state := .idle, cgen := false, req := none, win := none, late := false, digest := List.replicate 48 0,
    named := false, hash := List.replicate 48 0, joinHash := joinHashReset }

/-- Bring-up state at the start of DAWN. -/
def Boot.reset : Boot :=
  { stage := .dawn, svn := 0, meas := List.replicate 48 0, inline := false, fpmask := 0, stCores := [],
    stTiles := [], deadNis := [], deadRtrs := [], fuseSum := List.replicate 48 0, rows := [], markCores := [], markTiles := [], pending := false, refclk := true }

/-- The host side of PCIe after reset (12 R398). -/
def Pcie.reset : Pcie :=
  { bme := false, d3 := false, link := false, training := false, perst := true, msixEn := false, msixMask := false,
    table := [], pend := [], sent := [], held := [], wait := [], cfg := .reset, heldRd := [], cpl := [], poisoned := false, ur := false }

/-- The SDIO function after reset. -/
def Sdio.reset : Sdio :=
  { intPend := 0, intEn := 0, mbsel := 0, ien1 := false, tuned := false, xfer := false, resp := [] }

/-- The monitors after reset (13 R457). -/
def Mon.reset : Mon :=
  { warn := [], hot := [], trip := [], volt := [], thermtrip := false, vwarn := false, tooHot := false,
    firstT := [], firstV := [], sinceT := [], sinceV := [] }

/-- The device right after a device reset with fuse bank f and straps d: every register at its Default,
    SYS.MEMBERS holding the device's own bit, no command waiting (00 R11, 02 R71, 03 R128, 07 R244, 08 R281,
    09 R321, 10 R354, 11 R395, 12 R434, 13 R457). -/
def State.initial (f : Fuses) (d : BitVec 3) (cc : Bool) : State :=
  { regs := [(rk 0 0x4800 2, BitVec.ofNat 64 (2 ^ d.toNat))], fuses := f, straps := d, cc := cc,
    boot := .reset, eng := .reset, reconf := .reset,
    lrn := { epoch := 0, pend := false },
    cores := [], tiles := [], nodes := [], rtrs := [], ports := [], conns := [], combs := [], hrings := [],
    hostMem := [], lpddr := [], chans := [], turnR := [], turnW := [], swap := none, parks := [], parkq := [],
    sports := [], sctxs := [], sch := [], was := [], hits := [], capOld := [], capPre := [], paths := [], mboxes := [], sdio := .reset,
    pcie := .reset, log := { recs := [], seq := 0, queue := [] }, doms := [], mon := .reset, drains := [],
    routes := [], peers := [], lossSnap := (0, 0), flights := [], live := [], ids := 0, now := 0, slew := none,
    scrub := 0, scrubbed := false, free := 0, pending := [] }

/-- The state right after power-on reset, with a blank fuse bank and straps 0 (log 3). -/
def State.reset : State := State.initial .blank 0 false

/-- The outcome type of the block. -/
abbrev Out := Host.Outcome State Fault Refusal

end Sys2Proof.Machine
end

