-- ==== Sys2Proof/Machine/Operands.lean ====
section
/-! DEFINITION. Fields of words, the narrowing functions of the pseudocode (00 R9), and the numbers that name
    a status, a path and a phase. -/

namespace Sys2Proof.Machine

/-- Field [hi:lo] of a 64-bit word (00 R6). -/
def fld (w : W64) (hi lo : Nat) : Nat := w.toNat / 2 ^ lo % 2 ^ (hi + 1 - lo)

/-- Bit n of a word. -/
def bit (w : W64) (n : Nat) : Bool := w.getLsbD n

/-- Put v into field [hi:lo] of w. -/
def putFld (w : W64) (hi lo v : Nat) : W64 :=
  BitVec.ofNat 64 (w.toNat - fld w hi lo * 2 ^ lo + v % 2 ^ (hi + 1 - lo) * 2 ^ lo)

/-- The signed number in the low n bits of v. -/
def sx (n v : Nat) : Int :=
  let m := v % 2 ^ n
  if m < 2 ^ (n - 1) then (m : Int) else (m : Int) - (2 ^ n : Nat)

/-- The n-bit two's complement code of an integer. -/
def enc (n : Nat) (i : Int) : Nat := (i % ((2 ^ n : Nat) : Int)).toNat

/-- Saturation to a signed range of n bits: sat32() and sat8() of the pseudocode. -/
def satN (n : Nat) (i : Int) : Int :=
  let m : Int := ((2 ^ (n - 1) : Nat) : Int)
  if i < -m then -m else if m - 1 < i then m - 1 else i

/-- sat32(): the signed 32-bit range. -/
def sat32 (i : Int) : Int := satN 32 i

/-- sat8(): −128 to +127. -/
def sat8 (i : Int) : Int := satN 8 i

/-- A word as 64 bits of a natural number. -/
def w64 (n : Nat) : W64 := BitVec.ofNat 64 n

/-- A word as 32 bits of an integer. -/
def w32 (i : Int) : W32 := BitVec.ofInt 32 i

/-- Table 0.2's code of a status. -/
def Status.code : Status → Nat
  | .ok => 0x00 | .busy => 0x01 | .noEntry => 0x02 | .access => 0x03 | .type => 0x04 | .range => 0x05
  | .state => 0x06 | .rsvdSet => 0x07 | .noContext => 0x08 | .closed => 0x09 | .aborted => 0x0A
  | .timeout => 0x0B | .version => 0x0C | .auth => 0x0D | .fault => 0x0E

/-- The status of a code; a code outside Table 0.2, which no device returns, counts as FAULT. -/
def Status.ofCode : Nat → Status
  | 0x00 => .ok | 0x01 => .busy | 0x02 => .noEntry | 0x03 => .access | 0x04 => .type | 0x05 => .range
  | 0x06 => .state | 0x07 => .rsvdSet | 0x08 => .noContext | 0x09 => .closed | 0x0A => .aborted
  | 0x0B => .timeout | 0x0C => .version | 0x0D => .auth | _ => .fault

/-- Which of two conditions an operation reports: the lowest nonzero code, but FAULT before every other (00 R17). -/
def Status.pick (a b : Status) : Status :=
  if a = .fault ∨ b = .fault then .fault
  else if a = .ok then b
  else if b = .ok then a
  else if a.code ≤ b.code then a else b

/-- The lowest code among the conditions that hold (00 R17). -/
def pickAll : List (Bool × Status) → Status
  | [] => .ok
  | (c, st) :: t => if c then Status.pick st (pickAll t) else pickAll t

/-- Sender number of a path (11 R373). -/
def sender : Path → Nat
  | .pcie => 1
  | .sdio => 2
  | .hkc => 3
  | .peer n => 8 + n

/-- STEP.PHASE's value (02 Table 2.9). -/
def Phase.code : Phase → Nat
  | .stopped => 0 | .fire => 1 | .deliver => 2 | .dusk => 3 | .settle => 4 | .held => 5 | .quiet => 6

/-- STATUS.STATE's value (03 Table 3.16). -/
def CoreState.code : CoreState → Nat
  | .unconfigured => 0 | .ready => 1 | .running => 2 | .fenced => 3

/-- RECONF.STATE's value (02 Table 2.9). -/
def RState.code : RState → Nat
  | .idle => 0 | .loading => 1 | .armed => 2 | .window => 3

/-- CONN.STATE's value (07 Table 7.13). -/
def ConnState.code : ConnState → Nat
  | .free => 0 | .opn => 1 | .closing => 2

/-- BOOT.STAGE's value (12 R397). -/
def Stage.code : Stage → Nat
  | .dawn => 0 | .sunrise => 1 | .morning => 2 | .noon => 3 | .fault => 4

/-- SYS.PEER[e].REASON's value (08 Table 8.15). -/
def JoinReason.code : JoinReason → Nat
  | .agreed => 0 | .version => 1 | .dupDev => 2 | .notMember => 3 | .dupPeer => 4 | .schema => 5
  | .leader => 6 | .hash => 7 | .step => 8 | .members => 9

/-- Replace element i of a list by its image. -/
def modAt {α : Type} (f : α → α) : Nat → List α → List α
  | _, [] => []
  | 0, a :: t => f a :: t
  | n + 1, a :: t => a :: modAt f n t

/-- The elements of a list without duplicates. -/
def addNew (n : Nat) (l : List Nat) : List Nat := if l.contains n then l else l ++ [n]

end Sys2Proof.Machine
end

