-- ==== Sys2Proof/Machine/Numerics.lean ====
section
/-! DEFINITION. The arithmetic of the device: rounding (05 R164), weight decoding (03 R114), the output scaler
    (05 R179) and the checksums of packets and descriptors. -/

namespace Sys2Proof.Machine

/-- rne(n / 2^s): round to nearest, ties to even (05 R164). -/
def rneShr (n : Int) (s : Nat) : Int :=
  if s = 0 then n
  else
    let m : Int := ((2 ^ s : Nat) : Int)
    let q := n / m
    let r := n % m
    let h : Int := ((2 ^ (s - 1) : Nat) : Int)
    if h < r ∨ (r = h ∧ q % 2 = 1) then q + 1 else q

/-- rne_div(a, b) for a ≥ 0 and b > 0 (06 R200). -/
def rneDiv (a b : Nat) : Nat :=
  let q := a / b
  let r := a % b
  if b < 2 * r ∨ (2 * r = b ∧ q % 2 = 1) then q + 1 else q

/-- Arithmetic right shift (03 R105). -/
def asr (v : Int) (k : Nat) : Int := v / ((2 ^ k : Nat) : Int)

/-- Limit x to [lo, hi]. -/
def clamp (lo hi x : Int) : Int := if x < lo then lo else if hi < x then hi else x

/-- The smallest and largest weight that MIDNIGHT writes at a width: 1 W2, 2 W4, 3 W8 (06 R200). -/
def satW (wid : Nat) (x : Int) : Int :=
  if wid = 3 then clamp (-128) 127 x else if wid = 2 then clamp (-8) 7 x else clamp (-1) 1 x

/-- Bits of a weight of width code 0 W1, 1 W2, 2 W4, 3 W8 (04 Table 4.4). -/
def widBits (wid : Nat) : Nat := 2 ^ wid

/-- Weight of a code (Table 3.10), and whether the code is the reserved W2 code 10. -/
def weightOf (wid code : Nat) : Int × Bool :=
  if wid = 0 then (if code % 2 = 0 then 1 else -1, false)
  else if wid = 1 then
    (if code % 4 = 1 then 1 else if code % 4 = 3 then -1 else 0, code % 4 = 2)
  else if wid = 2 then (sx 4 code, false)
  else (sx 8 code, false)

/-- Payload range of a kind: 1 G4, 2 G8 (02 Table 2.2). -/
def kindMax (kind : Nat) : Int := if kind = 1 then 7 else 127
/-- Smallest payload of a kind. -/
def kindMin (kind : Nat) : Int := if kind = 1 then -8 else -128

/-- Position of the highest set bit, for a nonzero n below 2^64. -/
def log2Go : Nat → Nat → Nat
  | 0, _ => 0
  | f + 1, n => if n ≤ 1 then 0 else log2Go f (n / 2) + 1

/-- FP32 bits of the exact product of an int32 value and a normal FP32 scale, rounded once to nearest even,
    and whether it overflowed to infinity (05 R179). The least nonzero product is normal. -/
def scaleFp32 (v : Int) (scale : Nat) : Nat × Bool :=
  if v = 0 then (0, false)
  else
    let e := scale / 2 ^ 23 % 256
    let m := 2 ^ 23 + scale % 2 ^ 23
    let neg := (decide (v < 0)).xor (decide (scale / 2 ^ 31 % 2 = 1))
    let sgn := if neg then 2 ^ 31 else 0
    let p := v.natAbs * m
    let l := log2Go 64 p
    let q := if 23 < l then (rneShr (p : Int) (l - 23)).toNat else p * 2 ^ (23 - l)
    let bump := if q = 2 ^ 24 then 1 else 0
    let q := if bump = 1 then 2 ^ 23 else q
    let biased := l + e + bump
    -- the biased exponent is l + (e − 150) + 127 + bump
    if 255 + 23 ≤ biased then (sgn + 255 * 2 ^ 23, true)
    else (sgn + (biased - 23) * 2 ^ 23 + (q - 2 ^ 23), false)

/-- One step of a reflected CRC with polynomial `poly`. -/
def crcBit (poly : Nat) : Nat → Nat → Nat
  | 0, c => c
  | n + 1, c => crcBit poly n (if c % 2 = 1 then Nat.xor (c / 2) poly else c / 2)

/-- CRC-32C over bytes, from the register value c. -/
def crc32cFrom : Nat → Bytes → Nat
  | c, [] => c
  | c, b :: t => crc32cFrom (crcBit 0x82F63B78 8 (Nat.xor c b.toNat)) t

/-- CRC-32C (Castagnoli), as descriptors carry it (07 R221, 09 R297). -/
def crc32c (b : Bytes) : Nat := Nat.xor (crc32cFrom 0xFFFFFFFF b) 0xFFFFFFFF

/-- One step of an unreflected CRC of 8 bits with polynomial 0x07. -/
def crc8Bit : Nat → Nat → Nat
  | 0, c => c
  | n + 1, c => crc8Bit n (if 128 ≤ c then Nat.xor (c * 2 % 256) 0x07 else c * 2 % 256)

/-- CRC-8 over bytes, most significant bit first, from the register value c. -/
def crc8From : Nat → Bytes → Nat
  | c, [] => c
  | c, b :: t => crc8From (crc8Bit 8 (Nat.xor c b.toNat)) t

end Sys2Proof.Machine
end

