-- ==== Sys2Proof/Config.lean ====
section
/-! DEFINITION. What the spec leaves open and no rule fixes: constants without a body, so that no proof can
    see a value (log 2). -/

namespace Sys2Proof.Config

/-- 12 R426: the private identity key never leaves the SEC island, so the signature of a report is open. -/
opaque identitySign : Bytes → Bytes

/-- 14 R468: a PORST_N pulse of 1 to 10 µs either resets the device or does nothing; applied to State.free. -/
opaque porstResets : Nat → Bool

/-- 12 R426: the public identity key and its certificate are made at manufacture. -/
opaque identityPubkey : Bytes
/-- 12 R426: the DER certificate. -/
opaque identityCert : Bytes

/-- What a core reads where a row, a table or a plastic index written live runs past the end of its memory
    (04 R137, R161 give no value); applied to State.free or to the position read. -/
opaque beyond : Nat → Byte

/-- 03 R484, 05 Table 5.8: the VAL of a neuron that has none (RELAY, or at or beyond the enabled neurons), as a table or a
    descriptor that no commit has checked may read it; applied to the neuron (log 77). -/
opaque noVal : Nat → BitVec 32

/-- 03 R107, 04 R149, 08 R252: the flit of a readout or a TYPE 1 record on its way, whose format no table gives;
    applied to the record (log 11). -/
opaque recordFlit : Record → BitVec 64
/-- 08 R254: the header flit of a VC1 packet, whose format no table gives; applied to the message and the number of the
    packet in it (log 11). -/
opaque vc1Head : Item → Nat → BitVec 64

/-- 08 R261: the bridge that only receives a LANE word is not told whether the lane lost lock; applied to
    State.free. -/
opaque farLaneCause : Nat → Bool

/-- 08 R273: FAB.LOSS_RATE when no flit was sent in the second; applied to State.free. -/
opaque lossOfNone : Nat → BitVec 64

/-- 10 R335: L after a DELTA event whose exact sum lies outside the 32 bits of its field; applied to
    State.free. -/
opaque deltaBeyond : Nat → BitVec 32

/-- 12 R398, 13 Table 13.2: what LPDDR5X holds after a device reset or a forced OFF of a controller, as the bytes that
    are not zero; applied to State.free. -/
opaque lpddrLost : Nat → List (Nat × Byte)

/-- 12 Table 12.10: the bytes of the fuse bank that the report hashes, from the fields that the spec names. -/
opaque fuseBank : Bytes → Bytes

/-- 12 Table 12.9: LOC of a MEMORY record about a word that has no device address and is no core's; applied to
    State.free. -/
opaque locNoAddress : Nat → BitVec 64

/-- 13 R452, 12 Table 12.9: the duration that a VOLT record about one reading outside the limits carries; applied to
    State.free. -/
opaque voltDuration : Nat → BitVec 32

/-- 06 R199, R203: the length in 2 ns units of a span of MIDNIGHT that ends because its last core left it; applied to
    State.free (log 77). -/
opaque nightTicks : Nat → Nat

/-- 11 R372: the entries of the diagnostic range, by index and subindex, with their INFO bytes. -/
opaque diagnostic : Nat → Nat → Option Bytes
/-- 11 R372: what a diagnostic entry reads as; applied to State.free, the index and the subindex. -/
opaque diagnosticValue : Nat → Nat → Nat → Bytes

end Sys2Proof.Config
end

