-- ==== Sys2Proof/Machine/Ops.lean ====
section
/-! DEFINITION. The named operations over the register file and the banks of the state, the interrupts to the
    host (11 R365, R366), the fault log (12 R421 to R424), and the one operation that serves a dictionary
    access on a path (11 R369 to R375). -/

namespace Sys2Proof.Machine

/-! Registers -/

/-- Read a register. -/
def State.rd (s : State) (k : Nat) : W64 := Tab.get (regDefault k) s.regs k

/-- Write a register. -/
def State.wr (s : State) (k : Nat) (v : W64) : State :=
  { s with regs := Tab.set (regDefault k) s.regs k v }

/-- Read a register as a number. -/
def State.rn (s : State) (k : Nat) : Nat := (s.rd k).toNat

/-- Write a number to a register. -/
def State.wn (s : State) (k v : Nat) : State := s.wr k (w64 v)

/-- Add n to a counter of w bits, which holds at all-ones (00 R13). -/
def satAdd (w a n : Nat) : Nat := min (a + n) (2 ^ w - 1)

/-- Add n to a counter register of w bits (00 R13). -/
def State.bumpBy (s : State) (w k n : Nat) : State := s.wn k (satAdd w (s.rn k) n)

/-- Count one happening in a 64-bit counter. -/
def State.bump (s : State) (k : Nat) : State := s.bumpBy 64 k 1

/-- Count one happening in a 32-bit counter. -/
def State.bump32 (s : State) (k : Nat) : State := s.bumpBy 32 k 1

/-- Keep the larger of a register and v (a high-water mark). -/
def State.hwm (s : State) (k v : Nat) : State := if s.rn k < v then s.wn k v else s

/-! Banks of units -/

/-- Physical core k = 136 × tile + core. -/
def State.core (s : State) (k : Nat) : Core := Tab.get Core.reset s.cores k
/-- Replace a core. -/
def State.setCore (s : State) (k : Nat) (c : Core) : State :=
  { s with cores := Tab.set Core.reset s.cores k c }
/-- Change a core. -/
def State.updCore (s : State) (k : Nat) (f : Core → Core) : State := s.setCore k (f (s.core k))

/-- Physical tile t. -/
def State.tile (s : State) (t : Nat) : Tile := Tab.get Tile.reset s.tiles t
/-- Change a tile. -/
def State.updTile (s : State) (t : Nat) (f : Tile → Tile) : State :=
  { s with tiles := Tab.upd Tile.reset s.tiles t f }

/-- Mesh node n. -/
def State.node (s : State) (n : Nat) : Node := Tab.get Node.reset s.nodes n
/-- Change a node. -/
def State.updNode (s : State) (n : Nat) (f : Node → Node) : State :=
  { s with nodes := Tab.upd Node.reset s.nodes n f }

/-- Router r. -/
def State.rtr (s : State) (r : Nat) : Router := Tab.get Router.reset s.rtrs r
/-- Change a router. -/
def State.updRtr (s : State) (r : Nat) (f : Router → Router) : State :=
  { s with rtrs := Tab.upd Router.reset s.rtrs r f }

/-- Fabric port p. -/
def State.port (s : State) (p : Nat) : Port := Tab.get Port.reset s.ports p
/-- Change a port. -/
def State.updPort (s : State) (p : Nat) (f : Port → Port) : State :=
  { s with ports := Tab.upd Port.reset s.ports p f }

/-- Connection context i. -/
def State.conn (s : State) (i : Nat) : Conn := Tab.get Conn.reset s.conns i
/-- Change a connection context. -/
def State.updConn (s : State) (i : Nat) (f : Conn → Conn) : State :=
  { s with conns := Tab.upd Conn.reset s.conns i f }

/-- Combining queue q. -/
def State.comb (s : State) (q : Nat) : Comb := Tab.get Comb.reset s.combs q
/-- Change a combining queue. -/
def State.updComb (s : State) (q : Nat) (f : Comb → Comb) : State :=
  { s with combs := Tab.upd Comb.reset s.combs q f }

/-- Host output ring r. -/
def State.hring (s : State) (r : Nat) : HRing := Tab.get HRing.reset s.hrings r
/-- Change a host output ring. -/
def State.updHring (s : State) (r : Nat) (f : HRing → HRing) : State :=
  { s with hrings := Tab.upd HRing.reset s.hrings r f }

/-- DMA channel c. -/
def State.chan (s : State) (c : Nat) : Chan := Tab.get Chan.reset s.chans c
/-- Change a DMA channel. -/
def State.updChan (s : State) (c : Nat) (f : Chan → Chan) : State :=
  { s with chans := Tab.upd Chan.reset s.chans c f }

/-- Stream port p. -/
def State.sport (s : State) (p : Nat) : SPort := Tab.get SPort.reset s.sports p
/-- Change a stream port. -/
def State.updSport (s : State) (p : Nat) (f : SPort → SPort) : State :=
  { s with sports := Tab.upd SPort.reset s.sports p f }

/-- Stream context x. -/
def State.sctx (s : State) (x : Nat) : SCtx := Tab.get SCtx.reset s.sctxs x
/-- Change a stream context. -/
def State.updSctx (s : State) (x : Nat) (f : SCtx → SCtx) : State :=
  { s with sctxs := Tab.upd SCtx.reset s.sctxs x f }

/-- Mailbox i. -/
def State.mbox (s : State) (i : Nat) : Mbox := Tab.get Mbox.reset s.mboxes i
/-- Change a mailbox. -/
def State.updMbox (s : State) (i : Nat) (f : Mbox → Mbox) : State :=
  { s with mboxes := Tab.upd Mbox.reset s.mboxes i f }

/-- Peer information of device e. -/
def State.peer (s : State) (e : Nat) : PeerInfo := Tab.get PeerInfo.reset s.peers e
/-- Change the information of a peer. -/
def State.updPeer (s : State) (e : Nat) (f : PeerInfo → PeerInfo) : State :=
  { s with peers := Tab.upd PeerInfo.reset s.peers e f }

/-- The access path of sender number n (11 R373). -/
def State.pathN (s : State) (n : Nat) : PathSt := Tab.get PathSt.reset s.paths n
/-- Change the access path of sender number n. -/
def State.updPathN (s : State) (n : Nat) (f : PathSt → PathSt) : State :=
  { s with paths := Tab.upd PathSt.reset s.paths n f }
/-- An access path. -/
def State.path (s : State) (p : Path) : PathSt := s.pathN (sender p)
/-- Change an access path. -/
def State.updPath (s : State) (p : Path) (f : PathSt → PathSt) : State := s.updPathN (sender p) f

/-- A fresh identity for an item in flight. -/
def State.fresh (s : State) : Nat × State := (s.ids, { s with ids := s.ids + 1 })

/-- The clocked islands run only while REFCLK does (14 R470): a command of theirs has its effect then. -/
def State.clk (s : State) (f : State → State) : State := if s.boot.refclk then f s else s

/-! Common registers -/

/-- SYS.TB (08 R280). -/
def rTB : Nat := rk 0 0x4800 7
/-- STEP.PERIOD. -/
def rPeriod : Nat := rk 0 0x3C01 0
/-- STEP.MODE: 0 STEPPED, 1 FREE-RUN. -/
def rMode : Nat := rk 0 0x3C00 1
/-- STEP.OVERRUN: 0 STRETCH, 1 DEADLINE. -/
def rOverrun : Nat := rk 0 0x3C00 2
/-- STEP.LATE_ACTION: 0 DELIVER, 1 DROP. -/
def rLateAction : Nat := rk 0 0x3C00 3
/-- SYS.MEMBERS. -/
def rMembers : Nat := rk 0 0x4800 2
/-- SYS.LEADER. -/
def rLeader : Nat := rk 0 0x4800 3
/-- PWR.DOMAIN[d].STATE. -/
def rDomain (d : Nat) : Nat := rk 0 (0x0400 + d) 1

/-- SYS.DEVNUM: the DEVID straps (14 R472). -/
def State.dev (s : State) : Nat := s.straps.toNat

/-- STEP.MODE is FREE-RUN. -/
def State.freeRun (s : State) : Bool := s.rn rMode = 1
/-- STEP.OVERRUN is DEADLINE. -/
def State.deadlineMode (s : State) : Bool := s.rn rOverrun = 1
/-- Stepping is stopped. -/
def State.stopped (s : State) : Bool := s.eng.phase = .stopped
/-- A domain is ON (13 R437). -/
def State.domOn (s : State) (d : Nat) : Bool := s.rn (rDomain d) = 1
/-- A domain works: ON, or ENTERING, which still serves as ON does (13 R440). -/
def State.domUp (s : State) (d : Nat) : Bool := s.rn (rDomain d) = 1 || s.rn (rDomain d) = 3
/-- Power domain d in transition. -/
def State.dom (s : State) (d : Nat) : Dom := Tab.get Dom.reset s.doms d
/-- Change a domain's transition. -/
def State.updDom (s : State) (d : Nat) (f : Dom → Dom) : State :=
  { s with doms := Tab.upd Dom.reset s.doms d f }

/-- A wake source that a domain in OFF answers (13 Table 13.3): a command for every domain, a doorbell for PCIE
    and the HKC, a dictionary operation for the HKC. -/
def offWakes (d src : Nat) : Bool :=
  src = 1 || (src = 5 && (d = 77 || d = 88)) || (src = 8 && d = 88)

/-- Move a domain to WAKING (13 R444). -/
def State.startWake (s : State) (d src : Nat) : State :=
  let off := decide (s.rn (rDomain d) = 0)
  (((s.wn (rDomain d) 4).bump (rk 0 (0x0400 + d) 8)).wn (rk 0 (0x0400 + d) 7) src).updDom d fun _ =>
    { Dom.reset with fromOff := off }

/-- A wake source of Table 13.9's code reaches domain d (13 R444, R454): ENTERING remembers the lowest code, OFF
    waits while VWARN is latched. -/
def State.wake (s : State) (d src : Nat) : State :=
  let st := s.rn (rDomain d)
  let note (s : State) := s.updDom d fun q =>
    { q with wake := match q.wake with | some w => some (min w src) | none => some src }
  if st = 2 then s.startWake d src
  else if st = 3 then note s
  else if st = 0 ∧ offWakes d src then (if s.mon.vwarn then note s else s.startWake d src)
  else s

/-- The HKC serves: RUNNING, its domain ON. -/
def State.hkcUp (s : State) : Bool := s.rn (rk 0 0x0121 1) = 0 && s.domOn 88

/-! Step-closure counters of a mesh node (02 R60): 48 bits by tag, wrapping (00 R14). -/

/-- Add n to SENT[tag] of node k. -/
def State.addSent (s : State) (k tag n : Nat) : State :=
  s.updNode k fun d => { d with sent := Tab.upd 0 d.sent tag (· + BitVec.ofNat 48 n) }

/-- Add n to ACC[tag] of node k. -/
def State.addAcc (s : State) (k tag n : Nat) : State :=
  s.updNode k fun d => { d with acc := Tab.upd 0 d.acc tag (· + BitVec.ofNat 48 n) }

/-! MSI-X (11 R365, R366) -/

/-- The PCIE island may issue a request to the host (11 R359). -/
def State.hostOk (s : State) : Bool := s.pcie.bme && !s.pcie.d3 && s.pcie.link

/-- Vector v is masked by its table entry, the function, or the enable. -/
def State.vecMasked (s : State) (v : Nat) : Bool :=
  !s.pcie.msixEn || s.pcie.msixMask || (Tab.get (msixDefault (16 * v + 12)) s.pcie.table (16 * v + 12)).getLsbD 0

/-- One raise of a source on vector v: a message, or the pending bit while the vector cannot be sent. -/
def State.raise (s : State) (v : Nat) : State :=
  if 255 < v then s
  else if s.hostOk && s.domUp 77 && !s.vecMasked v then
    { s with pcie := { s.pcie with sent := Tab.upd 0 s.pcie.sent v (· + 1) } }
  else { s with pcie := { s.pcie with pend := Tab.set false s.pcie.pend v true } }

/-! The single-fault promise and the fault log (12 R415, R421 to R424) -/

/-- FAULT.PROMISE_WHY. -/
def rWhy : Nat := rk 0 0x0111 3
/-- FAULT.RING_MISS. -/
def rRingMiss : Nat := rk 0 0x0111 5

/-- Set FAULT.PROMISE_WHY to v: PROMISE reads 1 exactly while it is 0, and a fall of PROMISE counts a lapse. -/
def State.setWhy (s : State) (v : Nat) : State :=
  let was := s.rn (rk 0 0x0111 2)
  let now := if v = 0 then 1 else 0
  let s := (s.wn rWhy v).wn (rk 0 0x0111 2) now
  if was = 1 ∧ now = 0 then s.bump32 (rk 0 0x0111 4) else s

/-- Set or clear one condition bit of FAULT.PROMISE_WHY. -/
def State.whyBit (s : State) (n : Nat) (fails : Bool) : State :=
  let v := s.rn rWhy
  let b := v / 2 ^ n % 2
  s.setWhy (if fails then (if b = 1 then v else v + 2 ^ n) else (if b = 1 then v - 2 ^ n else v))

/-- Bit 3: the fault ring is ENABLED and FAULT.RING_MISS has not moved since it was cleared. -/
def State.whyRing (s : State) : State :=
  s.whyBit 3 (!(s.rn (rk 0 0x0112 5) = 1 || s.rn (rk 0 0x0112 5) = 2) || !(s.rn rRingMiss = 0))

/-- Word 0 of a fault record, PH 0 (Table 12.8). -/
def faultWord0 (kind dev seq status aux : Nat) : W64 :=
  w64 (kind % 64 * 2 ^ 56 + dev % 16 * 2 ^ 52 + seq % 65536 * 2 ^ 32 + status % 256 * 2 ^ 24 + aux % 2 ^ 24)

/-- Post a fault record (12 R421, R422, R424). -/
def State.post (s : State) (kind status aux : Nat) (loc detail : W64) : State :=
  let r : FRec := (faultWord0 kind s.dev s.log.seq.toNat status aux, s.rd rTB, loc, detail)
  let log := { s.log with recs := Tab.set (0, 0, 0, 0) s.log.recs (1 + s.log.seq.toNat % 64) r,
                          seq := s.log.seq + 1 }
  let s := s.bump (rk 0 0x0111 1)
  if s.log.queue.length < 256 then { s with log := { log with queue := s.log.queue ++ [r] } }
  else ({ s with log := log }.bump rRingMiss).whyRing

/-! Where a logical core runs (08 R265, R267) -/

/-- MAP.TILE[v]: KIND in [1:0], physical tile in the entry's tile field. -/
def State.mapTile (s : State) (v : Nat) : W64 := s.rd (rk 0 (0x2200 + v) 0)

/-- MAP.CORE[s] of physical tile t; 0xFF none. -/
def State.mapCore (s : State) (t slot : Nat) : Nat := s.rn (rk (16 + t) 0x2401 slot)

/-! Serving a dictionary access (11 R369 to R375) -/

/-- What an entry answers: a refusal without effect, a completed access with the bytes returned, or a wait. -/
inductive Reply where
  | refuse (st : Status)
  | done (st : Status) (data : Bytes) (s : State)
  | wait (w : Wait) (s : State)

/-- An access to an entry, on the state it is served in. -/
abbrev Act := State → Reply

/-- Refuse with the lowest code of the conditions that hold, or else act (00 R17). -/
def guardAct (cs : List (Bool × Status)) (s : State) (f : State → Reply) : Reply :=
  if pickAll cs = .ok then f s else .refuse (pickAll cs)

/-- A write completed with OK. -/
def okAct (s : State) : Reply := .done .ok [] s

/-- The refusals of the path and the stage that do not depend on the entry's own state (11 R392, 12 R400). -/
def State.gate (s : State) (p : Path) (idx sub : Nat) : Bool :=
  let identity := decide (idx ≤ 0xFF)
  let open_ := idx = 0x3000 && decide (1 ≤ sub) && decide (sub ≤ 3)
  let session := (p == .hkc) || (s.path p).session.isSome || identity || open_
  let early := decide (idx ≤ 0x03FF) || (decide (0x3000 ≤ idx) && decide (idx ≤ 0x3003)) ||
    (decide (0x3100 ≤ idx) && decide (idx ≤ 0x3120))
  session && (s.boot.stage == .noon || early)

/-- Leave the answer of path p's operation for DICT_OP_COMPLETE. -/
def State.answer (s : State) (n : Nat) (st : Status) (hkc : Bool) (data : Bytes) : State :=
  s.updPathN n fun q => { q with op := some (.answered st hkc data) }

/-- DICT.WIN_OVERRUN. -/
def rWinOverrun : Nat := rk 0 0x3003 4

/-- Serve one access on a path: a path that serves an operation drops the access and counts it (11 R375);
    otherwise the entry's own answer and the path's and the stage's refusals combine under 00 R17. -/
def serve (p : Path) (hkc : Bool) (idx sub : Nat) (act : Act) (s : State) : State :=
  let st0 : Status := if s.gate p idx sub then .ok else .state
  match act s with
  | .refuse st => s.answer (sender p) (Status.pick st st0) hkc []
  | .done st d t => if st0 = .ok then t.answer (sender p) st hkc d else s.answer (sender p) (Status.pick st st0) hkc []
  | .wait w t => if st0 = .ok then t.updPath p fun q => { q with op := some (.waiting w) }
      else s.answer (sender p) .state hkc []

/-- What the issuer writes into the path's window to start an operation, and BUSY and DONE at its start (11 R374, R375). -/
def State.openWindow (s : State) (p : Path) (addr ctl : W64) (data : Bytes) : State :=
  s.updPath p fun q =>
    { q with
      addr := addr, ctl := ctl, data := data ++ q.data.drop data.length,
      status := w64 (q.status.toNat % 2 ^ 32 + 2 ^ 33) }

/-- ADDR for an entry of this device. -/
def addrOf (idx sub : Nat) : W64 := w64 (idx % 65536 * 65536 + sub % 256 * 256 + 0xF0)

/-- CTL with an operation, a tag and a length. -/
def ctlOf (op tag len : Nat) : W64 := w64 (tag % 256 * 65536 + op % 8 * 8192 + len % 8192)

/-- Serve an operation whose window is set: held while the HKC that serves it does not run or its domain is not ON
    (11 R371). -/
def serveOp (p : Path) (hkc : Bool) (op idx sub : Nat) (data : Bytes) (act : Act) (s : State) : State :=
  if hkc && !s.hkcUp then
    (s.updPath p fun q => { q with op := some (.waiting (.hkc op idx sub data)) }).wake 88 8
  else serve p hkc idx sub act s

/-- An operation of a path on an entry: refused while the path is busy, held while the HKC that serves it does
    not run or its domain is not ON, and served otherwise (11 R371, R373, R375). -/
def operate (p : Path) (hkc : Bool) (op idx sub : Nat) (data : Bytes) (act : Act) (s : State) : State :=
  if !s.boot.refclk then s
  else if (s.path p).op.isSome then s.bump32 rWinOverrun
  else serveOp p hkc op idx sub data act (s.openWindow p (addrOf idx sub) (ctlOf op 0 data.length) data)

/-- The operation of path number n that waits for w ends with status st. -/
def State.finish (s : State) (n : Nat) (w : Wait) (hkc : Bool) (st : Status) : State :=
  if (s.pathN n).op = some (.waiting w) then s.answer n st hkc [] else s

/-- The sender numbers of every path of the device. -/
def senders : List Nat := [1, 2, 3, 8, 9, 10, 11, 12, 13, 14, 15]

end Sys2Proof.Machine
end

