-- ==== Sys2Proof/Machine/CoreMem.lean ====
section
/-! DEFINITION. What stands where in the window of a core (03 Tables 3.1, 3.2, 3.5, 3.14 to 3.17; 04 Tables 4.1
    to 4.4, 4.9; 06 Tables 6.2 to 6.4), the window counters, the shadow copies, and a write into the window
    (03 R88 to R90, R482, R483; 04 R161; 06 R187). -/

namespace Sys2Proof.Machine

/-! Window offsets -/

def aNST : Nat := 0x10000
def aDST : Nat := 0x14000
def aLRN : Nat := 0x18000
def aSTB : Nat := 0x1C000
def aCFG : Nat := 0x1C800
def aQM : Nat := 0x1D000

/-- CFG counters (Table 3.14). -/
def aSAT : Nat := 0x1C808
def aFIRES : Nat := 0x1C810
def aACCUM : Nat := 0x1C818
def aBEATS : Nat := 0x1C820
def aSTALLS : Nat := 0x1C828
def aSTALLINFO : Nat := 0x1C830
def aW2RSV : Nat := 0x1C838
def aWDROP : Nat := 0x1C840
def aBADREC : Nat := 0x1C848
def aINBUFHWM : Nat := 0x1C850
def aRESIDUE : Nat := 0x1C858
/-- SYN header counters (Table 4.1). -/
def aAXMISS : Nat := 0x0040
def aTGTMISS : Nat := 0x0048
/-- LRN words (Table 6.2). -/
def aPRE : Nat := 0x1B000
def aPOST : Nat := 0x1B400
def aLSET : Nat := 0x1BC00
def aEBITS : Nat := 0x1BE00
def aFBITS : Nat := 0x1BE80
def aLRNCTL : Nat := 0x1BF80
def aLASTEPOCH : Nat := 0x1BF88
def aDSAT : Nat := 0x1BF90
def aTSAT : Nat := 0x1BF98
def aWSAT : Nat := 0x1BFA0
def aRSAT : Nat := 0x1BFA8
def aNSAT : Nat := 0x1BFB0
def aZSUM : Nat := 0x1BFB8
def aMODEV : Nat := 0x1BFC0
def aMODSAT : Nat := 0x1BFC8
def aMISSED : Nat := 0x1BFD0
def aMNBEATS : Nat := 0x1BFD8
def aMOD : Nat := 0x1BFE0

/-- The unlisted bytes of a core's memories read as the reset contents do. -/
def Core.rd64 (c : Core) (a : Nat) : W64 := c.mem.rd64 a
/-- Read a word of the window as a number. -/
def Core.rn (c : Core) (a : Nat) : Nat := (c.rd64 a).toNat
/-- Write a 64-bit word of the window. -/
def Core.wr64 (c : Core) (a : Nat) (v : W64) : Core := { c with mem := c.mem.wr64 a v }
/-- Read a byte of the window. -/
def Core.rdB (c : Core) (a : Nat) : Nat := (c.mem.rd a).toNat
/-- Write a byte of the window. -/
def Core.wrB (c : Core) (a v : Nat) : Core := { c with mem := c.mem.wr a (BitVec.ofNat 8 v) }
/-- Read the signed 32-bit number at a. -/
def Core.rdI32 (c : Core) (a : Nat) : Int := (c.mem.rd32 a).toInt
/-- Write a signed 32-bit number at a. -/
def Core.wrI32 (c : Core) (a : Nat) (v : Int) : Core := { c with mem := c.mem.wr32 a (w32 v) }

/-- Count n happenings in a window counter of w bits (00 R13). -/
def Core.count (c : Core) (w a n : Nat) : Core :=
  if n = 0 then c else c.wr64 a (w64 (satAdd w (c.rn a) n))

/-- Count one happening in a 32-bit window counter. -/
def Core.tick (c : Core) (a : Nat) : Core := c.count 32 a 1

/-! CFG fields -/

/-- CORE_CTL. -/
def Core.ctl (c : Core) : W64 := c.rd64 0x1C900
/-- CFG.STB_BASE. -/
def Core.stbBase (c : Core) : Nat := fld c.ctl 31 24
/-- CFG.STB_LEN. -/
def Core.stbLen (c : Core) : Nat := fld c.ctl 23 15
/-- CFG.STALL_LIMIT. -/
def Core.stallLimit (c : Core) : Nat := fld c.ctl 63 32
/-- The core is a learning core (06 R182). -/
def Core.learns (c : Core) : Bool := bit c.ctl 12
/-- CFG.SPILL. -/
def Core.spill (c : Core) : W64 := c.rd64 0x1C908
/-- Flits that the input buffer and its spill area hold (03 R111). -/
def Core.bufCap (c : Core) : Nat := 64 + 512 * fld c.spill 6 0
/-- Where in the TSM the next flit of a full input buffer is spilled: the spill area is a ring of 8-byte words from
    SPILL_BASE (03 R111; the order of its words is a DESIGN CHOICE, log 13); none while the buffer has room. -/
def Core.spillAt (c : Core) : Option Nat :=
  if c.inbuf.length < 64 then none
  else some (fld c.spill 15 7 * 0x1000 + 8 * (c.spillPos % (512 * fld c.spill 6 0)))
/-- The input buffer takes one more flit, or its spill area does; CFG.INBUF_HWM follows (03 R111). -/
def Core.hold (c : Core) (q : Copy) : Core :=
  let t := { c with
    inbuf := c.inbuf ++ [{ q with spill := c.spillAt }],
    spillPos := if c.spillAt.isSome then (c.spillPos + 1) % (512 * fld c.spill 6 0) else c.spillPos }
  if t.rn aINBUFHWM < t.inbuf.length then t.wr64 aINBUFHWM (w64 t.inbuf.length) else t

/-- The STB entry at index i. -/
def Core.stb (c : Core) (i : Nat) : W64 := c.rd64 (aSTB + 8 * (i % 256))
/-- The operation word at PC. -/
def Core.word (c : Core) : W64 := c.stb c.pc.toNat
/-- The opcode of an operation word (Table 3.12). -/
def opcode (w : W64) : Nat := fld w 63 60

/-! Regions, neurons and parameter sets -/

/-- A region of NST: its word, the first neuron of it, and the NST offset of its first record (03 R91). -/
structure Region where
  w     : W64
  first : Nat
  base  : Nat
deriving DecidableEq, Repr

/-- MODEL: 0 LIF-G, 1 DELTA, 2 ACC, 3 RELAY. -/
def Region.model (r : Region) : Nat := fld r.w 63 62
/-- COUNT, which is 0 for a region with EN = 0. -/
def Region.count (r : Region) : Nat := if bit r.w 61 then fld r.w 56 44 else 0
/-- PSET of an ACC or RELAY region. -/
def Region.pset (r : Region) : Nat := fld r.w 60 57
/-- RCONN of an ACC region. -/
def Region.rconn (r : Region) : Nat := fld r.w 43 28
/-- Bytes of one record (Table 3.3). -/
def recSize (model : Nat) : Nat := if model ≤ 1 then 8 else if model = 2 then 4 else 2

/-- Lay the regions out in region order: each covers the next COUNT neurons, and its records begin at the next
    multiple of 8 bytes (03 R91). -/
def layRegions : Nat → Nat → List W64 → List Region
  | _, _, [] => []
  | first, base, w :: t =>
    let r : Region := { w := w, first := first, base := base }
    r :: layRegions (first + r.count) ((base + r.count * recSize r.model + 7) / 8 * 8) t

/-- The four regions of a core. -/
def Core.regions (c : Core) : List Region :=
  layRegions 0 0 [c.rd64 0x1C910, c.rd64 0x1C918, c.rd64 0x1C920, c.rd64 0x1C928]

/-- Neurons in the enabled regions. -/
def Core.neurons (c : Core) : Nat := (c.regions.map Region.count).sum

/-- The region of neuron n. -/
def Core.regionOf (c : Core) (n : Nat) : Option Region :=
  c.regions.find? fun r => decide (r.first ≤ n) && decide (n < r.first + r.count)

/-- Window offset of neuron n's record in region r. -/
def Region.addr (r : Region) (n : Nat) : Nat := aNST + r.base + (n - r.first) * recSize r.model

/-- Parameter set word i. -/
def Core.pset (c : Core) (i : Nat) : W64 := c.rd64 (0x1C880 + 8 * (i % 16))

/-- VAL of a LIF-G, DELTA or ACC neuron. -/
def Core.val (c : Core) (r : Region) (n : Nat) : Int :=
  c.rdI32 (r.addr n + (if r.model ≤ 1 then 4 else 0))
/-- Set VAL of a LIF-G, DELTA or ACC neuron. -/
def Core.setVal (c : Core) (r : Region) (n : Nat) (v : Int) : Core :=
  c.wrI32 (r.addr n + (if r.model ≤ 1 then 4 else 0)) v

/-- A LIF-G or DELTA record's low half (Table 3.4). -/
def Core.record (c : Core) (r : Region) (n : Nat) : W64 := c.rd64 (r.addr n)
/-- PSET of neuron n. -/
def Core.psetOf (c : Core) (r : Region) (n : Nat) : Nat :=
  if r.model ≤ 1 then fld (c.record r n) 31 28 else r.pset

/-- The parameter set of a synapse's target that has one for learning: a LIF-G, DELTA or ACC neuron (06 R184). -/
def Core.learnSet (c : Core) (n : Nat) : Option Nat :=
  match c.regionOf n with
  | some r => if r.model = 3 then none else some (c.psetOf r n)
  | none => none

/-- A LIF-G parameter set passes Table 3.6. -/
def lifOk (p : W64) : Bool :=
  let theta := fld p 63 32
  let pmode := fld p 22 21
  let rmode := fld p 20 19
  let kind := fld p 18 17
  let vmax := fld p 16 10
  let psh := fld p 9 5
  decide (1 ≤ theta) && decide (theta < 2 ^ 31) && decide (pmode ≠ 3) && decide (rmode ≠ 3) &&
  decide (kind ≠ 3) &&
  (if pmode = 0 then decide (kind = 0)
   else if pmode = 1 then decide (kind ≠ 0) && decide (1 ≤ vmax) && decide (vmax ≤ if kind = 1 then 7 else 127)
   else decide (kind ≠ 0) && decide (2 ^ psh < 2 * theta) && decide (rmode ≠ 1))

/-- A DELTA parameter set passes Table 3.6. -/
def deltaOk (p : W64) : Bool :=
  let theta := fld p 63 32
  let kind := fld p 18 17
  let psh := fld p 9 5
  (decide (kind = 1) || decide (kind = 2)) && decide (fld p 22 21 = 0) && decide (fld p 20 19 = 0) &&
  decide (fld p 31 27 = 0) && decide (psh ≤ 24) && decide (2 ^ psh < 2 * theta) && decide (theta < 2 ^ 31)

/-- A parameter set passes the rows of Table 3.6 for a model (03 R485). -/
def psetOk (model : Nat) (p : W64) : Bool := if model = 0 then lifOk p else deltaOk p

/-! Header sets and axons -/

/-- SETn.TABLE of the set of a generation bit. -/
def Core.table (c : Core) (g : Bool) : W64 := c.rd64 (if g then 0x20 else 0x00)
/-- SETn.PLASTIC. -/
def Core.plastic (c : Core) (g : Bool) : W64 := c.rd64 (if g then 0x28 else 0x08)
/-- AXT_COUNT. -/
def axCount (t : W64) : Nat := fld t 63 51
/-- AXT_BASE. -/
def axBase (t : W64) : Nat := fld t 50 38
/-- DOFF. -/
def dOff (t : W64) : Nat := fld t 37 27

/-- A byte of SYN; past its end the value is open (log 12). -/
def Core.syn (c : Core) (a : Nat) : Nat := if a < 0x10000 then c.rdB a else (Config.beyond a).toNat
/-- Write a byte of SYN; past its end nothing is written (log 12). -/
def Core.setSyn (c : Core) (a v : Nat) : Core := if a < 0x10000 then c.wrB a v else c

/-- Axon entry a of the set with TABLE word t (04 R136). -/
def Core.axon (c : Core) (t : W64) (a : Nat) : W64 :=
  w64 (leNat ((List.range 8).map fun i => BitVec.ofNat 8 (c.syn (8 * (axBase t + a) + i))))

/-- FMT of an axon entry. -/
def axFmt (e : W64) : Nat := fld e 63 62
/-- WID. -/
def axWid (e : W64) : Nat := fld e 61 60
/-- PL. -/
def axPl (e : W64) : Bool := bit e 59
/-- LEN. -/
def axLen (e : W64) : Nat := fld e 58 46
/-- TBASE. -/
def axTbase (e : W64) : Nat := fld e 45 34
/-- ROWOFF. -/
def axRow (e : W64) : Nat := fld e 33 21
/-- PIDX. -/
def axPidx (e : W64) : Nat := fld e 20 7

/-- Bits of one row element: the weight width for DENSE, 16 or 32 for SPARSE (04 R141, R142). -/
def axBits (e : W64) : Nat := if axFmt e = 0 then widBits (axWid e) else if axWid e = 3 then 32 else 16

/-- Row elements in one 64-byte span (03 Table 3.9, 04 R143). -/
def axPerSpan (e : W64) : Nat := 512 / axBits e

/-- Element k of a row: its target neuron and its weight code. -/
def Core.synapse (c : Core) (e : W64) (k : Nat) : Nat × Nat :=
  let a := 8 * axRow e
  if axFmt e = 0 then
    let b := widBits (axWid e)
    (axTbase e + k, c.syn (a + k * b / 8) / 2 ^ (k * b % 8) % 2 ^ b)
  else if axWid e = 3 then
    let w := leNat ((List.range 4).map fun i => BitVec.ofNat 8 (c.syn (a + 4 * k + i)))
    (axTbase e + w / 2 ^ 8 % 2 ^ 12, w % 2 ^ 8)
  else
    let w := c.syn (a + 2 * k) + 256 * c.syn (a + 2 * k + 1)
    (axTbase e + w / 16, w % 16)

/-- Put weight code v into element k of a row: the weight bits only (06 R201). -/
def Core.setWeight (c : Core) (e : W64) (k v : Nat) : Core :=
  let b := widBits (axWid e)
  let pos := if axFmt e = 0 then k * b else if axWid e = 3 then 32 * k else 16 * k
  let a := 8 * axRow e + pos / 8
  let sh := pos % 8
  let old := c.syn a
  c.setSyn a (old - old / 2 ^ sh % 2 ^ b * 2 ^ sh + v % 2 ^ b * 2 ^ sh)

/-- Elements first … of span number i of a row. -/
def spanElems (e : W64) (i : Nat) : List Nat :=
  (List.range (axPerSpan e)).map (fun l => i * axPerSpan e + l) |>.filter (fun k => decide (k < axLen e))

/-- Spans of a row: ⌈LEN / elements per span⌉ (03 R113, 04 R143). -/
def axSpans (e : W64) : Nat := (axLen e + axPerSpan e - 1) / axPerSpan e

/-- Entries of a span that name a neuron an earlier entry of it names; each takes one further beat (04 R143). -/
def dupCount : List Nat → Nat
  | [] => 0
  | n :: t => (if t.contains n then 1 else 0) + dupCount t

/-- Beats of span i of a row (03 R113, 04 R143). -/
def Core.spanBeats (c : Core) (e : W64) (i : Nat) : Nat :=
  if axFmt e = 0 then 1 else 1 + dupCount ((spanElems e i).map fun k => (c.synapse e k).1)

/-- The elements of one SPARSE span by beats: those whose neuron no earlier entry of the span names share the first
    beat, and each other entry takes a further one, in order (04 R143). -/
def Core.sparseBeats (c : Core) (e : W64) (l : List Nat) : List (List Nat) :=
  let again := fun k => (l.takeWhile fun j => decide (j ≠ k)).any fun j =>
    decide ((c.synapse e j).1 = (c.synapse e k).1)
  (l.filter fun k => !again k) :: (l.filter again).map fun k => [k]

/-- The elements of a row by beats (03 R113, 04 R143). -/
def Core.beatElems (c : Core) (e : W64) : List (List Nat) :=
  (List.range (axSpans e)).flatMap fun i =>
    if axFmt e = 0 then [spanElems e i] else c.sparseBeats e (spanElems e i)

/-! The shadow copies (02 R80) -/

/-- The window words that are shadowed: PSET, CORE_CTL, SPILL, REGION and DENSE of CFG, the four header words of
    SYN, and LSET and LRN_CTL of LRN (03 Table 3.14, 04 Table 4.1, 06 Table 6.2). -/
def shadowed (a : Nat) : Bool :=
  (decide (0x1C880 ≤ a) && decide (a < 0x1C930)) || (decide (0x1CA00 ≤ a) && decide (a < 0x1CC00)) ||
  a = 0x00 || a = 0x08 || a = 0x20 || a = 0x28 ||
  (decide (aLSET ≤ a) && decide (a < aEBITS)) || a = aLRNCTL

/-- Put a list of shadow copies into force. -/
def Core.force (c : Core) (l : Tab (Option W64)) : Core :=
  l.foldl (fun c e => match e.2 with | some v => c.wr64 e.1 v | none => c) c

/-- The core with its shadow copies put into force. -/
def Core.applied (c : Core) : Core := { c with shadow := [] }.force c.shadow

/-- The word at a as the next commit would leave it. -/
def Core.pend64 (c : Core) (a : Nat) : W64 :=
  match Tab.get none c.shadow a with
  | some v => v
  | none =>
    match Tab.get none (c.due.getD []) a with
    | some v => v
    | none => c.rd64 a

/-- Shadow copies l over the older ones m. -/
def shadowOver (l m : Tab (Option W64)) : Tab (Option W64) :=
  l.foldl (fun t e => match e.2 with | some v => Tab.set none t e.1 (some v) | none => t) m

/-! Window counters and read-only words -/

/-- The width of the counter whose word stands at a, or none (03 R483). -/
def counterWidth (a : Nat) : Option Nat :=
  if a = aFIRES ∨ a = aACCUM then some 64
  else if a = aSAT ∨ a = aSTALLS ∨ a = aW2RSV ∨ a = aWDROP ∨ a = aBADREC ∨ a = aINBUFHWM ∨ a = aRESIDUE ∨
      a = aAXMISS ∨ a = aTGTMISS ∨ a = aDSAT ∨ a = aTSAT ∨ a = aWSAT ∨ a = aRSAT ∨ a = aNSAT ∨ a = aZSUM ∨
      a = aMODEV ∨ a = aMODSAT ∨ a = aMISSED then some 32
  else none

/-- The words that the maps mark RO, and the reserved range of the window (03 R89, R482). -/
def readOnly (a : Nat) : Bool :=
  a = aCFG || a = aBEATS || a = aSTALLINFO || (decide (0x1C860 ≤ a) && decide (a < 0x1C880)) ||
  (decide (0x1C930 ≤ a) && decide (a < 0x1CA00)) || (decide (0x1CE00 ≤ a) && decide (a < 0x1D000)) ||
  a = 0x10 || a = 0x18 || a = 0x30 || a = 0x38 || (decide (0x50 ≤ a) && decide (a < 0x80)) ||
  a = aLASTEPOCH || a = aMNBEATS || (decide (aMOD ≤ a) && decide (a < 0x1C000)) || decide (0x1E000 ≤ a)

/-- The word at a lies in the plastic area of a header set in force (04 R161). -/
def Core.inPlastic (c : Core) (inForce : List Bool) (a : Nat) : Bool :=
  inForce.any fun g =>
    let p := c.plastic g
    let lo := 8 * fld p 63 51
    decide (lo ≤ a) && decide (a < lo + 8 * fld p 50 38)

/-- The write changes an axon entry of a set in force whose present or new value has PL = 1 (06 R187). -/
def Core.hitsPlasticAxon (c : Core) (inForce : List Bool) (a : Nat) (v : W64) : Bool :=
  inForce.any fun g =>
    let t := c.table g
    decide (8 * axBase t ≤ a) && decide (a < 8 * (axBase t + axCount t)) && (axPl (c.rd64 a) || axPl v)

/-- Whether the word write of v at a is dropped while the core learns and runs, or always (03 R90, R482; 04
    R161; 06 R187; 07 R222 for QM is kept by the queue rules). -/
def Core.dropsWord (c : Core) (inForce : List Bool) (a : Nat) (v : W64) : Bool :=
  let running := c.state = .running
  readOnly a ||
  (running && decide (aSTB + 8 * c.stbBase ≤ a) && decide (a < aSTB + 8 * (c.stbBase + c.stbLen))) ||
  (running && decide (a < 0x10000) && c.learns && c.inPlastic inForce a) ||
  (running && decide (a < 0x10000) && c.learns && c.hitsPlasticAxon inForce a v) ||
  (running && c.learns && decide (aLRN ≤ a) && decide (a < aLSET)) ||
  (running && c.learns && decide (aEBITS ≤ a) && decide (a < aLRNCTL))

/-- Write the merged word v at a: a shadowed word goes to the shadow, a counter is cleared or kept, a dropped
    word is lost, and any other word lands (03 R88, R123, R482, R483). The flag says the word was lost. -/
def Core.putWord (c : Core) (inForce : List Bool) (a : Nat) (v : W64) : Core × Bool :=
  if c.dropsWord inForce a v then (c, true)
  else if shadowed a then ({ c with shadow := Tab.set none c.shadow a (some v) }, false)
  else match counterWidth a with
    | some w => if v.toNat % 2 ^ w = 0 then (c.wr64 a 0, false) else (c, true)
    | none => (c.wr64 a v, false)

/-- Replace the bytes of word w at a by those of the write (off, data) that fall in it (03 R88). -/
def mergeWord (w : W64) (a off : Nat) (data : Bytes) : W64 :=
  w64 (leNat ((List.range 8).map fun i =>
    let p := a + i
    if off ≤ p ∧ p < off + data.length then data.getD (p - off) 0
    else BitVec.ofNat 8 (w.toNat / 2 ^ (8 * i) % 256)))

/-- The words that a write of n bytes at off touches, lowest first. -/
def wordsOf (off n : Nat) : List Nat :=
  if n = 0 then [] else (List.range ((off + n - 1) / 8 - off / 8 + 1)).map fun i => (off / 8 + i) * 8

end Sys2Proof.Machine
end

