-- ==== Sys2Proof/Machine/Fire.lean ====
section
/-! DEFINITION. The fire unit (03 R98 to R109): visits, firings, readouts and forwards, on one core. What a
    firing, readout or forward still has to emit is left as a job of the emitter. -/

namespace Sys2Proof.Machine

/-- What the fire unit sees of the step engine: the open step, and whether STEP.MODE is FREE-RUN. The flight is
    the flit whose copy caused the firing (02 R61; 0 none); `pass` marks what the step-table pass caused. -/
structure FireCtx where
  step   : W64
  free   : Bool
  flight : Nat
  pass   : Bool

/-- The tag of the open step (02 R45). -/
def FireCtx.tag (x : FireCtx) : Nat := x.step.toNat % 4

/-- Leave the destination list DPTR to DPTR + DLEN − 1 to the emitter; a list that runs past entry 2,047 ends
    there and counts in CFG.BADREC (03 R95, R109). -/
def Core.startJob (c : Core) (x : FireCtx) (n dptr dlen : Nat) (value : Int) (shift : Nat) (counted : Bool) :
    Core :=
  if dlen = 0 then c
  else
    let c := if 2048 < dptr + dlen then c.tick aBADREC else c
    let j : Job :=
      { neuron := n, readout := false, handle := 0, value := w32 value, shift := shift, pos := dptr,
        stop := min (dptr + dlen) 2048, step := x.step, flight := x.flight, pass := x.pass,
        counted := counted }
    { c with jobs := c.jobs ++ [j] }

/-- Hand one readout on connection `handle` to the emitter (03 R107). -/
def Core.startReadout (c : Core) (x : FireCtx) (n handle : Nat) (value : Int) : Core :=
  let j : Job :=
    { neuron := n, readout := true, handle := BitVec.ofNat 16 handle, value := w32 value, shift := 0,
      pos := 0, stop := 1, step := x.step, flight := x.flight, pass := x.pass, counted := true }
  { c with jobs := c.jobs ++ [j] }

/-- Blocked in the step of tag t: FV = 1 with FTAG = t, or REFR > 0 (03 R98). -/
def blockedRec (w : W64) (t : Nat) : Bool :=
  (bit w 23 && decide (fld w 22 21 = t)) || decide (0 < fld w 27 24)

/-- What a LIF-G neuron at membrane v does under parameter set p: its new membrane, its payload, and whether
    the firing was limited; none when v < θ (03 R103, Table 3.7). -/
def lifOut (p : W64) (v : Int) : Option (Int × Int × Bool) :=
  let theta : Int := (fld p 63 32 : Nat)
  if v < theta then none
  else
    let pmode := fld p 22 21
    let x := if pmode = 0 then 1 else if pmode = 1 then v / theta else rneShr v (fld p 9 5)
    let cap : Int := if pmode = 1 then (fld p 16 10 : Nat) else kindMax (fld p 18 17)
    let out := if cap < x then cap else x
    let rmode := fld p 20 19
    let v' := if rmode = 0 then 0 else if rmode = 1 then v - out * theta else v
    some (v', out, decide (out ≠ x) || (decide (rmode = 1) && decide (theta ≤ v')))

/-- What a DELTA neuron at residual r does under parameter set p; none when |r| < θ (03 R106). -/
def deltaOut (p : W64) (r : Int) : Option (Int × Int × Bool) :=
  let theta : Int := (fld p 63 32 : Nat)
  if r < theta ∧ -r < theta then none
  else
    let kind := fld p 18 17
    let x := rneShr r (fld p 9 5)
    let out := clamp (kindMin kind) (kindMax kind) x
    some (r - out * ((2 ^ fld p 9 5 : Nat) : Int), out, decide (out ≠ x))

/-- A firing of a learning core adds QINC to the neuron's post-trace and sets its FBITS bit (06 R189). -/
def Core.postTrace (c : Core) (n pset : Nat) : Core :=
  if c.learns ∧ n < 2048 then
    let qinc := fld (c.rd64 (aLSET + 32 * pset)) 45 38
    let q := c.rdB (aPOST + n) + qinc
    let c := c.wrB (aPOST + n) (min q 255)
    let c := if 255 < q then c.tick aTSAT else c
    let b := c.rdB (aFBITS + n / 8)
    c.wrB (aFBITS + n / 8) (if b / 2 ^ (n % 8) % 2 = 1 then b else b + 2 ^ (n % 8))
  else c

/-- Try to fire LIF-G or DELTA neuron n of region r (03 R98, R101, R103, R106, R112, R485). -/
def Core.tryFire (c : Core) (x : FireCtx) (r : Region) (n : Nat) : Core :=
  let w := c.record r n
  let ps := fld w 31 28
  let p := c.pset ps
  if blockedRec w x.tag then c
  else if !psetOk r.model p then c.tick aBADREC
  else
    match (if r.model = 0 then lifOut p (c.val r n) else deltaOut p (c.val r n)) with
    | none => c
    | some (v, out, limited) =>
      let w := putFld (putFld (putFld w 27 24 (fld p 26 23)) 23 23 1) 22 21 x.tag
      let c := (c.wr64 (r.addr n) w).setVal r n v
      let c := c.count 64 aFIRES 1
      let c := if limited then c.tick aSAT else c
      (c.postTrace n ps).startJob x n (fld w 20 10) (fld w 9 0) out 0 true

/-- Step 1 of a FIRE visit: clear a stale FV, then count REFR down (03 R99). -/
def visitRec (w : W64) (t : Nat) : W64 :=
  if bit w 23 && decide (fld w 22 21 = t) then w
  else
    let w := putFld w 23 23 0
    if 0 < fld w 27 24 then putFld (putFld (putFld w 27 24 (fld w 27 24 - 1)) 23 23 1) 22 21 t else w

/-- A FIRE visit to neuron n of region r (03 R99, R107); no effect on a RELAY neuron. -/
def Core.fireVisit (c : Core) (x : FireCtx) (r : Region) (n : Nat) : Core :=
  if r.model ≤ 1 then
    (c.wr64 (r.addr n) (visitRec (c.record r n) x.tag)).tryFire x r n
  else if r.model = 2 then
    let v := c.val r n
    let p := c.pset r.pset
    let c := if r.rconn ≠ 0xFFFF ∧ (bit p 3 = false ∨ v ≠ 0) then c.startReadout x n r.rconn v else c
    if bit p 4 then c.setVal r n 0 else c
  else c

/-- A LEAK visit (03 R105). -/
def Core.leakVisit (c : Core) (r : Region) (n : Nat) : Core :=
  if r.model = 0 then
    let k := fld (c.pset (fld (c.record r n) 31 28)) 31 27
    if k = 0 then c else c.setVal r n (c.val r n - asr (c.val r n) k)
  else c

/-- Visit neurons first … first + count − 1 in order, skipping those beyond the enabled neurons or 4,095 (R484). -/
def Core.visits (f : Core → Region → Nat → Core) (first count : Nat) (c : Core) : Core :=
  (List.range count).foldl (fun c i =>
    if 4096 ≤ first + i then c
    else match c.regionOf (first + i) with
      | some r => f c r (first + i)
      | none => c) c

/-- The range passes the enabled neurons or neuron 4,095 (03 R484). -/
def Core.rangeBad (c : Core) (first count : Nat) : Bool :=
  decide (0 < count) && (decide (c.neurons < first + count) || decide (4096 < first + count))

/-- The contribution d reaches LIF-G, DELTA or ACC neuron n of region r: VAL = sat32(VAL + d), a limited sum
    counted in CFG.SAT, and under FREE-RUN a try to fire (02 R44, R57; 03 R100). -/
def Core.arrive (c : Core) (x : FireCtx) (r : Region) (n : Nat) (d : Int) : Core :=
  let v := c.val r n + d
  let c := c.setVal r n (sat32 v)
  let c := if sat32 v = v then c else c.tick aSAT
  if x.free ∧ r.model ≤ 1 then c.tryFire x r n else c

/-- A RELAY neuron forwards a contribution that reaches it through a nonzero weight (03 R108). -/
def Core.relay (c : Core) (x : FireCtx) (r : Region) (n : Nat) (w value : Int) (shift : Nat) : Core :=
  if w = 0 then c
  else
    let w16 := c.mem.rdN (r.addr n) 2
    let v := w * value
    let out := clamp (-128) 127 v
    let c := if out = v then c else c.tick aSAT
    c.startJob x n (w16 % 2048) (w16 / 2048) out shift (decide (out ≠ v))

end Sys2Proof.Machine
end

