-- ==== Sys2Proof/Machine/Array.lean ====
section
/-! DEFINITION. The multiply-accumulate array: one event copy applied to its row (02 R44, 03 R113, R114, 04 R134 to
    R144, 06 R188, R193), and a DENSE-BLOCK operation (03 R115, 05 R170 to R177). -/

namespace Sys2Proof.Machine

/-- AXON of a flit. -/
def flAxon (f : W64) : Nat := fld f 35 24
/-- TAG. -/
def flTag (f : W64) : Nat := fld f 61 60
/-- CGEN. -/
def flCgen (f : W64) : Bool := bit f 59
/-- SPAN. -/
def flSpan (f : W64) : Nat := fld f 58 56
/-- DEV. -/
def flDev (f : W64) : Nat := fld f 55 52
/-- LCID. -/
def flLcid (f : W64) : Nat := fld f 51 36
/-- SHIFT. -/
def flShift (f : W64) : Nat := fld f 23 20
/-- VALUE, signed. -/
def flValue (f : W64) : Int := sx 8 (fld f 19 12)

/-- The learning set whose modulator the axon carries, on a learning core with MODEN = 1 (06 R193). -/
def Core.modulator (c : Core) (a : Nat) : Option Nat :=
  let l := c.rd64 aLRNCTL
  let base := fld l 60 49
  if c.learns ∧ bit l 61 ∧ base ≤ a ∧ a < base + 16 then some (a - base) else none

/-- A modulator copy adds into MACC[s] and counts in MODEV and CFG.ACCUM (06 R193). -/
def Core.addMacc (c : Core) (s : Nat) (d : Int) : Core :=
  let c := { c with macc := Tab.upd 0 c.macc s fun m => w32 (sat32 (m.toInt + d)) }
  (c.tick aMODEV).count 64 aACCUM 1

/-- One lane: element k of row e reaches its target with contribution w × VALUE × 2^SHIFT; a target at or beyond
    the enabled neurons counts in TGTMISS and decodes no weight (03 R114, 04 R144). -/
def Core.lane (c : Core) (x : FireCtx) (e : W64) (value : Int) (shift : Nat) (k : Nat) : Core :=
  let (n, code) := c.synapse e k
  match c.regionOf n with
  | none => c.tick aTGTMISS
  | some r =>
    let (w, rsv) := weightOf (axWid e) code
    let c := if rsv then c.tick aW2RSV else c
    if r.model = 3 then c.relay x r n w value shift
    else c.arrive x r n (w * value * ((2 ^ shift : Nat) : Int))

/-- One beat of an event: its lanes, counted in BEATS (03 R113). -/
def Core.eventBeat (c : Core) (x : FireCtx) (e : W64) (value : Int) (shift : Nat) (l : List Nat) : Core :=
  l.foldl (fun c k => c.lane x e value shift k) (c.count 64 aBEATS 1)

/-- The beats of a row one after another, up to the beat with a residue mismatch, whose writes are discarded
    (03 R117, 04 R137, R143). -/
def Core.spans (c : Core) (x : FireCtx) (e : W64) (value : Int) (shift : Nat) (bad : Option Nat) : Core :=
  let l := c.beatElems e
  (l.take (bad.getD l.length)).foldl (fun c l => c.eventBeat x e value shift l) c

/-- A plastic copy of the core's own generation raises the pre-trace of its axon and sets its EBITS bit (06 R188). -/
def Core.preTrace (c : Core) (a : Nat) : Core :=
  if 1024 ≤ a then c
  else
    let q := c.rdB (aPRE + a) + fld (c.rd64 aLRNCTL) 48 41
    let c := c.wrB (aPRE + a) (min q 255)
    let c := if 255 < q then c.tick aTSAT else c
    let b := c.rdB (aEBITS + a / 8)
    c.wrB (aEBITS + a / 8) (if b / 2 ^ (a % 8) % 2 = 1 then b else b + 2 ^ (a % 8))

/-- What comes of the lookup of an event copy (04 R134 to R136): it is done, or row e is to be applied. -/
def Core.lookup (c : Core) (f : W64) : Core × Option W64 :=
  match c.modulator (flAxon f) with
  | some s => (c.addMacc s (flValue f * ((2 ^ flShift f : Nat) : Int)), none)
  | none =>
    let c := c.count 64 aACCUM 1
    let t := c.table (flCgen f)
    if axCount t ≤ flAxon f then (c.tick aAXMISS, none)
    else
      let e := c.axon t (flAxon f)
      if 2 ≤ axFmt e then (c.tick aAXMISS, none) else (c, some e)

/-- What follows the last beat of a copy whose row is e: the pre-trace of a plastic one (06 R188). -/
def Core.afterRow (c : Core) (f e : W64) (learns : Bool) : Core :=
  if learns ∧ axPl e ∧ flCgen f = c.cgen then c.preTrace (flAxon f) else c

/-- Apply one event copy (04 R134 to R144); `bad` counts the beats before a residue mismatch. The flag says that one
    stopped the copy. -/
def Core.applyCopy (c : Core) (x : FireCtx) (f : W64) (bad : Option Nat) : Core × Bool :=
  match c.lookup f with
  | (c, none) => (c, false)
  | (c, some e) =>
    let c' := c.spans x e (flValue f) (flShift f) bad
    if bad.any fun b => decide (b < (c.beatElems e).length) then (c', true)
    else (c'.afterRow f e c.learns, false)

/-! DENSE-BLOCK -/

/-- A dense descriptor (05 Tables 5.4 to 5.7). -/
structure DenseD where
  fmt     : Nat
  wid     : Nat
  xsrc    : Bool
  omode   : Nat
  relu    : Bool
  biasEn  : Bool
  xshift  : Nat
  oshift  : Nat
  k       : Nat
  m       : Nat
  woff    : Nat
  xaddr   : Nat
  oaddr   : Nat
  paddr   : Nat
  baddr   : Nat
  nb      : Nat
  xstride : Nat
  ostride : Nat
  rsvd    : Bool
deriving DecidableEq, Repr

/-- Read the four words of a dense descriptor. -/
def denseOf (w0 w1 w2 w3 : W64) : DenseD :=
  { fmt := fld w0 63 62, wid := fld w0 61 60, xsrc := bit w0 59, omode := fld w0 58 57, relu := bit w0 56,
    biasEn := bit w0 55, xshift := fld w0 54 50, oshift := fld w0 49 45, k := fld w0 44 32, m := fld w0 31 19,
    woff := fld w1 63 51, xaddr := fld w1 50 30, oaddr := fld w1 29 9, paddr := fld w2 63 43,
    baddr := fld w2 42 22, nb := fld w3 63 51, xstride := fld w3 50 38, ostride := fld w3 37 25,
    rsvd := decide (fld w0 18 0 ≠ 0) || decide (fld w1 8 0 ≠ 0) || decide (fld w2 21 0 ≠ 0) ||
      decide (fld w3 24 0 ≠ 0) }

/-- Dense descriptor d of the core, the copy in force. -/
def Core.dense (c : Core) (d : Nat) : DenseD :=
  let a := 0x1CA00 + 32 * (d % 16)
  denseOf (c.rd64 a) (c.rd64 (a + 8)) (c.rd64 (a + 16)) (c.rd64 (a + 24))

/-- Outputs per beat: 64, 32, 16 or 8 for W1, W2, W4, W8 (Table 3.11). -/
def DenseD.g (d : DenseD) : Nat := 64 / widBits d.wid
/-- Input blocks ⌈K / 8⌉. -/
def DenseD.ib (d : DenseD) : Nat := (d.k + 7) / 8
/-- Output blocks ⌈M / G⌉. -/
def DenseD.ob (d : DenseD) : Nat := (d.m + d.g - 1) / d.g

/-- A core at work on TSM, and the counts of one DENSE operation. -/
structure DenseSt where
  c   : Core
  tsm : Mem

/-- VAL of neuron n; where no neuron with a VAL stands, which a commit refuses in a descriptor it checks, the value is
    open (DESIGN CHOICE, log 77). -/
def Core.valAt (c : Core) (n : Nat) : Int :=
  match c.regionOf n with
  | some r => if r.model = 3 then (Config.noVal n).toInt else c.val r n
  | none => (Config.noVal n).toInt

/-- TSM holds 2 MiB; what lies past it in a descriptor that no commit has checked reads as an open value, and is not
    written (DESIGN CHOICE, log 77). -/
def tsmByte (m : Mem) (a : Nat) : Byte := if a < 0x200000 then m.rd a else Config.beyond a
/-- The int32 at TSM offset a. -/
def tsmInt (m : Mem) (a : Nat) : Int :=
  if a + 4 ≤ 0x200000 then (m.rd32 a).toInt else sx 32 (leNat ((List.range 4).map fun i => tsmByte m (a + i)))
/-- Write the int32 at TSM offset a. -/
def tsmPut (m : Mem) (a : Nat) (v : Int) : Mem := if a + 4 ≤ 0x200000 then m.wr32 a (w32 v) else m

/-- Input i of batch item b before the limit to int8 (05 R172). -/
def DenseSt.input (s : DenseSt) (d : DenseD) (b i : Nat) : Int :=
  if d.k ≤ i then 0
  else
    let n := d.xaddr + b * d.xstride + i
    if d.xsrc then rneShr (s.c.valAt n) d.xshift else sx 8 (tsmByte s.tsm n).toNat

/-- Weight code for output o of the block and input j of the input block (05 R171). -/
def DenseSt.code (s : DenseSt) (d : DenseD) (ob cb o j : Nat) : Nat :=
  let b := widBits d.wid
  let seg := 8 * d.woff + 64 * (ob * d.ib + cb)
  let pos := b * (8 * o + j)
  s.c.syn (seg + pos / 8) / 2 ^ (pos % 8) % 2 ^ b

/-- The sum of products of one output in one beat. -/
def dot (d : DenseD) (codes : List Nat) (xs : List Int) : Int :=
  (codes.zip xs).foldl (fun a p => a + (weightOf d.wid p.1).1 * p.2) 0

/-- One beat: the 8 inputs of block cb against the weights of output block ob (03 R115). The accumulators of the
    block's outputs that lie below M change; every lane decodes its weight. -/
def DenseSt.beat (d : DenseD) (b ob cb : Nat) (p : DenseSt × List Int) : DenseSt × List Int :=
  let s := p.1
  let raw := (List.range 8).map fun j => s.input d b (8 * cb + j)
  let xs := raw.map sat8
  let lim := if d.xsrc then (raw.filter fun v => decide (sat8 v ≠ v)).length else 0
  let rows := (List.range d.g).map fun o => (List.range 8).map fun j => s.code d ob cb o j
  let rsv := (rows.map fun r => (r.filter fun q => (weightOf d.wid q).2).length).sum
  let sums := (p.2.zip rows).map fun q => q.1 + dot d q.2 xs
  let lims := ((sums.zip (List.range d.g)).filter fun q =>
    decide (d.g * ob + q.2 < d.m) && decide (sat32 q.1 ≠ q.1)).length
  let c := ((s.c.count 64 aBEATS 1).count 32 aW2RSV rsv).count 32 aSAT (lim + lims)
  ({ s with c := c }, sums.map sat32)

/-- Write output o of batch item b from its accumulator (05 R173, R174). An output that names no neuron with a VAL, or
    lies past TSM, is not written: a commit refuses such a descriptor (DESIGN CHOICE, log 77). -/
def DenseSt.output (x : FireCtx) (d : DenseD) (b o : Nat) (acc : Int) (s : DenseSt) : DenseSt :=
  let y := rneShr acc d.oshift
  let y := if d.relu ∧ y < 0 then 0 else y
  let n := d.oaddr + b * d.ostride + o
  if d.omode = 3 then
    let c := if sat8 y = y then s.c else s.c.tick aSAT
    { c := c, tsm := if n < 0x200000 then s.tsm.wr n (BitVec.ofNat 8 (enc 8 (sat8 y))) else s.tsm }
  else
    match (s.c.regionOf n).filter fun r => decide (r.model ≠ 3) with
    | none => s
    | some r =>
      let pa := d.paddr + 4 * (b * d.m + o)
      let sum := if d.omode = 0 then y
        else if d.omode = 1 then s.c.val r n + y
        else s.c.val r n + (y - tsmInt s.tsm pa)
      let c := s.c.setVal r n (sat32 sum)
      let c := if sat32 sum = sum then c else c.tick aSAT
      let c := if x.free ∧ r.model ≤ 1 then c.tryFire x r n else c
      { c := c, tsm := if d.omode = 2 then tsmPut s.tsm pa y else s.tsm }

/-- The accumulators of an output block at its start: the bias, or 0 (05 R173). -/
def DenseSt.start (s : DenseSt) (d : DenseD) (ob : Nat) : List Int :=
  (List.range d.g).map fun l =>
    let o := d.g * ob + l
    if d.biasEn ∧ o < d.m then tsmInt s.tsm (d.baddr + 4 * o) else 0

/-- The TSM words that the start of output block ob of batch item b reads: the bias (12 R418). -/
def DenseD.biasReads (d : DenseD) (ob : Nat) : List Nat :=
  if d.biasEn then (List.range (min d.g (d.m - d.g * ob))).map fun l => d.baddr + 4 * (d.g * ob + l) else []

/-- The TSM words that beat cb of batch item b reads: its inputs. -/
def DenseD.inReads (d : DenseD) (b cb : Nat) : List Nat :=
  if d.xsrc then []
  else ((List.range 8).filter fun j => decide (8 * cb + j < d.k)).map fun j => d.xaddr + b * d.xstride + 8 * cb + j

/-- The TSM words that the end of output block ob of batch item b reads: PREV. -/
def DenseD.prevReads (d : DenseD) (b ob : Nat) : List Nat :=
  if d.omode = 2 then (List.range (min d.g (d.m - d.g * ob))).map fun l => d.paddr + 4 * (b * d.m + d.g * ob + l)
  else []

/-- How a beat of a DENSE operation ended: it goes on, its last output is written, or it met a poisoned TSM word. -/
inductive DenseEnd where
  | more | done | poison
deriving DecidableEq, Repr

/-- Output blocks of the whole operation. -/
def DenseD.blocks (d : DenseD) : Nat := d.nb * d.ob

/-- The outputs of a block are written when its last beat ends (05 R173). -/
def DenseSt.finish (x : FireCtx) (d : DenseD) (b ob : Nat) (acc : List Int) (s : DenseSt) : DenseSt :=
  ((acc.zip (List.range d.g)).filter fun q => decide (d.g * ob + q.2 < d.m)).foldl
    (fun s q => s.output x d b (d.g * ob + q.2) q.1) s

/-- The next beat of the operation in progress r: item by item, block by block, input block by input block (05 R171,
    R173). A beat that reads a poisoned TSM word does nothing (12 R418); an operation of no input blocks writes its
    outputs without a beat. -/
def DenseSt.step (x : FireCtx) (d : DenseD) (poison : List Nat) (r : DenseRun) (s : DenseSt) : DenseSt × DenseEnd :=
  if d.blocks ≤ r.block then (s, .done)
  else
    let b := r.block / d.ob
    let ob := r.block % d.ob
    let last := decide (d.ib ≤ r.beat + 1)
    let reads := (if r.beat = 0 then d.biasReads ob else []) ++ d.inReads b r.beat ++
      (if last then d.prevReads b ob else [])
    if reads.any fun a => poison.contains (a / 8 * 8) then (s, .poison)
    else
      let acc := if r.beat = 0 then s.start d ob else r.acc
      let p := if d.ib = 0 then (s, acc) else DenseSt.beat d b ob r.beat (s, acc)
      if last then
        let s := p.1.finish x d b ob p.2
        ({ s with c := { s.c with dn := some { block := r.block + 1, beat := 0, acc := [] } } },
          if d.blocks ≤ r.block + 1 then .done else .more)
      else ({ p.1 with c := { p.1.c with dn := some { r with beat := r.beat + 1, acc := p.2 } } }, .more)

/-- The operation in progress on the core, or its start. -/
def Core.denseRun (c : Core) : DenseRun := c.dn.getD { block := 0, beat := 0, acc := [] }

/-- The next beat of the core's DENSE operation. -/
def DenseSt.next (x : FireCtx) (d : DenseD) (poison : List Nat) (s : DenseSt) : DenseSt × DenseEnd :=
  s.step x d poison s.c.denseRun

/-- At most n beats, until the operation is done or meets a poisoned word. -/
def denseBeats (x : FireCtx) (d : DenseD) (poison : List Nat) : Nat → DenseSt → DenseSt × DenseEnd
  | 0, s => (s, if d.blocks ≤ s.c.denseRun.block then .done else .more)
  | n + 1, s =>
    match s.next x d poison with
    | (s, .more) => denseBeats x d poison n s
    | e => e

/-- The beats of an event with one DENSE beat between two of them: the array alternates (03 R116). A beat that would
    meet a poisoned word is left to the DENSE operation's own next beat. -/
def DenseSt.mixed (x y : FireCtx) (d : DenseD) (poison : List Nat) (e : W64) (value : Int) (shift : Nat) :
    List (List Nat) → DenseSt → DenseSt
  | [], s => s
  | [l], s => { s with c := s.c.eventBeat x e value shift l }
  | l :: t, s =>
    let s := { s with c := s.c.eventBeat x e value shift l }
    DenseSt.mixed x y d poison e value shift t (s.next y d poison).1

/-- Apply an event copy while a DENSE operation is in progress and CFG.ARB alternates the beats (03 R116). -/
def DenseSt.applyMixed (s : DenseSt) (x y : FireCtx) (d : DenseD) (poison : List Nat) (f : W64) (bad : Option Nat) :
    DenseSt × Bool :=
  match s.c.lookup f with
  | (c, none) => ({ s with c := c }, false)
  | (c, some e) =>
    let l := c.beatElems e
    let s := DenseSt.mixed x y d poison e (flValue f) (flShift f) (l.take (bad.getD l.length)) { s with c := c }
    if bad.any fun b => decide (b < l.length) then (s, true)
    else ({ s with c := s.c.afterRow f e c.learns }, false)

end Sys2Proof.Machine
end

