-- ==== Sys2Proof/Machine/LearnCore.lean ====
section
/-! DEFINITION. Learning inside one core: the TRACE sweep and decay (06 R191), the modulator latch (06 R194) and
    the MIDNIGHT arithmetic (06 R199 to R203). -/

namespace Sys2Proof.Machine

/-- LSETs word 0, the copy in force (06 Table 6.3). -/
def Core.lset (c : Core) (s : Nat) : W64 := c.rd64 (aLSET + 32 * s)

/-- Bit i of a bit array of the window (06 R186). -/
def Core.bitAt (c : Core) (a i : Nat) : Bool := decide (c.rdB (a + i / 8) / 2 ^ (i % 8) % 2 = 1)

/-- Clear bit i of a bit array of the window. -/
def Core.clearBit (c : Core) (a i : Nat) : Core :=
  if c.bitAt a i then c.wrB (a + i / 8) (c.rdB (a + i / 8) - 2 ^ (i % 8)) else c

/-- The plastic rows among axons lo … lo + n − 1 of the header set that STATUS.CGEN names, in axon order. -/
def Core.plasticRows (c : Core) (lo n : Nat) : List (Nat × W64) :=
  let t := c.table c.cgen
  (((List.range n).map fun i => lo + i).filter fun a => decide (a < axCount t)).map (fun a => (a, c.axon t a))
    |>.filter fun p => axPl p.2 && decide (axFmt p.2 < 2)

/-- The term of the rule menu (06 Table 6.5) for axon a, target n and learning set s. -/
def Core.term (c : Core) (a n s : Nat) : Int :=
  let l := c.lset s
  let aplus : Int := (fld l 53 50 : Nat)
  let aminus : Int := (fld l 49 46 : Nat)
  let pre : Int := if a < 1024 then (c.rdB (aPRE + a) : Nat) else 0
  let e : Int := if a < 1024 ∧ c.bitAt aEBITS a then 1 else 0
  let post : Int := if n < 2048 then (c.rdB (aPOST + n) : Nat) else 0
  let f : Int := if n < 2048 ∧ c.bitAt aFBITS n then 1 else 0
  let md : Int := sx 8 (c.rdB (aMOD + s))
  let stdp := aplus * f * pre - aminus * e * post
  match fld l 61 58 with
  | 1 => stdp
  | 2 => e * (aplus * post - aminus)
  | 3 => md * stdp
  | 4 => md * aplus * pre
  | _ => 0

/-- Window offset of DACC[p]. -/
def aDacc (p : Nat) : Nat := aLRN + p

/-- Add the term of synapse k of row (a, e) to its DACC with sat8 (06 R191). -/
def Core.sweepOne (a : Nat) (e : W64) (c : Core) (k : Nat) : Core :=
  let (n, _) := c.synapse e k
  let p := axPidx e + k
  match c.learnSet n with
  | none => c
  | some s =>
    if 12288 ≤ p then c
    else
      let v := sx 8 (c.rdB (aDacc p)) + c.term a n s
      let c := c.wrB (aDacc p) (enc 8 (sat8 v))
      if sat8 v = v then c else c.tick aDSAT

/-- Stage 1 of TRACE: every plastic row of the range in ascending axon order; indices at or beyond the enabled
    neurons, or beyond 4,095, are skipped (03 R484). -/
def Core.sweep (c : Core) (first count : Nat) : Core :=
  ((c.plasticRows first count).filter fun row => decide (row.1 < c.neurons) && decide (row.1 < 4096)).foldl
    (fun c row => (List.range (axLen row.2)).foldl (Core.sweepOne row.1 row.2) c) c

/-- Stage 2 of TRACE for one index: decay the traces and clear the bits (06 R191). -/
def Core.decayOne (c : Core) (i : Nat) : Core :=
  let pdec := fld (c.rd64 aLRNCTL) 40 33
  let c := if i < 1024 then (c.wrB (aPRE + i) (c.rdB (aPRE + i) - pdec)).clearBit aEBITS i else c
  if i < 2048 then
    let c := match c.learnSet i with
      | some s => c.wrB (aPOST + i) (c.rdB (aPOST + i) - fld (c.lset s) 37 30)
      | none => c
    c.clearBit aFBITS i
  else c

/-- A TRACE operation over FIRST to FIRST + COUNT − 1; no effect on a core that does not learn (06 R182, R191). -/
def Core.traceOp (c : Core) (first count : Nat) : Core :=
  if c.learns then
    let c := c.sweep first count
    (List.range count).foldl (fun c i =>
      if first + i < c.neurons ∧ first + i < 4096 then c.decayOne (first + i) else c) c
  else c

/-- The modulator latch at SETTLE (06 R194). -/
def Core.latchMod (c : Core) : Core :=
  if c.learns then
    let c := (List.range 16).foldl (fun c s =>
      let m := (Tab.get 0 c.macc s).toInt
      let c := c.wrB (aMOD + s) (enc 8 (clamp (-128) 127 m))
      if clamp (-128) 127 m = m then c else c.tick aMODSAT) c
    { c with macc := [] }
  else c

/-! MIDNIGHT -/

/-- Stage 2 for synapse k: fold DACC into the weight, clear it, and add |w| to the target's sum (06 R200). -/
def Core.foldOne (e : W64) (p : Core × Tab Nat) (k : Nat) : Core × Tab Nat :=
  let c := p.1
  let (n, code) := c.synapse e k
  let i := axPidx e + k
  match c.learnSet n with
  | none => p
  | some s =>
    let l := c.lset s
    let (w, rsv) := weightOf (axWid e) code
    let c := if rsv then c.tick aW2RSV else c
    let d := if i < 12288 then rneShr (sx 8 (c.rdB (aDacc i))) (fld l 56 54) else 0
    let x := w + d
    let v := satW (axWid e) x
    let c := c.setWeight e k (enc (widBits (axWid e)) v)
    let c := if v = x then c else c.tick aWSAT
    let c := if i < 12288 then c.wrB (aDacc i) 0 else c
    -- an entry holds sum + 1, so that a zero sum is an entry too
    (c, if bit l 57 then Tab.put p.2 n (max (Tab.get 0 p.2 n) 1 + v.natAbs) else p.2)

/-- Stage 3: the ratio of each summed target, kept plus one; no entry for a zero sum (06 R200). -/
def Core.ratios (p : Core × Tab Nat) : Core × Tab Nat :=
  p.2.foldl (fun q en =>
    let c := q.1
    let sum := en.2 - 1
    if sum = 0 then (c.tick aZSUM, q.2)
    else
      match c.learnSet en.1 with
      | none => q
      | some s =>
        let r := rneDiv (fld (c.lset s) 29 10 * 2 ^ 14) sum
        (if 65535 < r then c.tick aRSAT else c, Tab.put q.2 en.1 (min r 65535 + 1))) (p.1, [])

/-- Stage 4 for synapse k: rescale the weight by its target's ratio (06 R200). -/
def Core.rescaleOne (e : W64) (ratio : Tab Nat) (c : Core) (k : Nat) : Core :=
  let (n, code) := c.synapse e k
  let r := Tab.get 0 ratio n
  if r = 0 then c
  else
    let x := rneShr ((weightOf (axWid e) code).1 * ((r - 1 : Nat) : Int)) 14
    let v := satW (axWid e) x
    let c := c.setWeight e k (enc (widBits (axWid e)) v)
    if v = x then c else c.tick aNSAT

/-- Spans of the rows and the beats that duplicates add to one stage (06 R203). -/
def Core.rowBeats (c : Core) (rows : List (Nat × W64)) : Nat × Nat :=
  rows.foldl (fun p row =>
    let n := axSpans row.2
    (p.1 + n, p.2 + (((List.range n).map (c.spanBeats row.2)).sum - n))) (0, 0)

/-- The plastic rows that MIDNIGHT walks, in ascending axon order (06 R199). -/
def Core.nightRows (c : Core) : List (Nat × W64) := c.plasticRows 0 4096

/-- Change the progress of MIDNIGHT. -/
def Core.setNight (c : Core) (n : NightRun) : Core := { c with night := n }

/-- MIDNIGHT processes its next row: stage 2 on each row, the ratios of stage 3 after the last of them, and stage 4 on
    each row again (06 R199, R200). -/
def Core.nightRow (rows : List (Nat × W64)) (c : Core) : Core :=
  let n := c.night
  match rows[n.row]? with
  | some row =>
    let p := (List.range (axLen row.2)).foldl (Core.foldOne row.2) (c, n.sums)
    if n.row + 1 = rows.length then
      let q := Core.ratios p
      q.1.setNight { row := n.row + 1, sums := p.2, ratio := q.2 }
    else p.1.setNight { n with row := n.row + 1, sums := p.2 }
  | none =>
    match rows[n.row - rows.length]? with
    | some row =>
      ((List.range (axLen row.2)).foldl (Core.rescaleOne row.2 n.ratio) c).setNight { n with row := n.row + 1 }
    | none => c

/-- MIDNIGHT processes its next k rows. -/
def Core.nightRowsStep (rows : List (Nat × W64)) : Nat → Core → Core
  | 0, c => c
  | k + 1, c => Core.nightRowsStep rows k (c.nightRow rows)

/-- Every row of both stages has been processed. -/
def Core.nightAll (c : Core) : Bool := decide (2 * c.nightRows.length ≤ c.night.row)

/-- Stage 5: LAST_EPOCH takes the low 32 bits of LRN.EPOCH and MN_BEATS the beats; the input is released (06 R199,
    R203). -/
def Core.nightOff (c : Core) (epoch : Nat) : Core :=
  let s := c.rowBeats c.nightRows
  let beats := 2 * s.1 + (c.night.sums.length + 7) / 8 + 16 + 2 * s.2
  { ((c.wr64 aLASTEPOCH (w64 (epoch % 2 ^ 32))).wr64 aMNBEATS (w64 beats)) with midnight := false, night := .start }

/-- A core whose LAST_EPOCH is behind LRN.EPOCH (06 R204). -/
def Core.epochGap (c : Core) (epoch : Nat) : Nat :=
  (epoch % 2 ^ 32 + 2 ^ 32 - c.rn aLASTEPOCH % 2 ^ 32) % 2 ^ 32

end Sys2Proof.Machine
end

