-- ==== Sys2Proof/Machine/CoreOps.lean ====
section
/-! DEFINITION. What the cores and the NIs share: the place of a logical core on silicon (08 R265, R267), counting
    a flit in ACC when all it caused has ended (02 R61), items handed to a mesh node, the end of an awaited item
    (02 R78), descriptor-slot status (03 R121), and a core that enters FENCED (03 R126, 04 R158). -/

namespace Sys2Proof

open Machine

/-- The device an item is for. -/
def Item.ddev (own : Nat) : Item → Nat
  | .event _ _ f => flDev f
  | .record r => r.ddev
  | .desc d => d.ddev
  | .contrib c => c.dev
  | .lanes _ d _ _ _ => d
  | .sum _ _ d _ _ _ _ => d
  | .data _ d _ _ => d
  | .msg m => m.ddev
  | .vc2 d _ => d
  | .drain d => d
  | .mark _ _ _ => own
  | .frag i _ _ => i.ddev own
  | .transit _ i => i.ddev own
  | .park _ _ _ _ => own
  | .parkDesc _ _ _ _ => own

/-- The tag under which an item counts for step closure (02 Table 2.6): events and records do, nothing else. -/
def Item.tag : Item → Option Nat
  | .event _ _ f => some (flTag f)
  | .record r => some (r.step.toNat % 4)
  | .transit _ i => i.tag
  | _ => none

/-- The identity that a step-table FENCE may await (02 R78); 0 none. -/
def Item.ident : Item → Nat
  | .event id _ _ => id
  | .record r => r.id
  | .desc d => d.id
  | .contrib c => c.id
  | .park id _ _ _ => id
  | .parkDesc _ _ _ d => d.id
  | .frag i _ last => if last then i.ident else 0
  | _ => 0

/-! The flits of a packet (08 R252, R254; 11 R381, Table 11.10; log 11) -/

/-- A byte string as 8-byte words, its end padded with zeros. -/
def byteWords (b : Bytes) : List W64 :=
  (List.range ((b.length + 7) / 8)).map fun k => w64 (leNat ((b.drop (8 * k)).take 8))

/-- Lanes as words, two to a word. -/
def laneWords (vs : List W32) : List W64 := byteWords (vs.map fun v => leBytes 4 v.toNat).flatten

/-- The words of a VC1 or VC3 message behind its header flit; a VC3 message begins with the number of its bytes. -/
def Item.body : Item → List W64
  | .desc d | .parkDesc _ _ _ d => [d.words.1, d.words.2.1, d.words.2.2.1, d.words.2.2.2]
  | .contrib c => laneWords c.lanes
  | .lanes _ _ _ _ vs | .sum _ _ _ _ _ _ vs => laneWords vs
  | .park _ _ f _ => [f]
  | .data _ _ _ b => byteWords b
  | .msg m => w64 (m.body.length % 2 ^ 13) :: byteWords m.body
  | _ => []

/-- The header flit of packet `seg` of a VC1 or VC3 message (Table 11.10 for VC3). -/
def Item.head (seg : Nat) (last : Bool) : Item → W64
  | .msg m =>
    w64 (m.mkind % 16 * 2 ^ 60 + m.sdev % 16 * 2 ^ 56 + m.ddev % 16 * 2 ^ 52 + (if last then 2 ^ 49 else 0) +
      seg % 512 * 2 ^ 40 + m.tag.toNat * 2 ^ 32 + m.idx % 65536 * 2 ^ 16 + m.sub % 256 * 2 ^ 8 + m.op % 256)
  | i => Config.vc1Head i seg

/-- The payload flits of an item. -/
def Item.words : Item → List W64
  | .event _ _ f => [f]
  | .record r => [Config.recordFlit r]
  | .vc2 _ ws => ws
  | .drain _ | .mark _ _ _ => [0]
  | .transit _ i => i.words
  | .frag i k last => i.head k last :: (i.body.drop (7 * k)).take 7
  | i => i.head 0 true :: i.body

/-- The message that a part belongs to; any other item itself. -/
def Item.whole : Item → Item
  | .frag i _ _ => i
  | i => i

/-- An item that its last packet, or its only one, carries. -/
def Item.closes : Item → Bool
  | .frag _ _ last => last
  | _ => true

/-- Payload flits of an item. -/
def Item.flits (i : Item) : Nat := i.words.length

/-- Payload flits of a list of items. -/
def flitsOf (l : List Item) : Nat := (l.map Item.flits).sum

/-- A message of more than seven body words, as the parts that its packets carry. -/
def Item.cut (i : Item) : List Item :=
  let n := (i.body.length + 6) / 7
  if n ≤ 1 then [i] else (List.range n).map fun k => .frag i k (decide (k + 1 = n))

end Sys2Proof

namespace Sys2Proof.Machine

/-! Places -/

/-- KIND of MAP.TILE[v]: 0 NONE, 1 RESIDENT, 2 PARKED (08 Table 8.11). -/
def State.tileKind (s : State) (v : Nat) : Nat := fld (s.mapTile v) 15 14
/-- PTILE of MAP.TILE[v]. -/
def State.tilePt (s : State) (v : Nat) : Nat := fld (s.mapTile v) 13 7
/-- The physical tile where virtual tile v is RESIDENT. -/
def State.resident (s : State) (v : Nat) : Option Nat :=
  if v < 512 ∧ s.tileKind v = 1 then some (s.tilePt v) else none

/-- The physical tile that a swap takes virtual tile v out of, until its copy has ended (09 R315). -/
def State.swapFrom (s : State) (v : Nat) : Option Nat :=
  match s.swap with
  | some w =>
    if w.vt = v ∧ (w.stage = .drain ∨ w.stage = .freeze ∨ w.stage = .copyOut) then some w.pt else none
  | none => none

/-- The physical tile that serves virtual tile v: where it is RESIDENT, or what a swap still takes it out of. -/
def State.servedBy (s : State) (v : Nat) : Option Nat :=
  match s.resident v with
  | some t => some t
  | none => s.swapFrom v

/-- The virtual tile that physical tile t serves: its NI goes on serving the former one until a map write has
    drained (08 R266), and one that a swap takes out until the copy has ended. -/
def State.vtOf (s : State) (t : Nat) : Option Nat :=
  match s.drains.find? fun d => decide (d.old = t) with
  | some d => some d.v
  | none =>
    match s.swap.filter fun w => decide (s.swapFrom w.vt = some t) with
    | some w => some w.vt
    | none => (List.range 512).find? fun v => decide (s.tileKind v = 1) && decide (s.tilePt v = t)

/-- The physical core that serves core slot `slot` of physical tile t. -/
def State.coreOf (s : State) (t slot : Nat) : Option Nat :=
  if s.mapCore t slot < 136 then some (136 * t + s.mapCore t slot) else none

/-- The physical core that serves LCID l (08 R265, R267). -/
def State.coreOfLcid (s : State) (l : Nat) : Option Nat :=
  (s.servedBy (l / 128)).bind fun t => s.coreOf t (l % 128)

/-- The core slot that physical core k of its tile serves. -/
def State.slotOf (s : State) (k : Nat) : Option Nat :=
  (List.range 128).find? fun sl => decide (s.mapCore (k / 136) sl = k % 136)

/-- The LCID that physical core k serves. -/
def State.lcidOf (s : State) (k : Nat) : Option Nat :=
  (s.vtOf (k / 136)).bind fun v => (s.slotOf k).map fun sl => 128 * v + sl

/-- The tile's cores run: its domain is ON and no swap has frozen it (09 R315, 13 R446). -/
def State.tileLive (s : State) (t : Nat) : Bool :=
  s.domUp t && !(match s.swap with | some w => w.frozen && decide (w.pt = t) | none => false)

/-- NI counters of physical tile t (08 R273). -/
def niCtr (t sub : Nat) : Nat := rk (176 + t) 0x2121 sub
/-- FENCE_DROP of physical tile t. -/
def rFenceDrop (t : Nat) : Nat := niCtr t 0x09

/-! Items and flights -/

/-- Hand an item to mesh node n on virtual channel v. -/
def State.inject (s : State) (n v : Nat) (i : Item) : State :=
  s.updNode n fun d => { d with out := Tab.upd [] d.out v (· ++ i.cut) }

/-- Take the first entry of identity `id` out of the items awaited. -/
def eraseId (id : Nat) : List (Nat × Nat) → List (Nat × Nat)
  | [] => []
  | p :: l => if p.1 = id then l else p :: eraseId id l

/-- One part of the item of identity `id` has reached its end, or been counted as lost or dropped (02 R78). -/
def State.itemEnd (s : State) (id : Nat) : State := { s with live := eraseId id s.live }

/-- Await an item that core k handed to its NI. -/
def State.await (s : State) (id k : Nat) : State := { s with live := s.live ++ [(id, k)] }

/-- A copy of the awaited item `id` goes a way of its own, which the item's end waits for as well (02 R78). -/
def State.itemFork (s : State) (id : Nat) : State :=
  match s.live.find? fun p => decide (p.1 = id) with
  | some p => { s with live := s.live ++ [p] }
  | none => s

/-- An item has been dropped, diverted or lost by mesh node n: counted in ACC, and no longer awaited (02 R62, R78). -/
def State.itemGone (s : State) (n : Nat) (i : Item) : State :=
  let s := match i.tag with | some t => s.addAcc n t 1 | none => s
  s.itemEnd i.ident

/-- k of what flight f still waits for has ended; the last one counts the flit in ACC (02 R61). -/
def State.flightEnd (s : State) (f k : Nat) : State :=
  if f = 0 ∨ k = 0 then s
  else
    let (node, tag, left) := Tab.get (0, 0, 0) s.flights f
    if left ≤ k then { s.addAcc node tag 1 with flights := Tab.erase s.flights f }
    else { s with flights := Tab.put s.flights f (node, tag, left - k) }

/-- Flight f waits for k more. -/
def State.flightMore (s : State) (f k : Nat) : State :=
  if f = 0 ∨ k = 0 then s
  else
    let (node, tag, left) := Tab.get (0, 0, 0) s.flights f
    { s with flights := Tab.put s.flights f (node, tag, left + k) }

/-- One of the parts of flight f has become n parts. -/
def State.flightSplit (s : State) (f n : Nat) : State :=
  if n = 0 then s.flightEnd f 1 else s.flightMore f (n - 1)

/-! Descriptor slots (03 R121, Table 3.14) -/

/-- Window offset of DSLOTn. -/
def aDslot (n : Nat) : Nat := 0x1CC00 + 32 * (n % 16)
/-- Window offset of DSLOT_STn. -/
def aDslotSt (n : Nat) : Nat := 0x1CE00 + 8 * (n % 16)

/-- Set the status of slot n, VALID if given, and BUSY. -/
def Core.setSlot (c : Core) (n : Nat) (st : Status) (valid : Option Bool) (busy : Bool) : Core :=
  let w := c.rd64 (aDslotSt n)
  let v := match valid with | some b => b | none => bit w 8
  c.wr64 (aDslotSt n) (w64 (st.code + (if v then 256 else 0) + (if busy then 512 else 0)))

/-- Set BUSY of slot n, keeping its status and VALID (07 R226). -/
def Core.setBusy (c : Core) (n : Nat) : Core := c.wr64 (aDslotSt n) (putFld (c.rd64 (aDslotSt n)) 9 9 1)

/-! The pass (03 R118 to R120) -/

/-- The operation word at PC with the repetition of a REPEAT worked in: FIRST, which may pass 4,095 (03 R484),
    and the word with its DD or SLOT field advanced modulo 16. -/
def Core.opFirst (c : Core) : Nat :=
  fld c.word 59 48 + (match c.rep with | some r => r.k * r.stride | none => 0)
/-- DD or SLOT of the operation at PC. -/
def Core.opSlot (c : Core) : Nat :=
  (fld c.word 59 56 + (match c.rep with | some r => r.k * r.stride | none => 0)) % 16

/-- Move past the entry at PC; an active range without WAITSTEP ends after its last entry (03 R118, R484). -/
def Core.stepPc (c : Core) : Core :=
  if c.stbBase + c.stbLen ≤ c.pc.toNat + 1 then { (c.tick aBADREC) with pass := .release, rep := none }
  else { c with pc := c.pc + 1, pass := .run, rep := none }

/-- The operation at PC has completed: the next repetition of a REPEAT, or the next entry (03 R118, R120). -/
def Core.advance (c : Core) : Core :=
  match c.rep with
  | some r => if r.k + 1 < r.n then { c with rep := some { r with k := r.k + 1 }, pass := .run } else c.stepPc
  | none => c.stepPc

/-- The blocking episode of the stall timer ends when no blocker remains, and STALLED clears (03 R129, R130). -/
def Core.settleEpisode (c : Core) : Core :=
  let blocked := match c.pass with | .blocked _ _ _ _ => true | _ => c.emitHold
  if blocked then c else { c with stalled := false }

/-- A SEND, RECV or COMBINE of the pass blocks on a handle (03 R129, 07 R226). -/
def Core.block (c : Core) (op handle slot id : Nat) : Core :=
  ({ (c.setBusy slot) with
    pass := .blocked (BitVec.ofNat 4 op) (BitVec.ofNat 16 handle) slot id }).settleEpisode

/-- An operation on slot n ends with a status, and the pass goes on (03 R121). -/
def Core.opEnd (c : Core) (n : Nat) (st : Status) (valid : Option Bool) : Core :=
  ((c.setSlot n st valid false).advance).settleEpisode

/-- Some job of the emitter was caused by the pass. -/
def Core.passJobs (c : Core) : Bool := c.jobs.any fun j => j.pass

/-! Fencing -/

/-- Take the delay rings of core slot `sl` empty: each entry counts in FENCE_DROP only (04 R158). -/
def State.dropRings (s : State) (t sl : Nat) : State :=
  let n := ((List.range 4).map fun tag => (Tab.get { head := 0, held := 0 } (s.tile t).rings (4 * sl + tag)).held).sum
  let s := s.updTile t fun d => { d with rings := Tab.keep (fun q => decide (q / 4 ≠ sl)) d.rings }
  s.bumpBy 48 (rFenceDrop t) n

/-- Drop the copies that the NI of tile t still holds for slot sl: FENCE_DROP, and their flights end (04 R158). -/
def State.dropHeld (s : State) (t sl : Nat) : State :=
  let mine := (s.tile t).copies.filter fun q => q.slot = sl
  let rest := (s.tile t).copies.filter fun q => q.slot ≠ sl
  let s := s.updTile t fun d => { d with copies := rest }
  let ids := (mine.map Copy.id).foldl (fun l i => addNew i l) []
  let s := (ids.filter fun i => !(rest.any fun r => decide (r.id = i))).foldl (fun s i => s.itemEnd i) s
  (mine.foldl (fun s q => s.flightEnd q.flight 1) s).bumpBy 48 (rFenceDrop t) mine.length

/-! The span of a MIDNIGHT (06 R199, R203) -/

/-- LRN.MN_TIME. -/
def rMnTime : Nat := rk 0 0x4400 5
/-- LRN.MN_MAX. -/
def rMnMax : Nat := rk 0 0x4400 6

/-- Some core is in MIDNIGHT. -/
def State.midnights (s : State) : Bool := s.cores.any fun e => e.2.midnight

/-- LRN.EPOCH before this boundary's own increment. -/
def State.epochBefore (s : State) : Nat :=
  match s.eng.round with
  | some r => if r.night then s.lrn.epoch.toNat + 2 ^ 32 - 1 else s.lrn.epoch.toNat
  | none => s.lrn.epoch.toNat

/-- Core k must run MIDNIGHT at this boundary: a RUNNING learning core of a resident tile that works (06 R195, R204). A
    READY core does not, and counts the epoch as missed at its next boundary (DEDUCED, log 77). -/
def State.nightFor (s : State) (k : Nat) : Bool :=
  let c := s.core k
  let night := match s.eng.round with | some r => r.night | none => false
  c.learns && decide (c.state = .running) && s.tileLive (k / 136) && (s.vtOf (k / 136)).isSome &&
    (night || decide (c.epochGap s.epochBefore ≠ 0))

/-- A core whose pass SETTLE still waits for will run the MIDNIGHT that other cores have begun (06 R196, R199). -/
def State.nightWaits (s : State) : Bool :=
  match s.eng.round with
  | some r => r.begun && r.late.any s.nightFor
  | none => false

/-- From the start of stage 1 on the first core to the end of stage 5 on the last (06 R199). -/
def State.inNight (s : State) : Bool := s.midnights || s.nightWaits

/-- Once the span has ended LRN.MN_TIME and LRN.MN_MAX take its `ticks`, and an LRN.CMD that waited for it returns OK
    (06 R203, R209). -/
def State.nightEnd (s : State) (ticks : Nat) : State :=
  if s.inNight then s
  else
    let s := (s.bumpBy 64 rMnTime ticks).hwm rMnMax (min ticks (2 ^ 32 - 1))
    senders.foldl (fun s n => s.finish n .lrn false .ok) s

/-- What s has come to, the span having been open before it: one that ended with a core that left it has an open
    length (log 77). -/
def State.nightLeft (s : State) (was : Bool) : State :=
  if was && !s.inNight then ({ s with free := s.free + 1 }).nightEnd (Config.nightTicks s.free) else s

/-- Physical core k enters FENCED with a cause (03 R126, 04 R158): its pass and a DENSE operation or MIDNIGHT in
    progress stop where they are (05 R177, 06 R207), its buffered flits are dropped and counted in FENCE_DROP and ACC, a
    blocked operation ends ABORTED, and its slot's rings empty; a fault (causes 1 to 3) marks it (12 R410). -/
def State.fenceCore (s : State) (k cause : Nat) : State :=
  let c := s.core k
  if c.state = .fenced then s
  else
    let t := k / 136
    let was := s.inNight
    let c' := match c.pass with
      | .blocked op _ n _ => c.setSlot n .aborted (if op = 0x6 then some false else none) false
      | _ => c
    let c' : Core :=
      { c' with
        state := .fenced, cause := BitVec.ofNat 4 cause, pass := .idle, rep := none, inbuf := [], jobs := [],
        stalled := false, emitHold := false, dn := none, midnight := false, night := .start }
    let s := s.setCore k c'
    let s := if 1 ≤ cause ∧ cause ≤ 3 then { s with boot := { s.boot with markCores := addNew k s.boot.markCores } } else s
    let s := c.inbuf.foldl (fun s q => s.flightEnd q.flight 1) s
    let s := s.bumpBy 48 (rFenceDrop t) c.inbuf.length
    let s := c.jobs.foldl (fun s j => s.flightEnd j.flight 1) s
    let s := match s.slotOf k with
      | some sl => (s.dropRings t sl).dropHeld t sl
      | none => s
    s.nightLeft was

/-- The fire unit's context for what the pass causes at the open step. -/
def State.passCtx (s : State) : FireCtx := { step := s.eng.count, free := s.freeRun, flight := 0, pass := true }

/-- The step that a copy is a delivery of: the step whose tag is the tag reference, or the one before it (02 R54, R57). -/
def State.stepInto (s : State) (q : Copy) : W64 :=
  if q.into = s.eng.tagRef then s.eng.settled else s.eng.settled - 1

/-- The fire unit's context for what copy q of the input buffer causes. -/
def State.copyCtx (s : State) (q : Copy) : FireCtx :=
  { step := s.stepInto q, free := s.freeRun, flight := q.flight, pass := false }

/-- SETTLE has been issued for a step that OPEN has not yet opened, and copy q is a delivery of that step (02 R54). -/
def State.notYetOpen (s : State) (q : Copy) : Bool := s.eng.round.isSome && decide (q.into = s.eng.tagRef)

/-- Core k may apply copy q of its input buffer: not in MIDNIGHT (06 R202); at once under FREE-RUN (02 R57); under
    STEPPED once the core's pass of the step that the copy is delivered into is done, so never between SETTLE and OPEN
    of that step on a core that OPEN will run (02 R54 to R56). -/
def State.takesCopy (s : State) (k : Nat) (q : Copy) : Bool :=
  let c := s.core k
  !c.midnight && (s.freeRun ||
    (if s.notYetOpen q then decide (c.state ≠ .running ∧ c.state ≠ .ready)
     else decide (c.state ≠ .running) || c.passDone || decide (c.pass = .idle)))

/-- The oldest copy of the input buffer is ready for the array. -/
def State.eventReady (s : State) (k : Nat) : Bool :=
  match (s.core k).inbuf with
  | q :: _ => s.takesCopy k q
  | [] => false

/-- CFG.ARB: 0 alternates the beats of an event and a DENSE operation, 1 prefers events, 2 the operation (03 R116). -/
def Core.arb (c : Core) : Nat := fld c.ctl 14 13

/-- The array is granted to an event copy: while a DENSE operation is in progress under ARB 2 never, and under ARB 0
    when the operation had the last beat. -/
def Core.grantsEvent (c : Core) : Bool := c.dn.isNone || decide (c.arb = 1) || (decide (c.arb = 0) && !c.evLast)

/-- Post a RESIDUE record of core k and fence it: 0 SPARSE-EVENT, 1 DENSE-BLOCK, 2 MIDNIGHT (03 R117, 12 Table 12.9). -/
def State.residue (s : State) (k mode : Nat) : State :=
  let s := s.updCore k fun c => c.tick aRESIDUE
  let lcid := (s.lcidOf k).getD 0
  let s := s.post 2 0 0 (w64 (lcid * 2 ^ 48 + k / 136 * 2 ^ 40 + k % 136 * 2 ^ 32)) (w64 mode)
  s.fenceCore k 1

/-- The deadline policy forbids DELAY 3 (02 R48). -/
def State.delayLimit (s : State) : Nat := if s.deadlineMode then 2 else 3

/-- The target step that a diverted flit carries (09 R310): S + r, and S − 1 for a late flit under DEADLINE. -/
def State.targetStep (s : State) (f : W64) : W32 :=
  let r := (flTag f + 4 - s.eng.tagRef.toNat) % 4
  let j := s.eng.settled.toNat
  BitVec.ofNat 32 (if s.deadlineMode ∧ r = 3 then j + 2 ^ 32 - 1 else j + r)

/-- A swap-out of the tile at physical tile t drains or freezes it (09 R315). -/
def State.swappingOut (s : State) (t : Nat) : Option Nat :=
  match s.swap with
  | some w => if w.pt = t ∧ (w.stage = .drain ∨ w.stage = .freeze) then some w.vt else none
  | none => none

end Sys2Proof.Machine
end

