-- ==== Sys2Proof/Machine/Conns.lean ====
section
/-! DEFINITION. Connection contexts and descriptors (07 R211 to R226): the fields of the open record, the checks
    on a descriptor, the input queues, and what a SEND, RECV or COMBINE of a core does. -/

namespace Sys2Proof.Machine

/-- DKIND: 0 QUEUE, 1 HOST, 2 COMBINE, 3 STREAM, 4 REMOTE (07 Table 7.3). -/
def Conn.dkind (c : Conn) : Nat := fld c.recd.1 61 59
/-- SKIND: 0 CORE, 1 ANYCORE, 2 HOSTRING, 3 DMA. -/
def Conn.skind (c : Conn) : Nat := fld c.recd.1 58 56
/-- SDEV. -/
def Conn.sdev (c : Conn) : Nat := fld c.recd.1 55 52
/-- SRC. -/
def Conn.src (c : Conn) : Nat := fld c.recd.1 51 36
/-- GROUP. -/
def Conn.group (c : Conn) : Nat := fld c.recd.1 35 28
/-- RREN. -/
def Conn.rren (c : Conn) : Bool := bit c.recd.1 27
/-- RRING. -/
def Conn.rring (c : Conn) : Nat := fld c.recd.1 26 21
/-- DEST. -/
def Conn.dest (c : Conn) : Nat := fld c.recd.2.1 63 48
/-- Q. -/
def Conn.q (c : Conn) : Nat := fld c.recd.2.1 47 46
/-- RHANDLE. -/
def Conn.rhandle (c : Conn) : Nat := fld c.recd.2.1 45 30
/-- Device of a REMOTE half's destination. -/
def Conn.rdev (c : Conn) : Nat := c.dest / 2 ^ 12
/-- Ring of a HOST destination. -/
def Conn.hring (c : Conn) : Nat := c.dest / 2 ^ 10
/-- Number 16 v + queue of a COMBINE destination (07 R228). -/
def Conn.combNo (c : Conn) : Nat := c.dest / 2 ^ 3
/-- Context of a STREAM destination. -/
def Conn.stream (c : Conn) : Nat := c.dest / 2 ^ 9
/-- The destination kind a source sees: its own, or what a REMOTE half learnt from its peer (07 R218). -/
def Conn.edkind (c : Conn) : Nat := if c.dkind = 4 then c.rdkind.toNat else c.dkind
/-- LANES of the combining queue, as a count less one. -/
def Conn.elanes (c : Conn) : Nat := if c.dkind = 4 then c.rlanes.toNat else fld c.recd.2.2.1 50 47

/-- Handle of context i (07 R211). -/
def Conn.handle (c : Conn) (i : Nat) : BitVec 16 := BitVec.ofNat 16 (c.gen.toNat * 4096 + i)

/-- The generation after a close: modulo 16, but context 4,095 passes from 14 to 0 (07 R213). -/
def nextGen (i : Nat) (g : BitVec 4) : BitVec 4 := if i = 4095 ∧ g = 14 then 0 else g + 1

/-- The OPEN of a REMOTE half still awaits its peer: nobody holds its handle yet (07 R217). -/
def Conn.opening (c : Conn) : Bool := decide (c.state = .opn) && c.path.isSome

/-- The context that a handle names, when it is not free and the generation agrees (07 R213). -/
def State.connOf (s : State) (h : Nat) : Option Nat :=
  let i := h % 4096
  let c := s.conn i
  if c.state ≠ .free ∧ c.gen.toNat = h / 4096 ∧ !c.opening then some i else none

/-! Descriptors (07 Table 7.5) -/

/-- Four words read as 32 bytes, word 0 lowest. -/
def descBytes (w : W64 × W64 × W64 × W64) : Bytes :=
  leBytes 8 w.1.toNat ++ leBytes 8 w.2.1.toNat ++ leBytes 8 w.2.2.1.toNat ++ leBytes 8 w.2.2.2.toNat

/-- 32 bytes read as four words. -/
def descWords (b : Bytes) : W64 × W64 × W64 × W64 :=
  (w64 (leNat (b.take 8)), w64 (leNat ((b.drop 8).take 8)), w64 (leNat ((b.drop 16).take 8)),
    w64 (leNat ((b.drop 24).take 8)))

/-- The CRC in bytes 28 to 31 agrees with bytes 0 to 27 (07 R221). -/
def descCrcOk (w : W64 × W64 × W64 × W64) : Bool :=
  decide (crc32c ((descBytes w).take 28) = leNat ((descBytes w).drop 28))

/-- The destination half accepts descriptors, contributions and records of this source: its own device's, or a confirmed
    source half's (07 R218). -/
def Conn.acceptsFrom (c : Conn) (own dev : Nat) : Bool := decide (dev = own) || c.peers.any fun q => decide (q.1 = dev)

/-- Put the CRC that the device computes into a descriptor it builds (07 R221). -/
def descSeal (w : W64 × W64 × W64 × W64) : W64 × W64 × W64 × W64 :=
  descWords ((descBytes w).take 28 ++ leBytes 4 (crc32c ((descBytes w).take 28)))

/-- The RANGE conditions of Table 7.6 for SEND. -/
def descRange (w : W64 × W64 × W64 × W64) : Bool :=
  let ty := fld w.1 61 59
  let sp := fld w.1 58 57
  let len := fld w.1 56 33
  decide (3 ≤ ty) || decide (ty = 0 ∧ sp = 3) || decide (ty ≠ 0 ∧ sp ≠ 0) || decide (ty = 1 ∧ 16 < len) ||
    decide (ty = 2 ∧ len ≠ 0)

/-- A reserved field of the descriptor is nonzero. -/
def descRsvd (w : W64 × W64 × W64 × W64) : Bool :=
  let ty := fld w.1 61 59
  let sp := fld w.1 58 57
  decide (fld w.1 16 0 ≠ 0) ||
    (decide (ty = 0) && decide (sp ≠ 1) && decide (fld w.2.1 63 48 ≠ 0)) ||
    (decide (ty = 2) && (decide (fld w.2.1 63 5 ≠ 0) || decide (fld w.2.2.1 63 16 ≠ 0)))

/-- What the checks on a descriptor find, FAULT first (00 R17, 07 Table 7.6). -/
def descCheck (w : W64 × W64 × W64 × W64) : Status :=
  pickAll [(!descCrcOk w, .fault), (descRange w, .range), (descRsvd w, .rsvdSet),
    (decide (fld w.1 63 62 ≠ 0), .version)]

/-- Read a descriptor out of the window at offset a. -/
def Core.rdDesc (c : Core) (a : Nat) : W64 × W64 × W64 × W64 :=
  (c.rd64 a, c.rd64 (a + 8), c.rd64 (a + 16), c.rd64 (a + 24))

/-- Write a descriptor into the window at offset a. -/
def Core.wrDesc (c : Core) (a : Nat) (w : W64 × W64 × W64 × W64) : Core :=
  (((c.wr64 a w.1).wr64 (a + 8) w.2.1).wr64 (a + 16) w.2.2.1).wr64 (a + 24) w.2.2.2

/-! Input queues (07 R222) -/

/-- The queue state that the NI of tile t keeps for queue q of slot sl. -/
def State.queue (s : State) (t sl q : Nat) : Queue := Tab.get Queue.unbound (s.tile t).queues (4 * sl + q)
/-- Change it. -/
def State.setQueue (s : State) (t sl q : Nat) (v : Queue) : State :=
  s.updTile t fun d => { d with queues := Tab.set Queue.unbound d.queues (4 * sl + q) v }

/-- Window offset of slot k of queue q. -/
def aQslot (q k : Nat) : Nat := aQM + 0x400 * q + 32 * (k % 32)

/-- CONN.BLOCK_TICKS and the other counters of the connection group stand in the context. A credit of a QUEUE
    connection starts on its way back to the source (07 R223). -/
def State.creditBack (s : State) (i : Nat) : State :=
  s.updConn i fun c => { c with creditsBack := c.creditsBack + 1 }

/-- Post a DESC record (12 Table 12.9): status, handle, ring (0x3F a queue) and ring entry. -/
def State.postDesc (s : State) (st : Status) (handle ring entry : Nat) : State :=
  s.post 8 st.code 0 (w64 (handle % 65536 + ring % 64 * 2 ^ 16)) (w64 entry)

/-! SEND (07 R223, R225) -/

/-- The first condition of Table 7.6 that does not depend on the descriptor, for SEND from LCID l. -/
def State.sendRefusal (s : State) (h l : Nat) : List (Bool × Status) :=
  match s.connOf h with
  | none => [(true, .noEntry)]
  | some i =>
    let c := s.conn i
    [(decide (c.state = .closing), .closed),
     (decide (c.skind = 0 ∧ (c.sdev ≠ s.dev ∨ c.src ≠ l)), .access),
     (decide (c.skind ≠ 0 ∨ ¬(c.edkind = 0 ∨ c.edkind = 1)), .type)]

/-- The step open at the source, as a message carries it. -/
def State.step32 (s : State) : W32 := BitVec.ofNat 32 s.eng.count.toNat

/-- The source half i takes a descriptor: a credit of a QUEUE connection, CONN.SENT, and the item on VC1 at mesh
    node n; `core` is the physical core that may await it. -/
def State.takeDesc (s : State) (i n core : Nat) (lcid : Nat) (await : Bool)
    (w : W64 × W64 × W64 × W64) : State :=
  let c := s.conn i
  let id := s.ids + 1
  let m : DescMsg :=
    { id := id, core := core, ddev := if c.dkind = 4 then c.rdev else s.dev, src := c.handle i,
      dst := if c.dkind = 4 then BitVec.ofNat 16 c.rhandle else c.handle i,
      skind := BitVec.ofNat 3 c.skind, lcid := BitVec.ofNat 16 lcid, step := s.step32, dev := s.dev, words := w }
  let s := { s with ids := id }
  let s := s.updConn i fun c =>
    { c with taken := if c.edkind = 0 then c.taken + 1 else c.taken, sent := w64 (satAdd 64 c.sent.toNat 1) }
  let s := if await then s.await id core else s
  s.inject n 1 (.desc m)

/-- The NI of tile t takes one more descriptor: fewer wait there on VC1 than a packet carries (log 61). -/
def State.niTakes (s : State) (t : Nat) : Bool := decide ((Tab.get [] (s.node t).out 1).length < 8)

/-- A SEND of core k on connection i waits: for a credit of a QUEUE destination, or for its NI (07 R223). -/
def State.sendWaits (s : State) (k i : Nat) : Bool :=
  (decide ((s.conn i).edkind = 0) && decide (32 ≤ (s.conn i).taken)) || !s.niTakes (k / 136)

/-- A SEND of core k on handle h from slot n (07 R223, R225). -/
def State.send (s : State) (k h n : Nat) : State :=
  let c := s.core k
  let l := (s.lcidOf k).getD 0
  let w := c.rdDesc (aDslot n)
  let st := Status.pick (pickAll (s.sendRefusal h l)) (descCheck w)
  if st ≠ .ok then s.setCore k (c.opEnd n st none)
  else
    let i := h % 4096
    if s.sendWaits k i then s.setCore k (c.block 0x5 h n 0)
    else (s.takeDesc i (k / 136) k l true w).setCore k (c.opEnd n .ok none)

/-- A SEND of core k that is blocked goes on when nothing holds it any more. -/
def State.retrySend (s : State) (k : Nat) : State :=
  match (s.core k).pass with
  | .blocked op h n _ => if op = 0x5 ∧ s.sendWaits k (h.toNat % 4096) = false then s.send k h.toNat n else s
  | _ => s

/-- The blocked SENDs of the cores of tile t go on while its NI takes descriptors (07 R223). -/
def State.resumeSends (s : State) (t : Nat) : State :=
  s.cores.foldl (fun (s : State) (e : Nat × Core) => if e.1 / 136 = t then s.retrySend e.1 else s) s

/-! RECV (07 R224, R225) -/

/-- A RECV of core k on handle h into slot n. The queue of a REMOTE half belongs to a core of another device (Table 7.6). -/
def State.recv (s : State) (k h n : Nat) : State :=
  let c := s.core k
  let t := k / 136
  let l := (s.lcidOf k).getD 0
  match s.connOf h with
  | none => s.setCore k (c.opEnd n .noEntry (some false))
  | some i =>
    let cn := s.conn i
    let st := pickAll [(decide (cn.edkind = 0 ∧ (cn.dkind ≠ 0 ∨ cn.dest ≠ l)), .access), (decide (cn.edkind ≠ 0), .type),
      (decide (cn.state = .closing), .closed)]
    if st ≠ .ok then s.setCore k (c.opEnd n st (some false))
    else
      let sl := l % 128
      let q := s.queue t sl cn.q
      if q.held = 0 then s.setCore k (c.block 0x6 h n 0)
      else
        let w := c.rdDesc (aQslot cn.q q.head)
        let s := (s.setQueue t sl cn.q { q with head := (q.head + 1) % 32, held := q.held - 1 }).creditBack i
        if descCrcOk w then s.setCore k ((c.wrDesc (aDslot n) w).opEnd n .ok (some true))
        else
          let s := (s.bump (rk 0 0x3802 3)).postDesc .fault h 0x3F 0
          s.setCore k (c.opEnd n .fault (some false))

/-! COMBINE (07 R225, R229) -/

/-- The VALs of ACC neurons first … first + lanes − 1; a neuron beyond the enabled ones gives 0 (03 R484). -/
def Core.lanesAt (c : Core) (first lanes : Nat) : List W32 :=
  (List.range lanes).map fun i =>
    match c.regionOf (first + i) with
    | some r =>
      if 4096 ≤ first + i then 0 else if r.model = 3 then Config.noVal (first + i) else w32 (c.val r (first + i))
    | none => 0

/-- Set the VAL of ACC neurons first … first + lanes − 1 to 0 (Table 3.12, CLR). -/
def Core.clearLanes (c : Core) (first lanes : Nat) : Core :=
  (List.range lanes).foldl (fun c i =>
    match c.regionOf (first + i) with
    | some r => if r.model = 2 ∧ first + i < 4096 then c.setVal r (first + i) 0 else c
    | none => c) c

/-- A COMBINE of core k with operation word w and FIRST first: its contribution goes to the NI, and the operation
    stays blocked until a bank accepts it (07 R229). -/
def State.combine (s : State) (k first : Nat) (w : W64) : State :=
  let c := s.core k
  let h := fld w 43 28
  let lanes := fld w 47 44 + 1
  let n := first % 16
  match s.connOf h with
  | none => s.setCore k (c.opEnd n .noEntry none)
  | some i =>
    let cn := s.conn i
    let st := pickAll [(decide (cn.edkind ≠ 2), .type), (decide (cn.edkind = 2 ∧ cn.elanes + 1 ≠ lanes), .range),
      (decide (cn.state = .closing), .closed)]
    if st ≠ .ok then s.setCore k (c.opEnd n st none)
    else
      let id := s.ids + 1
      let m : Contrib :=
        { id := id, core := k, sdev := s.dev, dev := if cn.dkind = 4 then cn.rdev else s.dev,
          handle := if cn.dkind = 4 then BitVec.ofNat 16 cn.rhandle else cn.handle i, slot := n,
          lanes := c.lanesAt first lanes }
      let s := { s with ids := id }
      let s := s.updConn i fun c => { c with sent := w64 (satAdd 64 c.sent.toNat 1) }
      ((s.await id k).inject (k / 136) 1 (.contrib m)).setCore k (c.block 0x7 h n id)

/-- Contribution `id` of core k has been accepted: CLR clears the VALs, and the COMBINE that waits for it ends OK
    (07 R229). -/
def State.combineDone (s : State) (k id : Nat) : State :=
  let c := s.core k
  match c.pass with
  | .blocked op _ n j =>
    if op = 0x7 ∧ j = id then
      let w := c.word
      let c := if bit w 27 then c.clearLanes c.opFirst (fld w 47 44 + 1) else c
      s.setCore k (c.opEnd n .ok none)
    else s
  | _ => s

end Sys2Proof.Machine
end

