-- ==== Sys2Proof/Machine/Pass.lean ====
section
/-! DEFINITION. The step-table operations of a core (03 R118 to R122, R484), each the meaning of one command: it
    runs when the entry at PC of the RUNNING core holds it. -/

namespace Sys2Proof.Machine

/-- Core k is RUNNING on a live tile and is about to execute the entry at PC. -/
def State.atEntry (s : State) (k : Nat) : Bool :=
  let c := s.core k
  s.tileLive (k / 136) && decide (c.state = .running) && decide (c.pass = .run)

/-- The entry at PC of core k holds opcode `op`, and the core is about to execute it. -/
def State.atOp (s : State) (k op : Nat) : Bool := s.atEntry k && decide (opcode (s.core k).word = op)

/-- The opcodes a REPEAT may precede (03 R122): FIRE, LEAK, TRACE, DENSE, SEND, RECV and COMBINE. -/
def repeatable (op : Nat) : Bool := decide (1 ≤ op) && decide (op ≤ 7)

/-- Count in CFG.BADREC once when this repetition is the first whose range passes the enabled neurons (03 R484). -/
def Core.countRange (c : Core) (count : Nat) : Core :=
  let before := match c.rep with
    | some r => decide (0 < r.k) && c.rangeBad (c.opFirst - r.stride) count
    | none => false
  if c.rangeBad c.opFirst count && !before then c.tick aBADREC else c

/-- NOP, and an entry with opcode 0xB to 0xF, which acts as NOP and counts (03 R119, R484). -/
def Core.nopOp (c : Core) : Core :=
  if opcode c.word = 0 then c.advance else (c.tick aBADREC).advance

/-- The NOP operation of core k. -/
def execNop (k : Nat) (s : State) : Out :=
  .next (if s.atEntry k && (decide (opcode (s.core k).word = 0) || decide (0xB ≤ opcode (s.core k).word))
    then s.updCore k Core.nopOp else s)

/-- After a FIRE visit: wait for the emitter while it still holds what the pass caused (03 R109). -/
def Core.afterFire (c : Core) : Core := if c.passJobs then { c with pass := .drain } else c.advance

/-- FIRE visits FIRST to FIRST + COUNT − 1 (03 R99, R107). -/
def Core.fireOp (c : Core) (x : FireCtx) : Core :=
  let n := fld c.word 47 35
  let first := c.opFirst
  ((Core.visits (fun c r i => c.fireVisit x r i) first n (c.countRange n))).afterFire

/-- The FIRE operation of core k. -/
def execFire (k : Nat) (s : State) : Out :=
  .next (if s.atOp k 1 then s.updCore k fun c => c.fireOp s.passCtx else s)

/-- LEAK visits FIRST to FIRST + COUNT − 1 (03 R105). -/
def Core.leakOp (c : Core) : Core :=
  let n := fld c.word 47 35
  let first := c.opFirst
  (Core.visits (fun c r i => c.leakVisit r i) first n (c.countRange n)).advance

/-- The LEAK operation of core k. -/
def execLeak (k : Nat) (s : State) : Out :=
  .next (if s.atOp k 2 then s.updCore k Core.leakOp else s)

/-- TRACE over FIRST to FIRST + COUNT − 1 (06 R191). -/
def Core.traceEntry (c : Core) : Core :=
  let n := fld c.word 47 35
  let first := c.opFirst
  ((c.countRange n).traceOp first n).advance

/-- The TRACE operation of core k. -/
def execTrace (k : Nat) (s : State) : Out :=
  .next (if s.atOp k 3 then s.updCore k Core.traceEntry else s)

/-- How many of the next beats of the array the DENSE operation of core k is granted (03 R116): while an event is ready,
    none under ARB 1, and under ARB 0 one after each beat of an event. -/
def State.denseGrant (s : State) (k beats : Nat) : Nat :=
  let c := s.core k
  if !s.eventReady k || decide (c.arb = 2) then beats
  else if c.arb = 0 ∧ (c.dn.isNone ∨ c.evLast) then min beats 1 else 0

/-- The next beats of the DENSE operation of core k, at most `beats` of them; with `bad` the last of them meets a residue
    mismatch, and what that beat writes is discarded (03 R116, R117; 05 R171, R177). -/
def State.denseEntry (s : State) (k beats : Nat) (bad : Bool) : State :=
  let c := s.core k
  let t := k / 136
  let g := s.denseGrant k beats
  let r := denseBeats s.passCtx (c.dense c.opSlot) (s.tile t).poison (if bad then g - 1 else g)
    { c := { c with dn := some c.denseRun }, tsm := (s.tile t).tsm }
  let s := (s.setCore k { r.1.c with evLast := decide (g = 0) && c.evLast }).updTile t fun d => { d with tsm := r.1.tsm }
  match r.2 with
  | .done => s.updCore k fun c => { c with dn := none }.advance
  | .poison => s.fenceCore k 3
  | .more => if bad && decide (0 < g) then s.residue k 1 else s

/-- The DENSE operation of core k. -/
def execDense (k : Nat) (w : Work) (s : State) : Out :=
  .next (if s.atOp k 4 then s.denseEntry k w.n w.bad else s)

/-- The SEND operation of core k. -/
def execSend (k : Nat) (s : State) : Out :=
  .next (if s.atOp k 5 then s.send k (fld (s.core k).word 55 40) (s.core k).opSlot else s)

/-- The RECV operation of core k. -/
def execRecv (k : Nat) (s : State) : Out :=
  .next (if s.atOp k 6 then s.recv k (fld (s.core k).word 55 40) (s.core k).opSlot else s)

/-- The COMBINE operation of core k. -/
def State.combineEntry (s : State) (k : Nat) : State :=
  let s := s.updCore k fun c => c.countRange (fld c.word 47 44 + 1)
  s.combine k (s.core k).opFirst (s.core k).word

/-- The COMBINE operation of core k. -/
def execCombine (k : Nat) (s : State) : Out :=
  .next (if s.atOp k 7 then s.combineEntry k else s)

/-- The items that core k handed to its NI and that have not ended (02 R77). -/
def State.awaited (s : State) (k : Nat) : List Nat := (s.live.filter fun p => p.2 = k).map Prod.fst

/-- The FENCE operation of core k: it awaits what the core has handed on before it (02 R77). -/
def execFence (k : Nat) (s : State) : Out :=
  .next (if s.atOp k 8 then s.updCore k fun c => { c with pass := .fence (s.awaited k) } else s)

/-- Every item that the FENCE of core k awaits has ended. -/
def State.fenceClear (s : State) (k : Nat) : Bool :=
  match (s.core k).pass with
  | .fence ids => ids.all fun i => !(s.live.any fun p => p.1 = i)
  | _ => false

/-- The last awaited item has ended: the pass goes on (02 R77, R78). -/
def execFenceDone (k : Nat) (s : State) : Out :=
  .next (if s.fenceClear k && s.tileLive (k / 136) then s.updCore k Core.advance else s)

/-- REPEAT: run the next entry N times; one with N = 0 or with no repeatable entry after it acts as NOP and
    counts (03 R120, R484). -/
def Core.repeatEntry (c : Core) : Core :=
  let n := fld c.word 59 48
  let last := decide (c.stbBase + c.stbLen ≤ c.pc.toNat + 1)
  if n = 0 ∨ last ∨ !repeatable (opcode (c.stb (c.pc.toNat + 1))) then (c.tick aBADREC).stepPc
  else { c with pc := c.pc + 1, rep := some { n := n, stride := fld c.word 47 36, k := 0 } }

/-- The REPEAT operation of core k. -/
def execRepeatOp (k : Nat) (s : State) : Out :=
  .next (if s.atOp k 9 then s.updCore k Core.repeatEntry else s)

/-- WAITSTEP of core k: the pass ends, and the NI releases the slot's delay ring for the step into the core
    (03 R118, 04 R156). -/
def execWaitstep (k : Nat) (s : State) : Out :=
  .next (if s.atOp k 0xA then s.updCore k fun c => { c with pass := .release } else s)

/-- The stall timer of core k runs: a SEND, RECV or COMBINE is blocked, or the emitter holds (03 R129). -/
def Core.stalling (c : Core) : Bool :=
  match c.pass with | .blocked _ _ _ _ => true | _ => c.emitHold

/-- STALL_INFO of the blocker in force, with the operation named before an emitter hold (03 R130, Table 3.18). -/
def Core.stallInfo (c : Core) : W64 :=
  let hop := match c.pass with
    | .blocked op h _ _ => (h.toNat, op.toNat)
    | _ => (0xFFFF, opcode c.word)
  w64 (hop.1 * 2 ^ 32 + hop.2 * 2 ^ 28 + c.pc.toNat * 2 ^ 20)

/-- The stall timer of core k reaches CFG.STALL_LIMIT, once per blocking episode (03 R130, 12 Table 12.9). -/
def State.stallLimit (s : State) (k : Nat) : State :=
  let c := s.core k
  let info := c.stallInfo
  let lcid := (s.lcidOf k).getD 0
  let s := s.setCore k ({ (c.tick aSTALLS) with stalled := true }.wr64 aSTALLINFO info)
  s.post 1 0 0 (w64 (lcid * 2 ^ 48 + c.pc.toNat * 2 ^ 40 + fld info 31 28 * 2 ^ 36 + fld info 47 32 * 2 ^ 20))
    (w64 c.stallLimit)

/-- The stall timer of core k reaches its limit. -/
def execStallLimitReached (k : Nat) (s : State) : Out :=
  .next (if (s.core k).stalling && !(s.core k).stalled then s.stallLimit k else s)

end Sys2Proof.Machine
end

