-- ==== Sys2Proof/Machine/CoreCmds.lean ====
section
/-! DEFINITION. Copies delivered to cores and delay rings (04 R152 to R159, 03 R111), a copy applied by its core
    (02 R44, R55 to R61), the emitter (03 R109, 04 R146 to R151), and writes into a core window (03 R88). -/

namespace Sys2Proof.Machine

/-! Delay rings (04 R154 to R156) -/

/-- TILE.DLY_DEPTH of physical tile t. -/
def State.dlyDepth (s : State) (t : Nat) : Nat := s.rn (rk (16 + t) 0x1200 3)
/-- TILE.DLY_BASE of physical tile t. -/
def State.dlyBase (s : State) (t : Nat) : Nat := s.rn (rk (16 + t) 0x1200 2)
/-- The ring of slot sl and tag g. -/
def State.ring (s : State) (t sl g : Nat) : Ring := Tab.get { head := 0, held := 0 } (s.tile t).rings (4 * sl + g)
/-- TSM offset of entry i of the ring of slot sl and tag g. -/
def State.ringAddr (s : State) (t sl g i : Nat) : Nat :=
  s.dlyBase t * 0x10000 + (4 * sl + g) * s.dlyDepth t * 8 + 8 * (i % s.dlyDepth t)

/-- Entries held in all rings of the tile: TILE.DLY_HELD (04 R157). -/
def State.dlyHeld (s : State) (t : Nat) : Nat := ((s.tile t).rings.map fun e => e.2.held).sum

/-- The flit as it stands at its target slot: the core slot of LCID set to it, SPAN 0, every other field as it came
    (02 R39, 04 R154). -/
def slotFlit (f : W64) (sl : Nat) : W64 := putFld (putFld f 42 36 sl) 58 56 0

/-- Place a copy in its ring, which has room (04 R155, R157). -/
def State.ringPut (s : State) (t : Nat) (q : Copy) : State :=
  let g := flTag q.flit
  let r := s.ring t q.slot g
  let a := s.ringAddr t q.slot g (r.head + r.held)
  let s := s.updTile t fun d =>
    { d with
      tsm := d.tsm.wr64 a (slotFlit q.flit q.slot), poison := d.poison.filter fun b => decide (b ≠ a),
      rings := Tab.put d.rings (4 * q.slot + g) { r with held := r.held + 1 } }
  (s.hwm (rk (16 + t) 0x1200 4) (r.held + 1)).flightEnd q.flight 1

/-- Take the oldest entry of a ring. -/
def State.ringTake (s : State) (t sl g : Nat) : W64 × State :=
  let r := s.ring t sl g
  let f := (s.tile t).tsm.rd64 (s.ringAddr t sl g r.head)
  let r' : Ring :=
    if r.held ≤ 1 then { head := 0, held := 0 } else { head := (r.head + 1) % s.dlyDepth t, held := r.held - 1 }
  (f, s.updTile t fun d => { d with rings := Tab.set { head := 0, held := 0 } d.rings (4 * sl + g) r' })

/-- TILE.SPAN_COPIES of physical tile t (04 R153). -/
def rSpanCopies (t : Nat) : Nat := rk (16 + t) 0x1200 7

/-- Count a flit or copy in FENCE_DROP of tile t (08 R282: 48 bits). -/
def State.fenceDrop (s : State) (t : Nat) : State := s.bumpBy 48 (rFenceDrop t) 1

/-- The tile's cores cannot take a copy: its domain is in OFF, or in RETENTION or waking from it (13 R441, R442). -/
def State.tileOff (s : State) (t : Nat) : Bool := decide (s.rn (rDomain t) = 0)

/-- A flit that the input buffer has no room for is written to the tile's TSM, whole words (03 R111, 12 R418). -/
def State.spillFlit (s : State) (t : Nat) (at' : Option Nat) (f : W64) : State :=
  match at' with
  | some a => s.updTile t fun d => { d with tsm := d.tsm.wr64 a f, poison := d.poison.filter fun b => decide (b ≠ a) }
  | none => s

/-- Hand one copy to its core or ring: none while it must wait for room (04 R152, R157; 08 R267; 03 R111, R126). A
    delay copy that a swap-out moves to the parking queue keeps the identity of its flit (02 R78); the flit is counted in
    ACC and no copy of it in PARK_DIV (DEDUCED, log 78). -/
def State.handCopy (s : State) (t : Nat) (q : Copy) : Option State :=
  match s.coreOf t q.slot with
  | none => some ((s.bumpBy 48 (niCtr t 0x0B) 1).flightEnd q.flight 1)
  | some k =>
    let c := s.core k
    if c.state = .fenced ∨ c.state = .unconfigured ∨ s.tileOff t then
      some ((s.fenceDrop t).flightEnd q.flight 1)
    else if q.delay then
      if let some v := s.swappingOut t then
        some (((s.itemFork q.id).inject t 1 (.park q.id v q.flit (s.targetStep q.flit))).flightEnd q.flight 1)
      else if (s.ring t q.slot (flTag q.flit)).held < s.dlyDepth t then
        some ((s.ringPut t q).bump (rSpanCopies t))
      else none
    else if c.inbuf.length < c.bufCap then
      some (((s.setCore k (c.hold { q with into := s.eng.tagRef })).spillFlit t c.spillAt q.flit).bump (rSpanCopies t))
    else none

/-- The NI of tile t hands on its copies in order until one must wait (04 R157). -/
def State.pump (t : Nat) : List Copy → State → State
  | [], s => s.updTile t fun d => { d with copies := [] }
  | q :: rest, s =>
    match s.handCopy t q with
    | some s' => State.pump t rest (if rest.any fun r => decide (r.id = q.id) then s' else s'.itemEnd q.id)
    | none => s.updTile t fun d => { d with copies := q :: rest }

/-- Hand on what the NI of tile t holds. -/
def State.pumpTile (s : State) (t : Nat) : State := State.pump t (s.tile t).copies s

/-- The NI of tile t places the delay copy it holds, and goes on with the copies behind it (04 R155, R157). -/
def execDelayRingPlace (t : Nat) (s : State) : Out :=
  .next (if s.domUp t then s.pumpTile t else s)

/-! Applying a copy -/

/-- Account for what applying a copy of flight fl caused (02 R61). A copy that a residue mismatch stopped counts as a
    drop to a fenced core (log 62). -/
def State.applied (s : State) (k fl : Nat) (r : Core × Bool) : State :=
  let n := (s.core k).jobs.length
  let s := (s.setCore k r.1).flightSplit fl (r.1.jobs.length - n)
  if r.2 then (s.residue k 0).fenceDrop (k / 136) else s

/-- Apply the copy f of flight fl to core k. -/
def State.applyOn (s : State) (k : Nat) (f : W64) (fl : Nat) (x : FireCtx) (bad : Option Nat) : State :=
  s.applied k fl ((s.core k).applyCopy x f bad)

/-- Apply copy q beside the DENSE operation in progress on core k, the array alternating between the two (03 R116);
    the last beat is the event's. -/
def State.applyBeside (s : State) (k : Nat) (q : Copy) (bad : Option Nat) : State :=
  let c := s.core k
  let d := s.tile (k / 136)
  let r := ({ c := c, tsm := d.tsm } : DenseSt).applyMixed (s.copyCtx q) s.passCtx (c.dense c.opSlot) d.poison q.flit bad
  (s.updTile (k / 136) fun d => { d with tsm := r.1.tsm }).applied k q.flight ({ r.1.c with evLast := true }, r.2)

/-- The oldest spilled flit of core k moves up into its input buffer once that has room: it is read back from the TSM, and a
    poisoned word fences the core (03 R111, 12 R418). -/
def State.refill (s : State) (k : Nat) : State :=
  match ((s.core k).inbuf[63]?).bind Copy.spill with
  | some a =>
    if (s.tile (k / 136)).poison.contains a then s.fenceCore k 3
    else s.updCore k fun c =>
      { c with inbuf := modAt (fun q => { q with flit := (s.tile (k / 136)).tsm.rd64 a, spill := none }) 63 c.inbuf }
  | none => s

/-- Core k takes one event copy: the oldest entry of its slot's delay ring while its pass releases it (04 R156),
    else the oldest of its input buffer (03 R111, R116); a poisoned entry fences it (12 R418). -/
def State.accumulate (s : State) (k : Nat) (bad : Option Nat) : State :=
  let c := s.core k
  let t := k / 136
  let g := s.eng.count.toNat % 4
  match (s.slotOf k).filter fun sl => decide (c.pass = .release) && decide (0 < (s.ring t sl g).held) with
  | some sl =>
    if c.midnight then s
    else if (s.tile t).poison.contains (s.ringAddr t sl g (s.ring t sl g).head) then s.fenceCore k 3
    else
      let (f, s) := s.ringTake t sl g
      (s.applyOn k f 0 s.passCtx bad).pumpTile t
  | none =>
    match c.inbuf with
    | q :: rest =>
      if s.takesCopy k q && c.grantsEvent then
        let s := s.setCore k { c with inbuf := rest }
        let s := if c.dn.isSome && decide (c.arb = 0) then s.applyBeside k q bad
          else s.applyOn k q.flit q.flight (s.copyCtx q) bad
        (s.refill k).pumpTile t
      else s
    | [] => s

/-- A core takes an event copy and applies it; `bad` is the beat on which a residue mismatch stops it. -/
def execEventAccumulate (k : Nat) (bad : Option Nat) (s : State) : Out :=
  .next (if s.domUp (k / 136) && (decide ((s.core k).state = .running) || decide ((s.core k).state = .ready))
    then s.accumulate k bad else s)

/-! The emitter (03 R109, 04 R146 to R151) -/

/-- A DST word that a commit would refuse, and so emits nothing (04 R151). -/
def dstBad (w : W64) (delayLimit : Nat) : Bool :=
  bit w 62 || bit w 59 || decide (fld w 19 0 ≠ 0) || decide (delayLimit < fld w 61 60) ||
  (if bit w 63 then decide (fld w 61 60 ≠ 0) || decide (fld w 58 56 ≠ 0) || decide (fld w 55 52 ≠ 0) ||
      decide (fld w 35 24 ≠ 0)
   else decide (8 ≤ fld w 55 52) || decide (128 < fld w 42 36 + 2 ^ fld w 58 56))

/-- The event flit of a TYPE 0 word (04 R147), with the SHIFT of a forward worked in (03 R108). -/
def buildFlit (w : W64) (tag : Nat) (cgen : Bool) (value : Int) (shift : Nat) : W64 :=
  w64 (fld w 58 24 * 2 ^ 24 + shift % 16 * 2 ^ 20 + tag % 4 * 2 ^ 60 + (if cgen then 2 ^ 59 else 0) +
    enc 8 value * 2 ^ 12)

/-- The generation that a source stamps: the new one from OPEN of a GENERATION commit's step on (02 R84). -/
def State.stamp (s : State) (cgen : Bool) : Bool :=
  if s.eng.round.any (fun r => decide (r.commit = some true)) then !s.reconf.cgen else cgen

/-- The DST word at list position p (04 R148). -/
def Core.dstWord (c : Core) (p : Nat) : W64 := c.rd64 (aDST + 8 * ((p + dOff (c.table c.cgen)) % 2048))

/-- A readout or TYPE 1 record of core k handed to its NI, counted in SENT (03 R107, 04 R149). -/
def State.handRecord (s : State) (k : Nat) (j : Job) (handle : BitVec 16) (readout : Bool) (value : W32) : State :=
  let id := s.ids + 1
  let r : Record :=
    { id := id, core := k, ddev := s.dev, handle := handle, readout := readout, value := value,
      step := BitVec.ofNat 32 j.step.toNat, dev := s.dev, lcid := BitVec.ofNat 16 ((s.lcidOf k).getD 0),
      neuron := BitVec.ofNat 12 j.neuron }
  let s := (({ s with ids := id }).await id k).addSent (k / 136) (j.step.toNat % 4) 1
  s.updTile (k / 136) fun d => { d with recs := d.recs ++ [r] }

/-- An event flit of core k handed to its NI, counted in SENT under its TAG (02 R60). -/
def State.handEvent (s : State) (k : Nat) (f : W64) : State :=
  let id := s.ids + 1
  ((({ s with ids := id }).await id k).addSent (k / 136) (flTag f) 1).inject (k / 136) 0 (.event id k f)

/-- Emit one position of job j (03 R108, R109; 04 R147 to R151), the job standing at the front of the queue. -/
def State.emitOne (s : State) (k : Nat) (j : Job) (rest : List Job) : State :=
  let c := s.core k
  if j.readout then (s.setCore k { c with jobs := rest }).handRecord k j j.handle true j.value
  else
    let w := c.dstWord j.pos
    let last := decide (j.stop ≤ j.pos + 1)
    if dstBad w s.delayLimit then
      let c := c.tick aBADREC
      s.setCore k { c with jobs := if last then rest else { j with pos := j.pos + 1 } :: rest }
    else
      let sh := j.shift + fld w 23 20
      let lim := decide (15 < sh)
      let sh := min sh 15
      let c := if lim && !j.counted then c.tick aSAT else c
      let j' := { j with pos := j.pos + 1, counted := j.counted || lim }
      let s := s.setCore k { c with jobs := if last then rest else j' :: rest }
      if bit w 63 then
        s.handRecord k j (BitVec.ofNat 16 (fld w 51 36)) false (w32 (j.value.toInt * ((2 ^ sh : Nat) : Int)))
      else
        s.handEvent k (buildFlit w ((j.step.toNat + fld w 61 60) % 4) (s.stamp c.cgen) j.value.toInt sh)

/-- After an emission: the job's flight ends with it, and a FIRE that waited for its flits completes. -/
def State.emitEnd (s : State) (k : Nat) (j : Job) (n : Nat) : State :=
  let s := if (s.core k).jobs.length < n then s.flightEnd j.flight 1 else s
  let c := s.core k
  let c := { c with emitHold := false }
  let c := if c.pass = .drain ∧ !c.passJobs then c.advance else c
  s.setCore k c.settleEpisode

/-- The emitter's beat of core k: with a credit it hands on one item; without one it holds (03 R109, R129). -/
def State.emit (s : State) (k : Nat) (credit : Bool) : State :=
  let c := s.core k
  match c.jobs with
  | [] => s
  | j :: rest =>
    if credit then (s.emitOne k j rest).emitEnd k j c.jobs.length
    else s.setCore k { c with emitHold := true }

/-- The emitter reads one DST word and hands on what it gives. -/
def execEmit (k : Nat) (credit : Bool) (s : State) : Out :=
  .next (if s.domUp (k / 136) then s.emit k credit else s)

/-! The window -/

/-- The header sets in force: both in a GENERATION window, else the one that CGEN names (04 R134, R135). -/
def State.setsInForce (s : State) (c : Core) : List Bool :=
  if s.reconf.win.isSome then [false, true] else [c.cgen]

/-- A queue slot of a bound queue, or a word of QM beyond no queue, is dropped (07 R222). -/
def State.qmBound (s : State) (k a : Nat) : Bool :=
  if aQM ≤ a ∧ a < 0x1E000 then
    match s.slotOf k with
    | some sl => decide ((s.queue (k / 136) sl ((a - aQM) / 0x400)).handle ≠ 0xFFFF)
    | none => false
  else false

/-- What the commit of the present settle round did to a core is taken back: its shadows stand as they did, over them
    those written since (02 R80, R86; log 27). -/
def Core.takeBack (c : Core) : Core :=
  let c := { c with shadow := shadowOver c.shadow (c.due.getD []), due := none }
  match c.undo with
  | none => c
  | some u =>
    let c := u.words.foldl (fun c e => c.wr64 e.1 e.2) c
    { c with
      shadow := shadowOver c.shadow u.shadow, undo := none, cgen := u.cgen, committed := u.committed, written := u.written,
      state := if u.fresh && decide (c.state = .ready) then .unconfigured else c.state }

/-- Take back the commit that applied at the SETTLE of the round in progress, RECONF.STATE being ARMED still. -/
def State.takeBack (s : State) : State :=
  match s.eng.round.filter fun r => r.commit.isSome with
  | some r =>
    { s with
      cores := s.cores.map fun e => (e.1, e.2.takeBack),
      reconf := { s.reconf with cgen := s.reconf.cgen.xor (decide (r.commit = some true)), win := none },
      eng := { s.eng with round := some { r with commit := none } } }
  | none => s

/-- A shadow write moves RECONF.STATE: IDLE or ARMED to LOADING; in a WINDOW it is remembered (02 R80). A commit that
    has applied at the SETTLE of a step that OPEN has not opened yet is taken back with it, to be checked anew. -/
def State.shadowWrite (s : State) : State :=
  match s.reconf.state with
  | .idle => { s with reconf := { s.reconf with state := .loading } }
  | .armed => { s.takeBack with reconf := { s.takeBack.reconf with state := .loading } }
  | .loading => s
  | .window => { s with reconf := { s.reconf with late := true } }

/-- Write data at window offset off of core k, word by word; CFG.WDROP counts a write that lost words (03 R88,
    R482). -/
def State.windowWrite (s : State) (k off : Nat) (data : Bytes) : State :=
  let sets := s.setsInForce (s.core k)
  let p := (wordsOf off data.length).foldl (fun (p : State × Bool) a =>
    let s := p.1
    let c := s.core k
    let old := if shadowed a then c.pend64 a else c.rd64 a
    let v := mergeWord old a off data
    if s.qmBound k a then (s, true)
    else
      let r := c.putWord sets a v
      let s := s.setCore k r.1
      (if shadowed a && !r.2 then s.shadowWrite else s, p.2 || r.2)) (s, false)
  let s := p.1.updCore k fun c =>
    { c with
      written := true,
      bad := c.bad.filter fun b => !(decide (off ≤ b) && decide (b + 8 ≤ off + data.length)) }
  if p.2 then s.updCore k fun c => c.tick aWDROP else s

/-- CFG STATUS of a core with tag reference `tag` (03 Table 3.16). -/
def Core.status (c : Core) (tag : Nat) : W64 :=
  w64 (c.pc.toNat * 2 ^ 13 + c.cause.toNat * 2 ^ 9 + (if c.cgen then 256 else 0) + tag % 4 * 64 +
    (if c.midnight || !c.inbuf.isEmpty then 32 else 0) + (if c.stalled then 16 else 0) +
    (if c.passDone then 8 else 0) + c.state.code)

/-- Read n bytes of the window of a core: STATUS is formed from the core's state, and the reserved range reads
    zero (03 R88, R89, Table 3.14). -/
def Core.windowRead (c : Core) (tag off n : Nat) : Bytes :=
  (List.range n).map fun i =>
    let a := off + i
    if aCFG ≤ a ∧ a < aCFG + 8 then BitVec.ofNat 8 ((c.status tag).toNat / 2 ^ (8 * (a - aCFG)) % 256)
    else if 0x1E000 ≤ a then 0 else c.mem.rd a

/-- Core k as STATUS shows it: a core that no commit has covered holds RECONF.CGEN (02 R84). -/
def State.shown (s : State) (k : Nat) : Core :=
  let c := s.core k
  if c.state = .unconfigured then { c with cgen := s.reconf.cgen } else c

end Sys2Proof.Machine
end

