-- ==== Sys2Proof/Machine/Route.lean ====
section
/-! DEFINITION. The members of a system, the routes between its devices, the JOIN record and what the join
    allows (08 R269 to R277). -/

namespace Sys2Proof.Machine

/-- FAB.PORT[p] registers. -/
def pReg (p sub : Nat) : Nat := rk 0 (0x2010 + p) sub
/-- FAB.PORT[p].STATE: 0 DOWN, 1 TRAINING, 2 QUALIFYING, 3 UP, 4 DEGRADED, 5 FENCED. -/
def State.portState (s : State) (p : Nat) : Nat := s.rn (pReg p 1)
/-- The port carries all four virtual channels. -/
def State.portUp (s : State) (p : Nat) : Bool := s.portState p = 3 || s.portState p = 4

/-- Device e is a member of the system. -/
def State.isMember (s : State) (e : Nat) : Bool := s.rn rMembers / 2 ^ e % 2 = 1
/-- The members but this device. -/
def State.others (s : State) : List Nat :=
  (List.range 8).filter fun e => s.isMember e && decide (e ≠ s.dev)
/-- SYS.MEMBERS names no device but this one. -/
def State.alone (s : State) : Bool := s.others.isEmpty
/-- This device is the leader. -/
def State.leads (s : State) : Bool := s.rn rLeader = s.dev
/-- Another member is the leader. -/
def State.follows (s : State) : Bool := !s.leads && decide (s.rn rLeader < 8) && s.isMember (s.rn rLeader)

/-- SYS.ROUTE[e]. -/
def rRoute (e : Nat) : Nat := rk 0 (0x4810 + e) 0

/-- The port that SYS.ROUTE[e] names, by a route word: the port whose JOIN found e, or for a DETOUR the direct port
    to the intermediate device, which must be a member (08 R269, R270). -/
def State.routeBy (s : State) (e w : Nat) : Option Nat :=
  match w / 2 ^ 14 with
  | 0 => (s.peer e).port
  | 1 => if s.isMember (w / 2 ^ 10 % 16) then (s.peer (w / 2 ^ 10 % 16)).port else none
  | _ => none

/-- The port of the present route to device e. -/
def State.routePort (s : State) (e : Nat) : Option Nat := s.routeBy e (s.rn (rRoute e))

/-- A flit or message for device e has a route: e is a member and a port carries its route. -/
def State.routed (s : State) (e : Nat) : Option Nat := if s.isMember e then s.routePort e else none

/-- Device e is reached by a port that is up. -/
def State.reaches (s : State) (e : Nat) : Bool :=
  match s.routed e with | some p => s.portUp p | none => false

/-- Send a VC3 message to device m.ddev from the HKC bridge (11 R381). -/
def State.sendMsg (s : State) (m : Msg3) : State := s.inject 85 3 (.msg { m with sdev := s.dev })

/-- Put a VC3 message straight into the queue of port p (08 R263, R274). -/
def State.portMsg (s : State) (p : Nat) (m : Msg3) : State :=
  s.updPort p fun q => { q with out := Tab.upd [] q.out 3 (· ++ (Item.msg { m with sdev := s.dev }).cut) }

/-- A DMA descriptor whose peer packet is lost, or whose peer port goes DOWN, ends with FAULT (09 R304). -/
def State.loseData (s : State) (id : Nat) : State :=
  { s with chans := s.chans.map fun e =>
      (e.1, { e.2 with descs := e.2.descs.map fun d =>
        if d.id = id then { d with failed := some .fault, staged := [] } else d }) }

/-- What the loss of an item means to the unit that sent it. -/
def State.lostItem (s : State) (i : Item) : State :=
  match i with
  | .data id _ _ _ | .frag (.data id _ _ _) _ _ => if id = 0 then s else s.loseData id
  | _ => s

/-- A fabric bridge hands an item to its port; a FENCED port carries only VC3, and a DOWN port nothing: what they
    drop counts in FAB.PORT[p].DROP and in ACC (08 R262). -/
def State.toPort (s : State) (p v : Nat) (i : Item) : State :=
  let st := s.portState p
  if st = 0 ∨ (st = 5 ∧ v ≠ 3) then ((s.lostItem i).bumpBy 48 (pReg p 0x14) i.flits).itemGone (70 + p) i
  else (s.updPort p fun q => { q with out := Tab.upd [] q.out v (· ++ [i]) }).wake (70 + p) 6

/-- Send one VC2 packet to device e from the TMR bridge (01 Table 1.4; 08 R254, Table 8.6). -/
def State.sendVc2 (s : State) (e : Nat) (ws : List W64) : State :=
  if (s.routed e).isSome then s.inject 89 2 (.vc2 e ws) else s

/-- Broadcast one VC2 packet to every other member (02 R65). -/
def State.broadcast (s : State) (ws : List W64) : State := s.others.foldl (fun s e => s.sendVc2 e ws) s

/-- A VC2 payload flit of a kind (08 Table 8.6). -/
def vc2Flit (kind rest : Nat) : W64 := w64 (kind * 2 ^ 60 + rest % 2 ^ 60)

/-! JOIN (08 R274 to R277) -/

/-- FW.VERSION. -/
def rFw : Nat := rk 0 0x0003 0
/-- CONFIG.JOIN_HASH enters the record as bytes; every other field is a word (08 Table 8.14). -/
def State.joinBody (s : State) (p : Nat) : Bytes :=
  let leader := if s.rn rLeader = 0xFF then 0xF else s.rn rLeader % 16
  let w0 := s.dev % 16 * 2 ^ 58 + 1 * 2 ^ 54 + 1 * 2 ^ 50 + leader * 2 ^ 46 + s.rn rMembers % 256 * 2 ^ 38 +
    (if s.stopped then 0 else 2 ^ 37) + p % 16 * 2 ^ 33 + 0x0100 * 2 ^ 17
  leBytes 8 w0 ++ leBytes 8 s.fuses.serial.toNat ++ leBytes 8 (s.rn rFw * 2 ^ 32) ++ s.reconf.joinHash ++
    leBytes 8 s.eng.count.toNat ++ leBytes 8 (s.rn rTB) ++ leBytes 8 0

/-- Send a JOIN record on port p (R274). -/
def State.sendJoin (s : State) (p : Nat) : State :=
  s.portMsg p
    { mkind := 3, sdev := s.dev, ddev := s.rn (pReg p 2) % 16, tag := 0, idx := 0, sub := 0, op := 0, body := s.joinBody p }

/-- Send a JOIN record on every port that is UP, DEGRADED or FENCED (R274, 12 R429). -/
def State.sendJoins (s : State) : State :=
  (List.range 7).foldl (fun s p => if 3 ≤ s.portState p then s.sendJoin p else s) s

/-- SYS.PEER[e].STATE: 0 UNKNOWN, 1 JOINED, 2 AGREED, 3 DISAGREED. -/
def rPeerState (e : Nat) : Nat := rk 0 (0x4820 + e) 1
/-- SYS.PEER[e].REASON. -/
def rPeerReason (e : Nat) : Nat := rk 0 (0x4820 + e) 2

/-- SYS.JOIN_STATE: 0 ALONE, 1 JOINING, 2 AGREED, 3 REFUSED (R277). A disagreement stands with any device, a second one of
    this device's own number and one that is no member among them. -/
def State.joinState (s : State) : Nat :=
  if s.alone then 0
  else if (List.range 8).any fun e => decide (s.rn (rPeerReason e) ≠ 0) then 3
  else if s.others.all fun e => s.reaches e && (s.peer e).agrees then 2
  else 1

end Sys2Proof.Machine
end

