-- ==== Sys2Proof/Machine/Commit.lean ====
section
/-! DEFINITION. What a commit checks on one core (02 R41, R48, R81; 03 R92, R95, R97, R102, R122, R124; 04 R140,
    R150, R160; 05 R178; 06 R185). Each check is a list of conditions with the status that each brings. The
    core given is the core with its shadows applied. -/

namespace Sys2Proof.Machine

/-- The conditions of a check, and their statuses. -/
abbrev Conds := List (Bool × Status)

/-! The step table -/

/-- One operation of the active step table, with the repetitions that a REPEAT before it gives it. -/
structure TabOp where
  w      : W64
  n      : Nat
  stride : Nat
  rep    : Bool
deriving DecidableEq, Repr

/-- Read entries i, i + 1, … of the table; a REPEAT passes its count and stride to the next entry. -/
def Core.readOps (c : Core) : Nat → Nat → Nat × Nat × Bool → List TabOp
  | 0, _, _ => []
  | f + 1, i, (n, stride, rep) =>
    let w := c.stb i
    let op : TabOp := { w := w, n := n, stride := stride, rep := rep }
    if opcode w = 9 then op :: c.readOps f (i + 1) (fld w 59 48, fld w 47 36, true)
    else op :: c.readOps f (i + 1) (1, 0, false)

/-- The operations of the active step table. -/
def Core.tabOps (c : Core) : List TabOp := c.readOps c.stbLen c.stbBase (1, 0, false)

/-- The ranges that an operation visits, one for each repetition. -/
def TabOp.ranges (o : TabOp) (count : Nat) : List (Nat × Nat) :=
  (List.range o.n).map fun k => (fld o.w 59 48 + k * o.stride, count)

/-- The reserved field of an operation word is nonzero (03 Table 3.12). -/
def opRsvd (w : W64) : Bool :=
  let hi := match opcode w with
    | 1 | 2 | 3 => 34 | 4 => 55 | 5 | 6 => 39 | 7 => 26 | 9 => 35 | _ => 59
  decide (fld w hi 0 ≠ 0)

/-- Every neuron of the range lies in an ACC region. -/
def Core.allAcc (c : Core) (first count : Nat) : Bool :=
  (List.range count).all fun i => match c.regionOf (first + i) with
    | some r => decide (r.model = 2)
    | none => false

/-- The visits of the FIRE operations. -/
def Core.fireRanges (c : Core) : List (Nat × Nat) :=
  (c.tabOps.filter fun o => decide (opcode o.w = 1)).flatMap fun o => o.ranges (fld o.w 47 35)

/-- Every LIF-G and DELTA neuron lies in exactly one FIRE visit (03 R102). -/
def Core.fireCovers (c : Core) : Bool :=
  let rs := c.fireRanges
  c.regions.all fun r => decide (2 ≤ r.model) || (List.range r.count).all fun i =>
    decide ((rs.filter fun q => decide (q.1 ≤ r.first + i) && decide (r.first + i < q.1 + q.2)).length = 1)

/-- The checks of 03 R122 and R102. -/
def Core.checkTable (c : Core) : Conds :=
  let ops := c.tabOps
  let place := decide (1 ≤ c.stbLen) && decide (c.stbLen ≤ 256) && decide (c.stbBase + c.stbLen ≤ 256)
  if !place then [(true, .range)]
  else
    let n := c.neurons
    let one (o : TabOp) : Conds :=
      let op := opcode o.w
      [(decide (0xB ≤ op), .range), (decide (op ≤ 0xA) && opRsvd o.w, .rsvdSet),
       (decide (1 ≤ op ∧ op ≤ 3) && (o.ranges (fld o.w 47 35)).any
          fun q => decide (q.2 = 0) || decide (n < q.1 + q.2), .range),
       (decide (op = 7) && (o.ranges (fld o.w 47 44 + 1)).any fun q => !c.allAcc q.1 q.2, .range),
       (decide (op = 9) && decide (fld o.w 59 48 = 0), .range),
       (o.rep && !repeatable op, .range)]
    ops.flatMap one ++
      [(!(ops.getLast?.any fun o => decide (opcode o.w = 0xA)), Status.range),
       (ops.dropLast.any fun o => decide (opcode o.w = 0xA), .range), (!c.fireCovers, .range)]

/-! Regions, records, parameter sets, CORE_CTL and SPILL -/

/-- The neurons of a region. -/
def Region.all (r : Region) : List Nat := (List.range r.count).map fun i => r.first + i

/-- DPTR and DLEN of a neuron that has a destination list. -/
def Core.listOf (c : Core) (r : Region) (n : Nat) : Nat × Nat :=
  if r.model ≤ 1 then (fld (c.record r n) 20 10, fld (c.record r n) 9 0)
  else if r.model = 3 then
    let w := c.mem.rdN (r.addr n) 2
    (w % 2048, w / 2048)
  else (0, 0)

/-- Parameter set i fails for a model: a reserved field, or a row of Table 3.6 (03 R97). -/
def Core.checkPset (c : Core) (model i : Nat) : Conds :=
  let p := c.pset i
  [(decide (fld p 2 0 ≠ 0), .rsvdSet), (decide (model ≤ 1) && !psetOk model p, .range)]

/-- The checks of 03 R92, R95, R97 and R124. -/
def Core.checkOwn (c : Core) : Conds :=
  let rs := c.regions.filter fun r => bit r.w 61
  [(c.regions.any fun r => decide (fld r.w 27 0 ≠ 0), .rsvdSet), (decide (fld c.ctl 11 0 ≠ 0), .rsvdSet),
   (decide (fld c.spill 63 16 ≠ 0), .rsvdSet), (decide (4096 < c.neurons), .range),
   (rs.any fun r => decide (0x4000 < r.base + r.count * recSize r.model), .range),
   (decide (c.stallLimit < 10) || decide (10000000 < c.stallLimit), .range),
   (decide (fld c.ctl 14 13 = 3), .range), (decide (64 < fld c.spill 6 0), .range),
   (decide (512 < fld c.spill 15 7 + fld c.spill 6 0), .range)] ++
  rs.flatMap fun r =>
    (if 2 ≤ r.model then c.checkPset r.model r.pset else []) ++
    (if 4096 < c.neurons then [] else r.all.flatMap fun n =>
      let l := c.listOf r n
      (decide (2048 < l.1 + l.2), Status.range) ::
        (if r.model ≤ 1 then c.checkPset r.model (c.psetOf r n) else []))

/-! Header sets and axon tables (04 Table 4.5) -/

/-- Bytes of a row. -/
def rowBytes (e : W64) : Nat := 8 * ((axLen e * axBits e + 63) / 64)

/-- The two half-open ranges share a byte. -/
def overlaps (a n b m : Nat) : Bool := decide (0 < n) && decide (0 < m) && decide (a < b + m) && decide (b < a + n)

/-- Where a row stands. -/
def rowAt (e : W64) : Nat := 8 * axRow e

/-- The checks on axon entry e of a set with table at [tb, tb + tn) and plastic area at [pb, pb + pn). -/
def axonConds (n tb tn pb pn : Nat) (e : W64) : Conds :=
  let len := axLen e
  let a := rowAt e
  let sz := rowBytes e
  [(decide (fld e 6 0 ≠ 0), .rsvdSet), (decide (2 ≤ axFmt e), .range), (decide (4096 < len), .range),
   (decide (0 < len) && (decide (a < 0x80) || decide (0x10000 < a + sz) || overlaps a sz tb tn), .range),
   (decide (0 < len) && decide (axFmt e = 0) && decide (n < axTbase e + len), .range),
   (decide (0 < len) && decide (axFmt e = 1) && decide (n ≤ axTbase e), .range),
   (decide (0 < len) && !axPl e && overlaps a sz pb pn, .range),
   (axPl e && decide (12288 < axPidx e + len), .range),
   (decide (0 < len) && axPl e && (decide (a < pb) || decide (pb + pn < a + sz)), .range)]

/-- Two axon entries name the same row: its place, its length and its encoding (04 R140: a row may be shared). -/
def sameRow (e f : W64) : Bool :=
  decide (rowAt e = rowAt f) && decide (axLen e = axLen f) && decide (axFmt e = axFmt f) && decide (axWid e = axWid f)

/-- Some other row of the set overlaps the plastic row of entry i (04 Table 4.5). -/
def rowClash (rows : List (Nat × W64)) (i : Nat) (e : W64) : Bool :=
  rows.any fun q => decide (q.1 ≠ i) && !sameRow e q.2 &&
    overlaps (rowAt e) (rowBytes e) (rowAt q.2) (rowBytes q.2)

/-- The checks on one header set and its axon table (04 R140, R145). -/
def Core.checkSet (c : Core) (g : Bool) : Conds :=
  let t := c.table g
  let p := c.plastic g
  let tb := 8 * axBase t
  let tn := 8 * axCount t
  let pb := 8 * fld p 63 51
  let pn := 8 * fld p 50 38
  let place := decide (axCount t ≤ 4096) && (tn = 0 || (decide (16 ≤ axBase t) && decide (tb + tn ≤ 65536)))
  let area := pn = 0 || (decide (16 ≤ fld p 63 51) && decide (pb + pn ≤ 65536) && !overlaps pb pn tb tn)
  [(decide (fld t 26 0 ≠ 0), .rsvdSet), (decide (fld p 37 0 ≠ 0), .rsvdSet), (!place, .range), (!area, .range)] ++
    (if place then
      let rows := (List.range (axCount t)).map fun a => (a, c.axon t a)
      rows.flatMap fun q => axonConds c.neurons tb tn pb pn q.2 ++
        [(decide (0 < axLen q.2) && axPl q.2 && rowClash rows q.1 q.2, .range)]
    else [])

/-! Destination lists (02 R41, R48; 04 R150) -/

/-- The conditions on a DST word that a list reaches. -/
def dstConds (delayLimit : Nat) (w : W64) : Conds :=
  [(bit w 62 || bit w 59 || decide (fld w 19 0 ≠ 0) ||
      (bit w 63 && (decide (fld w 55 52 ≠ 0) || decide (fld w 35 24 ≠ 0))), .rsvdSet),
   (decide (delayLimit < fld w 61 60), .range),
   (bit w 63 && (decide (fld w 61 60 ≠ 0) || decide (fld w 58 56 ≠ 0)), .range),
   (!bit w 63 && (decide (8 ≤ fld w 55 52) || decide (128 < fld w 42 36 + 2 ^ fld w 58 56)), .range)]

/-- The DST words that the lists of the enabled regions reach with DOFF d (04 R148). -/
def Core.listWords (c : Core) (d : Nat) : List W64 :=
  (c.regions.filter fun r => decide (r.model ≠ 2)).flatMap fun r => r.all.flatMap fun n =>
    let l := c.listOf r n
    (List.range l.2).map fun i => c.rd64 (aDST + 8 * ((l.1 + i + d) % 2048))

/-- The checks on the destination lists of one header set. -/
def Core.checkLists (c : Core) (delayLimit : Nat) (g : Bool) : Conds :=
  if 4096 < c.neurons then [] else (c.listWords (dOff (c.table g))).flatMap (dstConds delayLimit)

/-! Dense descriptors (05 Table 5.8) -/

/-- No neuron of the range is RELAY. -/
def Core.noRelay (c : Core) (first count : Nat) : Bool :=
  (List.range count).all fun i => match c.regionOf (first + i) with
    | some r => decide (r.model ≠ 3)
    | none => true

/-- The checks on one dense descriptor for the header sets in force. -/
def Core.checkDense (c : Core) (sets : List Bool) (d : DenseD) : Conds :=
  let sz := 64 * d.ob * d.ib
  let a := 8 * d.woff
  let inEnd := d.xaddr + (d.nb - 1) * d.xstride + d.k
  let outEnd := d.oaddr + (d.nb - 1) * d.ostride + d.m
  let one (v : Nat) : Bool := decide (1 ≤ v) && decide (v ≤ 4096)
  let sizes := one d.k && one d.m && one d.nb
  [(decide (d.fmt ≠ 0), .version), (d.rsvd, .rsvdSet), (!sizes, .range),
   (!d.xsrc && decide (d.xshift ≠ 0), .range),
   (sizes && (decide (a < 0x80) || decide (0x10000 < a + sz) || sets.any fun g =>
      overlaps a sz (8 * axBase (c.table g)) (8 * axCount (c.table g)) ||
      overlaps a sz (8 * fld (c.plastic g) 63 51) (8 * fld (c.plastic g) 50 38)), .range),
   (!d.xsrc && decide (0x200000 < inEnd), .range),
   (d.xsrc && (decide (c.neurons < inEnd) || !((List.range d.nb).all fun b => c.noRelay (d.xaddr + b * d.xstride) d.k)),
     .range),
   (decide (d.omode = 3) && decide (0x200000 < outEnd), .range),
   (decide (d.omode ≠ 3) && (decide (c.neurons < outEnd) ||
      !((List.range d.nb).all fun b => c.noRelay (d.oaddr + b * d.ostride) d.m)), .range),
   (decide (d.omode = 2) && (decide (d.paddr % 4 ≠ 0) || decide (0x200000 < d.paddr + 4 * d.nb * d.m)), .range),
   (d.biasEn && (decide (d.baddr % 4 ≠ 0) || decide (0x200000 < d.baddr + 4 * d.m)), .range)]

/-- The checks on every descriptor that a DENSE operation of the active table names (05 R178). -/
def Core.checkDenses (c : Core) (sets : List Bool) : Conds :=
  (c.tabOps.filter fun o => decide (opcode o.w = 4)).flatMap fun o =>
    (List.range (min o.n 16)).flatMap fun k => c.checkDense sets (c.dense ((fld o.w 59 56 + k * o.stride) % 16))

/-! Learning (06 Table 6.1) -/

/-- The checks that a learning core adds, for the set that CGEN names after the commit. -/
def Core.checkLearn (c : Core) : Conds :=
  if !c.learns then []
  else
    let rows := c.plasticRows 0 4096
    let targets := rows.flatMap fun q => (List.range (axLen q.2)).map fun k => (c.synapse q.2 k).1
    let ctl := c.rd64 aLRNCTL
    let traces := (c.tabOps.filter fun o => decide (opcode o.w = 3))
    let cover (i : Nat) : Bool := traces.all fun o =>
      decide (fld o.w 59 48 ≤ i) && decide (i < fld o.w 59 48 + fld o.w 47 35)
    let setConds (s : Nat) : Conds :=
      let l := c.lset s
      let r := fld l 61 58
      [(decide (fld l 63 62 ≠ 0), .range), (decide (4 < r), .range),
       (bit l 57 && decide (fld l 29 10 = 0), .range),
       ((decide (r = 3) || decide (r = 4)) && !bit ctl 61, .range),
       (decide (fld l 9 0 ≠ 0) || decide (c.rd64 (aLSET + 32 * s + 8) ≠ 0) ||
          decide (c.rd64 (aLSET + 32 * s + 16) ≠ 0) || decide (c.rd64 (aLSET + 32 * s + 24) ≠ 0), .rsvdSet)]
    [(rows.any fun q => decide (1024 ≤ q.1), .range), (rows.any fun q => decide (axWid q.2 = 0), .range),
     (targets.any fun n => decide (2048 ≤ n) || (c.learnSet n).isNone, .range),
     (decide (traces.length ≠ 1) || traces.any fun o => o.rep, .range),
     (rows.any fun q => !cover q.1, .range), (targets.any fun n => !cover n, .range),
     (decide (fld ctl 63 62 ≠ 0), .range), (decide (fld ctl 32 0 ≠ 0), .rsvdSet),
     (bit ctl 61 && (decide (fld ctl 60 49 < 1024) || decide (4096 < fld ctl 60 49 + 16)), .range)] ++
      (targets.filterMap c.learnSet).flatMap setConds

/-! A core, and the device -/

/-- The spill area of the core overlaps the delay area of its tile (04 R160). -/
def State.spillClash (s : State) (k : Nat) (c : Core) : Bool :=
  let t := k / 136
  overlaps (fld c.spill 15 7 * 0x1000) (fld c.spill 6 0 * 0x1000) (s.dlyBase t * 0x10000) (s.dlyDepth t * 0x1000)

/-- The shadows of a core with those that a commit took and that it has still to apply. -/
def Core.gathered (c : Core) : Core :=
  match c.due with
  | some d => { c with shadow := shadowOver c.shadow d, due := none }
  | none => c

/-- What a commit leaves of a core: the shadows applied, and CGEN the generation g. -/
def Core.afterCommit (c : Core) (g : Bool) : Core := { c.gathered.applied with cgen := g }

/-- Every condition that refuses the commit on core k. -/
def State.checkCore (s : State) (gen : Bool) (k : Nat) : Conds :=
  let c := (s.core k).afterCommit (s.reconf.cgen.xor gen)
  let sets := if gen then [false, true] else [c.cgen]
  c.checkOwn ++ c.checkTable ++ sets.flatMap c.checkSet ++ sets.flatMap (c.checkLists s.delayLimit) ++
    c.checkDenses sets ++ c.checkLearn ++ [(s.spillClash k c, .range)]

/-- The cores that a commit covers (02 R82): those of resident tiles that are not UNCONFIGURED, and those whose
    window has been written since they became so. -/
def State.covered (s : State) : List Nat :=
  (s.cores.filter fun e => (decide (e.2.state ≠ .unconfigured) || e.2.written) && (s.vtOf (e.1 / 136)).isSome).map
    Prod.fst

/-- The status of the check of a commit over the device, manifest aside (02 R81). -/
def State.commitStatus (s : State) (gen : Bool) : Status :=
  pickAll (s.covered.flatMap (s.checkCore gen))

/-- The largest DELAY in the committed lists of core c (02 R48). -/
def Core.maxDelay (c : Core) : Nat :=
  ((c.listWords (dOff (c.table c.cgen))).map fun w => fld w 61 60).foldl max 0

/-- Core k is covered by a commit (02 R82). -/
def State.covers (s : State) (k : Nat) : Bool :=
  let c := s.core k
  (decide (c.state ≠ .unconfigured) || c.written) && (s.vtOf (k / 136)).isSome

/-- A commit takes the shadows of the core: they are applied when its boundary work comes to it, and later shadow writes
    wait for a later commit (02 R80, R83). -/
def Core.take (c : Core) : Core := { c.gathered with shadow := [], due := some c.gathered.shadow }

/-- What a commit changes in a core, for CANCEL or a shadow write before OPEN (log 27); a core keeps the first. -/
def Core.undoOf (c : Core) (l : Tab (Option W64)) : Undo :=
  let words := (aLASTEPOCH, c.rd64 aLASTEPOCH) :: l.filterMap fun e => e.2.map fun _ => (e.1, c.rd64 e.1)
  match c.undo with
  | some u => { u with shadow := shadowOver l u.shadow, words := words ++ u.words }
  | none =>
    { shadow := l, words := words, cgen := c.cgen, fresh := decide (c.state = .unconfigured), committed := c.committed, written := c.written }

/-- Apply what a commit took of core k, CGEN being RECONF.CGEN (02 R82, R83, 06 R197): the shadows come into force, a core
    that starts to learn takes LAST_EPOCH, and UNCONFIGURED becomes READY. In a settle round of several members what it
    changes is kept until OPEN. -/
def State.applyDue (s : State) (k : Nat) : State :=
  let c := s.core k
  match c.due with
  | none => s
  | some l =>
    let c' := { ({ c with due := none }).force l with cgen := s.reconf.cgen, committed := true, written := false }
    let c' := if c'.learns && !c.learns then c'.wr64 aLASTEPOCH (w64 (s.lrn.epoch.toNat % 2 ^ 32)) else c'
    let c' := if s.eng.round.isSome && !s.alone then { c' with undo := some (c.undoOf l) } else c'
    s.setCore k (if c.state = .unconfigured then { c' with state := .ready } else c')

/-- Apply a commit to core k at once (02 R82). -/
def State.commitCore (s : State) (k : Nat) : State := (s.updCore k Core.take).applyDue k

/-- STEP.DELAY_MAX after a commit. -/
def State.setDelayMax (s : State) : State :=
  s.wn (rk 0 0x3C02 3) ((s.cores.map fun e => if e.2.committed then e.2.maxDelay else 0).foldl max 0)

end Sys2Proof.Machine
end

