-- ==== Sys2Proof/Machine/Crypto.lean ====
section
/-! DEFINITION. SHA-384 and the check of an ECDSA signature on brainpoolP384r1 (12 R425): every hash and every
    signature of the device. Hashes, points and signatures are big-endian. -/

namespace Sys2Proof.Machine

/-! SHA-384 -/

/-- The first eighty primes: SHA-384 takes its constants from their roots (PRESUMED, log 75: FIPS 180-4, which the
    specification names by the name of the hash alone). -/
def shaPrimes : List Nat :=
  (List.range 410).filter fun n => decide (2 ≤ n) && (List.range n).all fun d => decide (d < 2 ∨ 20 < d) || decide (n % d ≠ 0)

/-- The integer k-th root of n, found bit by bit: the bits of `r` above bit i are decided. -/
def rootBits (k n : Nat) : Nat → Nat → Nat
  | 0, r => r
  | i + 1, r => rootBits k n i (if (r + 2 ^ i) ^ k ≤ n then r + 2 ^ i else r)

/-- The first 64 bits of the fraction of the k-th root of p. -/
def rootWord (k p : Nat) : Nat := rootBits k (p * 2 ^ (64 * k)) 69 0 % 2 ^ 64

/-- The 80 round constants: from the cube roots of the primes. -/
def shaK : List Nat := shaPrimes.map (rootWord 3)

/-- The sum modulo 2^64. -/
def add64 (a b : Nat) : Nat := (a + b) % 2 ^ 64

/-- Rotate a 64-bit number right. -/
def rotr (n x : Nat) : Nat := x / 2 ^ n + x % 2 ^ n * 2 ^ (64 - n)

/-- The large sigma of the rounds. -/
def bigSigma (i j k x : Nat) : Nat := Nat.xor (Nat.xor (rotr i x) (rotr j x)) (rotr k x)

/-- The small sigma of the schedule. -/
def smallSigma (i j k x : Nat) : Nat := Nat.xor (Nat.xor (rotr i x) (rotr j x)) (x / 2 ^ k)

/-- One round with constant k and schedule word w on the eight words of the chaining value: a new first word, a new
    fifth word, and every other word moves on by one place. -/
def shaRound (k w : Nat) (v : List Nat) : List Nat :=
  let a := v.getD 0 0
  let e := v.getD 4 0
  let pick := Nat.xor (v.getD 6 0) (Nat.land e (Nat.xor (v.getD 5 0) (v.getD 6 0)))
  let most := Nat.lor (Nat.land a (Nat.lor (v.getD 1 0) (v.getD 2 0))) (Nat.land (v.getD 1 0) (v.getD 2 0))
  let t := add64 (w + k) (v.getD 7 0 + pick + bigSigma 14 18 41 e)
  add64 t (most + bigSigma 28 34 39 a) :: v.take 3 ++ add64 t (v.getD 3 0) :: (v.drop 4).take 3

/-- The rounds over the constants, with the window of the next sixteen schedule words. -/
def shaRounds : List Nat → List Nat → List Nat → List Nat
  | [], _, v => v
  | k :: ks, win, v =>
    let w := win.getD 0 0
    let next := (smallSigma 19 61 6 (win.getD 14 0) + win.getD 9 0 + smallSigma 1 8 7 (win.getD 1 0) + w) % 2 ^ 64
    shaRounds ks (win.drop 1 ++ [next]) (shaRound k w v)

/-- The n 8-byte big-endian words of a byte string. -/
def beWords : Nat → Bytes → List Nat
  | 0, _ => []
  | n + 1, b => beNat (b.take 8) :: beWords n (b.drop 8)

/-- One block of 128 bytes. -/
def shaBlock (v : List Nat) (b : Bytes) : List Nat := (v.zip (shaRounds shaK (beWords 16 b) v)).map fun q => add64 q.1 q.2

/-- The n blocks of a padded message. -/
def shaBlocks : Nat → Bytes → List Nat → List Nat
  | 0, _, v => v
  | n + 1, b, v => shaBlocks n (b.drop 128) (shaBlock v (b.take 128))

/-- The initial value of SHA-384: from the square roots of the ninth to the sixteenth prime. -/
def shaInit : List Nat := ((shaPrimes.drop 8).take 8).map (rootWord 2)

/-- The message with its padding and its length in bits. -/
def shaPad (m : Bytes) : Bytes :=
  let z := (239 - m.length % 128) % 128
  m ++ [0x80] ++ List.replicate z 0 ++ beBytes 16 (8 * m.length)

/-- SHA-384: the first six words, 48 bytes. -/
def sha384 (m : Bytes) : Bytes :=
  let p := shaPad m
  ((shaBlocks (p.length / 128) p shaInit).take 6).flatMap (beBytes 8)

/-! ECDSA on brainpoolP384r1 -/

/-- The field of the curve. -/
def ecP : Nat := 0x8CB91E82A3386D280F5D6F7E50E641DF152F7109ED5456B412B1DA197FB71123ACD3A729901D1A71874700133107EC53
/-- Coefficient A of the curve. -/
def ecA : Nat := 0x7BC382C63D8C150C3C72080ACE05AFA0C2BEA28E4FB22787139165EFBA91F90F8AA5814A503AD4EB04A8C7DD22CE2826
/-- Coefficient B of the curve. -/
def ecB : Nat := 0x04A8C7DD22CE28268B39B55416F0447C2FB77DE107DCD2A62E880EA53EEB62D57CB4390295DBC9943AB78696FA504C11
/-- The x coordinate of the base point. -/
def ecGx : Nat := 0x1D1C64F068CF45FFA2A63A81B7C13F6B8847A3E77EF14FE3DB7FCAFE0CBD10E8E826E03436D646AAEF87B2E247D4AF1E
/-- The y coordinate of the base point. -/
def ecGy : Nat := 0x8ABE1D7520F9C2A45CB1EB8E95CFD55262B70B29FEEC5864E19C054FF99129280E4646217791811142820341263C5315
/-- The order of the base point. -/
def ecQ : Nat := 0x8CB91E82A3386D280F5D6F7E50E641DF152F7109ED5456B31F166E6CAC0425A7CF3AB6AF6B7FC3103B883202E9046565

/-- b^e mod m, over the n low bits of e. -/
def powMod (m : Nat) : Nat → Nat → Nat → Nat
  | 0, _, _ => 1 % m
  | n + 1, b, e =>
    let r := powMod m n (b * b % m) (e / 2)
    if e % 2 = 1 then r * b % m else r

/-- The inverse modulo a prime of at most 384 bits. -/
def invMod (m a : Nat) : Nat := powMod m 384 a (m - 2)

/-- A point of the curve; none is the point at infinity. -/
abbrev EcPoint := Option (Nat × Nat)

/-- The sum of two points. -/
def ecAdd : EcPoint → EcPoint → EcPoint
  | none, q => q
  | p, none => p
  | some (x1, y1), some (x2, y2) =>
    if x1 = x2 ∧ (y1 + y2) % ecP = 0 then none
    else
      let l := if x1 = x2 then (3 * x1 * x1 + ecA) * invMod ecP (2 * y1 % ecP) % ecP
        else (y2 + (ecP - y1)) * invMod ecP ((x2 + (ecP - x1)) % ecP) % ecP
      let x3 := (l * l + 2 * ecP - x1 - x2) % ecP
      some (x3, (l * ((x1 + ecP - x3) % ecP) + ecP - y1) % ecP)

/-- k times a point, over the n low bits of k. -/
def ecMul : Nat → Nat → EcPoint → EcPoint
  | 0, _, _ => none
  | n + 1, k, p =>
    let r := ecMul n (k / 2) (ecAdd p p)
    if k % 2 = 1 then ecAdd r p else r

/-- A 97-byte uncompressed public key as a point of the curve. -/
def ecKey (b : Bytes) : Option (Nat × Nat) :=
  let x := beNat ((b.drop 1).take 48)
  let y := beNat ((b.drop 49).take 48)
  if b.length = 97 ∧ b.getD 0 0 = 0x04 ∧ x < ecP ∧ y < ecP ∧
      y * y % ecP = (x * x * x + ecA * x + ecB) % ecP then some (x, y) else none

/-- The signature r ‖ s of 96 bytes over message m verifies under public key k. -/
def ecdsaOk (k m sig : Bytes) : Bool :=
  match ecKey k with
  | none => false
  | some q =>
    let r := beNat (sig.take 48)
    let t := beNat ((sig.drop 48).take 48)
    if sig.length = 96 ∧ 1 ≤ r ∧ r < ecQ ∧ 1 ≤ t ∧ t < ecQ then
      let w := invMod ecQ t
      let u1 := beNat (sha384 m) * w % ecQ
      let u2 := r * w % ecQ
      match ecAdd (ecMul 384 u1 (some (ecGx, ecGy))) (ecMul 384 u2 (some q)) with
      | some (x, _) => decide (x % ecQ = r)
      | none => false
    else false

end Sys2Proof.Machine
end

