-- ==== Sys2Proof/Machine/Space.lean ====
section
/-! DEFINITION. The device address space (09 R283 to R292, 13 R441): where an address leads, and one access by
    BAR2, a DMA engine or a manifest check. -/

namespace Sys2Proof.Machine

/-- Where a device address leads. `hold` names the domain whose wake the access waits for; none is the copy phase
    of a swap (R285). -/
inductive Place where
  | lp (a : Nat)
  | core (k off : Nat)
  | image (a : Nat)
  | imageEnd
  | tsm (t off : Nat)
  | bank (q off : Nat)
  | hold (d : Option Nat)
  | mcOff
  | miss
deriving DecidableEq, Repr

/-- Bytes of LPDDR5X that are mapped: MEM.USABLE while MEM.STATE is READY (R284, R288, R290). -/
def State.usable (s : State) : Nat :=
  if s.rn (rk 0 0x3500 1) = 1 then s.rn (rk 0 0x3500 3) * 2 ^ 30 else 0

/-- VT[v].IMAGE; 0xFFFF none. -/
def State.imageSlot (s : State) (v : Nat) : Nat := s.rn (rk 0 (0x3600 + v) 2)
/-- LPDDR5X address of byte off of core slot sl of the image of v (R309). -/
def State.imageAddr (s : State) (v sl off : Nat) : Nat := s.imageSlot v * 2 ^ 24 + sl * 0x20000 + off

/-- The controller's power domain that holds LPDDR5X address a (R289, 13 Table 13.1). -/
def mcDomain (a : Nat) : Nat := 78 + a / 256 % 8

/-- A place in LPDDR5X, by the state of its controller (R292). -/
def State.lpPlace (s : State) (a : Nat) (p : Place) : Place :=
  if s.usable ≤ a then .miss
  else match s.rn (rDomain (mcDomain a)) with
    | 0 => .mcOff
    | 2 | 4 => .hold (some (mcDomain a))
    | _ => p

/-- A place in a tile, by the state of its domain (13 R441). -/
def State.tilePlace (s : State) (t : Nat) (p : Place) : Place :=
  match s.rn (rDomain t) with
  | 0 => .miss
  | 2 | 4 => .hold (some t)
  | _ => p

/-- A swap is copying virtual tile v (R285, R315). -/
def State.copying (s : State) (v : Nat) : Bool :=
  match s.swap with
  | some w => decide (w.vt = v) && (decide (w.stage = .copyOut) || decide (w.stage = .copyIn))
  | none => false

/-- A swap is copying virtual tile v out of its physical tile (Table 9.9): its windows are held. -/
def State.copyingOut (s : State) (v : Nat) : Bool :=
  match s.swap with
  | some w => decide (w.vt = v) && decide (w.stage = .copyOut)
  | none => false

/-- Where device address a leads (Table 9.1, R284 to R287). A TSM window is held while its tile is copied out; while v
    is not resident, also during its copy-in, it follows R284 (R286). -/
def State.placeOf (s : State) (a : Nat) : Place :=
  if a < 0x4000000000 then s.lpPlace a (.lp a)
  else if 0x10000000000 ≤ a ∧ a < 0x10200000000 then
    let l := (a - 0x10000000000) / 0x20000
    let off := a % 0x20000
    let v := l / 128
    if s.copying v then .hold none
    else if (s.servedBy v).isSome then
      match s.coreOfLcid l with
      | some k => s.tilePlace (k / 136) (.core k off)
      | none => .miss
    else if s.tileKind v = 2 ∧ s.imageSlot v ≠ 0xFFFF then
      if off < 0x1E000 then .image (s.imageAddr v (l % 128) off) else .imageEnd
    else .miss
  else if 0x18000000000 ≤ a ∧ a < 0x18080000000 then
    let v := (a - 0x18000000000) / 0x400000
    let off := a % 0x400000
    if s.copyingOut v then .hold none
    else match s.servedBy v with
      | some t => if off < 0x200000 then s.tilePlace t (.tsm t off) else .miss
      | none => .miss
  else if 0x1C000000000 ≤ a ∧ a < 0x1C000080000 then .bank ((a - 0x1C000000000) / 64) (a % 64)
  else .miss

/-- The 64-byte granules that n bytes from a touch; every boundary of the map is a multiple of 64. -/
def granules (a n : Nat) : List Nat :=
  if n = 0 then [] else (List.range ((a + n - 1) / 64 - a / 64 + 1)).map fun i => (a / 64 + i) * 64

/-- The places that n bytes from a touch. -/
def State.places (s : State) (a n : Nat) : List Place := (granules a n).map s.placeOf

/-- Where a read leads: one of a parked image, at the controller that holds it (R285, R292); a write to an image is dropped
    whatever its controller's state. -/
def State.readPlace (s : State) (p : Place) : Place :=
  match p with
  | .image x => s.lpPlace x (.image x)
  | p => p

/-- The places that a read of n bytes from a touches. -/
def State.placesRd (s : State) (a n : Nat) : List Place := (s.places a n).map s.readPlace

/-- Lane l of the last bank that combining queue q delivered; 0 beyond the lanes, for an unbound queue, and for
    a queue whose tile is not resident (R287). -/
def State.bankByte (s : State) (q off : Nat) : Byte :=
  if (s.comb q).bound.isSome ∧ s.tileKind (q / 16) = 1 then
    BitVec.ofNat 8 (((s.comb q).last.getD (off / 4) 0).toNat / 2 ^ (8 * (off % 4)) % 256)
  else 0

/-- One byte read, and whether its word is uncorrectable (12 R418). -/
def State.peekByte (s : State) (a : Nat) : Byte × Bool :=
  match s.readPlace (s.placeOf a) with
  | .lp x | .image x => (s.lpddr.rd x, false)
  | .core k off =>
    (((s.shown k).windowRead s.eng.tagRef.toNat off 1).getD 0 0, (s.core k).bad.contains (off / 8 * 8))
  | .tsm t off => ((s.tile t).tsm.rd off, (s.tile t).poison.contains (off / 8 * 8))
  | .bank q off => (s.bankByte q off, false)
  | .imageEnd | .hold _ | .mcOff | .miss => (0, false)

/-- n bytes read from a upward, and whether one of their words is uncorrectable. -/
def State.peek (s : State) (a n : Nat) : Bytes × Bool :=
  let l := (List.range n).map fun i => s.peekByte (a + i)
  (l.map Prod.fst, l.any Prod.snd)

/-- ADDR.MISS. -/
def rAddrMiss : Nat := rk 0 0x3501 1
/-- MEM.WAKE_HOLDS. -/
def rWakeHolds : Nat := rk 0 0x3500 0x0A
/-- MEM.OFF_MISS. -/
def rOffMiss : Nat := rk 0 0x3500 0x0B

/-- The access waits: a place it touches is held (R285, R292, 13 R441). -/
def holds (ps : List Place) : Bool := ps.any fun p => match p with | .hold _ => true | _ => false

/-- The domains that a held access wakes. -/
def wakesOf (ps : List Place) : List Nat :=
  ps.foldl (fun l p => match p with | .hold (some d) => addNew d l | _ => l) []

/-- An access that is held wakes what holds it; one that a controller holds counts in MEM.WAKE_HOLDS (R292). -/
def State.holdAccess (s : State) (ps : List Place) : State :=
  let ds := wakesOf ps
  let s := if ds.any fun d => decide (78 ≤ d) then s.bump rWakeHolds else s
  ds.foldl (fun s d => s.wake d 4) s

/-- What a read counts: ADDR.MISS for an address of R284, MEM.OFF_MISS for a controller in OFF. -/
def State.countRead (s : State) (ps : List Place) : State :=
  let s := if ps.contains .miss then s.bump rAddrMiss else s
  if ps.contains .mcOff then s.bump rOffMiss else s

/-- What a write counts: as a read, and ADDR.MISS also for an image and for the bank view (R285, R287). -/
def State.countWrite (s : State) (ps : List Place) : State :=
  let lost := ps.any fun p => match p with | .miss | .image _ | .imageEnd | .bank _ _ => true | _ => false
  let s := if lost then s.bump rAddrMiss else s
  if ps.contains .mcOff then s.bump rOffMiss else s

/-- A read of n bytes at a that nothing holds. -/
def State.readSpace (s : State) (a n : Nat) : (Bytes × Bool) × State := (s.peek a n, s.countRead (s.placesRd a n))

/-- Write one granule's bytes to LPDDR5X or TSM; every other place drops them here. -/
def State.pokeFlat (s : State) (a : Nat) (d : Bytes) : State :=
  match s.placeOf a with
  | .lp x => { s with lpddr := s.lpddr.wrBytes x d }
  | .tsm t off => s.updTile t fun q =>
      { q with
        tsm := q.tsm.wrBytes off d,
        poison := q.poison.filter fun b => !(decide (off ≤ b) && decide (b + 8 ≤ off + d.length)) }
  | _ => s

/-- Write bytes from a upward, granule by granule. -/
def State.pokeGranules : List Nat → Nat → Bytes → State → State
  | [], _, _, s => s
  | g :: gs, a, d, s =>
    let n := g + 64 - a
    State.pokeGranules gs (g + 64) (d.drop n) (s.pokeFlat a (d.take n))

/-- The core windows that a write touches, each with its offset and its part of the data. -/
def windowParts (s : State) (a : Nat) (d : Bytes) : List (Nat × Nat × Bytes) :=
  ((granules a d.length).foldl (fun (l : List Nat) g => addNew (g / 0x20000) l) []).filterMap fun w =>
    let lo := max a (w * 0x20000)
    let hi := min (a + d.length) ((w + 1) * 0x20000)
    match s.placeOf lo with
    | .core k off => some (k, off, (d.drop (lo - a)).take (hi - lo))
    | _ => none

/-- A write at a that nothing holds: LPDDR5X and TSM take it, each core window works on its part (R283 to R287,
    R302). -/
def State.writeSpace (s : State) (a : Nat) (d : Bytes) : State :=
  let t := State.pokeGranules (granules a d.length) a d (s.countWrite (s.places a d.length))
  (windowParts s a d).foldl (fun t q => t.windowWrite q.1 q.2.1 q.2.2) t

/-- A posted write at a: it is held while a place it touches is held, and lands otherwise (11 R364, R487). -/
def State.postWrite (s : State) (a : Nat) (d : Bytes) : State :=
  let ps := s.places a d.length
  if holds ps then
    let s := s.holdAccess ps
    { s with ids := s.ids + 1, pcie := { s.pcie with held := s.pcie.held ++ [(s.ids + 1, a, d)] } }
  else s.writeSpace a d

/-- BAR2 writes still held whose identity is listed. -/
def State.heldIds (s : State) : List Nat := s.pcie.held.map fun e => e.1

/-- Let land every held write that nothing holds any longer, and complete the fences that wait for no held write
    (02 R77, 11 R487). -/
def State.releaseWrites (s : State) : State :=
  let held := s.pcie.held
  let s := { s with pcie := { s.pcie with held := [] } }
  let s := held.foldl (fun s e =>
    if holds (s.places e.2.1 e.2.2.length) then
      { s with pcie := { s.pcie with held := s.pcie.held ++ [e] } }
    else s.writeSpace e.2.1 e.2.2) s
  senders.foldl (fun s n =>
    match (s.pathN n).op with
    | some (.waiting (.fence ids)) =>
      if ids.any fun i => s.heldIds.contains i then s else s.answer n .ok false []
    | _ => s) s

/-- Complete a host read with data; poisoned data counts in HOST.POISON (11 R364). -/
def State.complete (s : State) (d : Bytes) (bad : Bool) : State :=
  let s := if bad then s.bump (rk 0 0x3002 2) else s
  { s with pcie := { s.pcie with cpl := d, poisoned := bad } }

/-- MEM.ECC_MODE is INLINE (R290). -/
def State.inlineEcc (s : State) : Bool := s.rn (rk 0 0x3500 4) = 1

/-- An uncorrectable LPDDR5X word at a: MEM.UE, MEM.UE_ADDR and a MEMORY record (R291, 12 Table 12.9). -/
def State.memUe (s : State) (a how : Nat) : State :=
  if s.inlineEcc then
    (((s.bump (rk 0 0x3500 6)).wn (rk 0 0x3500 7) a)).post 4 0 0 (w64 a) (w64 (2 * 2 ^ 60 + how * 2 ^ 56))
  else s

/-- A place lies in LPDDR5X. -/
def Place.lpddr : Place → Option Nat
  | .lp x | .image x => some x
  | _ => none

/-- What the controller does with what a read of n bytes at a meets, when LPDDR5X is read under INLINE: it counts a word it
    corrects in MEM.CE, and reports an uncorrectable one; answer whether the read met one (R291). -/
def State.eccRead (s : State) (a n : Nat) (e : Ecc) : Bool × State :=
  match ((s.placesRd a n).filterMap Place.lpddr).head?, s.inlineEcc, e with
  | some _, true, .corrected => (false, s.bump (rk 0 0x3500 5))
  | some x, true, .bad => (true, s.memUe x 0)
  | _, _, _ => (false, s)

/-- A read of n bytes at a that nothing holds, with what its LPDDR5X words meet. -/
def State.readEcc (s : State) (a n : Nat) (e : Ecc) : (Bytes × Bool) × State :=
  let r := s.readSpace a n
  let u := r.2.eccRead a n e
  ((r.1.1, r.1.2 || u.1), u.2)

/-- Complete the held BAR2 reads that nothing holds any longer; the last completion stays in `cpl`. -/
def State.releaseReads (s : State) : State :=
  let held := s.pcie.heldRd
  let s := { s with pcie := { s.pcie with heldRd := [] } }
  held.foldl (fun s e =>
    if holds (s.placesRd e.1 e.2.1) then { s with pcie := { s.pcie with heldRd := s.pcie.heldRd ++ [e] } }
    else
      let r := s.readEcc e.1 e.2.1 e.2.2
      r.2.complete r.1.1 r.1.2) s

/-- A hold has ended: every access it held goes on. -/
def State.release (s : State) : State := s.releaseWrites.releaseReads

/-- The device address of offset off of the window of LCID l (Table 9.1). -/
def windowAddr (l off : Nat) : Nat := 0x10000000000 + l * 0x20000 + off

/-- A write into the core window of an LCID (03 R88, R482; 09 R285). -/
def execCoreWindowWrite (l off : Nat) (data : Bytes) (s : State) : Out :=
  .next (s.postWrite (windowAddr l off) data)

end Sys2Proof.Machine
end

