-- ==== Sys2Proof/Machine/Trust.lean ====
section
/-! DEFINITION. The configuration hash, the join hash and the manifest checks (12 R428 to R432). -/

namespace Sys2Proof.Machine

/-- LRN.EPOCH_LEN. -/
def rEpochLen : Nat := rk 0 0x4400 1

/-- The settings block of the join hash (12 R429). -/
def State.settings (s : State) : Bytes :=
  leBytes 1 (s.rn rMode) ++ leBytes 1 (s.rn rOverrun) ++ leBytes 1 (s.rn rLateAction) ++ [0] ++
    leBytes 4 (s.rn rPeriod) ++ leBytes 4 (s.rn rEpochLen) ++ leBytes 4 0

/-- Recompute CONFIG.JOIN_HASH and send a JOIN record on every port that is UP, DEGRADED or FENCED (12 R429). -/
def State.rehash (s : State) : State :=
  ({ s with reconf := { s.reconf with joinHash := sha384 (s.reconf.hash ++ s.settings) } }).sendJoins

/-- A commit applies: it chains its manifest digest, or zeros, into CONFIG.HASH and counts (12 R428). -/
def State.chainHash (s : State) (digest : Bytes) (named : Bool) : State :=
  let s := { s with reconf := { s.reconf with hash := sha384 (s.reconf.hash ++ digest) } }
  let s := s.bump (rk 0 0x0C10 4)
  (if named then s else s.bump (rk 0 0x0C10 5)).rehash

/-- Signed-configuration mode is in force (12 R432). -/
def State.signedMode (s : State) : Bool := s.fuses.custHash.any fun b => decide (b ≠ 0)

/-- The session of path p was granted SIGNED_CONFIG (11 R394). -/
def State.grantedSigned (s : State) (p : Path) : Bool :=
  match (s.path p).session with
  | some q => q.features.getLsbD 1
  | none => false

/-- A byte as the commit will leave it: a shadowed word of a core reads as its shadow (12 R431). -/
def State.pendByte (s : State) (a : Nat) : Byte :=
  match s.placeOf a with
  | .core k off =>
    if shadowed (off / 8 * 8) then
      BitVec.ofNat 8 (((s.core k).pend64 (off / 8 * 8)).toNat / 2 ^ (8 * (off % 8)) % 256)
    else (s.peekByte a).1
  | _ => (s.peekByte a).1

/-- One manifest entry: device, address, length and hash (12 R430). -/
structure ManEntry where
  dev  : Nat
  addr : Nat
  len  : Nat
  hash : Bytes
  rsvd : Bool
deriving DecidableEq, Repr

/-- Read one 64-byte entry. -/
def manEntry (b : Bytes) : ManEntry :=
  let w0 := w64 (leNat (b.take 8))
  let w1 := w64 (leNat ((b.drop 8).take 8))
  { dev := fld w0 51 48, addr := fld w0 47 0, len := fld w1 31 0, hash := (b.drop 16).take 48,
    rsvd := decide (fld w0 63 52 ≠ 0) || decide (fld w1 63 32 ≠ 0) }

/-- The n entries of a manifest. -/
def manEntries : Nat → Bytes → List ManEntry
  | 0, _ => []
  | n + 1, b => manEntry (b.take 64) :: manEntries n (b.drop 64)

/-- An entry lies in mapped LPDDR5X, TSM windows of resident tiles or core windows of resident cores (R431). -/
def State.manPlace (s : State) (e : ManEntry) : Bool :=
  (s.places e.addr e.len).all fun p => match p with
    | .lp _ | .core _ _ | .tsm _ _ | .hold _ => true
    | _ => false

/-- The bytes of an entry as the commit will leave them. -/
def State.manBytes (s : State) (e : ManEntry) : Bytes := (List.range e.len).map fun i => s.pendByte (e.addr + i)

/-- The check of the manifest bytes, in order, to the first step that fails (12 R431). -/
def State.manStatus (s : State) (m : Bytes) : Status :=
  let w0 := w64 (leNat (m.take 8))
  let count := fld w0 19 0
  let signed := bit w0 61
  let body := 64 + 64 * count
  let es := manEntries count (m.drop 64)
  let trailer := m.drop body
  let mine := es.filter fun e => decide (e.dev = s.dev)
  let shape := pickAll
    [(decide (fld w0 63 62 ≠ 0), .version),
     (decide (fld w0 60 20 ≠ 0) || es.any (·.rsvd) ||
       (signed && ((trailer.drop 97).take 63).any fun b => decide (b ≠ 0)), .rsvdSet),
     (decide (count = 0) || decide (m.length ≠ body + if signed then 256 else 0), .range)]
  if shape ≠ .ok then shape
  else if !(mine.all s.manPlace) then .range
  else if !(mine.all fun e => decide (sha384 (s.manBytes e) = e.hash)) then .auth
  else if s.signedMode && !(signed && decide (sha384 (trailer.take 97) = s.fuses.custHash) &&
      ecdsaOk (trailer.take 97) (m.take body) ((trailer.drop 160).take 96) &&
      decide ((m.drop 16).take 48 = s.reconf.hash)) then .auth
  else .ok

/-- What a commit on path p finds in the manifest that CONFIG.MANIFEST_ADDR and _LEN name: its status, the digest it
    chains, and whether it names one (R428, R431, R432). -/
def State.manifest (s : State) (p : Path) : Status × Bytes × Bool :=
  let len := s.rn (rk 0 0x0C10 3)
  let mode : Status := if s.signedMode && !s.grantedSigned p then .auth else .ok
  if len = 0 then (if s.signedMode then .auth else .ok, List.replicate 48 0, false)
  else
    let m := (s.peek (s.rn (rk 0 0x0C10 2)) len).1
    (Status.pick mode (s.manStatus m), sha384 m, true)

/-- CONFIG.AUTH_FAIL counts a commit refused with AUTH (R431). -/
def rAuthFail : Nat := rk 0 0x0C10 6

end Sys2Proof.Machine
end

