-- ==== Sys2Proof/Machine/Engine.lean ====
section
/-! DEFINITION. The step engine (02 R45 to R73), the boundary work of the cores (06 R195 to R206), live
    reconfiguration (02 R80 to R86), and the fencing of a core by the driver (03 R125 to R127). -/

namespace Sys2Proof.Machine

/-! Registers -/

/-- STEP.STRETCH_COUNT, STRETCH_TIME, FIRE_WAIT, LATE, LATE_DROP, SHORT and WAVES stand at subindices 1 to 7. -/
def rStep (sub : Nat) : Nat := rk 0 0x3C04 sub
/-- RECONF.AT_STEP, APPLIED and OLDGEN_DROP. -/
def rReconf (sub : Nat) : Nat := rk 0 0x3C05 sub
/-- STEP.SOURCE. -/
def rSource : Nat := rk 0 0x3C06 1

/-! Passes and phases -/

/-- Core k counts as pass done (02 R63). -/
def State.coreDone (s : State) (k : Nat) : Bool :=
  decide ((s.core k).state ≠ .running) || (s.core k).passDone || !s.tileLive (k / 136)

/-- The AND of the pass-done flags of this device. -/
def State.passesDone (s : State) : Bool := s.cores.all fun e => s.coreDone e.1

/-- LRN.STATE: 0 IDLE, 1 PENDING, 2 MIDNIGHT, 3 HELD (06 R199, R206, R209). -/
def State.lrnState (s : State) : Nat :=
  if s.inNight then (if s.mon.vwarn then 3 else 2) else if s.lrn.pend then 1 else 0

/-- Change the engine. -/
def State.updEng (s : State) (f : Eng → Eng) : State := { s with eng := f s.eng }

/-- FIRE ends when every pass is done (02 R49). -/
def State.phaseStep (s : State) : State :=
  if s.eng.phase = .fire ∧ s.eng.round = none ∧ s.passesDone then s.updEng fun e => { e with phase := .deliver }
  else s

/-- Everything but VWARN lets SETTLE of the next step be issued by this device's engine (02 R66, R67, R73). -/
def State.settleReady (s : State) : Bool :=
  let e := s.eng
  e.starting && e.round.isNone ||
  decide (e.phase ≠ .stopped) && e.round.isNone && !e.stopReq && e.deadline.isSome && s.leads &&
    (if s.deadlineMode then !e.prev else e.closed)

/-- A STEP.PHASE that would have reached SETTLE reads HELD while VWARN is latched (13 R454). -/
def State.holdPhase (s : State) : State :=
  if s.mon.vwarn && s.settleReady then s.updEng fun e => { e with phase := .held } else s

/-- The engine stops, and RUNNING cores become READY (02 R73, 03 R125). -/
def State.stopSteps (s : State) : State :=
  ({ s with
     eng :=
       { s.eng with
         phase := .stopped, count := s.eng.count + 1, stopReq := false, diverge := false, deadline := none,
         closed := false, prev := false, waveCur := none, wavePrev := none },
     cores := s.cores.map fun q =>
       (q.1, if q.2.state = .running then { q.2 with state := .ready, pass := .idle, rep := none } else q.2) } :
    State).sendJoins

/-- The last open step has closed after a STOP: the engine stops. -/
def State.tryStop (s : State) : State :=
  let e := s.eng
  if e.stopReq ∧ e.closed ∧ !e.prev ∧ e.round = none ∧ e.phase ≠ .stopped then s.stopSteps else s

/-- Place the deadline of the open step (02 R49, R52). -/
def State.placeDeadline (s : State) : State :=
  (s.updEng fun e =>
    { e with
      deadline := some e.timer,
      phase := if e.round.isSome || e.closed then e.phase else .dusk }).holdPhase

/-- This device's engine times steps, and SETTLE of the next step to open has been issued (R51, R52). -/
def State.timing (s : State) : Bool := !s.stopped && s.leads && !(s.eng.starting && s.eng.round.isNone)

/-- An event of the source that STEP.SOURCE names (10 R353): the first after SETTLE places the deadline, one
    between the deadline and the next SETTLE counts in STEP.SRC_EXTRA. -/
def State.stepSource (s : State) (src : Nat) : State :=
  if !s.timing || s.rn rSource ≠ src || src = 0 then s
  else if s.eng.deadline.isNone then s.placeDeadline else s.bump (rk 0 0x3C06 2)

/-! Boundary work of a core (02 Table 2.8, 06 R196) -/

/-- Change the settle round. -/
def State.updRound (s : State) (f : Round → Round) : State := s.updEng fun e => { e with round := e.round.map f }

/-- The core holds its input and runs MIDNIGHT; a core that missed epochs counts them first (06 R199, R204). -/
def State.startMidnight (s : State) (k gap : Nat) : State :=
  (s.updCore k fun c => { c.count 32 aMISSED gap with midnight := true, night := .start }).updRound fun r =>
    { r with begun := true }

/-- The modulator latch of step 3 of SETTLE on core k, whose pass is over (06 R194); none on a tile that is not ON
    (13 R446). -/
def State.latchCore (s : State) (k : Nat) : State :=
  let s := s.updRound fun r => { r with late := r.late.filter fun n => decide (n ≠ k) }
  if s.domUp (k / 136) then s.updCore k Core.latchMod else s

/-- Step 3 of SETTLE on core k: the modulator latch, MIDNIGHT, and the shadow commit (06 R194, R196, R204). A MIDNIGHT
    that LRN.CMD started before RUN runs on, and the commit follows it. -/
def State.coreBoundary (s : State) (k : Nat) : State :=
  let s := s.latchCore k
  if (s.core k).midnight then s
  else if s.nightFor k then s.startMidnight k ((s.core k).epochGap s.epochBefore)
  else s.applyDue k

/-! Commits -/

/-- The entries of ring (sl, g) of tile t, oldest first. -/
def State.ringFlits (s : State) (t sl g : Nat) : List W64 :=
  let r := s.ring t sl g
  (List.range r.held).map fun i => (s.tile t).tsm.rd64 (s.ringAddr t sl g (r.head + i))

/-- Keep the entries of ring (sl, g) whose CGEN is cg, and count the others in RECONF.OLDGEN_DROP (R85). -/
def State.ringKeep (s : State) (cg : Bool) (t sl g : Nat) : State :=
  let r := s.ring t sl g
  let fs := s.ringFlits t sl g
  let keep := fs.filter fun f => decide (flCgen f = cg)
  if keep.length = fs.length then s
  else
    let s := s.updTile t fun d =>
      let d := { d with rings := Tab.set { head := 0, held := 0 } d.rings (4 * sl + g) { r with held := keep.length } }
      { d with
        tsm := ((List.range keep.length).zip keep).foldl
          (fun m q => m.wr64 (s.ringAddr t sl g (r.head + q.1)) q.2) d.tsm }
    s.bumpBy 64 (rReconf 6) (fs.length - keep.length)

/-- At SETTLE(b) of a GENERATION commit, discard the delay-slot events of the old generation whose step is b + 2 or
    later (R85). Under DEADLINE no delay reaches step b + 3, and the ring of its tag may still hold step b − 1 (R47). -/
def State.dropOldGen (s : State) (b : Nat) : State :=
  s.tiles.foldl (fun s e =>
    e.2.rings.foldl (fun s q =>
      let r := (q.1 % 4 + 4 - b % 4) % 4
      if r = 2 ∨ (r = 3 ∧ !s.deadlineMode) then s.ringKeep s.reconf.cgen e.1 (q.1 / 4) (q.1 % 4) else s) s) s

/-- A GENERATION commit switches CGEN and opens its window (R84, R85). -/
def State.switchGen (s : State) (gen : Bool) (b : W64) : State :=
  if gen then
    ({ s with reconf := { s.reconf with cgen := !s.reconf.cgen, win := some b, late := false } } : State).dropOldGen b.toNat
  else s

/-- A commit that applied at step b is concluded: RECONF.STATE leaves ARMED, RECONF.APPLIED names b, and the manifest
    digest is chained (R82 to R84, 12 R428). -/
def State.concludeCommit (s : State) (gen : Bool) (b : W64) : State :=
  let r := s.reconf
  let s : State :=
    { s with
      reconf := { r with state := if gen then .window else .idle, req := none, win := if gen then r.win else none } }
  (s.wr (rReconf 5) b).chainHash r.digest r.named

/-- The device's side of a commit that applies and is concluded at once (R82). -/
def State.applyDevice (s : State) (gen : Bool) (b : W64) : State := (s.switchGen gen b).concludeCommit gen b

/-- Apply the commit to every core it covers. -/
def State.commitCores (s : State) : State :=
  (s.covered.foldl (fun s k => s.commitCore k) s).setDelayMax

/-- Every core that the commit covers gives it the shadows it holds now (R80, R83). -/
def State.takeCovered (s : State) : State := s.covered.foldl (fun s k => s.updCore k Core.take) s

/-- The commit armed for SETTLE(b). -/
def State.armedFor (s : State) (b : W64) : Option Bool :=
  if s.reconf.state = .armed then
    match s.reconf.req with
    | some (g, b') => if b' = b then some g else none
    | none => none
  else none

/-- A commit would apply shadows of a core whose tile domain is not ON (13 R446). -/
def State.shadowAsleep (s : State) : Bool :=
  s.covered.any fun k => !s.domOn (k / 136) && decide ((s.core k).shadow ≠ [])

/-- A shadow write has returned a commit to LOADING while OPEN(b) waits for it (R81, R86). -/
def State.resumes (s : State) (b : Nat) : Bool :=
  decide (s.reconf.state = .loading) &&
    (match s.reconf.req, s.eng.round with
     | some (_, b'), some r => decide (b'.toNat = b) && decide (r.step = b')
     | _, _ => false)

/-- The step whose SETTLE has not yet been issued and comes next (R81). -/
def State.nextSettle (s : State) : W64 := if s.eng.starting && s.eng.round.isNone then s.eng.count else s.eng.settled + 1

/-- The commit applies in the round that is held for it, as at SETTLE: MIDNIGHT first on a learning core (R81, R86; 06
    R195, R196). A core whose pass or MIDNIGHT is still running applies it afterwards. -/
def State.lateCommit (s : State) (r : Round) (gen : Bool) : State :=
  let s := (s.updRound fun r => { r with commit := some gen }).switchGen gen r.step
  let ks := s.covered
  let first := !r.night && ks.any fun k => (s.core k).learns
  let s := if first then
      ({ s with lrn := { s.lrn with epoch := s.lrn.epoch + 1 } } : State).updRound fun r => { r with night := true }
    else s
  let s := s.takeCovered
  let s := ks.foldl (fun s k =>
    if r.late.contains k || (s.core k).midnight then s
    else if first && s.nightFor k then s.startMidnight k ((s.core k).epochGap s.epochBefore)
    else s.applyDue k) s
  (if s.alone then s.concludeCommit gen r.step else s).setDelayMax

/-- A tile's cores have done their boundary work (R68, 06 R199): the pass is done, no MIDNIGHT runs, and under STEPPED no
    delivery of the step before is left in an input buffer (R54; log 76). A tile that is not live answers at once (13
    R446). -/
def State.tileSettled (s : State) (t : Nat) : Bool :=
  !s.tileLive t || s.cores.all fun e =>
    decide (e.1 / 136 ≠ t) || (s.coreDone e.1 && !e.2.midnight &&
      (s.freeRun || decide (e.2.state ≠ .running ∧ e.2.state ≠ .ready) ||
        e.2.inbuf.all fun q => decide (q.into = s.eng.tagRef)))

/-- A tile acknowledges: a core that left its pass or its MIDNIGHT without ending it takes the latch and the commit that
    wait for it (R83, 06 R194, R196). -/
def State.finishTile (s : State) (t : Nat) : State :=
  ((s.cores.map Prod.fst).filter fun k => decide (k / 136 = t)).foldl (fun s k =>
    let s := if s.eng.round.any fun r => r.late.contains k then s.latchCore k else s
    if (s.core k).midnight then s else s.applyDue k) s

/-- This device's reconfiguration state for the step of the round (R86). -/
def State.ownReconf (s : State) (r : Round) : Nat :=
  if r.commit.isSome then 2
  else if s.reconf.state = .loading ∧ (s.reconf.req.map Prod.snd = some r.step) then 1
  else 0

/-- The reconfiguration states of the round, by device. -/
def State.reconfs (s : State) (r : Round) : List (Nat × Nat) :=
  (s.dev, s.ownReconf r) :: r.peers.map fun q => (q.1, q.2.toNat)

/-- Every acknowledgement has been reduced: the mesh nodes of this device, and on the leader every other member. -/
def State.ackedAll (s : State) (r : Round) : Bool :=
  (List.range 91).all r.acked.contains && !s.midnights &&
    (!s.leads || s.others.all fun d => r.peers.any fun q => decide (q.1 = d))

/-- Some device is still LOADING with a commit requested for the step (R86). -/
def State.someLoading (s : State) (r : Round) : Bool := (s.reconfs r).any fun q => decide (q.2 = 1)
/-- Some devices are ARMED for the step and others hold no commit for it (R86). -/
def State.isSplit (s : State) (r : Round) : Bool :=
  ((s.reconfs r).any fun q => decide (q.2 = 2)) && (s.reconfs r).any fun q => decide (q.2 ≠ 2 ∧ q.2 ≠ 1)

/-- The devices of a reconfiguration state as a mask. -/
def maskOf (f : Nat → Bool) (l : List (Nat × Nat)) : Nat :=
  ((l.filter fun q => f q.2).map fun q => 2 ^ q.1).sum

/-- When every acknowledgement is in and OPEN must wait, the wait begins; a split posts RECONF_SPLIT once and reads HELD
    (R86, 12 Table 12.9). While OPEN waits only for a device that is LOADING, STEP.PHASE keeps SETTLE (DEDUCED, log 77). -/
def State.holdRound (s : State) : State :=
  match s.eng.round with
  | some r =>
    if s.ackedAll r && (s.someLoading r || s.isSplit r) then
      let s := s.updEng fun e => { e with heldAt := match e.heldAt with | some t => some t | none => some e.timer }
      if s.leads && s.isSplit r && !r.split then
        let l := s.reconfs r
        let s := s.updEng fun e => { e with phase := .held, round := some { r with split := true } }
        s.post 11 0 0 r.step
          (w64 (maskOf (fun n => decide (n = 2)) l + maskOf (fun n => decide (n ≠ 2 ∧ n ≠ 1)) l * 256))
      else s
    else s
  | none => s

/-- A follower acknowledges to the leader once its own units have, and again when its reconfiguration state for the step
    has changed (R65, R68, R86; 08 R279, Table 8.6). -/
def State.sendSack (s : State) : State :=
  match s.eng.round with
  | some r =>
    let rc := s.ownReconf r
    if s.follows && s.ackedAll r && decide (r.sent ≠ some rc) then
      ((s.sendVc2 (s.rn rLeader) [vc2Flit 11 (rc * 2 ^ 58 + (if s.eng.diverge then 2 ^ 57 else 0) +
        r.step.toNat % 2 ^ 56)]).updRound fun r => { r with sent := some rc }).updEng fun e => { e with diverge := false }
    else s
  | none => s

/-- OPEN of step b waits on the leader for a split, or on a follower that has acknowledged; a device without a commit for
    b may then still arm one (R86; log 27). -/
def State.mayJoin (s : State) (b : Nat) : Bool :=
  !s.alone && s.eng.round.any fun r =>
    r.work && r.commit.isNone && decide (r.step.toNat = b) && (if s.leads then r.split else s.ackedAll r)

/-- RECONF.COMMIT = 1 or 2 on path p (R81, R82; 12 R431, R432; 13 R446). -/
def commitAct (p : Path) (gen : Bool) : Act := fun s =>
  let at' := s.rn (rReconf 2)
  let busy := decide (s.reconf.state = .armed) || decide (s.reconf.state = .window)
  let late := s.resumes at' || s.mayJoin at'
  let passed := decide (at' ≠ 0) && decide (at' < s.nextSettle.toNat) && !late
  let unnamed := decide (at' = 0) && !s.alone
  let m := s.manifest p
  let st := Status.pick (pickAll [(busy, .busy), (!s.stopped && (passed || unnamed), .range), (s.shadowAsleep, .state)])
    (Status.pick (s.commitStatus gen) m.1)
  if st = .auth then .done .auth [] (s.bump32 rAuthFail)
  else if st ≠ .ok then .refuse st
  else
    let s := { s with reconf := { s.reconf with digest := m.2.1, named := m.2.2 } }
    if s.stopped then okAct (s.applyDevice gen s.eng.count).commitCores
    else
      let b := if at' = 0 then s.nextSettle else w64 at'
      let s := { s with reconf := { s.reconf with state := .armed, req := some (gen, b) } }
      match s.eng.round with
      | some r => okAct (if late && r.work then s.lateCommit r gen else s)
      | none => okAct s

/-- RECONF.COMMIT = 1. -/
def execReconfCommitBoundary (p : Path) (s : State) : Out :=
  .next (operate p false 2 0x3C05 1 [1] (commitAct p false) s)

/-- RECONF.COMMIT = 2. -/
def execReconfCommitGeneration (p : Path) (s : State) : Out :=
  .next (operate p false 2 0x3C05 1 [2] (commitAct p true) s)

/-- Discard the shadows of every core, and the commit requested (R81, R86). -/
def State.cancel (s : State) : State :=
  let s := if s.reconf.state = .armed then s.takeBack else s
  { s with
    cores := s.cores.map fun e => (e.1, { e.2 with shadow := [] }),
    reconf := { s.reconf with state := .idle, req := none } }

/-- RECONF.COMMIT = 3. -/
def cancelAct : Act := fun s =>
  guardAct [(decide (s.reconf.state ≠ .loading) && decide (s.reconf.state ≠ .armed), .state)] s fun s =>
    okAct s.cancel

/-- RECONF.COMMIT = 3. -/
def execReconfCancel (p : Path) (s : State) : Out := .next (operate p false 2 0x3C05 1 [3] cancelAct s)

/-! The boundary (02 Table 2.8) -/

/-- SETTLE(j) is a MIDNIGHT boundary (06 R195). -/
def State.nightAt (s : State) (j : W64) : Bool :=
  let n := s.rn rEpochLen
  (decide (n ≠ 0) && decide (j ≠ 0) && decide (j.toNat % n = 0)) || s.lrn.pend ||
    ((s.armedFor j).isSome && s.covered.any fun k => (s.core k).learns)

/-- Step 3 of SETTLE(j): the window of a GENERATION commit ends, the armed commit applies, EPOCH advances at a
    MIDNIGHT boundary, and every core whose pass is done does its boundary work; the others do it when their pass
    ends (R68, R83, R84). With several members RECONF.STATE stays ARMED until OPEN, so that a split can be cancelled
    (R86; log 27). -/
def State.boundaryWork (s : State) (j : W64) (r : Round) : State :=
  let rc := s.reconf
  let ended := match rc.win with | some b => decide (b.toNat + 2 ≤ j.toNat) | none => false
  let s := if ended then
      { s with reconf := { rc with state := if rc.late then .loading else .idle, win := none, late := false } }
    else s
  let commit := s.armedFor j
  let night := s.nightAt j
  let waits := s.deadlineMode && !s.passesDone
  let ks := s.cores.map Prod.fst
  let ready := ks.filter s.coreDone
  let s :=
    { s with
      lrn := if night then { epoch := s.lrn.epoch + 1, pend := false } else s.lrn,
      eng :=
        { s.eng with
          round := some { r with work := true, commit := commit, night := night, late := ks.filter fun k => !s.coreDone k } } }
  let s := if waits then s.bump (rStep 3) else s
  let s := match commit with
    | some g => (s.switchGen g j).takeCovered
    | none => s
  let s := ready.foldl (fun s k => s.coreBoundary k) s
  match commit with
  | some g => (if s.alone then s.concludeCommit g j else s).setDelayMax
  | none => s

/-- SETTLE(j): stretch is counted (R66, R67), every unit takes its tag reference (R46), and boundary work begins
    unless VWARN withholds it (13 R454). -/
def State.settleTo (s : State) (j : W64) : State :=
  let e := s.eng
  let delay := match e.deadline with | some d => e.timer - d | none => 0
  let late := if s.deadlineMode then decide (0 < delay)
    else decide (e.phase = .dusk) || (decide (e.phase = .held) && e.deadline.isSome)
  let s := if late then (s.bump (rStep 1)).bumpBy 64 (rStep 2) delay else s
  let open' := decide (e.phase ≠ .stopped) && !e.starting
  let prev := open' && s.deadlineMode && !e.closed
  let r : Round :=
    { step := j, work := false, acked := [], peers := [], commit := none, night := false, begun := false, split := false,
      late := [], sent := none }
  let s := s.updEng fun e =>
    { e with
      phase := if s.mon.vwarn then .held else .settle, settled := j, tagRef := BitVec.ofNat 2 j.toNat,
      timer := 0, deadline := none, closed := false, prev := prev,
      wavePrev := if prev then e.waveCur else none, waveCur := none, starting := !open', round := some r,
      heldAt := none }
  let s := if s.leads then s.broadcast [vc2Flit 10 (j.toNat % 2 ^ 56)] else s
  if s.mon.vwarn then s else s.boundaryWork j r

/-- The step that the next SETTLE opens. -/
def State.nextStep (s : State) : W64 := if s.eng.starting then s.eng.count else s.eng.count + 1

/-- SETTLE: issued by this device's own engine when the overrun policy allows, or received from the leader. -/
def execSettle (lead : Option W64) (s : State) : Out :=
  .next (s.clk fun s =>
    match lead with
    | none =>
      if s.settleReady then (if s.mon.vwarn then s.holdPhase else s.settleTo s.nextStep) else s
    | some j =>
      if s.follows && s.eng.round.isNone then (if s.stopped then (s.settleTo j).sendJoins else s.settleTo j) else s)

/-- An acknowledgement of SETTLE. -/
def State.takeSack (s : State) (u : SackFrom) : State :=
  match s.eng.round with
  | none => s
  | some r =>
    match u with
    | .node n =>
      if r.work && (decide (70 ≤ n) || s.tileSettled n) then
        ((if n < 70 then s.finishTile n else s).updRound fun r => { r with acked := addNew n r.acked }).holdRound.sendSack
      else s
    | .device d rc dv =>
      if s.leads && s.isMember d && decide (d ≠ s.dev) then
        (s.updEng fun e =>
          { e with
            round := some { r with peers := (d, rc) :: r.peers.filter fun q => decide (q.1 ≠ d) },
            stopReq := e.stopReq || dv }).holdRound
      else s

/-- A unit acknowledges SETTLE. -/
def execSack (u : SackFrom) (s : State) : Out := .next (s.clk fun s => s.takeSack u)

/-- A core at OPEN: RUNNING and READY cores of a live tile start their pass; a core of a sleeping or frozen tile
    counts as done (03 R118, R125; 13 R441, R446). -/
def openCore (live : Bool) (c : Core) : Core :=
  if c.state = .running ∨ c.state = .ready then
    if live then
      { c with
        state := .running, pass := .run, pc := BitVec.ofNat 8 c.stbBase, passDone := false, rep := none }
    else { c with pass := .idle, passDone := true, rep := none }
  else c

/-- OPEN: STEP.COUNT becomes the step, and every RUNNING core starts its pass (Table 2.8, R49). The time that R86 held
    OPEN counts as stretch, on every member and for a split as for a device that was LOADING (DEDUCED, log 77). -/
def State.openTo (s : State) (j : W64) (r : Round) : State :=
  let s := match s.eng.heldAt with
    | some t => (s.bump (rStep 1)).bumpBy 64 (rStep 2) (s.eng.timer - t)
    | none => s
  let s := match r.commit with
    | some g => (if s.alone then s else s.concludeCommit g r.step).setDelayMax
    | none => s
  let s := if s.leads then s.broadcast [vc2Flit 12 (j.toNat % 2 ^ 56)] else s
  let s :=
    { s with
      cores := s.cores.map (fun (q : Nat × Core) =>
        (q.1, { openCore (s.tileLive (q.1 / 136)) q.2 with undo := none })),
      eng :=
        { s.eng with
          phase := if s.eng.deadline.isSome then .dusk else .fire, count := j, starting := false, round := none,
          heldAt := none } }
  s.phaseStep

/-- A follower whose own count differs from the step that the leader opens (08 R279, 12 Table 12.9). -/
def State.checkDiverge (s : State) (j : W64) : State :=
  if s.nextStep = j then s
  else (s.post 10 0 0 (s.eng.count + 1) j).updEng fun e => { e with diverge := true }

/-- OPEN: issued when every acknowledgement has been reduced, or received from the leader. -/
def execOpenStep (lead : Option W64) (s : State) : Out :=
  .next (s.clk fun s =>
    match s.eng.round with
    | none => s
    | some r =>
      match lead with
      | none =>
        if s.leads && s.ackedAll r && !s.someLoading r && !s.isSplit r then s.openTo r.step r else s
      | some j =>
        if s.follows && s.ackedAll r then (s.checkDiverge j).openTo j r else s)

/-! RUN, STOP, PERIOD -/

/-- STEP.RUN (R72, 08 R277, R280): the sequence of Table 2.8 from step 2 for step STEP.COUNT. -/
def runAct : Act := fun s =>
  guardAct [(!s.leads || !s.isMember s.dev || !s.stopped || decide (s.joinState = 1) || decide (s.joinState = 3), .state)] s fun s =>
    let s := s.updEng fun e => { e with starting := true, stopReq := false }
    okAct (if s.mon.vwarn then s.holdPhase else s.settleTo s.nextStep).sendJoins

/-- STEP.RUN. -/
def execStepRun (p : Path) (s : State) : Out := .next (operate p false 2 0x3C03 1 [1] runAct s)

/-- STEP.STOP (R73). A RUN that VWARN still holds opens no step. -/
def stopAct : Act := fun s =>
  if s.stopped then okAct s
  else if s.eng.starting ∧ s.eng.round = none then
    okAct (s.updEng fun e => { e with starting := false, phase := .stopped }).sendJoins
  else okAct (s.updEng fun e => { e with stopReq := true }).tryStop

/-- STEP.STOP. -/
def execStepStop (p : Path) (s : State) : Out := .next (operate p false 2 0x3C03 2 [1] stopAct s)

/-- STEP.FENCE: it waits for the posted BAR2 writes that a target still holds; the operations before it on the path
    have taken effect (R77). -/
def fenceAct : Act := fun s =>
  if s.heldIds.isEmpty then okAct s else .wait (.fence s.heldIds) s

/-- STEP.FENCE. -/
def execStepFence (p : Path) (s : State) : Out := .next (operate p false 2 0x3C03 3 [1] fenceAct s)

/-- A STEP.FENCE has waited 10 ms (R78). -/
def execStepFenceTimeout (p : Path) (s : State) : Out :=
  .next (s.clk fun s =>
    match (s.path p).op with
    | some (.waiting (.fence _)) => s.answer (sender p) .timeout false []
    | _ => s)

/-- The step timer of this device may place the deadline of the open step (R51, R52). -/
def State.timesStep (s : State) : Bool := s.timing && s.eng.deadline.isNone && decide (s.rn rSource = 0)

/-- STEP.PERIOD: even, 1,000 to 1,000,000,000 ns; below the running count it counts in STEP.SHORT, and the deadline
    falls on the next tick (R52, Table 2.9). -/
def periodAct (v : Nat) : Act := fun s =>
  guardAct [(decide (v < 1000) || decide (1000000000 < v) || decide (v % 2 = 1), .range)] s fun s =>
    let short := s.timesStep && decide (v / 2 < s.eng.timer)
    let s := (s.wn rPeriod v).rehash
    okAct (if short then s.bump (rStep 6) else s)

/-- A write of STEP.PERIOD. -/
def execStepPeriodWrite (p : Path) (v : W32) (s : State) : Out :=
  .next (operate p false 2 0x3C01 0 (leBytes 4 v.toNat) (periodAct v.toNat) s)

/-- The step timer's count reaches STEP.PERIOD ÷ 2, and is at least that (R52). -/
def execStepDeadline (s : State) : Out :=
  .next (s.clk fun s =>
    if s.timesStep then
      (s.updEng fun e => { e with timer := max e.timer (s.rn rPeriod / 2) }).placeDeadline
    else s)

/-- An event of an external step source. -/
def execStepSourceEvent (src : Nat) (s : State) : Out := .next (s.clk fun s => s.stepSource src)

/-! Waves (R63, R64) -/

/-- The sum of SENT[tag] over this device, modulo 2^48. -/
def State.sumSent (s : State) (tag : Nat) : BitVec 48 :=
  s.nodes.foldl (fun a e => a + Tab.get 0 e.2.sent tag) 0
/-- The sum of ACC[tag] over this device. -/
def State.sumAcc (s : State) (tag : Nat) : BitVec 48 :=
  s.nodes.foldl (fun a e => a + Tab.get 0 e.2.acc tag) 0

/-- Closure of the current step: QUIET when it comes before the deadline (R49). -/
def State.closeCur (s : State) : State :=
  ((s.updEng fun e =>
    { e with closed := true, phase := if e.deadline.isSome then e.phase else .quiet }).holdPhase).tryStop

/-- What this device contributes to a wave, as the packet it sends the leader (08 Table 8.6). -/
def State.waveFlits (s : State) (cur : Bool) (tag : Nat) : List W64 :=
  let done := if cur || s.eng.round.isSome then s.passesDone else true
  [vc2Flit 9 (tag * 2 ^ 58 + (if done then 2 ^ 57 else 0) + s.rn (rStep 7) % 2 ^ 32),
    w64 (s.sumSent tag).toNat, w64 (s.sumAcc tag).toNat]

/-- One wave for the open step `cur` or for the one before it. A balanced wave with every pass done whose SENT sum
    equals that of the wave before it detects closure (R64). -/
def State.runWave (s : State) (cur : Bool) (ps : List WaveIn) : State :=
  let e := s.eng
  let step := if cur then e.count.toNat else e.settled.toNat - 1
  let tag := step % 4
  let sent := ps.foldl (fun a q => a + q.sent) (s.sumSent tag)
  let acc := ps.foldl (fun a q => a + q.acc) (s.sumAcc tag)
  let done := (if cur || e.round.isSome then s.passesDone else true) && ps.all (·.done)
  let s := s.bump (rStep 7)
  let s := if s.follows then s.sendVc2 (s.rn rLeader) (s.waveFlits cur tag) else s
  let last := if cur then e.waveCur else e.wavePrev
  let balanced := done && decide (sent = acc)
  let closes := balanced && decide (last = some sent)
  let mark := if balanced then some sent else none
  if cur then
    let s := (s.updEng fun e => { e with waveCur := mark, turn := false }).phaseStep
    if closes then s.closeCur else s
  else
    let s := s.updEng fun e => { e with wavePrev := mark, turn := true }
    if closes then (s.updEng fun e => { e with prev := false }).holdPhase.tryStop else s

/-- A closure wave: of the open step, of the step before it while that is open under DEADLINE, or of the two in turn
    (R63, R67). Whether the wave's reading is one instant is log 14. -/
def execWave (ps : List WaveIn) (s : State) : Out :=
  .next (s.clk fun s =>
    let cur := decide (s.eng.phase ≠ .stopped) && s.eng.round.isNone && !s.eng.starting && !s.eng.closed
    let prev := decide (s.eng.phase ≠ .stopped) && s.eng.prev
    if cur && (!prev || s.eng.turn) then s.runWave true ps
    else if prev then s.runWave false ps
    else s)

/-! The end of a pass -/

/-- Core k may declare its pass done: WAITSTEP reached, its delay ring for the step empty, and every flit that this
    caused handed on (R50, 04 R156). -/
def State.passReady (s : State) (k : Nat) : Bool :=
  let c := s.core k
  decide (c.state = .running) && decide (c.pass = .release) && !c.passJobs && s.tileLive (k / 136) &&
    (match s.slotOf k with
     | some sl => decide ((s.ring (k / 136) sl (s.eng.count.toNat % 4)).held = 0)
     | none => true)

/-- Core k declares its pass done; a settle round that waited for it goes on (R50, R68). -/
def execPassDone (k : Nat) (s : State) : Out :=
  .next (if s.passReady k then
      let s := s.updCore k fun c => { c with pass := .done, passDone := true }
      let s := if s.eng.round.any fun r => r.work && r.late.contains k then s.coreBoundary k else s
      s.phaseStep
    else s)

/-! MIDNIGHT (06 R199 to R209) -/

/-- The last row of MIDNIGHT on core k is done: stage 5, and then the commit that waits for it (06 R196, R199). -/
def State.nightDone (s : State) (k ticks : Nat) : State :=
  (((s.updCore k fun c => c.nightOff s.lrn.epoch.toNat).applyDue k).pumpTile (k / 136)).nightEnd ticks

/-- Core k processes its next `rows` rows; with `bad` the row after them meets a residue mismatch, and is not written
    (06 R199, R206, R207). -/
def State.runMidnight (s : State) (k rows : Nat) (bad : Bool) (ticks : Nat) : State :=
  let s := s.updCore k fun c => Core.nightRowsStep c.nightRows rows c
  if (s.core k).nightAll then s.nightDone k ticks
  else if bad then s.residue k 2 else s

/-- MIDNIGHT of core k goes on; `ticks` is the time since the first core began stage 1. While VWARN is latched it stands
    at the end of a row (06 R206). -/
def execMidnight (k : Nat) (w : Work) (ticks : Nat) (s : State) : Out :=
  .next (if (s.core k).midnight && !s.mon.vwarn then s.runMidnight k w.n w.bad ticks else s)

/-- The cores that LRN.CMD = 1 runs on a stopped device: resident, learning, not fenced, on a tile that is ON. -/
def State.nightCores (s : State) : List Nat :=
  (s.cores.filter fun e => e.2.learns && decide (e.2.state ≠ .fenced) && (s.lcidOf e.1).isSome &&
    s.domUp (e.1 / 136)).map Prod.fst

/-- MIDNIGHT begins at once on a stopped device (06 R209). -/
def State.nightNow (s : State) : State :=
  let s := s.nightCores.foldl (fun s k => s.startMidnight k ((s.core k).epochGap s.lrn.epoch.toNat)) s
  { s with lrn := { s.lrn with epoch := s.lrn.epoch + 1 } }

/-- MIDNIGHT begins at once on a stopped device, and every core does `w` of its rows (06 R209); none with no row. -/
def State.nightStart (s : State) (w : Work) (ticks : Nat) : State :=
  if w.n = 0 then s.nightNow else s.nightCores.foldl (fun s k => s.runMidnight k w.n w.bad ticks) s.nightNow

/-- LRN.CMD = 1 (06 R206, R209): PENDING while the engine runs; on a stopped device MIDNIGHT begins at once, and the write
    returns when the last core has ended it: at once when each has so few rows that `w` covers them, `ticks` being the time. While VWARN is latched no MIDNIGHT starts, and one that runs already is waited
    for (DESIGN CHOICE, log 77). -/
def lrnMidnightAct (w : Work) (ticks : Nat) : Act := fun s =>
  if !s.stopped then okAct { s with lrn := { s.lrn with pend := true } }
  else
    guardAct [(s.swap.isSome, .busy)] s fun s =>
      if s.inNight then .wait .lrn s
      else if s.mon.vwarn then .wait .lrnHeld s
      else
        let s := s.nightStart w ticks
        if s.inNight then .wait .lrn s else okAct s

/-- VWARN has cleared: an LRN.CMD that it held begins, or is PENDING if the engine runs by now (06 R206, R209). -/
def State.lrnResume (s : State) : State :=
  let held := senders.filter fun n => decide ((s.pathN n).op = some (.waiting .lrnHeld))
  if held.isEmpty then s
  else if !s.stopped then
    held.foldl (fun s n => s.finish n .lrnHeld false .ok) { s with lrn := { s.lrn with pend := true } }
  else if s.nightCores.isEmpty then held.foldl (fun s n => s.finish n .lrnHeld false .ok) s.nightNow
  else held.foldl (fun s n => s.updPathN n fun q => { q with op := some (.waiting .lrn) }) s.nightNow

/-- LRN.CMD = 1. -/
def execLrnCmdMidnight (p : Path) (w : Work) (ticks : Nat) (s : State) : Out :=
  .next (operate p false 2 0x4400 3 [1] (lrnMidnightAct w ticks) s)

/-- Zero DACC, PRE, POST, EBITS, FBITS and MOD, and clear MACC (06 R209). -/
def Core.clearLrn (c : Core) : Core :=
  { c with
    mem := ((c.mem.clear aLRN (aLSET - aLRN)).clear aEBITS (aLRNCTL - aEBITS)).clear aMOD 16,
    macc := [] }

/-- LRN.CMD = 2. -/
def lrnClearAct : Act := fun s =>
  guardAct [(!s.stopped, .state)] s fun s =>
    okAct { s with
      cores := s.cores.map fun e => (e.1, if (s.lcidOf e.1).isSome then e.2.clearLrn else e.2) }

/-- LRN.CMD = 2. -/
def execLrnCmdClear (p : Path) (s : State) : Out := .next (operate p false 2 0x4400 3 [2] lrnClearAct s)

/-! CORE.CMD (03 R125 to R127, R132) -/

/-- CORE.SEL of a path. -/
def rCoreSel (p : Path) : Nat := rk (sender p) 0x1100 1

/-- The physical core that CORE.SEL of a path names (R132). -/
def State.selCore (s : State) (p : Path) : Option Nat := s.coreOfLcid (s.rn (rCoreSel p))

/-- CORE.CMD = 1 FENCE. -/
def coreFenceAct (p : Path) : Act := fun s =>
  match s.selCore p with
  | none => .refuse .noEntry
  | some k => okAct (s.fenceCore k 4).phaseStep

/-- CORE.CMD = 1. -/
def execCoreFence (p : Path) (s : State) : Out := .next (operate p false 2 0x1100 3 [1] (coreFenceAct p) s)

/-- A core leaves FENCED: READY with a committed configuration, UNCONFIGURED without one (R125, R127). -/
def Core.released (c : Core) : Core :=
  { c with
    state := if c.committed then .ready else .unconfigured, cause := 0, pass := .idle,
    written := if c.committed then c.written else false }

/-- CORE.CMD = 2 RELEASE. -/
def coreReleaseAct (p : Path) : Act := fun s =>
  match s.selCore p with
  | none => .refuse .noEntry
  | some k => guardAct [(decide ((s.core k).state ≠ .fenced), .state)] s fun s => okAct (s.updCore k Core.released)

/-- CORE.CMD = 2. -/
def execCoreRelease (p : Path) (s : State) : Out := .next (operate p false 2 0x1100 3 [2] (coreReleaseAct p) s)

end Sys2Proof.Machine
end

