-- ==== Sys2Proof/Machine/Road.lean ====
section
/-! DEFINITION. Where an item of the mesh goes and what becomes of it at its end: the tile map and the routes
    (08 R265 to R272, 01 Table 1.5), the destination NI (04 R152, 02 R47, R69, R85, 13 R445), the parking writer
    (09 R310, R311), and a record handed to its NI (07 R239). -/

namespace Sys2Proof.Machine

/-- Where an item goes from a mesh node. -/
inductive Dest where
  | node (m : Nat)
  | park (v : Nat)
  | unmapped
  | noRoute
  | portDown
  | stale
deriving DecidableEq, Repr

/-- The tile map's answer for virtual tile v (08 R265). -/
def State.tileDest (s : State) (v : Nat) : Dest :=
  match s.tileKind v with
  | 1 => .node (s.tilePt v)
  | 2 => .park v
  | _ => .unmapped

/-- SCTX[x].PORT: the node of the stream context's port. -/
def State.streamNode (s : State) (x : Nat) : Nat := if bit (s.rd (rk 0 (0x4080 + x) 1)) 60 then 90 else 86

/-- The connection whose combining queue a contribution is for (07 R217, R229). -/
def State.combOf (s : State) (c : Contrib) : Option Nat :=
  (s.connOf c.handle.toNat).filter fun i => decide ((s.conn i).dkind = 2)

/-- Where an item for this device goes: by its tile, its connection, or to the PCIE, DMA, HKC or TMR bridge. -/
def State.localDest (s : State) (n : Nat) (i : Item) : Dest :=
  match i.whole with
  | .event _ _ f => s.tileDest (flLcid f / 128)
  | .record r =>
    match s.connOf r.handle.toNat with
    | some i => if (s.conn i).dkind = 3 then .node (s.streamNode (s.conn i).stream) else .node 88
    | none => .stale
  | .desc d =>
    match s.connOf d.dst.toNat with
    | some i => if (s.conn i).dkind = 0 then s.tileDest ((s.conn i).dest / 128) else .node 88
    | none => .stale
  | .contrib c => match s.combOf c with | some i => s.tileDest ((s.conn i).combNo / 16) | none => .stale
  | .lanes _ _ l _ _ => s.tileDest (l.toNat / 128)
  | .sum _ _ _ _ _ _ _ => .node 88
  | .park _ _ _ _ | .parkDesc _ _ _ _ | .data _ _ _ _ => .node 87
  | .msg _ => .node 85
  | .vc2 _ _ => .node 89
  | .mark _ _ d => .node d
  | .drain _ | .transit _ _ | .frag _ _ _ => .node n

/-- A TICK, which goes only over a direct port (08 R280). -/
def isTick : Item → Bool
  | .vc2 _ (w :: _) => decide (w.toNat / 2 ^ 60 = 8)
  | _ => false

/-- Where an item at mesh node n goes: for another device to the bridge of its route, and a TICK, or from an ingress
    bridge on its way through this device, only to a direct port, which for the latter is up (08 R269 to R271, R280). -/
def State.itemDest (s : State) (n : Nat) (i : Item) : Dest :=
  let e := i.ddev s.dev
  if e = s.dev then s.localDest n i
  else match i with
    | .transit _ _ =>
      match (s.peer e).port with
      | some p => if s.portUp p then .node (70 + p) else .portDown
      | none => .portDown
    | _ =>
      match (if isTick i then (s.peer e).port else s.routed e) with
      | some p => .node (70 + p)
      | none => .noRoute

/-- k flits counted by the dropping or diverting node n in the NI counters of Table 8.13. The ingress bridge of port p counts what
    it diverts or drops at its lookup in the bank of its own node 70 + p, which NI.SEL, 0 to 69, does not reach: no entry
    reads it (DESIGN CHOICE, log 78). -/
def State.dropAt (s : State) (n sub k : Nat) : State := s.bumpBy 48 (niCtr n sub) k

/-- COMB.MISS. -/
def rCombMiss : Nat := rk 0 0x3891 0

/-- What dropping item i costs beyond the count: a QUEUE descriptor gives its credit back and posts a DESC record
    (07 R486), and lanes of a combining delivery count in COMB.MISS (07 R231). -/
def State.dropSide (s : State) (i : Item) : State :=
  if !i.closes then s
  else match i.whole with
  | .desc d =>
    match s.connOf d.dst.toNat with
    | some c => if (s.conn c).dkind = 0 then (s.creditBack c).postDesc .noEntry d.dst.toNat 0x3F 0 else s
    | none => s
  | .lanes _ _ _ _ vs => s.bumpBy 64 rCombMiss vs.length
  | _ => s

/-- A record that its connection does not take: CONN.REC_DROP and ACC (07 R239). -/
def State.recDrop (s : State) (n : Nat) (i : Item) : State := (s.bump (rk 0 0x3802 2)).itemGone n i

/-- What a dropped item adds to UNMAPPED_DROP: a descriptor counts once, whatever its flits (07 R486). -/
def droppedCount (i : Item) : Nat :=
  match i.whole with
  | .desc _ => if i.closes then 1 else 0
  | _ => i.flits

/-- An item that leaves the road at mesh node n (08 R265, R269, R271; 09 R310, R311). A diverted flit is counted in ACC
    at once, and reaches its end in the parking queue (02 R62, R78); a record whose connection has gone counts in
    CONN.REC_DROP (01 R30, 07 R239). -/
def State.offRoad (s : State) (n : Nat) (i : Item) : Dest → State
  | .node _ => s
  | .park v =>
    match i with
    | .event id _ f => ((s.dropAt n 0x0D 1).addAcc n (flTag f) 1).inject n 1 (.park id v f (s.targetStep f))
    | .desc d =>
      match s.connOf d.dst.toNat with
      | some c => s.inject n 1 (.parkDesc v ((s.conn c).dest % 128) (s.conn c).q d)
      | none => s.itemGone n i
    | _ => (s.dropSide i).itemGone n i
  | .unmapped => ((s.dropSide i).dropAt n 0x0B (droppedCount i)).itemGone n i
  | .noRoute => ((s.lostItem i).dropAt n 0x0C i.flits).itemGone n i
  | .portDown => (s.bumpBy 48 (pReg (n - 70) 0x14) i.flits).itemGone n i
  | .stale =>
    match i with
    | .record _ => s.recDrop n i
    | _ => s.itemGone n i

/-! The destination NI -/

/-- A copy for a tile that takes none: in RETENTION or waking from it without AUTOWAKE, or in OFF, where it holds
    UNCONFIGURED cores (08 R267, 13 R442, R445). -/
def State.dropCopy (s : State) (t : Nat) (q : Copy) : State :=
  let s := match s.coreOf t q.slot with
    | none => s.bumpBy 48 (niCtr t 0x0B) 1
    | some k =>
      let c := s.core k
      if c.state = CoreState.fenced ∨ c.state = CoreState.unconfigured ∨ s.tileOff t then s.fenceDrop t else s.dropAt t 0x0A 1
  s.flightEnd q.flight 1

/-- The copies of an event flit at its tile, one for each slot of its SPAN (04 R152). -/
def copiesOf (id flight : Nat) (f : W64) (delay late : Bool) (ref : BitVec 2) : List Copy :=
  (((List.range (2 ^ flSpan f)).map fun k => flLcid f % 128 + k).filter fun sl => decide (sl < 128)).map fun sl =>
    { id := id, flit := slotFlit f sl, slot := sl, flight := flight, delay := delay, late := late, into := ref, spill := none }

/-- The NI of tile t takes no event: its domain is in OFF, or in RETENTION or waking from it with AUTOWAKE 0. -/
def State.deafTile (s : State) (t : Nat) : Bool :=
  let dom := s.rn (rDomain t)
  dom = 0 || ((dom = 2 || dom = 4) && decide (s.rn (rk 0 (0x0400 + t) 3) = 0))

/-- An event flit accepted by the NI of physical tile t: dropped as late or of the old generation, or expanded into its
    copies, which the NI hands on, or drops one by one for a tile that takes none (02 R47, R69, R85; 04 R152; 08 R267; 13
    R442, R445). -/
def State.arriveEvent (s : State) (t id : Nat) (f : W64) : State :=
  let i : Item := .event id 0 f
  let r := (flTag f + 4 - s.eng.tagRef.toNat) % 4
  let late := s.deadlineMode && decide (r = 3)
  if s.reconf.win.isNone ∧ flCgen f ≠ s.reconf.cgen then (s.bump (rReconf 6)).itemGone t i
  else if late && decide (s.rn rLateAction = 1) then (s.bump (rStep 5)).itemGone t i
  else
    let fl := s.ids + 1
    let copies := copiesOf id fl f (decide (r ≠ 0) && !late) late s.eng.tagRef
    let s := { s with ids := fl, flights := Tab.put s.flights fl (t, flTag f, copies.length) }
    if s.deafTile t then (copies.foldl (fun s q => s.dropCopy t q) s).itemEnd id
    else
      let s := if late then s.bump (rStep 4) else s
      let s := s.updTile t fun d => { d with copies := d.copies ++ copies }
      if s.domUp t then s.pumpTile t else s.wake t 2

/-- Lanes of a combining delivery at physical tile t: each is written into the VAL of its ACC neuron; one whose neuron
    is no ACC neuron, or whose core is FENCED, UNCONFIGURED or none, counts in COMB.MISS (07 R231). -/
def State.writeLanes (s : State) (t slot first : Nat) (vals : List W32) : State :=
  match s.coreOf t slot with
  | none => s.bumpBy 64 rCombMiss vals.length
  | some k =>
    if (s.core k).state = .fenced ∨ (s.core k).state = .unconfigured then s.bumpBy 64 rCombMiss vals.length
    else
      ((List.range vals.length).zip vals).foldl (fun s q =>
        let c := s.core k
        match (c.regionOf (first + q.1)).filter fun r => decide (r.model = 2) && decide (first + q.1 < 4096) with
        | some r => s.setCore k (c.setVal r (first + q.1) q.2.toInt)
        | none => s.bump rCombMiss) s

/-- Take the combining deliveries at the head of the VC1 items of tile t. -/
def State.pumpLanes (t : Nat) : List Item → State → State
  | .lanes _ _ l first vs :: rest, s =>
    State.pumpLanes t rest
      ((s.updTile t fun d => { d with vc1 := rest }).writeLanes t (l.toNat % 128) first vs)
  | _, s => s

/-- An item wakes a tile that does not work; what arrives while it is ENTERING is applied as on an ON tile (13 R440). -/
def State.rouse (s : State) (t src : Nat) : State := if s.domUp t then s else s.wake t src

/-- The tile takes what it can of its VC1 items. -/
def State.pumpVc1 (s : State) (t : Nat) : State :=
  if s.domUp t then State.pumpLanes t (s.tile t).vc1 s else s

/-- A VC1 item accepted by the NI of tile t waits there; it wakes a sleeping tile (13 R445). At a tile in OFF, whose
    cores are UNCONFIGURED, lanes are skipped (13 R442). -/
def State.arriveVc1 (s : State) (t : Nat) (i : Item) : State :=
  match i with
  | .lanes _ _ _ _ vs =>
    if s.rn (rDomain t) = 0 then s.bumpBy 64 rCombMiss vs.length
    else ((s.updTile t fun d => { d with vc1 := d.vc1 ++ [i] }).rouse t 3).pumpVc1 t
  | _ => (s.updTile t fun d => { d with vc1 := d.vc1 ++ [i] }).rouse t 3

/-! The PCIE bridge (07 R231, R233, R237, R240, R243; 11 R359) -/

/-- HRING[r] registers. -/
def hReg (r sub : Nat) : Nat := rk 0 (0x3810 + r) sub
/-- HRING[r] is not DISABLED. -/
def State.hringOn (s : State) (r : Nat) : Bool := s.rn (hReg r 7) = 1

/-- A message is dropped at ring r: HRING.DISCARD, and ACC for a record (07 R243, 11 R359). -/
def State.hringDrop (s : State) (r : Nat) (m : HMsg) : State :=
  let s := s.bump (hReg r 0x0E)
  match m.item with
  | some (id, _, counted) => (if counted then s.addAcc 88 (m.step.toNat % 4) 1 else s).itemEnd id
  | none => s

/-- Ring r stages eight messages (07 R237). -/
def State.ringFull (s : State) (r : Nat) : Bool := decide (8 ≤ (s.hring r).staged.length)

/-- Stage a message for ring r. While no request may be issued it is dropped (11 R359). For a disabled ring a SUM is
    skipped and counted in COMB.MISS, and any other message, and after FORCE_DISABLE a SUM as well, is dropped (07 R231,
    R243). A message for a ring that stages eight waits, and with it every message behind it (R237). -/
def State.stage (s : State) (r : Nat) (m : HMsg) : State :=
  if !s.hostOk then (s.bump (rk 0 0x3002 3)).hringDrop r m
  else if !s.hringOn r then
    let s := if m.kind = 4 then s.bump rCombMiss else s
    if m.kind ≠ 4 ∨ (s.hring r).forced then s.hringDrop r m else s
  else
    let s := s.wake 77 5
    if s.pcie.wait.isEmpty && !s.ringFull r then s.updHring r fun h => { h with staged := h.staged ++ [m] }
    else { s with pcie := { s.pcie with wait := s.pcie.wait ++ [(r, m)] } }

/-- Stage the messages that wait, in their order, until one must go on waiting (07 R237). -/
def State.stageWait : List (Nat × HMsg) → State → State
  | [], s => { s with pcie := { s.pcie with wait := [] } }
  | (r, m) :: rest, s =>
    if s.hostOk && s.hringOn r && s.ringFull r then { s with pcie := { s.pcie with wait := (r, m) :: rest } }
    else State.stageWait rest ({ s with pcie := { s.pcie with wait := [] } }.stage r m)

/-- Room may have come for the messages that wait. -/
def State.stageNext (s : State) : State := State.stageWait s.pcie.wait s

/-- Frames of a descriptor message: the descriptor's bytes (Table 7.10). -/
def descFrames (w : W64 × W64 × W64 × W64) : List W64 := [w.1, w.2.1, w.2.2.1, w.2.2.2]

/-- A DESC message on ring side handle h with a status (Table 7.10). -/
def descMsg (st : Status) (h : Nat) (step : W32) (dev : Nat) (lcid : BitVec 16) (skind : Nat)
    (w : W64 × W64 × W64 × W64) (id : Nat) : HMsg :=
  { kind := 3, value := BitVec.ofNat 32 (st.code * 65536 + h % 65536), step := step, dev := dev, lcid := lcid,
    neuron := BitVec.ofNat 12 skind, group := 0, frames := descFrames w,
    conn := BitVec.ofNat 16 h, item := if id = 0 then none else some (id, 0, false) }

/-- A record that arrives at the PCIE bridge (07 R240): the message of Table 7.10. -/
def State.recMsg (s : State) (i : Nat) (r : Record) : HMsg :=
  { kind := if r.readout then 1 else 2, value := r.value, step := r.step, dev := r.dev, lcid := r.lcid,
    neuron := r.neuron, group := (s.conn i).group, frames := [],
    conn := (s.conn i).handle i, item := some (r.id, r.core, true) }

/-- STEP is the step before the open step, under DEADLINE (07 R240). -/
def State.lateRec (s : State) (step : W32) : Bool :=
  s.deadlineMode && decide (step.toNat = (s.eng.count.toNat + 2 ^ 32 - 1) % 2 ^ 32)

/-- An item at the PCIE bridge. -/
def State.arrivePcie (s : State) (i : Item) : State :=
  match i with
  | .record r =>
    match s.connOf r.handle.toNat with
    | some c =>
      if (s.conn c).acceptsFrom s.dev r.dev then s.stage (s.conn c).hring (s.recMsg c r) else s.recDrop 88 i
    | none => s.recDrop 88 i
  | .desc d =>
    match s.connOf d.dst.toNat with
    | some c =>
      let cn := s.conn c
      if !cn.acceptsFrom s.dev d.dev then s.itemGone 88 i
      else if cn.state = .closing then
        -- R241 order 4: an arrival at the CLOSING half is aborted
        let s := (s.updConn c fun q => { q with aborted := q.aborted + 1 }).bump (rk 0 0x3802 1)
        let s := s.itemEnd d.id
        if cn.rren then
          s.stage cn.rring (descMsg .aborted d.dst.toNat s.step32 d.dev d.lcid d.skind.toNat (descSeal d.words) 0)
        else s
      else s.stage cn.hring (descMsg .ok d.dst.toNat d.step d.dev d.lcid d.skind.toNat d.words d.id)
    | none => s.itemGone 88 i
  | .sum q src _ round ring group vals =>
    s.stage ring
      { kind := 4, value := BitVec.ofNat 32 round.toNat, step := 0, dev := src, lcid := BitVec.ofNat 16 q,
        neuron := BitVec.ofNat 12 vals.length, group := group,
        frames := vals.map fun v => w64 v.toNat, conn := 0xFFFF, item := none }
  | _ => s.itemGone 88 i

/-! Every node -/

/-- A stream port takes a record of a source that the connection accepts (07 R218, 10 R338). -/
def State.arriveStream (s : State) (p n : Nat) (r : Record) : State :=
  match s.connOf r.handle.toNat with
  | some c =>
    if (s.conn c).acceptsFrom s.dev r.dev then s.updSport p fun q => { q with recs := q.recs ++ [r] }
    else s.recDrop n (.record r)
  | none => s.recDrop n (.record r)

/-- The DRAIN of holder h for virtual tile v has come to its node: the map write or the swap that waits for it may go on
    with it (08 R266, 09 R315, R316). -/
def State.noteMark (s : State) (v h : Nat) : State :=
  { s with
    drains := s.drains.map fun d => if d.v = v then { d with got := addNew h d.got } else d,
    swap := s.swap.map fun w => if w.vt = v then { w with got := addNew h w.got } else w }

/-- Mesh node n takes a payload item off virtual channel v; the TMR bridge hands a VC2 packet to the unit that its flits
    name, whose command follows. -/
def State.arrive (s : State) (n v : Nat) (i : Item) : State :=
  if n < 70 then
    match i with
    | .event id _ f => s.arriveEvent n id f
    | .mark v h _ => s.noteMark v h
    | _ => s.arriveVc1 n i
  else if n ≤ 76 then s.toPort (n - 70) v i
  else if n = 88 then s.arrivePcie i
  else if n = 86 ∨ n = 90 then
    match i with
    | .record r => s.arriveStream (if n = 90 then 1 else 0) n r
    | _ => s.itemGone n i
  else if n = 87 then
    match i with
    | .data _ _ a d => s.postWrite a d
    | .mark v h _ => s.noteMark v h
    | .park _ v _ _ =>
      if s.rn (rDomain 86) = 0 then (s.bump (rk 0 (0x3600 + v) 8)).itemEnd i.ident
      else ({ s with parkq := s.parkq ++ [i] }).wake 86 3
    | .parkDesc v _ _ _ =>
      if s.rn (rDomain 86) = 0 then (s.bump (rk 0 (0x3600 + v) 8)).itemEnd i.ident
      else ({ s with parkq := s.parkq ++ [i] }).wake 86 3
    | _ => s
  else s

/-! A record handed to its NI (07 R239) -/

/-- The connection can carry the record: OPEN, its source the handing core, its destination HOST or STREAM. -/
def State.carries (s : State) (i : Nat) (r : Record) : Bool :=
  let c := s.conn i
  decide (c.state = .opn) &&
    (decide (c.skind = 1) || (decide (c.skind = 0) && decide (c.sdev = s.dev) && decide (c.src = r.lcid.toNat))) &&
    (decide (c.edkind = 1) || decide (c.edkind = 3))

/-- The NI of tile t sends record r on its connection, or drops it into CONN.REC_DROP. -/
def State.handoff (s : State) (t : Nat) (r : Record) : State :=
  match (s.connOf r.handle.toNat).filter fun i => s.carries i r with
  | some i =>
    let c := s.conn i
    let r := if c.dkind = 4 then { r with ddev := c.rdev, handle := BitVec.ofNat 16 c.rhandle }
      else { r with ddev := s.dev }
    (s.updConn i fun c => { c with sent := w64 (satAdd 64 c.sent.toNat 1) }).inject t 0 (.record r)
  | none => s.recDrop t (.record r)

/-- The NI of tile t takes the oldest record that its cores handed it. -/
def execRecordHandoff (t : Nat) (s : State) : Out :=
  .next (match (s.tile t).recs with
    | [] => s
    | r :: rest => (s.updTile t fun d => { d with recs := rest }).handoff t r)

end Sys2Proof.Machine
end

