-- ==== Sys2Proof/Machine/Close.lean ====
section
/-! DEFINITION. The close of a connection (07 R241, R242), the saved queue state of a parked tile (09 Table 9.7), and
    the return of credits (07 R223). -/

namespace Sys2Proof.Machine

/-! Input queues wherever the tile is (07 R222, 09 R309, R311) -/

/-- LPDDR5X address of the saved state of core slot sl of virtual tile v. -/
def State.savedAt (s : State) (v sl : Nat) : Nat := s.imageAddr v sl 0x1E000

/-- The saved state's CRC over offsets 0x00 to 0xFB (Table 9.7). -/
def savedCrc (m : Mem) (a : Nat) : Nat := crc32c (m.rdBytes a 0xFC)

/-- The saved state of queue q. -/
def State.savedQueue (s : State) (v sl q : Nat) : Queue :=
  let w := s.lpddr.rd64 (s.savedAt v sl + 8 + 8 * q)
  { handle := BitVec.ofNat 16 (fld w 63 48), head := fld w 47 43, held := fld w 42 37 }

/-- QSTATE of a queue. -/
def Queue.word (x : Queue) : W64 := w64 (x.handle.toNat * 2 ^ 48 + x.head % 32 * 2 ^ 43 + x.held % 64 * 2 ^ 37)

/-- Write the saved state of queue q, and the CRC with it. -/
def State.setSavedQueue (s : State) (v sl q : Nat) (x : Queue) : State :=
  let a := s.savedAt v sl
  let m := s.lpddr.wr64 (a + 8 + 8 * q) x.word
  { s with lpddr := m.wrBytes (a + 0xFC) (leBytes 4 (savedCrc m a)) }

/-- Where queue q of LCID l is kept: with the NI of its tile, or in the image of its parked virtual tile. -/
inductive QPlace where
  | ni (t sl : Nat)
  | saved (v sl : Nat)
  | nowhere
deriving DecidableEq, Repr

/-- The place of the queues of LCID l. -/
def State.qPlace (s : State) (l : Nat) : QPlace :=
  let v := l / 128
  match s.servedBy v with
  | some t => .ni t (l % 128)
  | none => if s.tileKind v = 2 ∧ s.imageSlot v ≠ 0xFFFF then .saved v (l % 128) else .nowhere

/-- The state of queue q of LCID l. -/
def State.queueAt (s : State) (l q : Nat) : Queue :=
  match s.qPlace l with
  | .ni t sl => s.queue t sl q
  | .saved v sl => s.savedQueue v sl q
  | .nowhere => .unbound

/-- Change it. -/
def State.setQueueAt (s : State) (l q : Nat) (x : Queue) : State :=
  match s.qPlace l with
  | .ni t sl => s.setQueue t sl q x
  | .saved v sl => s.setSavedQueue v sl q x
  | .nowhere => s

/-- Descriptor k of queue q of LCID l. -/
def State.descAt (s : State) (l q k : Nat) : W64 × W64 × W64 × W64 :=
  match s.qPlace l with
  | .ni t sl => match s.coreOf t sl with
    | some c => (s.core c).rdDesc (aQslot q k)
    | none => (0, 0, 0, 0)
  | .saved v sl => descWords (s.lpddr.rdBytes (s.imageAddr v sl (aQslot q k)) 32)
  | .nowhere => (0, 0, 0, 0)

/-! Sources on this device -/

/-- DRING[r] registers. -/
def dReg (r sub : Nat) : Nat := rk 0 (0x3850 + r) sub

/-- The half of c that lies here holds the source. -/
def State.sourceHere (s : State) (c : Conn) : Bool :=
  decide (c.dkind = 4) || decide (c.skind = 1) || decide (c.sdev = s.dev)

/-- The descriptor ring that is the source of c on this device. -/
def State.dringOf (s : State) (c : Conn) : Option Nat :=
  if c.skind = 2 ∧ s.sourceHere c then some c.src else none

/-- Entries of descriptor ring r written but not fetched (07 R238). -/
def State.dringLeft (s : State) (r : Nat) : Nat := (s.rn (dReg r 5) + 2 ^ 32 - s.rn (dReg r 6)) % 2 ^ 32

/-! Items in flight (07 Table 7.12, order 3) -/

/-- An item travels on the connection that half i of this device belongs to. -/
def State.travelsOn (s : State) (i : Nat) (j : Item) : Bool :=
  match j.whole with
  | .desc d | .parkDesc _ _ _ d =>
    let c := s.conn i
    if c.dkind = 4 then decide (d.dev = s.dev) && decide (d.src = c.handle i)
    else decide (d.ddev = s.dev) && decide (d.dst = c.handle i)
  | .contrib k =>
    let c := s.conn i
    if c.dkind = 4 then decide (k.dev = c.rdev) && decide (k.handle.toNat = c.rhandle)
    else decide (k.dev = s.dev) && decide (k.handle = c.handle i)
  | _ => false

/-- Some descriptor or contribution of the connection has not arrived. -/
def State.inFlight (s : State) (i : Nat) : Bool :=
  let on := fun (l : List Item) => l.any (s.travelsOn i)
  let tx := fun (t : Tab TxStream) => t.any fun e => e.2.buf.any fun r => on r.pk.items
  s.nodes.any (fun n => n.2.out.any (fun q => on q.2) || tx n.2.tx) ||
    s.ports.any (fun p => p.2.out.any (fun q => on q.2) || tx p.2.tx) ||
    s.tiles.any (fun t => on t.2.vc1) || on s.parkq

/-! Orders 1, 2, 4 to 7 -/

/-- n items of connection i are aborted: CONN.ABORTED and, at the end, CONN.RESULT. -/
def State.abortItems (s : State) (i n : Nat) : State :=
  (s.updConn i fun c => { c with aborted := c.aborted + n }).bumpBy 64 (rk 0 0x3802 1) n

/-- Return an aborted descriptor to ring RRING, or discard it (order 4). -/
def State.abortDesc (s : State) (i dev : Nat) (lcid : BitVec 16) (w : W64 × W64 × W64 × W64) (back : Bool) : State :=
  let c := s.conn i
  let s := s.abortItems i 1
  if c.rren && back then
    s.stage c.rring (descMsg .aborted (c.handle i).toNat s.step32 dev lcid c.skind (descSeal w) 0)
  else s

/-- The descriptors queued at destination half i. -/
def State.abortQueue (s : State) (i : Nat) (back : Bool) : State :=
  let c := s.conn i
  if c.dkind = 0 then
    let x := s.queueAt c.dest c.q
    let ws := (List.range x.held).map fun k => s.descAt c.dest c.q (x.head + k)
    let s := s.setQueueAt c.dest c.q { x with head := (x.head + x.held) % 32, held := 0 }
    ws.foldl (fun s w => s.abortDesc i (if c.skind = 1 then s.dev else c.sdev) (BitVec.ofNat 16 c.src) w back) s
  else s

/-- Orders 5 and 6: what a HOSTRING source has not fetched, and the pending tokens of a DMA source. -/
def State.abortSource (s : State) (i : Nat) : State :=
  let c := s.conn i
  let s := match s.dringOf c with
    | some r => (s.abortItems i (s.dringLeft r)).wn (dReg r 6) (s.rn (dReg r 5))
    | none => s
  (s.abortItems i c.tokens).updConn i fun c => { c with tokens := 0 }

/-- Order 7: the contributions in the accumulating bank, counted in COMB.ABORTED; a round that is complete is delivered. -/
def State.abortBank (s : State) (i : Nat) : State :=
  let c := s.conn i
  if c.dkind = 2 ∧ (s.comb c.combNo).count < (s.comb c.combNo).senders then
    s.updComb c.combNo fun b =>
      { b with aborted := w64 (satAdd 64 b.aborted.toNat b.count), count := 0, acc := List.replicate b.lanes 0 }
  else s

/-- Order 2: every SEND, RECV and COMBINE blocked on handle h ends CLOSED. -/
def State.closeBlocked (s : State) (h : BitVec 16) : State :=
  s.cores.foldl (fun s e =>
    match e.2.pass with
    | .blocked op h' n _ =>
      if h' = h then s.setCore e.1 ((s.core e.1).opEnd n .closed (if op = 0x6 then some false else none)) else s
    | _ => s) s

/-- TAG of a CLOSE message and of its answer, from the handle on the receiving device. -/
def closeTag (h : BitVec 16) : BitVec 8 := BitVec.ofNat 8 (0x80 + h.toNat % 128)

/-- Tell the device of another half to close it (11 R381). -/
def State.tellClose (s : State) (q : Nat × BitVec 16) : State :=
  s.sendMsg { mkind := 5, sdev := s.dev, ddev := q.1, tag := closeTag q.2, idx := 0, sub := 0, op := 2, body := leBytes 2 q.2.toNat }

/-- Acknowledge a CLOSE for handle h of this device. -/
def State.ackClose (s : State) (dev : Nat) (h : BitVec 16) (st : Status) : State :=
  s.sendMsg { mkind := 6, sdev := s.dev, ddev := dev, tag := closeTag h, idx := 0, sub := 0, op := st.code, body := [] }

/-- The halves of connection i on other devices. -/
def Conn.otherHalves (c : Conn) : List (Nat × BitVec 16) :=
  if c.dkind = 4 then [(c.rdev, BitVec.ofNat 16 c.rhandle)] else c.peers

/-! Completion -/

/-- Order 9 may run: nothing is in flight, a delivering bank has finished, what the connection staged has been written,
    and the other halves have been told and have answered (R241, R242). -/
def State.closeReady (s : State) (i : Nat) : Bool :=
  let c := s.conn i
  decide (c.state = .closing) && c.untold.isEmpty && c.unacked.isEmpty && !s.inFlight i &&
    (decide (c.dkind ≠ 2) || (s.comb c.combNo).deliver.isNone) &&
    !(s.hrings.any fun r => r.2.staged.any fun m => decide (m.conn = c.handle i)) &&
    !(s.pcie.wait.any fun q => decide (q.2.conn = c.handle i))

/-- The other device of a CLOSING half is told: at once by a destination half, and by a source half once nothing that it
    took is in flight any more, so that its last descriptor reaches the destination half before the CLOSE (Table 7.12,
    orders 1 and 3; log 42). -/
def State.tellReady (s : State) (i : Nat) : State :=
  let c := s.conn i
  if c.state = .closing ∧ c.untold ≠ [] ∧ (c.dkind = 4 → s.inFlight i = false) then
    (c.untold.foldl (fun s q => s.tellClose q) s).updConn i fun c => { c with untold := [], unacked := c.unacked ++ c.untold }
  else s

/-- Order 9: the generation increments, the context becomes FREE, and what was bound to it is unbound. -/
def State.freeConn (s : State) (i : Nat) : State :=
  let c := s.conn i
  let s := s.updConn i fun _ => { Conn.reset with gen := nextGen i c.gen }
  let s := if c.dkind = 0 then s.setQueueAt c.dest c.q .unbound else s
  let s := if c.dkind = 2 then s.updComb c.combNo fun b =>
      { Comb.reset with sat := b.sat, aborted := b.aborted, blockT := b.blockT } else s
  match s.dringOf c with
  | some r => s.wn (dReg r 7) 0xFFFF
  | none => s

/-- A close ends: the path that waits gets OK and CONN.RESULT, and the device that asked for it its answer. -/
def State.endClose (s : State) (i : Nat) : State :=
  let c := s.conn i
  let s := s.freeConn i
  let s := match c.path with
    | some n =>
      if (s.pathN n).op = some (.waiting (.connClose i)) then
        (s.wn (rk n 0x3800 4) (min c.aborted (2 ^ 32 - 1))).answer n .ok false []
      else s
    | none => s
  match c.ackTo with
  | some d => s.ackClose d (c.handle i) .ok
  | none => s

/-- Complete every close that nothing holds any longer. -/
def State.closeCheck (s : State) : State :=
  s.conns.foldl (fun s e =>
    let s := s.tellReady e.1
    if s.closeReady e.1 then s.endClose e.1 else s) s

/-- Begin the close of half i; `back` false discards queued descriptors without return (R243). -/
def State.startClose (s : State) (i : Nat) (path ackTo : Option Nat) (back : Bool) : State :=
  let c := s.conn i
  let told := c.otherHalves.filter fun q => decide (ackTo ≠ some q.1)
  let s := s.updConn i fun c =>
    { c with state := .closing, path := path, ackTo := ackTo, untold := told, unacked := [], aborted := 0 }
  ((((s.closeBlocked (c.handle i)).abortQueue i back).abortSource i).abortBank i).closeCheck

end Sys2Proof.Machine
end

