-- ==== Sys2Proof/Machine/Mesh.lean ====
section
/-! DEFINITION. The mesh: where nodes attach (08 R246), packing and numbering packets (R31, R252, R255), one hop of a
    flit (R29, R248, R249, R251), and the link-control flits (Table 8.6). The packet of a segment stays in the
    retransmit buffer of its stream until it is acknowledged or passed over. -/

namespace Sys2Proof

/-- The item counts against an ingress credit of a port: it came over the port. -/
def Item.fromPort : Item → Bool
  | .park _ _ _ _ | .parkDesc _ _ _ _ | .mark _ _ _ => false
  | _ => true

/-- Words of the ingress buffer of a port that the item holds (R249). -/
def Item.ingress (i : Item) : Nat := if i.fromPort then i.flits else 0

/-- The device at which an item entered the fabric. -/
def Item.sdev (own : Nat) : Item → Nat
  | .transit d _ => d
  | _ => own

/-- The item inside a transit item. -/
def Item.inner : Item → Item
  | .transit _ i => i
  | i => i

/-- An item is a DRAIN, of a route or of the tile map: a packet of its own with PKIND 1 and one zero flit (R266, R272,
    Table 8.5). -/
def Item.isDrain (i : Item) : Bool := match i.inner with | .drain _ | .mark _ _ _ => true | _ => false

/-- Payload flits of a packet. -/
def Packet.flits (pk : Packet) : Nat := flitsOf pk.items

/-- The payload flits of a packet. -/
def Packet.words (pk : Packet) : List W64 := (pk.items.map Item.words).flatten

end Sys2Proof

namespace Sys2Proof.Machine

/-! Topology (Table 8.1) -/

/-- The router of mesh node n and its exit port: 0 N, 1 E, 2 S, 3 W, 4 local. Router 7 y + x stands at (x, y). -/
def nodeAt (n : Nat) : Nat × Nat :=
  if n < 70 then (n, 4)
  else if n ≤ 76 then (n - 70, 0)
  else if n ≤ 80 then (7 * [1, 3, 6, 8].getD (n - 77) 0, 3)
  else if n ≤ 84 then (7 * [1, 3, 6, 8].getD (n - 81) 0 + 6, 1)
  else (63 + (n - 85), 2)

/-- The output port at router r for destination node d: X first, then Y, then the exit port (01 R29). -/
def hopPort (r d : Nat) : Nat :=
  let (t, e) := nodeAt d
  if r % 7 < t % 7 then 1
  else if t % 7 < r % 7 then 3
  else if r / 7 < t / 7 then 2
  else if t / 7 < r / 7 then 0
  else e

/-- The router beyond output port o of router r and the input port that faces it. -/
def beyondPort (r o : Nat) : Nat × Nat :=
  match o with
  | 0 => (r - 7, 2)
  | 1 => (r + 1, 3)
  | 2 => (r + 7, 0)
  | _ => (r - 1, 1)

/-- RTR.PORT[q] counter of router r. -/
def rtrCtr (r q sub : Nat) : Nat := rk (96 + r) (0x2110 + q) sub

/-! Link-control flits and LINK words (Tables 8.6 and 8.10) -/

/-- CRC-8 over bits [63:8], highest first. -/
def crc8 (w : W64) : Nat := crc8From 0 (beBytes 7 (w.toNat / 256))

/-- Seal a word with its CRC-8. -/
def crc8Seal (n : Nat) : W64 := w64 (n / 256 * 256 + crc8 (w64 (n / 256 * 256)))

/-- The CRC-8 of a word agrees. -/
def crc8Ok (w : W64) : Bool := decide (fld w 7 0 = crc8 w)

/-! The sideband and the trailer (Tables 8.4 and 8.5) -/

/-- Parity of the low n bits of x. -/
def parityOf (n x : Nat) : Nat := ((List.range n).filter fun i => x / 2 ^ i % 2 = 1).length % 2

/-- The sideband of a flit with word w: POS is 0 PAYLOAD, 1 TRAILER or 2 LINKCTL; PAR makes the parity even. -/
def sideOf (vc pos dnode : Nat) (w : W64) : BitVec 16 :=
  let b := vc % 4 * 2 ^ 14 + pos % 4 * 2 ^ 12 + dnode % 128 * 2 ^ 5
  BitVec.ofNat 16 (b + (parityOf 64 w.toNat + parityOf 16 b) % 2)

/-- Trailer bits [31:0] of packet pk that node src sends. -/
def trailerLow (pk : Packet) (src : Nat) : Nat :=
  pk.seq % 65536 * 2 ^ 16 + src % 128 * 2 ^ 9 + (pk.flits - 1) % 8 * 2 ^ 6 + (if pk.drain then 2 ^ 4 else 0)

/-- The CRC of a mesh packet over its payload flits, its trailer's low half, DNODE and VC (R253). -/
def meshCrc (ws : List W64) (low dnode vc : Nat) : Nat :=
  crc32c ((ws.map fun w => leBytes 8 w.toNat).flatten ++ leBytes 4 low ++ leBytes 1 dnode ++ leBytes 1 vc)

/-- The trailer of packet pk from node src to node dst (Table 8.5). -/
def trailerWord (pk : Packet) (src dst : Nat) : W64 :=
  w64 (meshCrc pk.words (trailerLow pk src) dst pk.vc * 2 ^ 32 + trailerLow pk src)

/-- The word that a flit was formed with. -/
def FlitBody.word : FlitBody → W64
  | .payload i k => i.words.getD k 0
  | .trailer pk src dst => trailerWord pk src dst
  | .ctl w => w

/-- The word of a flit as it is now. -/
def MeshFlit.word (f : MeshFlit) : W64 := f.body.word ^^^ f.xor

/-- Virtual channel. -/
def MeshFlit.vc (f : MeshFlit) : Nat := f.side.toNat / 2 ^ 14
/-- POS. -/
def MeshFlit.pos (f : MeshFlit) : Nat := f.side.toNat / 2 ^ 12 % 4
/-- Destination node. -/
def MeshFlit.dnode (f : MeshFlit) : Nat := f.side.toNat / 2 ^ 5 % 128

/-- A flit as its sender forms it. -/
def meshFlit (vc dnode pos : Nat) (b : FlitBody) : MeshFlit :=
  { body := b, xor := 0, side := sideOf vc pos dnode b.word }

/-- The flit after a link has flipped bits of it: bit i of the word, and for i from 64 on bit i − 64 of the sideband. -/
def MeshFlit.flip (f : MeshFlit) (l : List Nat) : MeshFlit :=
  l.foldl (fun f i =>
    if i < 64 then { f with xor := f.xor ^^^ w64 (2 ^ i) }
    else { f with side := f.side ^^^ BitVec.ofNat 16 (2 ^ (i - 64)) }) f

/-- PAR agrees with the flit and the rest of its sideband (R251). -/
def MeshFlit.parOk (f : MeshFlit) : Bool := decide (f.side = sideOf f.vc f.pos f.dnode f.word)

/-- The sideband as the router forms it for its output: PAR anew over what it forwards, so that only the router behind
    the link that took a hit counts it (DEDUCED from Table 8.8a, log 11). -/
def MeshFlit.reseal (f : MeshFlit) : MeshFlit := { f with side := sideOf f.vc f.pos f.dnode f.word }

/-- A link-control flit: kind, virtual channel of the stream, sending and addressed node, sequence number, NFL. -/
def ctlFlit (kind vc src dst seq nfl : Nat) : W64 :=
  crc8Seal (kind * 2 ^ 60 + vc * 2 ^ 58 + src * 2 ^ 51 + dst * 2 ^ 44 + seq % 65536 * 2 ^ 28 + nfl * 2 ^ 25)

/-- A LINK word. -/
def linkWord (kind vc seq nfl credits ln : Nat) : W64 :=
  crc8Seal (2 * 2 ^ 62 + kind * 2 ^ 58 + vc * 2 ^ 56 + seq % 4096 * 2 ^ 44 + nfl * 2 ^ 41 + credits * 2 ^ 25 +
    ln * 2 ^ 21)

/-- Node n puts a link-control flit for node d on VC2. -/
def State.sendCtl (s : State) (n d kind vc seq nfl : Nat) : State :=
  s.updNode n fun q =>
    { q with inj := Tab.upd [] q.inj 2 (· ++ [meshFlit 2 d 2 (.ctl (ctlFlit kind vc n d seq nfl))]) }

/-- Port p puts something on its line. -/
def State.putLine (s : State) (p : Nat) (l : LineOut) : State :=
  s.updPort p fun q => { q with line := q.line ++ [l] }

/-- Port p puts a LINK word on its line. -/
def State.putLink (s : State) (p kind vc seq nfl credits ln : Nat) : State :=
  s.putLine p (.link (linkWord kind vc seq nfl credits ln))

/-- Port p returns credits for n words of virtual channel v (R249). -/
def State.putCredit (s : State) (p v n : Nat) : State := if n = 0 then s else s.putLink p 6 v 0 0 n 0

/-! Streams (R255) -/

/-- The sending stream of node n to node m on virtual channel v. -/
def State.nodeTx (s : State) (n m v : Nat) : TxStream := Tab.get TxStream.reset (s.node n).tx (4 * m + v)
/-- Change it. -/
def State.updNodeTx (s : State) (n m v : Nat) (f : TxStream → TxStream) : State :=
  s.updNode n fun q => { q with tx := Tab.upd TxStream.reset q.tx (4 * m + v) f }
/-- The sending stream of port p on virtual channel v. -/
def State.portTx (s : State) (p v : Nat) : TxStream := Tab.get TxStream.reset (s.port p).tx v
/-- Change it. -/
def State.updPortTx (s : State) (p v : Nat) (f : TxStream → TxStream) : State :=
  s.updPort p fun q => { q with tx := Tab.upd TxStream.reset q.tx v f }

/-- Flits of a packet to node m, trailer last (R252). -/
def packetFlits (m n : Nat) (pk : Packet) : List MeshFlit :=
  (pk.items.map fun i => (List.range i.flits).map fun k => meshFlit pk.vc m 0 (.payload i k)).flatten ++
    [meshFlit pk.vc m 1 (.trailer pk n m)]

/-- Node n transmits a packet to node m. -/
def State.transmit (s : State) (n m : Nat) (pk : Packet) : State :=
  s.updNode n fun q => { q with inj := Tab.upd [] q.inj pk.vc (· ++ packetFlits m n pk) }

/-- The number of outstanding packets of a stream is at most half its sequence range (R255). -/
def seqRoom (t : TxStream) (bits : Nat) : Bool := decide (t.buf.length < 2 ^ (bits - 1))

/-- Take from a list, in order, at most k elements that satisfy f; answer them and what stays. -/
def takePack {α : Type} (f : α → Bool) : Nat → List α → List α × List α
  | _, [] => ([], [])
  | 0, l => ([], l)
  | k + 1, i :: l =>
    if f i then (i :: (takePack f k l).1, (takePack f k l).2)
    else ((takePack f (k + 1) l).1, i :: (takePack f (k + 1) l).2)

/-! PACKET_SEND at a mesh node -/

/-- VC1 traffic for the item's device waits for the end of a route hold (R272). -/
def State.routeHeld (s : State) (v : Nat) (i : Item) : Bool :=
  decide (v = 1) && (match i with | .transit _ _ => false | _ => (Tab.get none s.routes (i.ddev s.dev)).isSome)

/-- Take off the queue of node n the items of virtual channel v that leave the road at their lookup (01 Table 1.5). -/
def State.sweep (s : State) (n v : Nat) : State :=
  let q := Tab.get [] (s.node n).out v
  let stays := fun i => s.routeHeld v i || (match s.itemDest n i with | .node _ => true | _ => false)
  let gone := q.filter fun i => !stays i
  let t := s.updNode n fun d => { d with out := Tab.set [] d.out v (q.filter stays) }
  let t := gone.foldl (fun t i => t.offRoad n i (s.itemDest n i)) t
  if 70 ≤ n ∧ n ≤ 76 then t.putCredit (n - 70) v (gone.map Item.ingress).sum else t

/-- A DRAIN marker in the VC1 queue of an ingress bridge: the device that waits for DRAINED (R272). -/
def drainMark (own : Nat) : Item → Option Nat
  | .transit d (.drain e) => if e = own then some d else none
  | _ => none

/-- What DRAINED waits for: the VC1 packets that node n still holds, by stream with the number of the next. -/
def State.drainSnap (s : State) (n : Nat) : List (Nat × Nat) :=
  ((s.node n).tx.filter fun e => decide (e.1 % 4 = 1)).map fun e => (e.1, e.2.next)

/-- A sequence number lies before `next`, within half the range of 2^bits. -/
def seqBefore (bits seq next : Nat) : Bool :=
  decide (seq ≠ next % 2 ^ bits) && decide ((next + 2 ^ bits - seq) % 2 ^ bits ≤ 2 ^ (bits - 1))

/-- Send the DRAINED answers that wait for nothing more at ingress port p (R272, Table 8.6). -/
def State.answerDrains (s : State) (p : Nat) : State :=
  let n := 70 + p
  let ready := fun (d : Nat × List (Nat × Nat)) =>
    d.2.all fun e => (Tab.get TxStream.reset (s.node n).tx e.1).buf.all fun r => !seqBefore 16 r.pk.seq e.2
  let go := (s.port p).drains.filter ready
  let s := s.updPort p fun q => { q with drains := q.drains.filter fun d => !ready d }
  go.foldl (fun s d =>
    s.inject n 2 (.vc2 d.1 [vc2Flit 13 (s.dev * 2 ^ 56 + 1 * 2 ^ 54)])) s

/-- Move the DRAIN markers that no queued item precedes into the list of answers owed. -/
def State.takeMarks (s : State) (n v : Nat) : State :=
  match Tab.get [] (s.node n).out v with
  | i :: rest =>
    match drainMark s.dev i with
    | some d =>
      let s := s.updNode n fun q => { q with out := Tab.set [] q.out v rest }
      (s.updPort (n - 70) fun q => { q with drains := q.drains ++ [(d, s.drainSnap n)] }).answerDrains (n - 70)
    | none => s
  | [] => s

/-- The next hop of node n grants a credit for v, and its transmitter is free (R31, R249). -/
def State.granted (s : State) (n v : Nat) : Bool :=
  let (r, e) := nodeAt n
  (Tab.get [] (s.node n).inj v).isEmpty && decide ((Tab.get [] (s.rtr r).inb (4 * e + v)).length < 6)

/-- RTX_HWM of node n: packets held in its retransmit buffers. -/
def State.nodeHeld (s : State) (n : Nat) : Nat := ((s.node n).tx.map fun e => e.2.buf.length).sum

/-- Payload flits that the segment sources of the device have sent for the first time: for FAB.LOSS_RATE (R273). -/
def rSentAll : Nat := rk 0 0x2000 0x21

/-- Take the payload of one packet from a queue: up to eight events or records that f accepts on VC0; elsewhere, and for
    a DRAIN, the first item that f accepts alone (R252, R254). -/
def takeLoad (v : Nat) (f : Item → Bool) (q : List Item) : List Item × List Item :=
  match q.find? f with
  | some i => if v ≠ 0 ∨ i.isDrain then takePack f 1 q else takePack (fun j => f j && !j.isDrain) 8 q
  | none => ([], q)

/-- The mesh node that the next packet of node n on v goes to. -/
def State.packDest (s : State) (n v : Nat) : Option Nat :=
  match ((Tab.get [] (s.node n).out v).find? fun i => !s.routeHeld v i && (drainMark s.dev i).isNone).map (s.itemDest n) with
  | some (.node m) => some m
  | _ => none

/-- The sequence range of the stream of the next packet of node n on v, and with it the retransmit buffer, is full (R255;
    log 19). -/
def State.rtxFull (s : State) (n v : Nat) : Bool :=
  match s.packDest n v with | some m => !seqRoom (s.nodeTx n m v) 16 | none => false

/-- Pack for the destination of the first item that may go, and keep a retransmit copy (R31, R252, R255). While a SKIP of
    its stream awaits an answer, what is queued behind it for other nodes waits too (DESIGN CHOICE, log 79). -/
def State.packNode (s : State) (n v : Nat) : State :=
  let q := Tab.get [] (s.node n).out v
  let free := fun i => !s.routeHeld v i && (drainMark s.dev i).isNone
  match s.packDest n v with
  | some m =>
    let t := s.nodeTx n m v
    if s.granted n v && t.skip.isNone && seqRoom t 16 then
      let r := takeLoad v (fun i => free i && decide (s.itemDest n i = .node m)) q
      let pk : Packet :=
        { vc := v, seq := t.next, drain := r.1.any Item.isDrain, sdev := s.dev, ddev := s.dev, items := r.1 }
      let s := s.updNode n fun d => { d with out := Tab.set [] d.out v r.2 }
      let s := s.updNodeTx n m v fun t =>
        { t with next := (t.next + 1) % 65536, buf := t.buf ++ [{ pk := pk, attempts := 1 }] }
      let s := ((s.transmit n m pk).bumpBy 64 rSentAll pk.flits).hwm (niCtr n 8) (min 65535 (s.nodeHeld n))
      if 70 ≤ n ∧ n ≤ 76 then s.putCredit (n - 70) v (r.1.map Item.ingress).sum else s
    else s
  | none => s

/-- Node n sends: lookups, then one packet if the next hop grants a credit; a SEND that waited for the NI goes on. -/
def State.sendNode (s : State) (n v : Nat) : State :=
  let s := ((s.sweep n v).takeMarks n v).packNode n v
  if n < 70 ∧ v = 1 then s.resumeSends n else s

/-! PACKET_SEND at a port (R248, R249, R260) -/

/-- Credits that a port holds for v: the start value of Table 8.3 less what it has taken. -/
def State.portCredit (s : State) (p v : Nat) : Nat := (if v ≤ 1 then 2048 else 1024) - Tab.get 0 (s.port p).taken v

/-- Words in the 96 KiB retransmit buffer of port p. -/
def State.portHeld (s : State) (p : Nat) : Nat :=
  ((s.port p).tx.map fun e => (e.2.buf.map fun r => 1 + r.pk.flits).sum).sum

/-- The port carries virtual channel v: FENCED carries only VC3 (R262), and a domain that is not ON nothing (R447). -/
def State.portCarries (s : State) (p v : Nat) : Bool :=
  (s.portUp p || (decide (s.portState p = 5) && decide (v = 3))) &&
    s.domUp (70 + p)

/-- The packet of port p that its queue of v gives next: items of one source and one destination device. -/
def State.portPack (s : State) (p v : Nat) : Option (Packet × List Item) :=
  match Tab.get [] (s.port p).out v with
  | [] => none
  | i :: rest =>
    let own := s.dev
    let same := fun (j : Item) => decide (j.ddev own = i.ddev own) && decide (j.sdev own = i.sdev own) && !j.isDrain
    let r := if i.isDrain then ([i], rest) else
      let l := (i :: rest).takeWhile same
      let n := if v = 0 then min 8 l.length else 1
      (l.take n, (i :: rest).drop n)
    some ({ vc := v, seq := (s.portTx p v).next, drain := i.isDrain, sdev := i.sdev own, ddev := i.ddev own,
            items := r.1.map Item.inner }, r.2)

/-- The packet of port p that is to be sent again next on v (R257). -/
def State.portAgain (s : State) (p v : Nat) : Option Packet :=
  match Tab.get [] (s.port p).again v with
  | seq :: _ => ((s.portTx p v).buf.find? fun r => decide (r.pk.seq = seq)).map Rtx.pk
  | [] => none

/-- The packet that port p would send next on v: one to be sent again, else a new one that the sequence range and the
    retransmit buffer have room for (R255). -/
def State.portNext (s : State) (p v : Nat) : Option Packet :=
  if (Tab.get [] (s.port p).again v).isEmpty then
    (s.portPack p v).bind fun q =>
      if (s.portTx p v).skip.isNone && seqRoom (s.portTx p v) 12 && decide (s.portHeld p + 1 + q.1.flits ≤ 12288) then
        some q.1
      else none
  else s.portAgain p v

/-- Something is ready to go on virtual channel v of port p, with its credits. -/
def State.portReady (s : State) (p v : Nat) : Bool :=
  s.portCarries p v && (match s.portNext p v with
    | some pk => decide (1 + pk.flits ≤ s.portCredit p v)
    | none => false)

/-- The virtual channel that priority gives the transmitter to, among those that are ready: VC2, VC3, then VC0 and VC1
    packet by packet (R248). -/
def pickVc (ready : Nat → Bool) (lastWas1 : Bool) : Option Nat :=
  if ready 2 then some 2
  else if ready 3 then some 3
  else if ready 0 && ready 1 then some (if lastWas1 then 0 else 1)
  else if ready 0 then some 0
  else if ready 1 then some 1
  else none

/-- Port p puts packet pk on its line, against credits for all of its words. -/
def State.linePacket (s : State) (p v : Nat) (pk : Packet) : State :=
  s.updPort p fun q =>
    { q with
      taken := Tab.upd 0 q.taken v (· + (1 + pk.flits)), line := q.line ++ [.packet pk],
      last1 := if v ≤ 1 then decide (v = 1) else q.last1 }

/-- Port p sends packet pk of v again: one attempt more, and one RETX (R257). -/
def State.portRetry (s : State) (p v : Nat) (pk : Packet) : State :=
  ((s.updPort p fun q =>
    { q with
      again := Tab.upd [] q.again v (·.drop 1),
      tx := Tab.upd TxStream.reset q.tx v fun t =>
        { t with
          buf := t.buf.map fun r => if r.pk.seq = pk.seq then { r with attempts := r.attempts + 1 } else r } }).linePacket
    p v pk).bumpBy 48 (pReg p 0x19) 1

/-- Port p packs and sends a new packet of v. -/
def State.portNew (s : State) (p v : Nat) : State :=
  match s.portPack p v with
  | some (pk, rest) =>
    let s := (s.updPort p fun q =>
      { q with
        out := Tab.set [] q.out v rest,
        tx := Tab.upd TxStream.reset q.tx v fun t =>
          { t with next := (t.next + 1) % 4096, buf := t.buf ++ [{ pk := pk, attempts := 1 }] } }).linePacket p v pk
    ((s.bump (pReg p 0x10)).bumpBy 64 (pReg p 0x12) pk.flits).bumpBy 64 rSentAll pk.flits
  | none => s

/-- Port p sends the next packet of v, if it is v's turn: one sent again counts in RETX alone. -/
def State.sendPort (s : State) (p v : Nat) : State :=
  if pickVc (s.portReady p) (s.port p).last1 = some v then
    match s.portAgain p v with
    | some pk => s.portRetry p v pk
    | none => s.portNew p v
  else s

/-- A segment source packs and sends. -/
def execPacketSend (g : Seg) (v : Nat) (s : State) : Out :=
  .next (match g with | .node n => (s.sendNode n v).closeCheck | .port p => s.sendPort p v)

/-! ROUTER_FORWARD -/

/-- The PCIE bridge withholds VC0 and VC1 while the eight-message staging of a ring is full, or a message waits for it
    (07 R237). -/
def State.pcieHeld (s : State) : Bool :=
  !s.pcie.wait.isEmpty || s.hrings.any fun e => decide (8 ≤ e.2.staged.length)

/-- Bytes of a frame of n records, with its FCS (10 R331, R340). -/
def egressLen (n : Nat) : Nat := max 64 (34 + 16 * n)

/-- The 64 KiB of egress staging of port p have no room for one more frame of one record beside the closed frames and
    those that its OUT contexts build (10 R341; log 80). -/
def State.egressFull (s : State) (p : Nat) : Bool :=
  let q := s.sport p
  let cfg := fun (x : Nat) => s.rd (rk 0 (0x4080 + x) 1)
  let mine := s.sctxs.filter fun e =>
    bit (cfg e.1) 61 && decide (bit (cfg e.1) 60 = decide (p = 1)) && !e.2.build.isEmpty
  decide (65536 < (q.staged.map fun f => f.2.2.length).sum + (mine.map fun e => egressLen e.2.build.length).sum + egressLen 1)

/-- A received PAUSE holds the transmitter of port p: only while SP[p].PAUSE_EN is 1 (10 R323). -/
def State.txHeld (s : State) (p : Nat) : Bool := (s.sport p).hold && decide (s.rn (rk 0 (0x4000 + p) 7) = 1)

/-- The bridge of stream port p withholds VC0: its staging is full, or a received PAUSE holds the transmitter. -/
def State.streamHeld (s : State) (p : Nat) : Bool := s.txHeld p || s.egressFull p

/-- Node n frees a slot for a flit of v: it takes one packet, or one link-control flit, at a time. -/
def State.nodeRoom (s : State) (n v : Nat) : Bool :=
  !((Tab.get [] (s.node n).rx v).any fun f => decide (f.pos ≠ 0)) &&
    !(decide (n = 88) && decide (v ≤ 1) && s.pcieHeld) &&
    !(decide (v = 0) && ((decide (n = 86) && s.streamHeld 0) || (decide (n = 90) && s.streamHeld 1)))

/-- The node at exit port o of router r, for a flit bound to node d. -/
def exitsAt (r o d : Nat) : Bool := decide (nodeAt d = (r, o))

/-- Output o of router r holds a credit for a flit of v bound to node d. -/
def State.outRoom (s : State) (r o v d : Nat) : Bool :=
  if exitsAt r o d then s.nodeRoom d v
  else decide ((Tab.get [] (s.rtr (beyondPort r o).1).inb (4 * (beyondPort r o).2 + v)).length < 6)

/-- The flit at the head of input (q, v) of router r may pass output o now: a credit is held, and no packet of another
    input owns v of o (R248). A flit whose DNODE a link has flipped to a reserved node leads nowhere, and is held, since a
    router never drops one (01 Table 1.5; log 11). -/
def State.hopReady (s : State) (r o v q : Nat) : Bool :=
  match Tab.get [] (s.rtr r).inb (4 * q + v) with
  | f :: _ =>
    decide (f.dnode ≤ 90) && decide (hopPort r f.dnode = o) && s.outRoom r o v f.dnode &&
      (match Tab.get none (s.rtr r).lock (4 * o + v) with | some q' => decide (q' = q) | none => true)
  | [] => false

/-- Some input of router r is ready on v for output o. -/
def State.vcReady (s : State) (r o v : Nat) : Bool := (List.range 5).any fun q => s.hopReady r o v q

/-- A flit is the last of its packet. -/
def MeshFlit.isLast (f : MeshFlit) : Bool := decide (f.pos ≠ 0)

/-- A flit is a trailer. -/
def MeshFlit.isTrailer (f : MeshFlit) : Bool := decide (f.pos = 1)

/-- A flit that has crossed a link comes into input port q of router r, on the virtual channel that its sideband names:
    the router checks PAR, and forwards the flit unchanged (R251). -/
def State.intoRouter (s : State) (r q : Nat) (f : MeshFlit) : State :=
  let s := if f.parOk then s else s.bumpBy 32 (rtrCtr r q 3) 1
  let l := Tab.get [] (s.rtr r).inb (4 * q + f.vc) ++ [f.reseal]
  (s.updRtr r fun t => { t with inb := Tab.set [] t.inb (4 * q + f.vc) l }).hwm (rtrCtr r q (9 + f.vc)) l.length

/-- One flit from the transmitter of node n; the link flips the bits `l` of it. -/
def State.hopFrom (s : State) (n v : Nat) (l : List Nat) : State :=
  let (r, e) := nodeAt n
  match Tab.get [] (s.node n).inj v with
  | f :: rest =>
    if (Tab.get [] (s.rtr r).inb (4 * e + v)).length < 6 then
      (s.updNode n fun q => { q with inj := Tab.set [] q.inj v rest }).intoRouter r e (f.flip l)
    else s
  | [] => s

/-- One flit from input (q, v) of router r, by priority, dimension order and packet ownership (R29, R248, R249); a router
    that a watchdog found stuck passes nothing on (12 R419). -/
def State.hopOver (s : State) (r q v : Nat) (l : List Nat) : State :=
  match Tab.get [] (s.rtr r).inb (4 * q + v) with
  | f :: rest =>
    let o := hopPort r f.dnode
    if s.boot.deadRtrs.contains r then
      s.updRtr r fun t => { t with inb := Tab.set [] t.inb (4 * q + v) rest }
    else if s.hopReady r o v q && decide (pickVc (s.vcReady r o) (Tab.get false (s.rtr r).alt o) = some v) then
      let s := s.updRtr r fun t =>
        { t with
          inb := Tab.set [] t.inb (4 * q + v) rest,
          lock := Tab.set none t.lock (4 * o + v) (if f.isLast then none else some q),
          alt := if f.isLast && decide (v ≤ 1) then Tab.set false t.alt o (decide (v = 1)) else t.alt }
      let s := s.bump (rtrCtr r q 2)
      let s := if f.isTrailer then s.bump (rtrCtr r q 1) else s
      let g := f.flip l
      if exitsAt r o f.dnode then
        s.updNode f.dnode fun d => { d with rx := Tab.upd [] d.rx g.vc (· ++ [g]) }
      else s.intoRouter (beyondPort r o).1 (beyondPort r o).2 g
    else s
  | [] => s

/-- A flit moves one hop; the link flips the bits `flips` of it: below 64 of the flit, from 64 on of the sideband. -/
def execRouterForward (h : Hop) (flips : List Nat) (s : State) : Out :=
  .next (match h with
    | .inject n v => s.hopFrom n v flips
    | .router r q v => s.hopOver r q v flips)

end Sys2Proof.Machine
end

