-- ==== Sys2Proof/Machine/Segment.lean ====
section
/-! DEFINITION. Acknowledgement, retransmission and loss on a segment (08 R255 to R258), the same for a mesh stream and
    for the stream of a fabric port, and the route drain that rests on it (R272). -/

namespace Sys2Proof

open Machine

/-- An item that another device sent: no step-table FENCE of this device awaits it. -/
def Item.foreign : Item → Item
  | .event _ _ f => .event 0 0 f
  | .record r => .record { r with id := 0, core := 0 }
  | .desc d => .desc { d with id := 0, core := 0 }
  | .contrib c => .contrib { c with id := 0, core := 0 }
  | .data _ d a b => .data 0 d a b
  | .frag i k last => .frag i.foreign k last
  | i => i

end Sys2Proof

namespace Sys2Proof.Machine

/-! The route drain of the source device (R272) -/

/-- An item of a sending stream is VC1 traffic for device e. -/
def holdsFor (own e : Nat) (t : TxStream) : Bool := t.buf.any fun r => r.pk.items.any fun i => decide (i.ddev own = e)

/-- Nothing for device e on VC1 is on its way to old port p or in its retransmit buffer. -/
def State.routeClear (s : State) (e p : Nat) : Bool :=
  !(s.nodes.any fun q => holdsFor s.dev e (Tab.get TxStream.reset q.2.tx (4 * (70 + p) + 1))) &&
    !((Tab.get [] (s.port p).out 1).any fun i => decide (i.ddev s.dev = e)) && !holdsFor s.dev e (s.portTx p 1)

/-- Send the DRAIN of every route hold whose old port is clear; a hold whose old port carries nothing ends. -/
def State.routeCheck (s : State) : State :=
  s.routes.foldl (fun s r =>
    match r.2 with
    | some (p, false) =>
      if s.portState p = 0 ∨ s.portState p = 5 then { s with routes := Tab.set none s.routes r.1 none }
      else if s.routeClear r.1 p then
        { (s.updPort p fun q => { q with out := Tab.upd [] q.out 1 (· ++ [.drain r.1]) }) with
          routes := Tab.set none s.routes r.1 (some (p, true)) }
      else s
    | _ => s) s

/-! Streams of either kind of segment -/

/-- The sending stream of a segment source: to node m from a mesh node, whatever m from a port. -/
def State.segTx (s : State) (g : Seg) (m v : Nat) : TxStream :=
  match g with | .node n => s.nodeTx n m v | .port p => s.portTx p v

/-- Change it. -/
def State.updSegTx (s : State) (g : Seg) (m v : Nat) (f : TxStream → TxStream) : State :=
  match g with | .node n => s.updNodeTx n m v f | .port p => s.updPortTx p v f

/-- Sequence bits of a segment: 16 on the mesh, 12 on a port (Tables 8.5 and 8.9). -/
def segBits : Seg → Nat
  | .node _ => 16
  | .port _ => 12

/-- The mesh node that counts for a segment source. -/
def segNode : Seg → Nat
  | .node n => n
  | .port p => 70 + p

/-- Put packets of a stream on the way again (R257): a mesh node at once, each one attempt more and one RETX; a port when
    priority and credits let it (R248, R249, R262). -/
def State.resend (s : State) (g : Seg) (m v : Nat) (l : List Rtx) : State :=
  match g with
  | .node n =>
    let s := s.updNodeTx n m v fun t =>
      { t with buf := t.buf.map fun q =>
          if l.any fun r => decide (r.pk.seq = q.pk.seq) then { q with attempts := q.attempts + 1 } else q }
    (l.foldl (fun s r => s.transmit n m r.pk) s).bumpBy 48 (niCtr n 1) l.length
  | .port p => s.updPort p fun q => { q with again := Tab.set [] q.again v (l.map fun r => r.pk.seq) }

/-- Send SKIP for packet number `seq` (R258). -/
def State.sendSkip (s : State) (g : Seg) (m v seq : Nat) : State :=
  let nfl := match (s.segTx g m v).buf.find? fun r => decide (r.pk.seq = seq) with
    | some r => r.pk.flits - 1
    | none => 0
  match g with
  | .node n => s.sendCtl n m 3 v seq nfl
  | .port p => s.putLink p 3 v seq nfl 0 0

/-- The PATH record of a packet given up (R258, 12 Table 12.9). -/
def State.postPath (s : State) (g : Seg) (m v seq : Nat) : State :=
  let (ddev, dnode) := match g with
    | .node _ => (s.dev, m)
    | .port p => (s.rn (pReg p 2) % 16, if (s.port p).facing ≤ 6 then 70 + (s.port p).facing else 127)
  s.post 5 0 0
    (w64 (s.dev * 2 ^ 60 + segNode g * 2 ^ 53 + ddev * 2 ^ 48 + dnode * 2 ^ 41 + v * 2 ^ 38)) (w64 seq)

/-- Resend packet `seq` and every later one of the stream; the packet whose eighth attempt has failed is given up instead,
    and holds those behind it (R257, R258): none is sent a ninth time. -/
def State.retryFrom (s : State) (g : Seg) (m v seq : Nat) : State :=
  let late := (s.segTx g m v).buf.filter fun q => !seqBefore (segBits g) q.pk.seq seq
  match late with
  | [] => s
  | r :: _ =>
    if 8 ≤ r.attempts then
      (((s.updSegTx g m v fun t => { t with skip := some r.pk.seq }).resend g m v []).postPath g m v r.pk.seq).sendSkip g m
        v r.pk.seq
    else s.resend g m v (late.takeWhile fun q => decide (q.attempts < 8))

/-- What leaving the retransmit buffer of a port means on this device: an item for another device has reached the next one,
    and only FENCE_DONE still waits for its end there (02 R78, log 15). -/
def State.leftPort (s : State) (pk : Packet) : State := pk.items.foldl (fun s i => s.itemEnd i.ident) s

/-- A packet that has left the retransmit buffer of a port is not sent again. -/
def State.keepAgain (s : State) (g : Seg) (v : Nat) : State :=
  match g with
  | .node _ => s
  | .port p => s.updPort p fun q =>
      { q with again := Tab.upd [] q.again v fun l =>
          l.filter fun k => (Tab.get TxStream.reset q.tx v).buf.any fun r => decide (r.pk.seq = k) }

/-- Packets leave a sending stream as delivered: acknowledged, or given up and answered HAVE. -/
def State.releasePk (s : State) (g : Seg) (m v : Nat) (f : Packet → Bool) : State :=
  let gone := (s.segTx g m v).buf.filter fun r => f r.pk
  let s := s.updSegTx g m v fun t => { t with buf := t.buf.filter fun r => !f r.pk }
  let s := s.keepAgain g v
  match g with
  | .node n => (if 70 ≤ n ∧ n ≤ 76 then s.answerDrains (n - 70) else s).routeCheck
  | .port _ => (gone.foldl (fun s r => s.leftPort r.pk) s).routeCheck

/-- Payload flits that the device counted lost, and that its segment sources sent for the first time: what
    FAB.LOSS_RATE compares; the dictionary does not serve them. -/
def rLostAll : Nat := rk 0 0x2000 0x20

/-- The payload flits of a packet are lost: counted in LOSS, at a port in DROP as well, and in ACC (R258, R62). -/
def State.losePk (s : State) (g : Seg) (pk : Packet) : State :=
  let n := pk.flits
  let s := match g with
    | .node k => s.bumpBy 48 (niCtr k 5) n
    | .port p => (s.bumpBy 48 (pReg p 0x14) n).bumpBy 48 (pReg p 0x15) n
  let s := s.bumpBy 64 rLostAll n
  pk.items.foldl (fun s i => (s.lostItem i).itemGone (segNode g) i) s

/-! Link-control messages -/

/-- Take the link-control message of a kind at e: virtual channel, far node and SEQ. A message that fails its CRC-8 or
    is of a reserved kind is discarded and counted in LINK_ERR (R254, R260). -/
def State.takeCtl (s : State) (e : LinkAt) (kind : Nat) : Option (Nat × Nat × Nat) × State :=
  match e with
  | .node n =>
    match Tab.get [] (s.node n).rx 2 with
    | f :: rest =>
      let w := f.word
      let t := s.updNode n fun q => { q with rx := Tab.set [] q.rx 2 rest }
      if f.pos ≠ 2 then (none, s)
      else if !crc8Ok w || decide (fld w 63 60 = 0) || decide (5 < fld w 63 60) then
        (none, t.bumpBy 32 (niCtr n 6) 1)
      else if fld w 63 60 = kind then (some (fld w 59 58, fld w 57 51, fld w 43 28), t)
      else (none, s)
    | [] => (none, s)
  | .port p w =>
    if fld w 63 62 = 3 ∨ (fld w 63 62 = 2 ∧ (!crc8Ok w || decide (fld w 61 58 = 0) || decide (7 < fld w 61 58))) then
      (none, s.bumpBy 32 (pReg p 0x1A) 1)
    else if fld w 63 62 = 2 ∧ fld w 61 58 = kind then (some (fld w 57 56, 0, fld w 55 44), s)
    else (none, s)

/-- The segment at whose sending end a message arrives. -/
def LinkAt.seg : LinkAt → Seg
  | .node n => .node n
  | .port p _ => .port p

/-- ACK: every packet up to SEQ leaves the retransmit buffer (R256). -/
def execAck (e : LinkAt) (s : State) : Out :=
  .next (match s.takeCtl e 1 with
    | (some (v, m, seq), s) =>
      let g := LinkAt.seg e
      (s.releasePk g m v fun pk => decide (pk.seq = seq) || seqBefore (segBits g) pk.seq seq).closeCheck
    | (none, s) => s)

/-- NAK for SEQ: resend it and every later packet; while a SKIP awaits its answer the stream is held (R257, R258). -/
def execNak (e : LinkAt) (s : State) : Out :=
  .next (match s.takeCtl e 2 with
    | (some (v, m, seq), s) =>
      let g := LinkAt.seg e
      if (s.segTx g m v).skip.isSome then s else s.retryFrom g m v seq
    | (none, s) => s)

/-- The retransmission timeout of a stream: its oldest packet is resent with the later ones, or its SKIP again
    (R257, R258). -/
def execRetransmitTimeout (g : Seg) (m v : Nat) (s : State) : Out :=
  let t := s.segTx g m v
  .next (match t.skip, t.buf with
    | some seq, _ => s.sendSkip g m v seq
    | none, r :: _ => s.retryFrom g m v r.pk.seq
    | none, [] => s)

/-- The next expected SEQ of a receiving stream. -/
def State.rxExp (s : State) (e : LinkAt) (m v : Nat) : Nat :=
  match e with
  | .node n => Tab.get 0 (s.node n).rxNext (4 * m + v)
  | .port p _ => Tab.get 0 (s.port p).rxNext v

/-- Set the next expected SEQ. -/
def State.setRxExp (s : State) (e : LinkAt) (m v seq : Nat) : State :=
  match e with
  | .node n => s.updNode n fun q => { q with rxNext := Tab.set 0 q.rxNext (4 * m + v) (seq % 65536) }
  | .port p _ => s.updPort p fun q => { q with rxNext := Tab.set 0 q.rxNext v (seq % 4096) }

/-- The time of the last NAK of a receiving stream, as the ticks of 2 ns so far plus one; 0 none. -/
def State.lastNak (s : State) (e : LinkAt) (m v : Nat) : Nat :=
  match e with
  | .node n => Tab.get 0 (s.node n).naked (4 * m + v)
  | .port p _ => Tab.get 0 (s.port p).naked v

/-- A NAK goes out now. -/
def State.noteNak (s : State) (e : LinkAt) (m v : Nat) : State :=
  match e with
  | .node n => s.updNode n fun q => { q with naked := Tab.set 0 q.naked (4 * m + v) (s.now + 1) }
  | .port p _ => s.updPort p fun q => { q with naked := Tab.set 0 q.naked v (s.now + 1) }

/-- RTO of a segment's receiver in ticks of 2 ns: FAB.RTO on the mesh, FAB.PORT[p].RTO on a port, in µs. -/
def State.rtoTicks (s : State) (e : LinkAt) : Nat :=
  500 * (match e with | .node _ => s.rn (rk 0 0x2000 1) | .port p _ => s.rn (pReg p 4))

/-- The stream may send a NAK for a packet ahead of the next expected: at most one per RTO (Table 8.7). -/
def State.mayNak (s : State) (e : LinkAt) (m v : Nat) : Bool :=
  decide (s.lastNak e m v = 0) || decide (s.lastNak e m v + s.rtoTicks e ≤ s.now + 1)

/-- Answer a segment sender: ACK 1, NAK 2, HAVE 4 or ABSENT 5. -/
def State.answerSeg (s : State) (e : LinkAt) (m v kind seq : Nat) : State :=
  match e with
  | .node n => s.sendCtl n m kind v seq 0
  | .port p _ => s.putLink p kind v seq 0 0 0

/-- SKIP: HAVE for an accepted packet; otherwise ABSENT, and the packet is passed over (R258). -/
def execSkip (e : LinkAt) (s : State) : Out :=
  .next (match s.takeCtl e 3 with
    | (some (v, m, seq), s) =>
      if seqBefore (segBits (LinkAt.seg e)) seq (s.rxExp e m v) then s.answerSeg e m v 4 seq
      else (s.setRxExp e m v (seq + 1)).answerSeg e m v 5 seq
    | (none, s) => s)

/-- HAVE: the packet given up had been accepted (R258). -/
def execHave (e : LinkAt) (s : State) : Out :=
  .next (match s.takeCtl e 4 with
    | (some (v, m, seq), s) =>
      let g := LinkAt.seg e
      if (s.segTx g m v).skip = some seq then
        ((s.updSegTx g m v fun t => { t with skip := none }).releasePk g m v fun pk => decide (pk.seq = seq)).closeCheck
      else s
    | (none, s) => s)

/-- ABSENT: the packet given up is lost (R258). -/
def execAbsent (e : LinkAt) (s : State) : Out :=
  .next (match s.takeCtl e 5 with
    | (some (v, m, seq), s) =>
      let g := LinkAt.seg e
      if (s.segTx g m v).skip = some seq then
        let lost := (s.segTx g m v).buf.filter fun r => decide (r.pk.seq = seq)
        let s := s.updSegTx g m v fun t =>
          { t with skip := none, buf := t.buf.filter fun r => decide (r.pk.seq ≠ seq) }
        let s := ((lost.foldl (fun s r => s.losePk g r.pk) s).routeCheck).closeCheck
        match g with
        | .node n => if 70 ≤ n ∧ n ≤ 76 then s.answerDrains (n - 70) else s
        | .port _ => s
      else s
    | (none, s) => s)

/-- CREDIT: words of a virtual channel come back to the sender of port p (R249). -/
def execCredit (p : Nat) (w : W64) (s : State) : Out :=
  .next (match s.takeCtl (.port p w) 6 with
    | (some (v, _, _), s) => s.updPort p fun q => { q with taken := Tab.upd 0 q.taken v (· - fld w 40 25) }
    | (none, s) => s)

/-! PACKET_RECEIVE (R256, Table 8.7) -/

/-- Table 8.7 for a packet whose CRC agrees: `accept` hands on its payload. DUP and OOS stand at c and c + 1. -/
def State.receive (s : State) (e : LinkAt) (m v seq c : Nat) (accept : State → State) : State :=
  let exp := s.rxExp e m v
  let bits := segBits (LinkAt.seg e)
  if seq = exp then (accept (s.setRxExp e m v (exp + 1))).answerSeg e m v 1 seq
  else if seqBefore bits seq exp then
    (s.bumpBy 32 c 1).answerSeg e m v 1 ((exp + 2 ^ bits - 1) % 2 ^ bits)
  else
    let s := s.bumpBy 32 (c + 1) 1
    if s.mayNak e m v then (s.noteNak e m v).answerSeg e m v 2 exp else s

/-- The endpoint at node n takes no further packet of v yet: an NI that holds copies or VC1 items (04 R157, 07 R229). -/
def State.nodeHolds (s : State) (n v : Nat) : Bool :=
  decide (n < 70) && ((decide (v = 0) && !(s.tile n).copies.isEmpty) || (decide (v = 1) && !(s.tile n).vc1.isEmpty))

/-- The items of payload flits, each with its first flit. -/
def payloadItems (l : List MeshFlit) : List Item :=
  l.filterMap fun f => match f.body with | .payload i 0 => some i | _ => none

/-- No link has changed the flit since node m's packet for node n on v. -/
def MeshFlit.clean (f : MeshFlit) (v n : Nat) : Bool := decide (f.xor = 0) && decide (f.vc = v) && decide (f.dnode = n)

/-- The flits are those of the packet that the trailer closes, as it was sent to node n on v: the CRC then agrees. -/
def intact (n v : Nat) (body : List MeshFlit) (f : MeshFlit) : Bool :=
  match f.body with
  | .trailer pk src dst =>
    decide (dst = n) && decide (pk.vc = v) && f.clean v n && body.all (·.clean v n) &&
      decide (body.map MeshFlit.body ++ [f.body] = (packetFlits dst src pk).map MeshFlit.body)
  | _ => false

/-- The check of a packet that stands at node n on virtual channel v (R253): its trailer's CRC agrees with the flits as they
    came. The first disjunct is the case that no link changed anything; the second one follows from it
    (Laws/Packet.lean, intact_crc). -/
def packetOk (n v : Nat) (body : List MeshFlit) (f : MeshFlit) : Bool :=
  intact n v body f ||
    decide (meshCrc (body.map MeshFlit.word) (f.word.toNat % 2 ^ 32) n v = f.word.toNat / 2 ^ 32)

/-- A part of a message at node n: it is kept until the last, which answers the message. A message whose parts do not run
    0, 1, 2 … to LAST is discarded, on VC3 with one LINK_ERR (11 R381). -/
def State.joinParts (s : State) (n v : Nat) (i : Item) (k : Nat) (last : Bool) : State × Option Item :=
  let l := (s.node n).parts
  let rest := l.filter fun q => decide (q.1 ≠ i)
  let have' := match l.find? fun q => decide (q.1 = i) with | some q => q.2 | none => 0
  let s := s.updNode n fun q => { q with parts := if last then rest else if k = 0 ∨ have' = k then rest ++ [(i, k + 1)] else rest }
  if last then
    if have' = k then (s, some i) else (if v = 3 then s.bumpBy 32 (niCtr n 6) 1 else s, none)
  else (s, none)

/-- Mesh node n takes the payload item i off virtual channel v; a bridge to a port hands parts of messages on. -/
def State.arriveItem (s : State) (n v : Nat) (i : Item) : State :=
  match i with
  | .frag j k last =>
    if 70 ≤ n ∧ n ≤ 76 then s.arrive n v i
    else match s.joinParts n v j k last with
      | (s, some j) => s.arrive n v j
      | (s, none) => s
  | _ => s.arrive n v i

/-- The packet whose last flit f stands behind the flits `body` at node n: its trailer is checked, and the packet handled by
    Table 8.7; what ends without a trailer is refused too, and a link-control flit that is none is discarded and counted
    (R253, R254, R256). -/
def State.takePacket (s : State) (n v : Nat) (body : List MeshFlit) (f : MeshFlit) (rest : List MeshFlit) : State :=
  let drop := s.updNode n fun d => { d with rx := Tab.set [] d.rx v rest }
  if f.pos = 1 then
    if packetOk n v body f then
      drop.receive (.node n) (fld f.word 15 9) v (fld f.word 31 16) (niCtr n 3) fun s =>
        (payloadItems body).foldl (fun s i => s.arriveItem n v i) s
    else drop.bumpBy 32 (niCtr n 2) 1
  else if !body.isEmpty then
    (s.updNode n fun d => { d with rx := Tab.set [] d.rx v (f :: rest) }).bumpBy 32 (niCtr n 2) 1
  else if v = 2 ∧ f.pos = 2 then s
  else drop.bumpBy 32 (niCtr n 6) 1

/-- A whole packet stands at node n: check it and handle it (R253, R256). A stuck NI takes none (12 R419). -/
def State.receiveNode (s : State) (n v : Nat) : State :=
  let q := Tab.get [] (s.node n).rx v
  let body := q.takeWhile fun f => !f.isLast
  if s.boot.deadNis.contains n then
    s.updNode n fun d => { d with rx := Tab.set [] d.rx v (q.drop (body.length + 1)) }
  else if s.nodeHolds n v then s
  else match q.drop body.length with
    | f :: rest => s.takePacket n v body f rest
    | [] => s

/-! PACKET_RECEIVE on a port (R256, R260, Table 8.9) -/

/-- CRC of a port packet: over the head with bits [31:0] taken as zero, then the payload flits. -/
def portCrc (head : W64) (flits : List W64) : Nat :=
  crc32c (leBytes 8 (head.toNat / 2 ^ 32 * 2 ^ 32) ++ (flits.map fun w => leBytes 8 w.toNat).flatten)

/-- The head word of a port packet (Table 8.9). -/
def portHead (pk : Packet) : W64 :=
  let h := w64 (2 ^ 62 + pk.vc % 4 * 2 ^ 60 + (pk.flits - 1) % 8 * 2 ^ 57 + pk.sdev % 16 * 2 ^ 53 + pk.ddev % 16 * 2 ^ 49 +
    (if pk.drain then 2 ^ 45 else 0) + pk.seq % 4096 * 2 ^ 33)
  w64 (h.toNat + portCrc h pk.words)

/-- The port words that a port puts on its line; between them the line carries IDLE, the word 0, at which a receiver does
    nothing (R260). -/
def LineOut.words : LineOut → List W64
  | .packet pk => portHead pk :: pk.words
  | .link w => [w]

/-- The items of the payload flits of a port packet: an event is its flit, a VC2 packet its flits; for a record and for VC1
    and VC3 they are `what` (log 11). -/
def portItems (vc ddev : Nat) (drain : Bool) (flits : List W64) (what : List Item) : List Item :=
  if drain then [.drain ddev]
  else if vc = 2 then [.vc2 ddev flits]
  else if vc = 0 then
    ((List.range flits.length).zip flits).map fun (e : Nat × W64) =>
      match (what[e.1]? : Option Item) with | some (.record r) => .record r | _ => .event 0 0 e.2
  else what

/-- The packet that a head word and payload flits spell. -/
def portPacket (head : W64) (flits : List W64) (what : List Item) : Packet :=
  let drain := decide (fld head 46 45 = 1)
  { vc := fld head 61 60, seq := fld head 44 33, drain := drain, sdev := fld head 56 53, ddev := fld head 52 49,
    items := portItems (fld head 61 60) (fld head 52 49) drain flits what }

/-- The VC2 flit kinds that travel in packets (Table 8.6). -/
def vc2Kind (w : W64) : Bool := decide (8 ≤ w.toNat / 2 ^ 60) && decide (w.toNat / 2 ^ 60 ≤ 13)

/-- One item of an accepted packet of port p: on to this device's units, or through it to another (R255, R271); a DRAIN for
    this device becomes a marker behind the packets received before it (R272); a reserved VC2 kind is discarded and
    counted (R254). -/
def State.acceptItem (s : State) (p : Nat) (pk : Packet) (j : Item) : State :=
  let i := j.foreign
  if pk.drain || decide (i.ddev s.dev ≠ s.dev) then s.inject (70 + p) pk.vc (.transit pk.sdev i)
  else match i with
    | .vc2 _ ws =>
      if vc2Kind (ws.headD 0) then s.inject (70 + p) 2 i
      else (s.bumpBy 32 (pReg p 0x1A) 1).putCredit p 2 i.flits
    | _ => s.inject (70 + p) pk.vc i

/-- An accepted packet of port p of n payload flits. -/
def State.acceptPort (s : State) (p n : Nat) (pk : Packet) : State :=
  let s := (s.bump (pReg p 0x11)).bumpBy 64 (pReg p 0x13) n
  let s := s.putCredit p pk.vc 1
  let s := pk.items.foldl (fun s i => s.acceptItem p pk i) s
  s.hwm (pReg p (0x24 + pk.vc)) ((Tab.get [] (s.node (70 + p)).out pk.vc).map Item.ingress).sum

/-- A packet has arrived on port p (R256, R260, R262). A first word of TYPE 3 is discarded and counted; one of TYPE 0 is
    IDLE, and a LINK word has a command of its own. -/
def State.receivePort (s : State) (p : Nat) (head : W64) (flits : List W64) (what : List Item) : State :=
  let pk := portPacket head flits what
  let words := 1 + flits.length
  if fld head 63 62 = 3 then s.bumpBy 32 (pReg p 0x1A) 1
  else if fld head 63 62 ≠ 1 || !s.portCarries p pk.vc then s
  else if portCrc head flits ≠ fld head 31 0 ∨ fld head 59 57 + 1 ≠ flits.length then
    let s := (s.bumpBy 32 (pReg p 0x16) 1).putCredit p pk.vc words
    (List.range 4).foldl (fun s v => s.answerSeg (.port p 0) 0 v 2 (s.rxExp (.port p 0) 0 v)) s
  else
    let fresh := decide (pk.seq = s.rxExp (.port p 0) 0 pk.vc)
    let s := s.receive (.port p 0) 0 pk.vc pk.seq (pReg p 0x17) fun s => s.acceptPort p flits.length pk
    if fresh then s else s.putCredit p pk.vc words

/-- A packet is complete at the end of a segment. -/
def execPacketReceive (e : RxAt) (s : State) : Out :=
  .next (match e with
    | .node n v => (s.receiveNode n v).closeCheck
    | .port p head flits what => s.receivePort p head flits what)

end Sys2Proof.Machine
end

