-- ==== Sys2Proof/Machine/Ports.lean ====
section
/-! DEFINITION. Fabric ports: lanes (08 R261, 13 R447), training and qualification (12 R412, R413), states and the
    reconciliation of a port that goes down (08 R262, R263). -/

namespace Sys2Proof.Machine

/-! States -/

/-- Post a PORT record: a port leaves UP at run time (12 Table 12.9). -/
def State.setPort (s : State) (p st : Nat) : State :=
  let was := s.portState p
  let s := s.wn (pReg p 1) st
  if was = 3 ∧ st ≠ 3 ∧ s.boot.stage = .noon then s.post 16 0 (p * 2 ^ 20 + st) 0 0 else s

/-- Drop what waits for port p on the virtual channels that f names: DROP and ACC (R262). -/
def State.dropPortQueue (s : State) (p : Nat) (f : Nat → Bool) : State :=
  (List.range 4).foldl (fun s v =>
    if f v then
      let q := Tab.get [] (s.port p).out v
      let s := s.updPort p fun t => { t with out := Tab.set [] t.out v [] }
      q.foldl (fun s i => ((s.lostItem i).bumpBy 48 (pReg p 0x14) i.flits).itemGone (70 + p) i) s
    else s) s

/-- A port that found a peer no longer does (R270). -/
def State.losePeer (s : State) (p : Nat) : State :=
  let e := s.rn (pReg p 2)
  let s := s.wn (pReg p 2) 0xFF
  if e < 8 ∧ (s.peer e).port = some p then s.updPeer e fun q => { q with port := none } else s

/-- Port p becomes the direct port to device e (R270). -/
def State.findPeer (s : State) (p e : Nat) : State :=
  (s.wn (pReg p 2) e).updPeer e fun q => { q with port := some p }

/-- Port p is FENCED (R262, Table 8.15). -/
def State.fencePort (s : State) (p : Nat) (r : JoinReason) : State :=
  ((((s.setPort p 5).updPort p fun q => { q with reason := r }).losePeer p).dropPortQueue p
    (fun v => decide (v ≠ 3))).routeCheck

/-- Port p leaves FENCED without retraining, and being UP or DEGRADED sends a JOIN record (R274, R276). -/
def State.unfencePort (s : State) (p e : Nat) : State :=
  (((s.wn (pReg p 1) (if (s.port p).half then 4 else 3)).updPort p fun q => { q with reason := .agreed }).findPeer p
    e).sendJoin p

/-- A port fenced because a lower one was the direct port to the same peer e returns when that one, `was`, has gone DOWN:
    the disagreement no longer stands, and the JOIN records exchanged anew find what does (R276). -/
def State.releaseDup (s : State) (e was : Nat) : State :=
  match (List.range 7).find? fun q =>
      decide (was < q) && decide (s.portState q = 5) && decide ((s.port q).reason = .dupPeer) &&
        decide ((s.port q).found = e) with
  | some q => ((s.wn (rPeerState e) 1).wn (rPeerReason e) 0).unfencePort q e
  | none => s

/-- The packets in the retransmit buffer of port p, as (virtual channel, packet). -/
def State.portBuf (s : State) (p : Nat) : List (Nat × Packet) :=
  (s.port p).tx.foldl (fun l e => l ++ e.2.buf.map fun r => (e.1, r.pk)) []

/-- A port other than p that can carry a message to device e: its route's, else a direct port to some member (R263). -/
def State.otherWay (s : State) (p e : Nat) : Option Nat :=
  match (s.routed e).filter fun q => decide (q ≠ p) && s.portUp q with
  | some q => some q
  | none => (List.range 7).find? fun q => decide (q ≠ p) && s.portUp q

/-- Ask peer e for FAB.PORT[q].RX_NEXT of the facing port: a READ request on VC3 (R263, 11 Table 11.10). -/
def State.askRxNext (s : State) (p e : Nat) : State :=
  match s.otherWay p e with
  | some q =>
    s.portMsg q
      { mkind := 1, sdev := s.dev, ddev := e, tag := BitVec.ofNat 8 (0xF0 + p), idx := 0x2010 + (s.port p).facing, sub := 8,
        op := 1, body := [] }
  | none => s

/-- Port p goes DOWN: it drops what is routed to it, and its retransmit buffer is reconciled first (R262, R263). -/
def State.downPort (s : State) (p : Nat) : State :=
  let e := (s.port p).found
  let direct := decide ((s.peer e).port = some p)
  let s := ((s.setPort p 0).losePeer p).dropPortQueue p fun _ => true
  let s := s.updPort p fun q =>
    { q with joined := false, again := [], tx := q.tx.map (fun t => (t.1, { t.2 with skip := none })),
             recon := !(s.portBuf p).isEmpty }
  let s := if (s.portBuf p).isEmpty then s else s.askRxNext p e
  (if direct then s.releaseDup e p else s).routeCheck

/-- Empty the retransmit buffer of port p: what f calls delivered is released, every other packet is lost (R263);
    behind a forced OFF of its domain the packets so lost are discarded work (13 Table 13.2). -/
def State.reconcile (s : State) (p : Nat) (f : Nat → Packet → Bool) : State :=
  let l := s.portBuf p
  let s := s.updPort p fun q =>
    { q with recon := false, again := [], tx := q.tx.map fun t => (t.1, { t.2 with buf := [] }) }
  let s := if (s.dom (70 + p)).off then
      s.bumpBy 64 (rk 0 (0x0400 + 70 + p) 9) (l.filter fun e => !f e.1 e.2).length
    else s
  (l.foldl (fun s e => if f e.1 e.2 then s.leftPort e.2 else s.losePk (.port p) e.2) s).routeCheck.closeCheck

/-- FAB.PORT[p].CMD = 2. -/
def portDownAct (p : Nat) : Act := fun s =>
  guardAct [(decide (s.portState p < 3), .state)] s fun s => okAct (s.downPort p)

/-- FAB.PORT[p].CMD = 2 DOWN. -/
def execPortDown (a : Path) (p : Nat) (s : State) : Out :=
  .next (operate a false 2 (0x2010 + p) 3 [2] (portDownAct p) s)

/-- The peer's RX_NEXT: 12 bits per virtual channel, VC0 in [11:0] (R263). -/
def execPortRxNextReply (p : Nat) (rx : BitVec 48) (s : State) : Out :=
  .next (if (s.port p).recon then
      s.reconcile p fun v pk => seqBefore 12 pk.seq (rx.toNat / 2 ^ (12 * v) % 4096)
    else s)

/-- No answer came within 1 ms: every packet is lost, and DOUBT counts them (R263). -/
def execPortDownReconcileTimeout (p : Nat) (s : State) : Out :=
  .next (if (s.port p).recon then
      (s.reconcile p fun _ _ => false).bumpBy 64 (pReg p 9) (s.portBuf p).length
    else s)

/-! Training and qualification (12 R412, R413) -/

/-- Physical lane n is active. -/
def State.laneOn (s : State) (p n : Nat) : Bool := s.rn (pReg p 5) / 2 ^ n % 2 = 1

/-- The active lanes of port p. -/
def State.lanesOn (s : State) (p : Nat) : List Nat := (List.range 9).filter (s.laneOn p)

/-- The spare lane: at full width, the one lane that is not active and has not been moved away from. -/
def State.spare (s : State) (p : Nat) : Option Nat :=
  if (s.port p).half then none
  else (List.range 9).find? fun n => !s.laneOn p n && decide ((s.port p).swapped ≠ some n)

/-- Set the active lanes. -/
def State.setLanes (s : State) (p : Nat) (l : List Nat) : State :=
  s.wn (pReg p 5) ((l.map fun n => 2 ^ n).sum)

/-- Move the place of lane n to spare lane m (R261). -/
def State.moveLane (s : State) (p n m : Nat) : State :=
  ((s.setLanes p ((s.lanesOn p).filter (fun k => decide (k ≠ n)) ++ [m])).bump32 (pReg p 7)).updPort p fun q =>
    { q with swapped := some n }

/-- Begin the training of port p on its nine lanes, or on a given four at half width. -/
def State.train (s : State) (p : Nat) (four : Option (List Nat)) : State :=
  let s := s.setPort p 1
  match four with
  | some l => (s.setLanes p (l.take 4)).updPort p fun q => { q with half := true }
  | none => (s.setLanes p (List.range 8)).updPort p fun q => { q with half := false, swapped := none, windows := 0 }

/-- FAB.PORT[p].CMD = 1: a port whose domain is OFF cannot train. -/
def portTrainAct (p : Nat) : Act := fun s =>
  guardAct [(decide (s.rn (rDomain (70 + p)) = 0), .state)] s fun s =>
    okAct ((s.train p none).updPort p fun q => { q with joined := false })

/-- FAB.PORT[p].CMD = 1 TRAIN. -/
def execPortTrain (a : Path) (p : Nat) (s : State) : Out :=
  .next (operate a false 2 (0x2010 + p) 3 [1] (portTrainAct p) s)

/-- Training ends, and a window of 1 s begins. -/
def execPortTrainingDone (p : Nat) (s : State) : Out :=
  .next (s.clk fun s => if s.portState p = 1 then s.wn (pReg p 1) 2 else s)

/-- The limit of bit errors of a lane in a window. -/
def laneLimit : Nat := 112000

/-- LINK.QUAL[p] (Table 12.5). -/
def qualBytes (outcome windows : Nat) (swapped : Option Nat) (err : List Nat) (uncorr : Nat) : Bytes :=
  leBytes 8 (outcome * 2 ^ 59 + windows % 8 * 2 ^ 56 + swapped.getD 0xF % 16 * 2 ^ 52) ++
    (((List.range 9).map fun n => leBytes 8 (err.getD n 0)).flatten ++ leBytes 8 uncorr) ++ leBytes 8 0

/-- Record the counts of a window and the outcome: 0 none yet, 1 UP, 2 DEGRADED, 3 DOWN. -/
def State.noteQual (s : State) (p outcome : Nat) (q : QualWindow) : State :=
  s.updPort p fun t => { t with qual := qualBytes outcome t.windows t.swapped q.laneErr q.uncorr }

/-- A port has passed: UP, or DEGRADED at half width, and JOIN records are exchanged (08 R274). -/
def State.comeUp (s : State) (p : Nat) : State :=
  ((s.wn (pReg p 1) (if (s.port p).half then 4 else 3)).updPort p fun q => { q with joined := false }).sendJoin p

/-- The verdict of a window on both directions (R412, R413): the lanes that failed in either, and whether a spare
    that could carry one passed in both. -/
def State.verdict (s : State) (p : Nat) (q : QualWindow) : State :=
  let failed := fun n => decide (laneLimit < q.laneErr.getD n 0) || q.peerFail.contains n
  let bad := (s.lanesOn p).filter failed
  let pass := bad.isEmpty && decide (q.uncorr = 0) && q.peerPass
  let good := (List.range 9).filter fun n => !failed n
  let w := (s.port p).windows + 1
  let s := s.updPort p fun t => { t with windows := w }
  if pass then (s.noteQual p (if (s.port p).half then 2 else 1) q).comeUp p
  else if (s.port p).half then (s.noteQual p 3 q).downPort p
  else
    match bad, (s.port p).swapped, (s.spare p).filter fun m => !failed m with
    | [n], none, some m => (s.moveLane p n m).noteQual p 0 q
    | _, _, _ =>
      if 4 ≤ good.length then (s.train p (some good)).noteQual p 0 q
      else (s.noteQual p 3 q).downPort p

/-- The FEC counts of port p: codewords corrected and uncorrectable (08 R273). -/
def State.countFec (s : State) (p corr uncorr : Nat) : State :=
  (s.bumpBy 64 (pReg p 0x1C) corr).bumpBy 64 (pReg p 0x1D) uncorr

/-- The end of a qualification window. -/
def execQualWindowEnd (p : Nat) (q : QualWindow) (s : State) : Out :=
  .next (s.clk fun s => if s.portState p = 2 then (s.countFec p q.corr q.uncorr).verdict p q else s)

/-! Lanes in service (08 R261) -/

/-- A 10 µs window of port p ends, in which lane n showed w: the bridge counts the codewords, and reports a lane that lost
    lock or passed LANE_LIMIT (R261). -/
def execLaneFailure (p n : Nat) (w : LaneWindow) (s : State) : Out :=
  .next (if 3 ≤ s.portState p ∧ s.laneOn p n ∧ s.domOn (70 + p) then
      let s := s.countFec p w.corr w.uncorr
      if w.lockLoss || decide (s.rn (pReg p 6) < w.errs) then
        (s.putLink p 7 0 0 0 0 n).updPort p fun q => { q with cause := some (n, w.lockLoss) }
      else s
    else s)

/-- DETAIL bit 0 of a LANE record: 1 symbol errors. The bridge that found the failure knows; the one that only receives
    the LANE word is not told. -/
def State.laneCause (s : State) (p n : Nat) : Bool × State :=
  match (s.port p).cause.filter fun c => decide (c.1 = n) with
  | some c => (!c.2, s.updPort p fun q => { q with cause := none })
  | none => (Config.farLaneCause s.free, { s with free := s.free + 1 })

/-- Both ends act on a LANE word: move the lane's place to the spare, or retrain on four lanes, and post a LANE
    record. -/
def State.laneWord (s : State) (p n : Nat) : State :=
  let (err, s) := s.laneCause p n
  let m := if (s.port p).swapped.isNone then s.spare p else none
  let s := match m with
    | some m => s.moveLane p n m
    | none =>
      let from' := if (s.port p).half then List.range 9 else s.lanesOn p
      (s.train p (some (from'.filter fun k => decide (k ≠ n)))).updPort p fun q => { q with windows := 0 }
  s.post 6 0 (p * 2 ^ 20 + n * 2 ^ 16 + m.getD 0xF * 2 ^ 12) 0 (w64 (if err then 1 else 0))

/-- A LANE word on port p, sent by this bridge or received from the peer. -/
def execLane (p : Nat) (w : W64) (s : State) : Out :=
  .next (match s.takeCtl (.port p w) 7 with
    | (some _, s) =>
      let n := fld w 24 21
      if 3 ≤ s.portState p ∧ n ≤ 8 ∧ s.laneOn p n then s.laneWord p n else s
    | (none, s) => s)

/-! Retention of a port (13 R447) -/

/-- Domain d begins to enter RETENTION or OFF (13 R437). -/
def State.enterDomain (s : State) (d : Nat) (off : Bool) : State :=
  (s.wn (rDomain d) 3).updDom d fun _ => { Dom.reset with off := off }

/-- A LANE word naming lane 15: the facing port has entered RETENTION, and this one does as well. -/
def execPortRetentionNotice (p : Nat) (w : W64) (s : State) : Out :=
  .next (match s.takeCtl (.port p w) 7 with
    | (some _, s) =>
      if fld w 24 21 = 15 ∧ s.domOn (70 + p) then s.enterDomain (70 + p) false else s
    | (none, s) => s)

end Sys2Proof.Machine
end

