-- ==== Sys2Proof/Machine/Maps.lean ====
section
/-! DEFINITION. The tile map, the core map and the routes (08 R265 to R272), the join of a system (R274 to R278), and
    the timebase (R280). -/

namespace Sys2Proof.Machine

/-! MAP.TILE (08 R266, 09 R317) -/

/-- Physical tile t failed by fuse or self-test, or marked at run time (12 R410). -/
def State.tileBad (s : State) (t : Nat) : Bool :=
  s.fuses.tiles.contains t || s.boot.stTiles.contains t || s.boot.markTiles.contains t

/-- Physical core c = 136 × tile + core failed by fuse or self-test, or marked at run time. -/
def State.coreBad (s : State) (c : Nat) : Bool :=
  s.fuses.cores.contains c || s.boot.stCores.contains c || s.boot.markCores.contains c

/-- Virtual tiles that are RESIDENT. -/
def State.residents (s : State) : List Nat := (List.range 512).filter fun v => decide (s.tileKind v = 1)

/-- Physical tile t serves another virtual tile than v, or still drains for one. -/
def State.tileTaken (s : State) (t v : Nat) : Bool :=
  ((s.residents).any fun u => decide (u ≠ v) && decide (s.tilePt u = t)) ||
    (s.drains.any fun d => decide (d.v ≠ v) && decide (d.old = t)) ||
    (match s.swap with | some w => decide (w.pt = t) | none => false)

/-- The 77 holders of the tile map: every NI and every FP bridge (R265). -/
def mapHolders : List Nat := List.range 77

/-- VT[v] registers (09 Table 9.12). -/
def vtReg (v sub : Nat) : Nat := rk 0 (0x3600 + v) sub

/-- Discard the parking queue of virtual tile v (09 R317). -/
def State.dropPark (s : State) (v : Nat) : State :=
  let n := s.rn (vtReg v 5)
  { (((s.bumpBy 64 (vtReg v 8) n).wn (vtReg v 5) 0).wn (vtReg v 0x0B) 0) with
    parks := Tab.set { head := 0 } s.parks v { head := 0 } }

/-- Every map holder sends its DRAIN for virtual tile v to a node (R266, 09 R316). -/
def State.sendMarks (s : State) (v dest vc : Nat) : State :=
  mapHolders.foldl (fun s h => s.inject h vc (.mark v h dest)) s

/-- A swap in progress will make one more virtual tile RESIDENT. -/
def State.comingIn (s : State) : Nat :=
  match s.swap with
  | some w => if w.stage = .copyIn ∨ (w.next.isSome ∧ w.stage ≠ .map) then 1 else 0
  | none => 0

/-- A write of MAP.TILE[v]. -/
def mapTileAct (v : Nat) (x : W64) : Act := fun s =>
  let kind := fld x 15 14
  let pt := fld x 13 7
  let was := s.tileKind v
  let range := decide (kind = 3) ||
    (decide (kind = 1) && (decide (69 < pt) || s.tileBad pt || s.tileTaken pt v ||
      decide (64 < (s.residents.filter fun u => decide (u ≠ v)).length + 1 + s.comingIn)))
  let state := (decide (was = 1) && decide (kind = 2)) || (decide (was = 2) && decide (kind = 1))
  let busy := (s.drains.any fun d => decide (d.v = v)) ||
    (match s.swap with | some w => decide (w.vt = v) || decide (w.next = some v) | none => false)
  guardAct [(busy, .busy), (range, .range), (state, .state), (decide (fld x 6 0 ≠ 0), .rsvdSet)] s fun s =>
    let old := s.tilePt v
    let s := if was = 2 ∧ kind = 0 then s.dropPark v else s
    let t := s.wr (rk 0 (0x2200 + v) 0) x
    if was = 1 ∧ !s.boot.markTiles.contains old then
      .wait (.mapDrain v)
        (({ t with drains := t.drains ++ [{ v := v, old := old, wait := mapHolders, got := [] }] } : State).sendMarks v old 0)
    else okAct t

/-- A write of MAP.TILE[v]. -/
def execMapTileWrite (a : Path) (v : Nat) (x : BitVec 16) (s : State) : Out :=
  .next (operate a false 2 (0x2200 + v) 0 (leBytes 2 x.toNat) (mapTileAct v (x.zeroExtend 64)) s)

/-- The DRAIN of holder h for virtual tile v has been accepted by the old tile, or for a swap-in by the parking writer: the
    map write that waits for it returns OK with the last one, and a swap goes on (R266, 09 R315, R316). -/
def execDrain (h v : Nat) (s : State) : Out :=
  .next (match s.drains.find? fun d => decide (d.v = v) with
    | some d =>
      if d.wait.contains h && d.got.contains h then
        let rest := d.wait.filter fun k => decide (k ≠ h)
        let others := s.drains.filter fun q => decide (q.v ≠ v)
        if rest.isEmpty then
          senders.foldl (fun s n => s.finish n (.mapDrain v) false .ok) { s with drains := others }
        else { s with drains := others ++ [{ d with wait := rest }] }
      else s
    | none =>
      match s.swap with
      | some w =>
        if w.vt = v ∧ w.wait.contains h ∧ w.got.contains h then
          let rest := w.wait.filter fun k => decide (k ≠ h)
          let w := { w with wait := rest, stage := if w.stage = .drain ∧ rest = [] then .freeze else w.stage }
          { s with swap := some w }
        else s
      | none => s)

/-! MAP.CORE (08 R268, 07 R227) -/

/-- MAP.TSEL of a path. -/
def rTsel (p : Path) : Nat := rk (sender p) 0x2400 0

/-- An open or closing connection has an input queue of LCID l as its destination (07 R227). -/
def State.queuesBound (s : State) (l : Nat) : Bool :=
  s.conns.any fun e => decide (e.2.state ≠ .free) && decide (e.2.dkind = 0) && decide (e.2.dest = l)

/-- A write of MAP.CORE[slot] of the tile that MAP.TSEL names. -/
def mapCoreAct (p : Path) (slot c : Nat) : Act := fun s =>
  let t := s.rn (rTsel p)
  let busy := match s.vtOf t with | some v => s.queuesBound (128 * v + slot) | none => false
  let taken := (List.range 128).any fun k => decide (k ≠ slot) && decide (s.mapCore t k = c)
  let range := decide (c ≠ 0xFF) && (decide (135 < c) || s.coreBad (136 * t + c) || taken)
  guardAct [(busy, .busy), (range, .range)] s fun s => okAct (s.wn (rk (16 + t) 0x2401 slot) c)

/-- A write of MAP.CORE[s]. -/
def execMapCoreWrite (a : Path) (slot : Nat) (x : Byte) (s : State) : Out :=
  .next (operate a false 2 0x2401 slot [x] (mapCoreAct a slot x.toNat) s)

/-! SYS.ROUTE (08 R269, R272) -/

/-- A write of SYS.ROUTE[e]: at once for every virtual channel but VC1, which the old route keeps until it drains. -/
def routeAct (e : Nat) (x : W64) : Act := fun s =>
  guardAct [(decide (fld x 15 14 = 3) || decide (7 < fld x 13 10), .range), (decide (fld x 9 0 ≠ 0), .rsvdSet)] s fun s =>
    let old := s.routePort e
    let t := s.wr (rRoute e) x
    okAct (match old with
      | some p =>
        if t.routePort e = some p ∨ (Tab.get none s.routes e).isSome then t
        else { t with routes := Tab.set none t.routes e (some (p, false)) }.routeCheck
      | none => t)

/-- A write of SYS.ROUTE[e]. -/
def execRouteWrite (a : Path) (e : Nat) (x : BitVec 16) (s : State) : Out :=
  .next (operate a false 2 (0x4810 + e) 0 (leBytes 2 x.toNat) (routeAct e (x.zeroExtend 64)) s)

/-- DRAINED from device e: the VC1 hold ends (R272). -/
def execDrained (e : Nat) (s : State) : Out :=
  .next (match Tab.get none s.routes e with
    | some (_, true) => { s with routes := Tab.set none s.routes e none }
    | _ => s)

/-! JOIN (08 R274 to R277) -/

/-- A generation of both ranges; this device offers generation 1 only (R275). -/
def commonGen (lo hi : Nat) : Bool := decide (max lo 1 ≤ min hi 1)

/-- SYS.LEADER as a JOIN record carries it. -/
def State.leaderCode (s : State) : Nat := if s.rn rLeader = 0xFF then 0xF else s.rn rLeader % 16

/-- DICT.SCHEMA of this model: 0x0100 (11 Table 11.12). -/
def schema : Nat := 0x0100

/-- A port other than p whose JOIN found device e. -/
def State.otherPort (s : State) (p e : Nat) : Option Nat :=
  (s.peer e).port.filter fun q => decide (q ≠ p) && decide (s.portState q ≠ 0)

/-- The disagreements of a JOIN record in the order of Table 8.15, each with the own and the peer's value. -/
def State.disagreements (s : State) (p : Nat) (r : JoinRec) : List (JoinReason × Nat × Nat) :=
  let other := s.otherPort p r.devnum
  ([(!commonGen r.genMin r.genMax, (.version, 1, r.genMax)),
    (decide (r.devnum = s.dev), (.dupDev, s.dev, r.devnum)),
    (!s.isMember r.devnum, (.notMember, s.rn rMembers, r.devnum)),
    (other.isSome, (.dupPeer, other.getD 0, r.devnum)),
    (decide (r.schema.toNat ≠ schema), (.schema, schema, r.schema.toNat)),
    (decide (r.leader ≠ s.leaderCode), (.leader, s.leaderCode, r.leader)),
    (decide (r.hash ≠ s.reconf.joinHash), (.hash, leNat (s.reconf.joinHash.take 8), leNat (r.hash.take 8))),
    (s.stopped && !r.running && decide (r.step ≠ s.eng.count), (.step, s.eng.count.toNat, r.step.toNat)),
    (decide (r.members.toNat ≠ s.rn rMembers), (.members, s.rn rMembers, r.members.toNat))
   ] : List (Bool × JoinReason × Nat × Nat)).filterMap fun q => if q.1 then some q.2 else none

/-- A disagreement that fences a port whatever the state of the system (Table 8.15). -/
def JoinReason.fences : JoinReason → Bool
  | .version | .dupDev | .notMember | .dupPeer => true
  | _ => false

/-- Store what a JOIN record says of its device (Table 8.16), and which devices have reported agreement by then: VC3 has no
    message for that report (11 Table 11.10), so it comes with the record (R277, log 36). -/
def State.notePeer (s : State) (p : Nat) (r : JoinRec) (why : JoinReason) : State :=
  let e := r.devnum
  let k := fun (sub : Nat) => rk 0 (0x4820 + e) sub
  let st := if why ≠ .agreed then 3 else if r.agreed.getLsbD e then 2 else 1
  let s := (((s.wn (k 1) st).wn (k 2) why.code).wr (k 3) r.serial).wn (k 4) r.fwver.toNat
  let s := ((s.wn (k 5) r.schema.toNat).wr (k 7) r.step).wn (k 8) r.delayNs
  let s := (List.range 8).foldl (fun s d => s.updPeer d fun q => { q with agrees := r.agreed.getLsbD d }) s
  (s.updPeer e fun q => { q with hash := r.hash, stopped := !r.running }).updPort p fun q =>
    { q with facing := r.port, found := e }

/-- Sessions opened on path number n since power-on. -/
def rSessions (n : Nat) : Nat := rk 0 0x3000 (0x10 + n)

/-- Open a session on path number n. -/
def State.openSession (s : State) (n : Nat) (features : W32) (driver : W64) : State :=
  (s.bumpBy 32 (rSessions n) 1).updPathN n fun q =>
    { q with session := some { gen := 1, features := features, driver := driver } }

/-- The path of a peer opens at the join, with the generation settled and no features (11 R392). -/
def State.openPeer (s : State) (e : Nat) (why : JoinReason) : State :=
  if why = .version ∨ why = .dupDev ∨ !s.isMember e ∨ (s.pathN (8 + e)).session.isSome then s
  else s.openSession (8 + e) 0 0

/-- The leader no longer steps: this follower stops at its next boundary, which is here when no settle round runs (R279;
    DEDUCED, log 28, no VC2 flit says so). -/
def State.stopWithLeader (s : State) : State :=
  if s.stopped || s.eng.round.isSome then s else s.stopSteps

/-- A JOIN record has come over port p (R275 to R277). -/
def State.join (s : State) (p : Nat) (r : JoinRec) : State :=
  let ds := s.disagreements p r
  let why := match ds.head? with | some d => d.1 | none => .agreed
  let first := decide (s.portState p = 5) || !(s.port p).joined
  let running := !s.stopped || r.running
  let s := ds.foldl (fun s d =>
    s.post 9 0 (p * 2 ^ 20 + r.devnum % 16 * 2 ^ 16 + d.1.code * 2 ^ 8) (w64 d.2.1) (w64 d.2.2)) s
  let s := ((s.notePeer p r why).updPort p fun q => { q with joined := true }).openPeer r.devnum why
  let s := if s.follows && decide (r.devnum = s.rn rLeader) && !r.running then s.stopWithLeader else s
  let higher := match s.otherPort p r.devnum with | some q => decide (p < q) | none => false
  if decide (why = .dupPeer) && higher then
    match s.otherPort p r.devnum with
    | some q =>
      let s := s.fencePort q .dupPeer
      if s.portState p = 5 then s.unfencePort p r.devnum else s.findPeer p r.devnum
    | none => s
  else if why.fences || (decide (why ≠ .agreed) && running && first) then
    if s.portState p = 5 then s.updPort p fun q => { q with reason := why } else s.fencePort p why
  else if s.portState p = 5 then s.unfencePort p r.devnum
  else s.findPeer p r.devnum

/-- A JOIN record received on port p. -/
def execJoin (p : Nat) (r : JoinRec) (s : State) : Out :=
  .next (if 3 ≤ s.portState p ∧ r.devnum < 8 then s.join p r else s)

/-- SYS.CMD = 1. -/
def rejoinAct : Act := fun s => okAct s.sendJoins

/-- SYS.CMD = 1 REJOIN. -/
def execSysRejoin (a : Path) (s : State) : Out := .next (operate a false 2 0x4800 6 [1] rejoinAct s)

/-- A delay ring holds an entry. -/
def State.ringsHold (s : State) : Bool := s.tiles.any fun e => e.2.rings.any fun r => decide (r.2.held ≠ 0)

/-- SYS.CMD = 2: the leader's STEP.COUNT becomes this follower's, and every tag reference with it (R278). -/
def adoptAct (step : W64) : Act := fun s =>
  guardAct [(s.ringsHold, .busy), (!s.stopped || !s.follows || !s.reaches (s.rn rLeader), .state)] s fun s =>
    okAct (s.updEng fun e =>
      { e with count := step, settled := step, tagRef := BitVec.ofNat 2 step.toNat }).sendJoins

/-- SYS.CMD = 2 ADOPT_STEP. -/
def execSysAdoptStep (a : Path) (step : W64) (s : State) : Out :=
  .next (operate a false 2 0x4800 6 [2] (adoptAct step) s)

/-! The timebase (08 R280) -/

/-- SYS.TB_OFFSET. -/
def rTbOffset : Nat := rk 0 0x4800 8
/-- SYS.TB_STEPS. -/
def rTbSteps : Nat := rk 0 0x4800 9

/-- TICK over each direct port that is UP or DEGRADED. -/
def execTickSend (s : State) : Out :=
  .next (s.clk fun s =>
    if s.leads && s.isMember s.dev then
      (List.range 7).foldl (fun s p =>
        let e := s.rn (pReg p 2)
        if s.portUp p && decide (e < 8) && decide ((s.peer e).port = some p) then
          s.inject 89 2 (.vc2 e [vc2Flit 8 (s.dev * 2 ^ 56 + s.rn rTB % 2 ^ 56)])
        else s) s
    else s)

/-- SYS.TB_STATE: 0 LEADER or ALONE, 1 DISCIPLINED, 2 FREE. -/
def State.tbState (s : State) : Nat :=
  if s.alone || s.leads then 0
  else match (s.peer (s.rn rLeader)).port with
    | some p => if decide (s.rn rLeader < 8) && s.portUp p then 1 else 2
    | none => 2

/-- A follower disciplines its timebase to the leader's: below 1 µs it trims its tick rate, here by one tick of 2 ns more or
    less in the 10 µs of a TICK (200 ppm), which the timers count as well (10 R347); otherwise SYS.TB alone steps. -/
def State.takeTick (s : State) (p : Nat) (tb : BitVec 56) : State :=
  let own := s.rn rTB
  let d := sx 56 (tb.toNat + 2 ^ 56 - own % 2 ^ 56)
  let off : Int := 2 * d + (s.rn (rk 0 (0x4820 + s.rn (pReg p 2)) 8) : Int)
  let s := s.wn rTbOffset (enc 32 (sat32 off))
  if -1000 < off ∧ off < 1000 then
    { s with slew := if 2 ≤ off then some true else if off ≤ -2 then some false else none }
  else (s.wn rTB (enc 64 ((own : Int) + off / 2))).bump32 rTbSteps

/-- TICK, taken by a follower from its direct port to the leader only. -/
def execTick (p dev : Nat) (tb : BitVec 56) (s : State) : Out :=
  .next (s.clk fun s =>
    if s.follows && decide (dev = s.rn rLeader) && decide ((s.peer dev).port = some p) && s.portUp p then
      s.takeTick p tb
    else s)

/-! FAB.LOSS_RATE (R273) -/

/-- Once per second the HKC updates FAB.LOSS_RATE. -/
def execLossRateUpdate (s : State) : Out :=
  .next (s.clk fun s =>
    if s.hkcUp then
      let lost := s.rn rLostAll - s.lossSnap.1
      let sent := s.rn rSentAll - s.lossSnap.2
      let s := { s with lossSnap := (s.rn rLostAll, s.rn rSentAll) }
      if sent = 0 then { (s.wr (rk 0 0x2000 2) (Config.lossOfNone s.free)) with free := s.free + 1 }
      else s.wn (rk 0 0x2000 2) (rneDiv (lost * 1000000000000) sent)
    else s)

end Sys2Proof.Machine
end

