-- ==== Sys2Proof/Machine/Queues.lean ====
section
/-! DEFINITION. Opening and closing connections (07 R216 to R218, R241, R242), input queues and credits (R222 to R227,
    R486), tokens (R308), and combining queues (R228 to R231). -/

namespace Sys2Proof.Machine

/-! CONN.CMD = 1 OPEN -/

/-- CONN.HANDLE of path number n. -/
def rHandleN (n : Nat) : Nat := rk n 0x3800 3
/-- CONN.HANDLE of a path. -/
def rConnHandle (p : Path) : Nat := rHandleN (sender p)
/-- CONN.RESULT of a path. -/
def rConnResult (p : Path) : Nat := rk (sender p) 0x3800 4
/-- The key of a record or BLOB that a path keeps. -/
def blobKey (idx sub : Nat) : Nat := idx * 256 + sub
/-- A record or BLOB of path number n; zeros until it is written. -/
def State.blob (s : State) (n idx sub len : Nat) : Bytes :=
  Tab.get (List.replicate len 0) (s.pathN n).blobs (blobKey idx sub)

/-- The open record that CONN.REC of a path holds, as a context that would carry it. -/
def State.openRec (s : State) (p : Path) : Conn :=
  { Conn.reset with recd := descWords (s.blob (sender p) 0x3800 2 32) }

/-- Broadcast entry k of a list at TSM offset base of physical tile t (Table 7.8). -/
def State.bcast (s : State) (t base k : Nat) : W64 := (s.tile t).tsm.rd64 (base + 8 * k)

/-- A reserved field of a broadcast entry is nonzero. -/
def bcastRsvd (w : W64) : Bool :=
  decide (fld w 62 60 ≠ 0) || decide (fld w 27 0 ≠ 0) ||
    (bit w 63 && (decide (fld w 41 40 ≠ 0) || decide (fld w 39 28 ≠ 0)))

/-- BLBASE as a TSM offset. -/
def Conn.blbase (c : Conn) : Nat := fld c.recd.2.2.1 46 35 * 512
/-- Entries of the broadcast list. -/
def Conn.bllen (c : Conn) : Nat := fld c.recd.2.2.1 34 29 + 1
/-- SENDERS. -/
def Conn.senders (c : Conn) : Nat := fld c.recd.2.2.1 63 51

/-- Some entry of the broadcast list that the record names has a nonzero reserved field (R217). -/
def State.listRsvd (s : State) (c : Conn) : Bool :=
  decide (c.dkind = 2) && (match s.resident (c.combNo / 16) with
    | some t => (List.range c.bllen).any fun k => bcastRsvd (s.bcast t c.blbase k)
    | none => false)

/-- A field that Table 7.3 gives no meaning for the kinds named is nonzero, or another reserved field is. -/
def Conn.rsvd (c : Conn) : Bool :=
  let w0 := c.recd.1
  let w1 := c.recd.2.1
  let w2 := c.recd.2.2.1
  decide (fld w0 20 0 ≠ 0) || decide (fld w1 29 0 ≠ 0) || decide (fld w2 28 0 ≠ 0) || decide (c.recd.2.2.2 ≠ 0) ||
    (decide (c.skind = 1) && (decide (c.sdev ≠ 0) || decide (c.src ≠ 0))) ||
    (decide (c.dkind ≠ 1) && decide (c.group ≠ 0)) ||
    (decide (2 ≤ c.dkind) && (c.rren || decide (c.rring ≠ 0))) ||
    (decide (c.dkind = 1) && decide (c.dest % 2 ^ 10 ≠ 0)) ||
    (decide (c.dkind = 2) && decide (c.dest % 2 ^ 3 ≠ 0)) ||
    (decide (c.dkind = 3) && decide (c.dest % 2 ^ 9 ≠ 0)) ||
    (decide (c.dkind = 4) && decide (c.dest % 2 ^ 12 ≠ 0)) ||
    (decide (c.dkind ≠ 0) && decide (c.q ≠ 0)) || (decide (c.dkind ≠ 4) && decide (c.rhandle ≠ 0)) ||
    (decide (c.dkind ≠ 2) && decide (fld w2 63 29 ≠ 0))

/-- The pair stands in Table 7.2; a REMOTE half takes any source kind (R214). -/
def pairOk (dkind skind : Nat) : Bool :=
  match dkind with
  | 0 => decide (skind = 0) || decide (skind = 2) || decide (skind = 3)
  | 1 => decide (skind = 0) || decide (skind = 1) || decide (skind = 3)
  | 2 => decide (skind = 1)
  | 3 => decide (skind = 0) || decide (skind = 1)
  | 4 => decide (skind < 4)
  | _ => false

/-- The RANGE conditions of Table 7.4. -/
def State.openRange (s : State) (c : Conn) : Bool :=
  !pairOk c.dkind c.skind || (decide (c.skind ≠ 1) && decide (7 < c.sdev)) ||
    (decide (c.dkind = 2) && (decide (c.senders = 0) || decide (4096 < c.senders) ||
      decide (0x200000 < c.blbase + 8 * c.bllen))) ||
    (decide (c.skind = 2) && decide (63 < c.src)) || (decide (c.skind = 3) && decide (31 < c.src)) ||
    (decide (c.dkind = 4) && (decide (c.rdev = s.dev) || (decide (c.skind ≠ 1) && decide (c.sdev ≠ s.dev))))

/-- Some open or closing connection satisfies f. -/
def State.anyConn (s : State) (f : Conn → Bool) : Bool :=
  s.conns.any fun e => decide (e.2.state ≠ .free) && f e.2

/-- The STATE conditions of Table 7.4. -/
def State.openState (s : State) (c : Conn) : Bool :=
  (decide (c.dkind = 0) && s.anyConn fun d => decide (d.dkind = 0) && decide (d.dest = c.dest) && decide (d.q = c.q)) ||
    (decide (c.dkind = 2) && s.anyConn fun d => decide (d.dkind = 2) && decide (d.combNo = c.combNo)) ||
    (match s.dringOf c with
     | some r => decide (s.rn (dReg r 4) ≠ 1) || s.anyConn fun d => decide (s.dringOf d = some r)
     | none => false) ||
    (decide (c.dkind = 1) && !s.hringOn c.hring) || (decide (c.dkind < 2) && c.rren && !s.hringOn c.rring) ||
    (decide (c.dkind = 4) && (!s.isMember c.rdev || decide (s.rn (rRoute c.rdev) / 2 ^ 14 = 2)))

/-- The lowest free context. -/
def State.freeCtx (s : State) : Option Nat := (List.range 4096).find? fun i => decide ((s.conn i).state = .free)

/-- Bind what a destination or source half opens: the queue, the combining queue, the descriptor ring (R215, R222,
    R228). -/
def State.bind (s : State) (i : Nat) : State :=
  let c := s.conn i
  let s := if c.dkind = 0 then s.setQueueAt c.dest c.q { handle := c.handle i, head := 0, held := 0 } else s
  let s := if c.dkind = 2 then
      s.updComb c.combNo fun b =>
        { b with
          bound := some i, senders := c.senders, lanes := c.elanes + 1, blbase := c.blbase, bllen := c.bllen,
          acc := List.replicate (c.elanes + 1) 0, count := 0, deliver := none, last := [], round := 0 }
    else s
  match s.dringOf c with
  | some r => s.wn (dReg r 7) (c.handle i).toNat
  | none => s

/-- CONN.CMD = 1: a half whose peer must confirm it waits for the answer (R218). -/
def openAct (p : Path) : Act := fun s =>
  let c := s.openRec p
  guardAct [(s.openRange c, .range), (s.openState c, .state), (c.rsvd || s.listRsvd c, .rsvdSet),
    (s.freeCtx.isNone, .noContext), (decide (fld c.recd.1 63 62 ≠ 0), .version)] s fun s =>
    match s.freeCtx with
    | none => .refuse .noContext
    | some i =>
      let s := s.updConn i fun d => { Conn.reset with state := .opn, gen := d.gen, recd := c.recd }
      if c.dkind = 4 then
        let s := s.updConn i fun d => { d with path := some (sender p) }
        .wait (.connOpen i) (s.sendMsg
          { mkind := 5, sdev := s.dev, ddev := c.rdev, tag := BitVec.ofNat 8 (sender p), idx := 0, sub := 0, op := 1,
            body := descBytes c.recd })
      else okAct ((s.bind i).wn (rConnHandle p) ((s.conn i).handle i).toNat)

/-- CONN.CMD = 1 OPEN. -/
def execConnOpen (a : Path) (s : State) : Out := .next (operate a false 2 0x3800 1 [1] (openAct a) s)

/-- The destination half that a CONFIRM names, when it is open and names the same source (R214, R218). -/
def State.confirmed (s : State) (dev : Nat) (r : Conn) : Option Nat :=
  (s.connOf r.rhandle).filter fun i =>
    let c := s.conn i
    decide (c.state = .opn) && decide (c.dkind ≠ 4) && decide (c.skind = r.skind) && decide (c.sdev = r.sdev) &&
      decide (c.src = r.src) && (decide (c.skind = 1) || decide (c.sdev = dev))

/-- A CONN CONFIRM message: the destination half notes the source half and answers CONN_ACK (R218, 11 R381). -/
def execConnConfirm (dev : Nat) (tag : Byte) (h : BitVec 16) (rec' : Bytes) (s : State) : Out :=
  .next (s.clk fun s =>
    let r : Conn := { Conn.reset with recd := descWords rec' }
    let ack := fun (s : State) (st : Status) (w : Nat) =>
      s.sendMsg { mkind := 6, sdev := s.dev, ddev := dev, tag := tag, idx := 0, sub := 0, op := st.code, body := leBytes 8 w }
    match s.confirmed dev r with
    | some i =>
      let c := s.conn i
      ack (s.updConn i fun c => { c with peers := (dev, h) :: c.peers.filter fun q => decide (q.1 ≠ dev) }) .ok
        (c.dkind + (if c.dkind = 2 then c.elanes * 8 else 0))
    | none => ack s .noEntry 0)

/-- The context that an OPEN gave up becomes free again, its generation unchanged. -/
def State.dropOpen (s : State) (i : Nat) : State := s.updConn i fun c => { Conn.reset with gen := c.gen }

/-- The half of this device that waits for device dev to acknowledge a CLOSE with this tag. -/
def State.closeAcked (s : State) (dev : Nat) (tag : Byte) : Option Nat :=
  (s.conns.find? fun e => decide (e.2.state = .closing) &&
    e.2.unacked.any fun q => decide (q.1 = dev) && decide (closeTag q.2 = tag)).map Prod.fst

/-- A CONN_ACK: it completes a REMOTE OPEN (R218), or the other half's part of a close (R242). -/
def execConnAck (dev : Nat) (tag st : Byte) (dkind : BitVec 3) (lanes : BitVec 4) (s : State) : Out :=
  .next (s.clk fun s =>
    if tag.toNat < 0x80 then
      match (s.pathN tag.toNat).op with
      | some (.waiting (.connOpen i)) =>
        if (s.conn i).rdev ≠ dev then s
        else if st = 0 then
          let s := s.updConn i fun c => { c with path := none, rdkind := dkind, rlanes := lanes }
          ((s.bind i).wn (rHandleN tag.toNat) ((s.conn i).handle i).toNat).answer tag.toNat .ok false []
        else (s.dropOpen i).answer tag.toNat (Status.ofCode st.toNat) false []
      | _ => s
    else match s.closeAcked dev tag with
      | some i =>
        (s.updConn i fun c => { c with unacked := c.unacked.filter fun q => decide (q.1 ≠ dev) }).closeCheck
      | none => s)

/-- A REMOTE OPEN has had no answer for 1 ms (R217). -/
def execConnOpenTimeout (a : Path) (s : State) : Out :=
  .next (s.clk fun s =>
    match (s.path a).op with
    | some (.waiting (.connOpen i)) => (s.dropOpen i).answer (sender a) .timeout false []
    | _ => s)

/-! CONN.CMD = 2 CLOSE -/

/-- CONN.CMD = 2 (R242). -/
def closeAct (p : Path) : Act := fun s =>
  match s.connOf (s.rn (rConnHandle p)) with
  | none => .refuse .noEntry
  | some i =>
    guardAct [(decide ((s.conn i).state = .closing), .busy)] s fun s =>
      let t := s.startClose i none none true
      if (t.conn i).state = .closing then
        .wait (.connClose i) (t.updConn i fun c => { c with path := some (sender p) })
      else
        okAct (t.wn (rConnResult p) (min (t.rn (rk 0 0x3802 1) - s.rn (rk 0 0x3802 1)) (2 ^ 32 - 1)))

/-- CONN.CMD = 2 CLOSE. -/
def execConnClose (a : Path) (s : State) : Out := .next (operate a false 2 0x3800 1 [2] (closeAct a) s)

/-- A CONN CLOSE message: this device's half closes as well (R241). -/
def execConnCloseMessage (dev : Nat) (h : BitVec 16) (s : State) : Out :=
  .next (s.clk fun s =>
    match s.connOf h.toNat with
    | none => s.ackClose dev h .noEntry
    | some i =>
      if (s.conn i).state = .closing then
        ((s.updConn i fun c => { c with untold := c.untold.filter (fun q => decide (q.1 ≠ dev)), unacked := c.unacked.filter fun q => decide (q.1 ≠ dev) }).ackClose dev h
          .ok).closeCheck
      else s.startClose i none (some dev) true)

/-- The close of connection i has not completed after 10 ms: a path that waits for it gets TIMEOUT, and the close goes on;
    alone, when the other device is silent (R242). -/
def execConnCloseTimeout (i : Nat) (silent : Bool) (s : State) : Out :=
  .next (s.clk fun s =>
    if (s.conn i).state = .closing then
      let s := match (s.conn i).path with
        | some n => s.finish n (.connClose i) false .timeout
        | none => s
      let s := s.updConn i fun c => { c with path := none }
      if silent then (s.updConn i fun c => { c with untold := [], unacked := [] }).closeCheck else s
    else s)

/-! Input queues (R222 to R227, R486) -/

/-- Put a descriptor into its queue, and complete a RECV that is blocked on it (R222, R224). -/
def State.enqueue (s : State) (t k i : Nat) (d : DescMsg) : State :=
  let c := s.conn i
  let sl := c.dest % 128
  let x := s.queue t sl c.q
  let s := s.updCore k fun e => e.wrDesc (aQslot c.q (x.head + x.held)) d.words
  let s := s.setQueue t sl c.q { x with held := x.held + 1 }
  let s := (s.updConn i fun c => { c with qhwm := max c.qhwm (x.held + 1) }).itemEnd d.id
  match (s.core k).pass with
  | .blocked op h n _ => if op = 0x6 ∧ h = c.handle i then s.recv k h.toNat n else s
  | _ => s

/-- The descriptor at the head of the VC1 items of tile t, which is ON, reaches its queue. -/
def State.deliverDesc (s : State) (t : Nat) (d : DescMsg) (rest : List Item) : State :=
  let take := fun (s : State) => (s.updTile t fun q => { q with vc1 := rest }).itemEnd d.id
  match s.connOf d.dst.toNat with
  | none => take s
  | some i =>
    let c := s.conn i
    if c.state = .closing then
      ((take s).abortDesc i d.dev d.lcid d.words true).closeCheck
    else if !c.acceptsFrom s.dev d.dev then take s
    else
      match s.coreOf t (c.dest % 128) with
      | none => (((take s).dropAt t 0x0B 1).creditBack i).postDesc .noEntry d.dst.toNat 0x3F 0
      | some k =>
        if 32 ≤ (s.queue t (c.dest % 128) c.q).held then s
        else (s.updTile t fun q => { q with vc1 := rest }).enqueue t k i d

/-- A descriptor or token arrives in its input queue. -/
def execQueueDeliver (t : Nat) (s : State) : Out :=
  .next (if !s.domUp t then s
    else match (s.tile t).vc1 with
      | .desc d :: rest => (s.deliverDesc t d rest).pumpVc1 t
      | _ => s)

/-- A token that stands for n pulses of line l (R219, R221). -/
def tokenWords (l n : Nat) : W64 × W64 × W64 × W64 := descSeal (w64 (2 * 2 ^ 59), w64 l, w64 n, 0)

/-- The DMA source half i starts a token for the pulses pending, when it holds a credit; a HOST destination needs none
    (R223, 09 R308). -/
def State.sendToken (s : State) (i : Nat) : State :=
  let c := s.conn i
  if c.tokens = 0 ∨ (c.edkind = 0 ∧ 32 ≤ c.taken) then s
  else (s.takeDesc i 87 0 c.src false (tokenWords c.src c.tokens)).updConn i fun c => { c with tokens := 0 }

/-- A pulse becomes a token of connection i, or waits for a credit (R308, Table 7.13). -/
def State.pulseToken (s : State) (i : Nat) : State :=
  if 65535 ≤ (s.conn i).tokens then s.bump (rk 0 0x3802 4)
  else (s.updConn i fun c => { c with tokens := c.tokens + 1 }).sendToken i

/-- A credit may return to source half i: one is on its way on this device, or the other device returns it. -/
def State.creditDue (s : State) (i : Nat) : Bool :=
  let c := s.conn i
  decide (c.state ≠ .free) && decide (0 < c.taken) && (decide (c.dkind = 4) || decide (0 < c.creditsBack))

/-- A credit is back: a SEND that is blocked on the connection goes on, or the pending tokens of a DMA source. -/
def State.creditHome (s : State) (i : Nat) : State :=
  let s := s.updConn i fun c => { c with taken := c.taken - 1, creditsBack := c.creditsBack - 1 }
  let h := (s.conn i).handle i
  match s.cores.find? fun e => match e.2.pass with
      | .blocked op h' _ _ => decide (op = 0x5) && decide (h' = h)
      | _ => false with
  | some e => match e.2.pass with
    | .blocked _ _ n _ => s.send e.1 h.toNat n
    | _ => s
  | none => s.sendToken i

/-- A credit returns to the source of QUEUE connection i. -/
def execQueueCreditReturn (i : Nat) (s : State) : Out := .next (if s.creditDue i then s.creditHome i else s)

/-! Combining queues (R228 to R231) -/

/-- Add a contribution to the accumulating bank; each lane limited counts in COMB.SAT (R229). -/
def Comb.addLanes (b : Comb) (vs : List W32) : Comb :=
  let sums := (List.range b.lanes).map fun j =>
    let x := (b.acc.getD j 0).toInt + (vs.getD j 0).toInt
    (w32 (sat32 x), decide (sat32 x ≠ x))
  { b with
    acc := sums.map Prod.fst, count := b.count + 1,
    sat := w64 (satAdd 64 b.sat.toNat (sums.filter fun q => q.2).length) }

/-- A round completes: COMB.ROUND increments, and the bank passes to delivery when the other bank is free, which then
    accumulates, cleared (R229). -/
def Comb.complete (b : Comb) : Comb :=
  if b.count < b.senders then b
  else if b.deliver.isNone then
    { b with deliver := some (b.round + 1, b.acc), acc := List.replicate b.lanes 0, count := 0, round := b.round + 1 }
  else { b with round := b.round + 1 }

/-- Neither bank can accumulate: one delivers and the other has completed. -/
def Comb.full (b : Comb) : Bool := b.deliver.isSome && decide (b.senders ≤ b.count)

/-- The delivering bank is free again; a bank that completed meanwhile follows it. -/
def Comb.delivered (b : Comb) : Comb :=
  let b := { b with deliver := none, last := (b.deliver.map Prod.snd).getD b.last }
  if b.bound.isSome && decide (b.senders ≤ b.count) then
    { b with deliver := some (b.round, b.acc), acc := List.replicate b.lanes 0, count := 0 }
  else b

/-- The contribution at the head of the VC1 items of tile t, which is ON, reaches its bank: the queue of the connection
    that its handle names, which must accept its source (R218). -/
def State.takeContrib (s : State) (t : Nat) (c : Contrib) (rest : List Item) : State :=
  let s' := s.updTile t fun q => { q with vc1 := rest }
  match s.combOf c with
  | none => (s'.itemEnd c.id).closeCheck
  | some i =>
    let q := (s.conn i).combNo
    if !(s.conn i).acceptsFrom s.dev c.sdev then (s'.itemEnd c.id).closeCheck
    else if (s.conn i).state = .closing then
      ((s'.updComb q fun b => { b with aborted := w64 (satAdd 64 b.aborted.toNat 1) }).itemEnd c.id).closeCheck
    else if (s.comb q).full then s
    else
      let s' := (s'.updComb q fun b => (b.addLanes c.lanes).complete).itemEnd c.id
      (if c.id = 0 then s' else s'.combineDone c.core c.id).closeCheck

/-- The contribution with identity id has not left this device. -/
def State.contribHere (s : State) (id : Nat) : Bool :=
  let on := fun (l : List Item) => l.any fun i => match i.whole with | .contrib c => decide (c.id = id) | _ => false
  let tx := fun (t : Tab TxStream) => t.any fun e => e.2.buf.any fun r => on r.pk.items
  s.nodes.any (fun n => n.2.out.any (fun q => on q.2) || tx n.2.tx) ||
    s.ports.any (fun p => p.2.out.any (fun q => on q.2) || tx p.2.tx) || s.tiles.any fun t => on t.2.vc1

/-- A bank of another device has accepted the contribution that the COMBINE of core k sent there. -/
def State.farContrib (s : State) (k : Nat) : State :=
  match (s.core k).pass with
  | .blocked op h _ id =>
    let far : Bool := match s.connOf h.toNat with | some i => decide ((s.conn i).dkind = 4) | none => false
    if op = 0x7 ∧ far = true ∧ s.contribHere id = false then (s.itemEnd id).combineDone k id else s
  | _ => s

/-- A contribution is added into the accumulating bank of its queue, on this device or on another. -/
def execCombContribute (at' : CombAt) (s : State) : Out :=
  .next (match at' with
    | .tile t =>
      if !s.domUp t then s
      else match (s.tile t).vc1 with
        | .contrib c :: rest => (s.takeContrib t c rest).pumpVc1 t
        | _ => s
    | .far k => s.farContrib k)

/-- Deliver a bank to one broadcast entry, on VC1 from the NI of tile t (R230, R231). -/
def State.deliverTo (s : State) (t q : Nat) (w : W64) (round : W64) (vs : List W32) : State :=
  if bcastRsvd w then s.bump rCombMiss
  else if bit w 63 then
    s.inject t 1 (.sum q s.dev (fld w 59 56) round (fld w 55 50) (fld w 49 42) vs)
  else s.inject t 1 (.lanes q (fld w 59 56) (BitVec.ofNat 16 (fld w 55 40)) (fld w 39 28) vs)

/-- The queue delivers its completed bank to each entry, in list order, and the bank is free again. -/
def State.deliverBank (s : State) (q : Nat) : State :=
  let b := s.comb q
  match b.deliver, s.resident (q / 16) with
  | some (round, vs), some t =>
    if !s.domUp t then s
    else
      let s := (List.range b.bllen).foldl (fun s k => s.deliverTo t q (s.bcast t b.blbase k) round vs) s
      let s := s.updComb q Comb.delivered
      s.closeCheck
  | _, _ => s

/-- A completed bank of combining queue n is delivered. -/
def execCombDeliver (n : Nat) (s : State) : Out := .next (s.deliverBank n)

end Sys2Proof.Machine
end

