-- ==== Sys2Proof/Machine/Rings.lean ====
section
/-! DEFINITION. Host output rings (07 R232 to R237, R240, R243; 05 R179) and host descriptor rings (07 R238). -/

namespace Sys2Proof.Machine

/-! Writing a message (R233 to R237) -/

/-- Frames of ring r. -/
def State.hFrames (s : State) (r : Nat) : Nat := 2 ^ s.rn (hReg r 2) / 16
/-- Frames occupied. -/
def State.hUsed (s : State) (r : Nat) : Nat := (s.rn (hReg r 8) + 2 ^ 32 - s.rn (hReg r 9)) % 2 ^ 32
/-- Frames free (R235). -/
def State.hFree (s : State) (r : Nat) : Nat := s.hFrames r - s.hUsed r
/-- Producer position in the ring. -/
def State.hPos (s : State) (r : Nat) : Nat := s.rn (hReg r 8) % s.hFrames r
/-- PH: 1 while the lap is even (R234). -/
def lapPhase (prod n : Nat) : Nat := if prod / n % 2 = 0 then 1 else 0

/-- LEN of a message (Table 7.10). -/
def HMsg.len (m : HMsg) : Nat := if m.kind = 3 then 3 else if m.kind = 4 then 1 + (m.frames.length + 3) / 4 else 1

/-- The writer of ring r waits for room: for its PAD, or for its message (R236). -/
def State.hBlocked (s : State) (r : Nat) : Bool :=
  match (s.hring r).staged with
  | m :: _ =>
    let tail := s.hFrames r - s.hPos r
    if tail < m.len then decide (s.hFree r < tail) else decide (s.hFree r < m.len)
  | [] => false

/-- HRING[r].STATE: 0 DISABLED, 1 ENABLED, 2 FULL (R237). -/
def State.hringState (s : State) (r : Nat) : Nat :=
  if !s.hringOn r then 0
  else if s.hBlocked r && decide (8 ≤ (s.hring r).staged.length) then 2 else 1

/-- A record that the PCIE island writes late (R240). -/
def State.lateMsg (s : State) (m : HMsg) : Bool := (decide (m.kind = 1) || decide (m.kind = 2)) && s.lateRec m.step

/-- A value as the ring carries it, converted by output group g (05 R179, R181), with the counts. -/
def State.scaled (s : State) (g : Nat) (v : W32) : W32 × State :=
  if g = 0 then (v, s)
  else
    let r := scaleFp32 v.toInt (s.rn (rk 0 0x3200 g))
    let s := s.bump (rk 0 0x3201 1)
    (BitVec.ofNat 32 r.1, if r.2 then s.bump (rk 0 0x3201 2) else s)

/-- Convert a list of values. -/
def State.scaledAll (s : State) (g : Nat) : List W32 → List W32 × State
  | [] => ([], s)
  | v :: t =>
    let r := s.scaled g v
    let q := State.scaledAll r.2 g t
    (r.1 :: q.1, q.2)

/-- Word 1 of a header frame (Table 7.9). -/
def headerWord1 (seq dev lcid neuron kind ph : Nat) (late fp : Bool) (len : Nat) : W64 :=
  w64 (seq % 65536 * 2 ^ 48 + dev % 16 * 2 ^ 44 + lcid % 65536 * 2 ^ 28 + neuron % 4096 * 2 ^ 16 +
    kind % 16 * 2 ^ 12 + ph * 2 ^ 11 + (if late then 2 ^ 10 else 0) + (if fp then 2 ^ 9 else 0) + len % 64)

/-- Write bytes into host memory. -/
def State.toHost (s : State) (a : Nat) (b : Bytes) : State := { s with hostMem := s.hostMem.wrBytes a b }

/-- Advance PROD of ring r by n frames, and SEQ by one. -/
def State.hAdvance (s : State) (r n : Nat) : State :=
  let s := s.wn (hReg r 8) ((s.rn (hReg r 8) + n) % 2 ^ 32)
  (s.updHring r fun h => { h with seq := h.seq + 1 }).hwm (hReg r 0x0D) (s.hUsed r)

/-- The PAD that covers the tail (R236). -/
def State.writePad (s : State) (r tail : Nat) : State :=
  let ph := lapPhase (s.rn (hReg r 8)) (s.hFrames r)
  let w1 := headerWord1 (s.hring r).seq.toNat 0 0 0 0 ph false false 1
  ((s.toHost (s.rn (hReg r 1) + 16 * s.hPos r) (leBytes 8 (tail * 2 ^ 32) ++ leBytes 8 w1.toNat)).bump
    (hReg r 0x0B)).hAdvance r tail

/-- Bytes of the further frames of a message: the descriptor, or the lanes four to a frame (Table 7.10). -/
def bodyBytes (kind : Nat) (frames : List W64) (vals : List W32) : Bytes :=
  if kind = 4 then
    let b := (vals.map fun v => leBytes 4 v.toNat).flatten
    b ++ List.replicate ((16 - b.length % 16) % 16) 0
  else (frames.map fun w => leBytes 8 w.toNat).flatten

/-- Raise the ring's vector and count afresh (R235). -/
def State.hRaise (s : State) (r : Nat) : State :=
  (s.raise (s.rn (hReg r 3))).updHring r fun h => { h with since := 0 }

/-- A message counts toward THRESH (R235). -/
def State.hCount (s : State) (r : Nat) : State :=
  let s := s.updHring r fun h => { h with since := h.since + 1 }
  if s.rn (hReg r 4) ≤ (s.hring r).since then s.hRaise r else s

/-- Write message m at the producer position: further frames first, header last (R234). -/
def State.writeMsg (s : State) (r : Nat) (m : HMsg) : State :=
  let late := s.lateMsg m
  let s := if late then s.bump (rStep 4) else s
  let vals := if m.kind = 4 then m.frames.map fun w => BitVec.ofNat 32 w.toNat else [m.value]
  let g := if m.kind = 3 then 0 else m.group
  let (out, s) := s.scaledAll g vals
  let value := if m.kind = 4 then m.value else out.headD 0
  let a := s.rn (hReg r 1) + 16 * s.hPos r
  let ph := lapPhase (s.rn (hReg r 8)) (s.hFrames r)
  let w1 := headerWord1 (s.hring r).seq.toNat m.dev m.lcid.toNat m.neuron.toNat m.kind ph late (decide (g ≠ 0)) m.len
  let body := if m.kind = 3 ∨ m.kind = 4 then bodyBytes m.kind m.frames out else []
  let s := s.toHost (a + 16) body
  let s := s.toHost a (leBytes 8 (value.toNat * 2 ^ 32 + m.step.toNat) ++ leBytes 8 w1.toNat)
  let s := ((s.bump (hReg r 0x0A)).hAdvance r m.len).hCount r
  match m.item with
  | some (id, _, counted) => (if counted then s.addAcc 88 (m.step.toNat % 4) 1 else s).itemEnd id
  | none => s

/-- The next write of ring r: nothing while its writer waits (R236), else a late record dropped by policy, a PAD, or the
    message. -/
def State.hringStep (s : State) (r : Nat) : State :=
  match (s.hring r).staged with
  | [] => s
  | m :: rest =>
    let pop := s.updHring r fun h => { h with staged := rest }
    let tail := s.hFrames r - s.hPos r
    if s.hBlocked r then s
    else if s.lateMsg m && decide (s.rn rLateAction = 1) then
      let t := pop.bump (rStep 5)
      (match m.item with
       | some (id, _, _) => (t.addAcc 88 (m.step.toNat % 4) 1).itemEnd id
       | none => t)
    else if tail < m.len then s.writePad r tail
    else pop.writeMsg r m

/-- The PCIE island writes the next frames of ring r. -/
def execHringWrite (r : Nat) (s : State) : Out :=
  .next (s.clk fun s =>
    if s.hringOn r && s.hostOk && s.domUp 77 then (s.hringStep r).stageNext.closeCheck else s)

/-- HRING[r].HOLDOFF has passed since the first message that no raise has covered (R235). -/
def execHringHoldoffExpire (r : Nat) (s : State) : Out :=
  .next (s.clk fun s => if 0 < (s.hring r).since then s.hRaise r else s)

/-! Commands of a host output ring (R232, R235, R243) -/

/-- A ring's BASE or SIZE is out of range (R232). -/
def State.ringRange (s : State) (base size : Nat) : Bool :=
  decide (s.rn base % 4096 ≠ 0) || decide (s.rn size < 12) || decide (28 < s.rn size)

/-- HRING[r].CONS = v. -/
def hringConsAct (r v : Nat) : Act := fun s =>
  guardAct [(decide (s.hUsed r < (v + 2 ^ 32 - s.rn (hReg r 9)) % 2 ^ 32), .range)] s fun s =>
    okAct (s.wn (hReg r 9) v)

/-- A write of HRING[r].CONS. -/
def execHringConsWrite (a : Path) (r : Nat) (v : W32) (s : State) : Out :=
  .next (operate a false 2 (0x3810 + r) 9 (leBytes 4 v.toNat) (hringConsAct r v.toNat) s)

/-- HRING[r].CMD = 1. -/
def hringEnableAct (r : Nat) : Act := fun s =>
  guardAct [(s.hringOn r, .state), (s.ringRange (hReg r 1) (hReg r 2), .range)] s fun s =>
    okAct ((((s.wn (hReg r 7) 1).wn (hReg r 8) 0).wn (hReg r 9) 0).updHring r fun _ => .reset)

/-- HRING[r].CMD = 1 ENABLE. -/
def execHringEnable (a : Path) (r : Nat) (s : State) : Out :=
  .next (operate a false 2 (0x3810 + r) 6 [1] (hringEnableAct r) s)

/-- An open or closing connection names ring r as its destination or return ring. -/
def State.hringNamed (s : State) (r : Nat) : Bool :=
  s.anyConn fun c => (decide (c.dkind = 1) && decide (c.hring = r)) || (c.rren && decide (c.rring = r))

/-- HRING[r].CMD = 2. -/
def hringDisableAct (r : Nat) : Act := fun s =>
  if !s.hringOn r then okAct s
  else
    let waits := s.pcie.wait.any fun q => decide (q.1 = r)
    guardAct [(s.hringNamed r || !(s.hring r).staged.isEmpty || waits, .busy)] s fun s =>
      okAct ((s.wn (hReg r 7) 0).updHring r fun h => { h with forced := false })

/-- HRING[r].CMD = 2 DISABLE. -/
def execHringDisable (a : Path) (r : Nat) (s : State) : Out :=
  .next (operate a false 2 (0x3810 + r) 6 [2] (hringDisableAct r) s)

/-- Disable ring r at once and discard what is staged for it, and what waits for its staging. -/
def State.hringForce (s : State) (r : Nat) : State :=
  let l := (s.hring r).staged
  let s := (s.wn (hReg r 7) 0).updHring r fun h => { h with staged := [], forced := true }
  ((l.foldl (fun s m => s.hringDrop r m) s).stageNext).closeCheck

/-- HRING[r].CMD = 3. -/
def hringForceAct (r : Nat) : Act := fun s => okAct (if s.hringOn r then s.hringForce r else s)

/-- HRING[r].CMD = 3 FORCE_DISABLE. -/
def execHringForceDisable (a : Path) (r : Nat) (s : State) : Out :=
  .next (operate a false 2 (0x3810 + r) 6 [3] (hringForceAct r) s)

/-! Host descriptor rings (R238) -/

/-- DRING[r].CMD = 1. -/
def dringEnableAct (r : Nat) : Act := fun s =>
  guardAct [(decide (s.rn (dReg r 4) = 1), .state), (s.ringRange (dReg r 1) (dReg r 2), .range)] s fun s =>
    okAct (((s.wn (dReg r 4) 1).wn (dReg r 5) 0).wn (dReg r 6) 0)

/-- DRING[r].CMD = 1 ENABLE. -/
def execDringEnable (a : Path) (r : Nat) (s : State) : Out :=
  .next (operate a false 2 (0x3850 + r) 3 [1] (dringEnableAct r) s)

/-- DRING[r].CMD = 2. -/
def dringDisableAct (r : Nat) : Act := fun s =>
  if s.rn (dReg r 4) = 0 then okAct s
  else guardAct [(decide (s.rn (dReg r 7) ≠ 0xFFFF), .busy)] s fun s => okAct (s.wn (dReg r 4) 0)

/-- DRING[r].CMD = 2 DISABLE. -/
def execDringDisable (a : Path) (r : Nat) (s : State) : Out :=
  .next (operate a false 2 (0x3850 + r) 3 [2] (dringDisableAct r) s)

/-- Entries of descriptor ring r. -/
def State.dEntries (s : State) (r : Nat) : Nat := 2 ^ s.rn (dReg r 2) / 32

/-- DRING[r].PROD = v: neither backward nor past CONS plus the entries of the ring. -/
def dringProdAct (r v : Nat) : Act := fun s =>
  let ahead := (v + 2 ^ 32 - s.rn (dReg r 6)) % 2 ^ 32
  guardAct [(decide (s.dEntries r < ahead) || decide (ahead < s.dringLeft r), .range)] s fun s =>
    okAct (s.wn (dReg r 5) v)

/-- A write of DRING[r].PROD. -/
def execDringProdWrite (a : Path) (r : Nat) (v : W32) (s : State) : Out :=
  .next (operate a false 2 (0x3850 + r) 5 (leBytes 4 v.toNat) (dringProdAct r v.toNat) s)

/-- Descriptor ring r may fetch: bound to an open connection that holds a credit, with an entry written. -/
def State.dringReady (s : State) (r : Nat) : Option Nat :=
  if s.rn (dReg r 4) = 1 ∧ s.dringLeft r ≠ 0 ∧ s.hostOk ∧ s.domUp 77 then
    (s.connOf (s.rn (dReg r 7))).filter fun i =>
      decide ((s.conn i).state = .opn) && !(decide ((s.conn i).edkind = 0) && decide (32 ≤ (s.conn i).taken))
  else none

/-- The PCIE island fetches the next entry of descriptor ring r, `d` being its 32 bytes in host memory. -/
def execDringFetch (r : Nat) (d : Bytes) (s : State) : Out :=
  .next (s.clk fun s =>
    match s.dringReady r with
    | none => s
    | some i =>
      let w := descWords d
      let st := descCheck w
      let c := s.rn (dReg r 6)
      let t := s.wn (dReg r 6) ((c + 1) % 2 ^ 32)
      if st = .ok then t.takeDesc i 88 0 r false w
      else (t.bump (rk 0 0x3802 3)).postDesc st ((s.conn i).handle i).toNat r c)

end Sys2Proof.Machine
end

