-- ==== Sys2Proof/Machine/Streams.lean ====
section
/-! DEFINITION. Stream ports, contexts and converters (10 R323 to R341). -/

namespace Sys2Proof.Machine

/-- SP[p] registers: LINK 2, MAC 3, MCAST 4, PROMISC 5, MTU 6, PAUSE_EN 7; counters from 10 on (Table 10.10). -/
def sp (p sub : Nat) : Nat := rk 0 (0x4000 + p) sub
/-- SCTX[x] registers: CFG 1, DEST 2, THETA 3, HYST 4, MAXREC 5, HOLDOFF 6, STATE 8, LAST_TS 9; counters from 10 on. -/
def scx (x sub : Nat) : Nat := rk 0 (0x4080 + x) sub

/-- The mesh node of stream port p (08 Table 8.1). -/
def spNode (p : Nat) : Nat := if p = 0 then 86 else 90
/-- The link of port p is UP, in a STREAM domain that is ON. -/
def State.spUp (s : State) (p : Nat) : Bool := s.rn (sp p 2) = 2 && s.domUp 87
/-- CFG of context x. -/
def State.sctxCfg (s : State) (x : Nat) : W64 := s.rd (scx x 1)
/-- The context is OUT. -/
def State.sctxOut (s : State) (x : Nat) : Bool := bit (s.sctxCfg x) 61
/-- The port of the context. -/
def State.sctxPort (s : State) (x : Nat) : Nat := fld (s.sctxCfg x) 60 60

/-! Ingress (R324 to R328) -/

/-- Bytes in the ingress buffer. -/
def SPort.bytes (q : SPort) : Nat := (q.frames.map InFrame.bytes).sum

/-- CRC-32 of IEEE 802.3, the FCS of a frame. -/
def fcs (b : Bytes) : Bytes :=
  let go := b.foldl (fun c x => crcBit 0xEDB88320 8 (Nat.xor c x.toNat)) 0xFFFFFFFF
  leBytes 4 (Nat.xor go 0xFFFFFFFF)

/-- A PAUSE frame with quanta q (IEEE 802.3 Annex 31B). -/
def State.pauseFrame (s : State) (p q : Nat) : Bytes :=
  let b := beBytes 6 0x0180C2000001 ++ beBytes 6 (s.rn (sp p 3)) ++ beBytes 2 0x8808 ++ beBytes 2 1 ++ beBytes 2 q ++
    List.replicate 42 0
  b ++ fcs b

/-- Send PAUSE as the ingress buffer passes its thresholds (R325). -/
def State.pauseCheck (s : State) (p : Nat) : State :=
  let q := s.sport p
  let send := fun (s : State) (on : Bool) =>
    (s.updSport p fun q =>
      { q with paused := on, sent := q.sent ++ [s.pauseFrame p (if on then 0xFFFF else 0)] }).bump (sp p 0x17)
  if s.rn (sp p 7) = 1 ∧ !q.paused ∧ 0x30000 < q.bytes then send s true
  else if q.paused ∧ q.bytes < 0x20000 then (if s.rn (sp p 7) = 1 then send s false else
    s.updSport p fun q => { q with paused := false })
  else s

/-- A received PAUSE frame (R323, R324, R341). -/
def State.takePause (s : State) (p quanta : Nat) : State :=
  let s := s.bump (sp p 0x18)
  if s.rn (sp p 7) = 1 then s.updSport p fun q => { q with hold := decide (quanta ≠ 0) } else s

/-- A PAUSE frame is received. -/
def execPauseFrameReceive (p : Nat) (quanta : BitVec 16) (s : State) : Out :=
  .next (s.clk fun s => if s.spUp p then s.takePause p quanta.toNat else s)

/-- The pause time runs out. -/
def execPauseExpire (p : Nat) (s : State) : Out :=
  .next (s.clk fun s => s.updSport p fun q => { q with hold := false })

/-- Bytes of one sample by STYPE; none reserved. -/
def stypeBytes : Nat → Option Nat
  | 0 => some 1
  | 1 => some 2
  | 2 => some 4
  | _ => none

/-- The n samples of w bytes each, in network byte order. -/
def samplesOf (w : Nat) : Nat → Bytes → List Int
  | 0, _ => []
  | n + 1, b => sx (8 * w) (beNat (b.take w)) :: samplesOf w n (b.drop w)

/-- SEQ of a frame against the context's expected value (R328). -/
def State.checkSeq (s : State) (x : Nat) (seq : BitVec 16) : State :=
  let t := s.updSctx x fun q => { q with expect := some (seq + 1) }
  match (s.sctx x).expect with
  | none => t
  | some e =>
    let d := (seq - e).toNat
    if d = 0 then t else if d < 0x8000 then t.bumpBy 64 (scx x 0x14) d else t.bump (scx x 0x15)

/-- Context x reads DISABLED, and a DISABLE that waits for it returns OK (R332). -/
def State.sctxOff (s : State) (x : Nat) : State :=
  senders.foldl (fun s n => s.finish n (.sctx x) false .ok) (s.wn (scx x 8) 0)

/-- A frame of context x has left the buffer of port p, converted or dropped; a context that is being disabled is then
    DISABLED (R332). -/
def State.frameEnd (s : State) (p x : Nat) : State :=
  let s := s.pauseCheck p
  if s.rn (scx x 8) = 2 then s.sctxOff x else s

/-- A frame of context x has been converted to its end. -/
def State.frameDone (s : State) (p x : Nat) : State := (s.bump (scx x 0x10)).frameEnd p x

/-- A frame with a stream header and its payload: h the header's 16 bytes, `body` what follows them, `len` the frame's
    bytes (R327, R328, R337). -/
def State.takeFrame (s : State) (p : Nat) (h body : Bytes) (len : Nat) : State :=
  let n := beNat h
  let x := n / 2 ^ 112 % 128
  let nch := n / 2 ^ 80 % 256
  let nset := n / 2 ^ 64 % 65536
  if s.rn (scx x 8) ≠ 1 ∨ s.sctxOut x ∨ s.sctxPort x ≠ p then s.bump (sp p 0x15)
  else match stypeBytes (n / 2 ^ 92 % 16) with
    | none => s.bump (sp p 0x14)
    | some w =>
      if h.length < 16 ∨ n / 2 ^ 124 ≠ 0 ∨ n / 2 ^ 120 % 16 ≠ 0 ∨ nch ≠ fld (s.sctxCfg x) 41 34 ∨
          body.length < nset * nch * w then s.bump (sp p 0x14)
      else
        let s := (s.wn (scx x 9) (n % 2 ^ 64)).checkSeq x (BitVec.ofNat 16 (n / 2 ^ 96))
        if s.stopped then s.bump (scx x 0x16)
        else
          let f : InFrame := { ctx := x, bytes := len, samples := samplesOf w (nset * nch) body, chan := 0 }
          if f.samples.isEmpty then s.frameDone p x
          else
            let s := s.updSport p fun q => { q with frames := q.frames ++ [f] }
            (s.hwm (sp p 0x1B) (s.sport p).bytes).pauseCheck p

/-- A frame arrives on port p: its bytes with the FCS, and whether that is valid. -/
def State.frameIn (s : State) (p : Nat) (f : Bytes) (ok : Bool) : State :=
  let da := beNat (f.take 6)
  let tagged := decide (beNat ((f.drop 12).take 2) = 0x8100)
  let etype := beNat ((f.drop (if tagged then 16 else 12)).take 2)
  let mcast := s.rn (sp p 4)
  if !ok then s.bump (sp p 0x12)
  else if etype = 0x8808 ∧ !tagged ∧ beNat ((f.drop 14).take 2) = 1 then s.takePause p (beNat ((f.drop 16).take 2))
  else if !(decide (da = s.rn (sp p 3)) || (decide (mcast ≠ 0) && decide (da = mcast)) || decide (s.rn (sp p 5) = 1)) then
    s.bump (sp p 0x13)
  else if etype ≠ 0x88B5 then s.bump (sp p 0x13)
  else if f.length < 64 ∨ s.rn (sp p 6) < f.length then s.bump (sp p 0x14)
  else if 0x40000 < (s.sport p).bytes + f.length then s.bump (sp p 0x16)
  else
    let at' := if tagged then 18 else 14
    let pay := (f.drop at').take (f.length - at' - 4)
    (s.bump (sp p 0x10)).takeFrame p (pay.take 16) (pay.drop 16) f.length

/-- A stream port receives a frame. -/
def execFrameReceive (p : Nat) (f : Bytes) (ok : Bool) (s : State) : Out :=
  .next (s.clk fun s => if s.spUp p then s.frameIn p f ok else s)

/-! Conversion (R334 to R338) -/

/-- Channel entry i (Table 10.4). -/
def State.schAt (s : State) (i : Nat) : W64 := Tab.get 0 s.sch i
/-- Set it. -/
def State.setSch (s : State) (i : Nat) (w : W64) : State := { s with sch := Tab.set 0 s.sch i w }

/-- What a converter makes of one sample: the event, the new channel entry, whether the payload was limited, and
    whether L left its 32 bits. -/
structure Conv where
  ev    : Option Int
  entry : W64
  sat   : Bool
  out   : Bool
deriving DecidableEq, Repr

/-- One sample x by LEVEL, DELTA or THRESH (R335). -/
def convert (cfg e : W64) (theta hyst : Nat) (x : Int) : Conv :=
  let kind := fld cfg 57 56
  let qs := fld cfg 55 51
  match fld cfg 59 58 with
  | 0 =>
    let q := rneShr x qs
    let v := min (max q (kindMin kind)) (kindMax kind)
    { ev := if bit cfg 49 ∧ v = 0 then none else some v, entry := e, sat := decide (v ≠ q), out := false }
  | 1 =>
    let l := sx 32 (fld e 63 32)
    let d := x - l
    if d.natAbs < theta then { ev := none, entry := e, sat := false, out := false }
    else
      let q := rneShr d qs
      let v := min (max q (kindMin kind)) (kindMax kind)
      let l' := l + v * ((2 ^ qs : Nat) : Int)
      { ev := some v, entry := putFld e 63 32 (enc 32 l'), sat := decide (v ≠ q), out := decide (satN 32 l' ≠ l') }
  | _ =>
    let t : Int := theta
    let h : Int := hyst
    let up := bit e 31 && decide (t ≤ x)
    let armp := if up then false else bit e 31
    let armp := armp || decide (x < t - h)
    let dn := bit cfg 50 && bit e 30 && decide (x ≤ -t)
    let armn := if dn then false else bit e 30
    let armn := armn || (bit cfg 50 && decide (-t + h < x))
    { ev := if up then some 1 else if dn then some (-1) else none,
      entry := putFld (putFld e 31 31 (if armp then 1 else 0)) 30 30 (if armn then 1 else 0), sat := false, out := false }

/-- The flit of an event of channel c of context x (R336). -/
def State.convFlit (s : State) (x c : Nat) (v : Int) : W64 :=
  let cfg := s.sctxCfg x
  let d := s.rd (scx x 2)
  w64 (s.eng.tagRef.toNat * 2 ^ 60 + (if s.reconf.cgen then 2 ^ 59 else 0) + fld cfg 44 42 * 2 ^ 56 +
    fld d 63 60 * 2 ^ 52 + fld d 59 44 * 2 ^ 36 + (fld d 43 32 + c) % 4096 * 2 ^ 24 + fld cfg 48 45 * 2 ^ 20 +
    enc 8 v * 2 ^ 12)

/-- Start the event of channel c. -/
def State.convEmit (s : State) (p x c : Nat) (v : Int) : State :=
  let f := s.convFlit x c v
  ((s.addSent (spNode p) (flTag f) 1).bump (scx x 0x12)).inject (spNode p) 0 (.event 0 0 f)

/-- Apply f to the first frame of context x; none removes it. -/
def onFrame (x : Nat) (f : InFrame → Option InFrame) : List InFrame → List InFrame
  | [] => []
  | g :: t => if g.ctx = x then (match f g with | some h => h :: t | none => t) else g :: onFrame x f t

/-- The oldest frame of context x leaves the buffer of port p. -/
def State.popFrame (s : State) (p x : Nat) : State :=
  s.updSport p fun q =>
    { q with frames := onFrame x (fun _ => none) q.frames, stuck := q.stuck.filter fun y => decide (y ≠ x) }

/-- The oldest frame of context x at port p. -/
def State.frameOf (s : State) (p x : Nat) : Option InFrame := (s.sport p).frames.find? fun f => decide (f.ctx = x)

/-- The contexts that port p converts: its four converters serve the contexts whose oldest frames came first (R334; which
    four is a DESIGN CHOICE, log 80). -/
def State.converting (s : State) (p : Nat) : List Nat :=
  ((s.sport p).frames.foldl (fun (l : List Nat) f => addNew f.ctx l) []).take 4

/-- The bridge of port p takes one more flit: fewer than a packet's worth waits at it for mesh credit (R338; the bound is a
    DESIGN CHOICE, log 80). -/
def State.convCredit (s : State) (p : Nat) : Bool := decide ((Tab.get [] (s.node (spNode p)).out 0).length < 8)

/-- Store the channel entry that a conversion gives; L outside its field is a free value. -/
def State.storeConv (s : State) (i : Nat) (r : Conv) : State :=
  if r.out then
    { (s.setSch i (putFld r.entry 63 32 (Config.deltaBeyond s.free).toNat)) with free := s.free + 1 }
  else s.setSch i r.entry

/-- Convert the next sample of f, the oldest frame of its context at port p; a converter that cannot hand its flit to the
    bridge holds (R335, R338). -/
def State.convertOne (s : State) (p : Nat) (f : InFrame) (x : Int) (rest : List Int) : State :=
  let cfg := s.sctxCfg f.ctx
  let i := fld cfg 33 21 + f.chan
  let r := convert cfg (s.schAt i) (s.rn (scx f.ctx 3)) (s.rn (scx f.ctx 4)) x
  if r.ev.isSome && !s.convCredit p then s.updSport p fun q => { q with stuck := addNew f.ctx q.stuck }
  else
    let s := (s.storeConv i r).bump (scx f.ctx 0x11)
    let s := if r.sat then s.bump (scx f.ctx 0x13) else s
    let s := match r.ev with | some v => s.convEmit p f.ctx f.chan v | none => s
    let chan := if f.chan + 1 = fld cfg 41 34 then 0 else f.chan + 1
    if rest.isEmpty then (s.popFrame p f.ctx).frameDone p f.ctx
    else s.updSport p fun q =>
      { q with
        stuck := q.stuck.filter fun y => decide (y ≠ f.ctx),
        frames := onFrame f.ctx (fun f => some { f with samples := rest, chan := chan }) q.frames }

/-- The converter of port p that serves context x takes one sample; while STEP.PHASE is STOPPED the frame is dropped
    (R334, R337). -/
def execSampleConvert (p x : Nat) (s : State) : Out :=
  .next (s.clk fun s =>
    if !s.domUp 87 then s
    else match s.frameOf p x with
      | none => s
      | some f =>
        if s.stopped then ((s.popFrame p x).bump (scx x 0x16)).frameEnd p x
        else if !(s.converting p).contains x then s
        else match f.samples with
          | v :: rest => s.convertOne p f v rest
          | [] => (s.popFrame p x).frameDone p x)

/-! Egress (R339 to R341) -/

/-- The bytes of an egress record (Table 10.6). -/
def egressBytes (r : Record) (late : Bool) : Bytes :=
  beBytes 16 (r.step.toNat * 2 ^ 96 + r.value.toNat * 2 ^ 64 + r.dev % 16 * 2 ^ 60 + r.lcid.toNat * 2 ^ 44 +
    r.neuron.toNat * 2 ^ 32 + (if r.readout then 1 else 2) * 2 ^ 28 + (if late then 2 ^ 27 else 0))

/-- The closed frame of context x with its records, FCS included (R340). -/
def State.egressFrame (s : State) (x : Nat) (rs : List (Record × Bool)) : Bytes :=
  let h := 1 * 2 ^ 120 + x % 128 * 2 ^ 112 + (s.sctx x).seq.toNat * 2 ^ 96 + rs.length % 65536 * 2 ^ 64 + s.rn rTB
  let b := beBytes 6 (fld (s.rd (scx x 2)) 63 16) ++ beBytes 6 (s.rn (sp (s.sctxPort x) 3)) ++ beBytes 2 0x88B5 ++
    beBytes 16 h ++ (rs.map fun q => egressBytes q.1 q.2).flatten
  let b := b ++ List.replicate (60 - b.length) 0
  b ++ fcs b

/-- Close the frame that context x builds. -/
def State.closeFrame (s : State) (x : Nat) : State :=
  let rs := (s.sctx x).build
  if rs.isEmpty then s
  else
    let f := s.egressFrame x rs
    (s.updSport (s.sctxPort x) fun q => { q with staged := q.staged ++ [(x, rs.map Prod.fst, f)] }).updSctx x fun q =>
      { q with build := [], seq := q.seq + 1 }

/-- A record has reached its end at port p: counted in ACC, and no longer awaited (02 R78, R62). -/
def State.recEnd (s : State) (p : Nat) (r : Record) : State :=
  (s.addAcc (spNode p) (r.step.toNat % 4) 1).itemEnd r.id

/-- A record that cannot leave on its port is dropped (R341). -/
def State.sctxRecDrop (s : State) (p x : Nat) (r : Record) : State := (s.bump (scx x 0x18)).recEnd p r

/-- The OUT context x of port p takes record r. -/
def State.egressTake (s : State) (p x : Nat) (r : Record) : State :=
  let late := s.lateRec r.step
  if !s.spUp p || !s.sctxOut x || decide (s.rn (scx x 8) = 0) || decide (s.sctxPort x ≠ p) then s.sctxRecDrop p x r
  else if late && decide (s.rn rLateAction = 1) then (s.bump (rStep 5)).recEnd p r
  else
    let s := if late then s.bump (rStep 4) else s
    let s := s.updSctx x fun q => { q with build := q.build ++ [(r, late)] }
    if s.rn (scx x 5) ≤ (s.sctx x).build.length ∨ s.rn (scx x 6) = 0 then s.closeFrame x else s

/-- The oldest record that has arrived at port p; one that the port may send is held while the staging is (R341). -/
def execEgressRecord (p : Nat) (s : State) : Out :=
  .next (s.clk fun s =>
    match (s.sport p).recs with
      | [] => s
      | r :: rest =>
        let t := s.updSport p fun q => { q with recs := rest }
        match s.connOf r.handle.toNat with
        | none => (t.bump (rk 0 0x3802 2)).recEnd p r
        | some i => if s.spUp p && s.streamHeld p then s else t.egressTake p (s.conn i).stream r)

/-- HOLDOFF has passed since the first record of the frame that context x builds. -/
def execEgressHoldoffExpire (x : Nat) (s : State) : Out :=
  .next (s.clk fun s => if s.domUp 87 then s.closeFrame x else s)

/-- An OUT context that is being disabled has nothing left to send. -/
def State.outDone (s : State) (x : Nat) : State :=
  if s.rn (scx x 8) = 2 ∧ s.sctxOut x ∧ (s.sctx x).build.isEmpty ∧
      !((s.sport (s.sctxPort x)).staged.any fun f => decide (f.1 = x)) then
    s.sctxOff x
  else s

/-- The oldest closed frame of port p has been transmitted. -/
def execEgressFrameTransmit (p : Nat) (s : State) : Out :=
  .next (s.clk fun s =>
    if !s.spUp p || s.txHeld p then s
    else match (s.sport p).staged with
      | [] => s
      | (x, rs, f) :: rest =>
        let s := s.updSport p fun q => { q with staged := rest, sent := q.sent ++ [f] }
        let s := rs.foldl (fun s r => s.recEnd p r) s
        ((s.bumpBy 64 (scx x 0x17) rs.length).bump (sp p 0x11)).outDone x)

/-! Commands of a context (R331, R332) -/

/-- A field that Table 10.2, 10.3 or 10.10 gives no meaning for the direction is nonzero. -/
def State.sctxRsvd (s : State) (x : Nat) : Bool :=
  let cfg := s.sctxCfg x
  let d := s.rd (scx x 2)
  decide (fld cfg 20 0 ≠ 0) ||
    (if s.sctxOut x then
      decide (fld cfg 59 21 ≠ 0) || decide (fld d 15 0 ≠ 0) || decide (s.rn (scx x 3) ≠ 0) || decide (s.rn (scx x 4) ≠ 0)
     else decide (fld d 31 0 ≠ 0) || decide (s.rn (scx x 5) ≠ 0) || decide (s.rn (scx x 6) ≠ 0))

/-- The channel entries of an IN context: first, and one past the last. -/
def State.sctxEntries (s : State) (x : Nat) : Nat × Nat :=
  (fld (s.sctxCfg x) 33 21, fld (s.sctxCfg x) 33 21 + fld (s.sctxCfg x) 41 34)

/-- Entry i belongs to an IN context that is not DISABLED. -/
def State.schOwned (s : State) (i : Nat) : Bool :=
  (List.range 128).any fun x => decide (s.rn (scx x 8) ≠ 0) && !s.sctxOut x &&
    decide ((s.sctxEntries x).1 ≤ i) && decide (i < (s.sctxEntries x).2)

/-- The RANGE conditions of R331. -/
def State.sctxRange (s : State) (x : Nat) : Bool :=
  let cfg := s.sctxCfg x
  let d := s.rd (scx x 2)
  let theta := s.rn (scx x 3)
  let mode := fld cfg 59 58
  let kind := fld cfg 57 56
  let nch := fld cfg 41 34
  let e := s.sctxEntries x
  if s.sctxOut x then
    let m := s.rn (scx x 5)
    decide (m < 1) || decide (573 < m) || decide (s.rn (sp (s.sctxPort x) 6) < egressLen m)
  else
    decide (mode = 3) || decide (kind = 3) || (decide (kind = 0) && decide (mode ≠ 2)) ||
      (decide (mode = 2) && (if bit cfg 50 then decide (kind = 0) else decide (kind ≠ 0))) ||
      (decide (mode = 1) && decide (2 * theta ≤ 2 ^ fld cfg 55 51)) ||
      decide (theta < 1) || decide (2 ^ 31 ≤ theta) || decide (theta < s.rn (scx x 4)) ||
      decide (nch = 0) || decide (8192 < e.2) || decide (4096 < fld d 43 32 + nch) ||
      ((List.range 128).any fun y => decide (y ≠ x) && decide (s.rn (scx y 8) ≠ 0) && !s.sctxOut y &&
        overlaps e.1 nch (s.sctxEntries y).1 ((s.sctxEntries y).2 - (s.sctxEntries y).1)) ||
      decide (7 < fld d 63 60) || decide (128 < fld d 50 44 + 2 ^ fld cfg 44 42)

/-- SCTX[x].CMD = 1. -/
def sctxEnableAct (x : Nat) : Act := fun s =>
  guardAct [(decide (s.rn (scx x 8) ≠ 0) || !s.spUp (s.sctxPort x), .state), (s.sctxRange x, .range),
    (s.sctxRsvd x, .rsvdSet), (decide (fld (s.sctxCfg x) 63 62 ≠ 0), .version)] s fun s =>
    okAct ((s.wn (scx x 8) 1).updSctx x fun _ => .reset)

/-- SCTX[x].CMD = 1 ENABLE. -/
def execSctxEnable (a : Path) (x : Nat) (s : State) : Out :=
  .next (operate a false 2 (0x4080 + x) 7 [1] (sctxEnableAct x) s)

/-- The frames of context x but its `keep` oldest. -/
def keepFrames (x : Nat) : Nat → List InFrame → List InFrame
  | _, [] => []
  | 0, f :: t => if f.ctx = x then keepFrames x 0 t else f :: keepFrames x 0 t
  | n + 1, f :: t => f :: keepFrames x (if f.ctx = x then n else n + 1) t

/-- The frames of context x in the ingress buffer of port p but its `keep` oldest are dropped. -/
def State.dropFrames (s : State) (p x keep : Nat) : State :=
  let fs := (s.sport p).frames
  ((s.updSport p fun q => { q with frames := keepFrames x keep fs }).bumpBy 64 (sp p 0x15)
    (fs.length - (keepFrames x keep fs).length)).pauseCheck p

/-- SCTX[x].CMD = 2. -/
def sctxDisableAct (x : Nat) : Act := fun s =>
  let p := s.sctxPort x
  if s.rn (scx x 8) = 0 then okAct s
  else if s.sctxOut x then
    guardAct [(s.anyConn fun c => decide (c.dkind = 3) && decide (c.stream = x), .busy)] s fun s =>
      let t := ((s.wn (scx x 8) 2).closeFrame x).outDone x
      if t.rn (scx x 8) = 0 then okAct t else .wait (.sctx x) t
  else if s.rn (scx x 8) = 2 ∨ (s.converting p).contains x then .wait (.sctx x) ((s.wn (scx x 8) 2).dropFrames p x 1)
  else okAct ((s.wn (scx x 8) 0).dropFrames p x 0)

/-- SCTX[x].CMD = 2 DISABLE. -/
def execSctxDisable (a : Path) (x : Nat) (s : State) : Out :=
  .next (operate a false 2 (0x4080 + x) 7 [2] (sctxDisableAct x) s)

/-- SCH.SEL of a path. -/
def rSchSel (p : Path) : Nat := rk (sender p) 0x4010 1

/-- SCH.ENTRY = v (R330). -/
def schEntryAct (p : Path) (v : W64) : Act := fun s =>
  let i := s.rn (rSchSel p)
  guardAct [(s.schOwned i, .state), (decide (fld v 29 0 ≠ 0), .rsvdSet)] s fun s => okAct (s.setSch i v)

/-- A write of SCH.ENTRY. -/
def execSchEntryWrite (a : Path) (v : W64) (s : State) : Out :=
  .next (operate a false 2 0x4010 2 (leBytes 8 v.toNat) (schEntryAct a v) s)

/-! The link (R323, R341) -/

/-- The link of port p is no longer UP: what waits for it is dropped. -/
def State.spLost (s : State) (p : Nat) : State :=
  let q := s.sport p
  let s := s.updSport p fun q => { q with staged := [], hold := false, paused := false }
  let s := q.staged.foldl (fun s f => (f.2.1.foldl (fun s r => s.sctxRecDrop p f.1 r) s).outDone f.1) s
  s.sctxs.foldl (fun s e =>
    if s.sctxPort e.1 = p then
      let rs := (s.sctx e.1).build
      let s := s.updSctx e.1 fun c => { c with build := [] }
      (rs.foldl (fun s r => s.sctxRecDrop p e.1 r.1) s).outDone e.1
    else s) s

/-- SP[p].CMD = 1. -/
def spUpAct (p : Nat) : Act := fun s => okAct (if s.rn (sp p 2) = 0 then s.wn (sp p 2) 1 else s)

/-- SP[p].CMD = 1 UP. -/
def execSpUp (a : Path) (p : Nat) (s : State) : Out := .next (operate a false 2 (0x4000 + p) 1 [1] (spUpAct p) s)

/-- SP[p].CMD = 2. -/
def spDownAct (p : Nat) : Act := fun s => okAct ((s.wn (sp p 2) 0).spLost p)

/-- SP[p].CMD = 2 DOWN. -/
def execSpDown (a : Path) (p : Nat) (s : State) : Out := .next (operate a false 2 (0x4000 + p) 1 [2] (spDownAct p) s)

/-- The link of port p comes up after its training, or goes down. -/
def execSpLinkChange (p : Nat) (up : Bool) (s : State) : Out :=
  .next (s.clk fun s =>
    if up then (if s.rn (sp p 2) = 1 ∧ s.domUp 87 then s.wn (sp p 2) 2 else s)
    else if s.rn (sp p 2) = 0 then s
    else (s.wn (sp p 2) 0).spLost p)

end Sys2Proof.Machine
end

