-- ==== Sys2Proof/Machine/Timers.lean ====
section
/-! DEFINITION. Timers, trigger outputs and capture (10 R343 to R353). -/

namespace Sys2Proof.Machine

/-- TMR[n] registers: EN 1, CLKSRC 2, COUNT 3, RELOAD 4, CMP0 5, CMP1 6, CMP0_VEC 7, CMP1_VEC 8, FLAGS 9, SHORTS 0A,
    CAPSRC 0B, CAPT 0C, CAP_EVENTS 0D, CAP_OVR 0E. -/
def tmr (n sub : Nat) : Nat := rk 0 (0x3C10 + n) sub
/-- CAPIN[k] registers: EDGE 1, FDIV 2, FLEN 3, PRESCALE 4, LEVEL 5, EDGES 6, GLITCH 7. -/
def capin (k sub : Nat) : Nat := rk 0 (0x3C40 + k) sub
/-- TRG[m] registers: SET_SRC 1, CLR_SRC 2, PWIDTH 3, LEVEL 5, CONFLICT 6; 20 the ticks a pulse still lasts. -/
def trg (m sub : Nat) : Nat := rk 0 (0x3C50 + m) sub

/-! Triggers (R348) -/

/-- Trigger m after the matches of one tick, each 2n + k. -/
def State.trigger (s : State) (hits : List Nat) (m : Nat) : State :=
  let set := hits.contains (s.rn (trg m 1))
  let clr := hits.contains (s.rn (trg m 2))
  if set && clr then ((s.wn (trg m 5) 0).wn (trg m 0x20) 0).bump32 (trg m 6)
  else if set then (s.wn (trg m 5) 1).wn (trg m 0x20) (s.rn (trg m 3))
  else if clr then (s.wn (trg m 5) 0).wn (trg m 0x20) 0
  else s

/-- Every trigger after the matches of one tick. -/
def State.triggers (s : State) (hits : List Nat) : State := (List.range 8).foldl (fun s m => s.trigger hits m) s

/-! Timers (R343, R346) -/

/-- Set bit b of TMR[n].FLAGS, in the present tick. -/
def State.setFlag (s : State) (n b : Nat) : State :=
  { (s.wn (tmr n 9) (Nat.lor (s.rn (tmr n 9)) (2 ^ b))) with hits := Tab.set 0 s.hits (3 * n + b) (s.now + 1) }

/-- The bits of TMR[n].FLAGS that were set in the present tick (R346). -/
def State.freshFlags (s : State) (n : Nat) : Nat :=
  ((List.range 3).map fun b => if Tab.get 0 s.hits (3 * n + b) = s.now + 1 then 2 ^ b else 0).sum

/-- match(n, k) but for the triggers: the flag, the vector and the step source. -/
def State.matched (s : State) (n k : Nat) : State :=
  let s := s.setFlag n (k + 1)
  let s := s.raise (s.rn (tmr n (7 + k)))
  if k = 0 then s.stepSource (0x40 + n) else s

/-- The comparison of compare k after a tick; `hits` collects the matches of the tick. -/
def State.compare (s : State) (n k : Nat) (wrapped : Bool) (hits : List Nat) : State × List Nat :=
  let now := decide ((s.rn (tmr n 3) + 2 ^ 32 - s.rn (tmr n (5 + k))) % 2 ^ 32 < 2 ^ 31)
  let was := Tab.get false s.was (2 * n + k)
  let t := { s with was := Tab.set false s.was (2 * n + k) now }
  if now && (!was || wrapped) then (t.matched n k, hits ++ [2 * n + k]) else (t, hits)

/-- One tick of TMRn, and of the timers cascaded on it when it wraps (R343, R345). -/
def State.tickFrom : Nat → Nat → State → List Nat → State × List Nat
  | 0, _, s, hits => (s, hits)
  | f + 1, n, s, hits =>
    if s.rn (tmr n 1) = 0 then (s, hits)
    else
      let count := s.rn (tmr n 3)
      let reload := s.rn (tmr n 4)
      let wrapped := decide (reload ≤ count)
      let s := if reload < count then
          (s.setFlag n 0).bump32 (tmr n 0x0A) else s
      let s := s.wn (tmr n 3) (if wrapped then 0 else count + 1)
      let r := if wrapped && decide (n + 1 < 32) && decide (s.rn (tmr (n + 1) 2) = 1) then
          State.tickFrom f (n + 1) s hits else (s, hits)
      let r := r.1.compare n 0 wrapped r.2
      r.1.compare n 1 wrapped r.2

/-- One tick of TMRn alone, with its triggers. -/
def State.tickTimer (s : State) (n : Nat) : State :=
  let r := State.tickFrom (32 - n) n s []
  r.1.triggers r.2

/-- One tick of every timer that counts timer ticks. -/
def State.tickTimers (s : State) : State :=
  let r := (List.range 32).foldl (fun (r : State × List Nat) n =>
    if r.1.rn (tmr n 2) = 0 then State.tickFrom (32 - n) n r.1 r.2 else r) (s, [])
  let s := r.1.triggers r.2
  (List.range 8).foldl (fun s m =>
    let left := s.rn (trg m 0x20)
    if left = 0 ∨ r.2.contains (s.rn (trg m 1)) then s
    else if left = 1 then (s.wn (trg m 0x20) 0).wn (trg m 5) 0
    else s.wn (trg m 0x20) (left - 1)) s

/-- A tick in which TMRn, counting timer ticks, stands at or above RELOAD. -/
def execTimerWrap (n : Nat) (s : State) : Out :=
  .next (s.clk fun s =>
    if s.rn (tmr n 1) ≠ 0 ∧ s.rn (tmr n 2) = 0 ∧ s.rn (tmr n 4) ≤ s.rn (tmr n 3) then s.tickTimer n else s)

/-- The count of TMRn has reached compare k, which had not matched before. -/
def execTimerMatch (n k : Nat) (s : State) : Out :=
  .next (s.clk fun s =>
    if s.rn (tmr n 1) = 0 then s
    else
      let r := s.compare n k false []
      r.1.triggers r.2)

/-! Writes (R344, R346) -/

/-- TMR[n].COUNT = v. -/
def tmrCountAct (n v : Nat) : Act := fun s => okAct (s.wn (tmr n 3) v)

/-- A write of TMR[n].COUNT. -/
def execTmrCountWrite (a : Path) (n : Nat) (v : W32) (s : State) : Out :=
  .next (operate a false 2 (0x3C10 + n) 3 (leBytes 4 v.toNat) (tmrCountAct n v.toNat) s)

/-- TMR[n].CMPk = v: was[k] clears. -/
def tmrCmpAct (n k v : Nat) : Act := fun s =>
  okAct { (s.wn (tmr n (5 + k)) v) with was := Tab.set false s.was (2 * n + k) false }

/-- A write of TMR[n].CMPk. -/
def execTmrCmpWrite (a : Path) (n k : Nat) (v : W32) (s : State) : Out :=
  .next (operate a false 2 (0x3C10 + n) (5 + k) (leBytes 4 v.toNat) (tmrCmpAct n k v.toNat) s)

/-- TMR[n].EN = v: a write of 1 clears both was flags. -/
def tmrEnAct (n v : Nat) : Act := fun s =>
  guardAct [(decide (1 < v), .range)] s fun s =>
    let t := s.wn (tmr n 1) v
    okAct (if v = 1 then
        { t with was := Tab.set false (Tab.set false s.was (2 * n) false) (2 * n + 1) false } else t)

/-- A write of TMR[n].EN. -/
def execTmrEnWrite (a : Path) (n : Nat) (v : Byte) (s : State) : Out :=
  .next (operate a false 2 (0x3C10 + n) 1 [v] (tmrEnAct n v.toNat) s)

/-- TMR[n].FLAGS = v: each bit written as 0 clears, but for one set in the tick of the write (R346). -/
def tmrFlagsAct (n v : Nat) : Act := fun s =>
  guardAct [(decide (7 < v), .rsvdSet)] s fun s => okAct (s.wn (tmr n 9) (Nat.lor (Nat.land (s.rn (tmr n 9)) v) (Nat.land (s.rn (tmr n 9)) (s.freshFlags n))))

/-- A write of TMR[n].FLAGS. -/
def execTmrFlagsWrite (a : Path) (n : Nat) (v : Byte) (s : State) : Out :=
  .next (operate a false 2 (0x3C10 + n) 9 [v] (tmrFlagsAct n v.toNat) s)

/-- TRG[m].FORCE = v. -/
def trgForceAct (m v : Nat) : Act := fun s =>
  guardAct [(decide (1 < v), .range)] s fun s => okAct (s.wn (trg m 5) v)

/-- A write of TRG[m].FORCE. -/
def execTrgForceWrite (a : Path) (m : Nat) (v : Byte) (s : State) : Out :=
  .next (operate a false 2 (0x3C50 + m) 4 [v] (trgForceAct m v.toNat) s)

/-- PWIDTH ticks have passed since the last set of trigger m. -/
def execTrgPulseEnd (m : Nat) (s : State) : Out :=
  .next (s.clk fun s => if s.rn (trg m 0x20) = 0 then s else (s.wn (trg m 0x20) 0).wn (trg m 5) 0)

/-! Capture (R349 to R352) -/

/-- A capture event on TMRn: source 1 the input, 2 a completion line. Events of one tick latch once (R351). -/
def State.capture (s : State) (n src : Nat) : State :=
  let w := s.rd (tmr n 0x0C)
  let same := decide ((Tab.get (0, 0) s.capOld n).1 = s.now + 1)
  let s := s.bump (tmr n 0x0D)
  if same then s.wr (tmr n 0x0C) (putFld w 35 34 (Nat.lor (fld w 35 34) src))
  else
    let ovr := bit w 32
    let s := { s with capOld := Tab.set (0, 0) s.capOld n (s.now + 1, w) }
    let s := if ovr then s.bump32 (tmr n 0x0E) else s
    s.wn (tmr n 0x0C) (src * 2 ^ 34 + (if ovr then 2 ^ 33 else 0) + 2 ^ 32 + s.rn (tmr n 3))

/-- A capture event of input k: every timer that names it, and the step source. -/
def State.captureInput (s : State) (k : Nat) : State :=
  ((List.range 32).foldl (fun s n => if s.rn (tmr n 0x0B) = 0x10 + k then s.capture n 1 else s) s).stepSource (0x60 + k)

/-- A selected edge of input k passes the prescaler (R349). -/
def State.selectEdge (s : State) (k : Nat) : State :=
  let s := s.bump (capin k 6)
  let c := Tab.get 0 s.capPre k + 1
  if s.rn (capin k 4) ≤ c then { s with capPre := Tab.set 0 s.capPre k 0 }.captureInput k
  else { s with capPre := Tab.set 0 s.capPre k c }

/-- FLEN samples agree on a level that differs from the filtered one. -/
def execCaptureFilterAccept (k : Nat) (level : Bool) (s : State) : Out :=
  .next (s.clk fun s =>
    let was := decide (s.rn (capin k 5) = 1)
    if was = level then s
    else
      let s := s.wn (capin k 5) (if level then 1 else 0)
      let edge := s.rn (capin k 1)
      if edge = 3 ∨ (edge = 1 ∧ level) ∨ (edge = 2 ∧ !level) then s.selectEdge k else s)

/-- A pin change of input k reverses before its acceptance. -/
def execCaptureGlitch (k : Nat) (s : State) : Out := .next (s.clk fun s => s.bump (capin k 7))

/-- CAPIN[k].PRESCALE or EDGE = v: the prescaler restarts at zero. -/
def capinAct (k : Nat) (f : CapField) (v : Nat) : Act := fun s =>
  let bad := match f with
    | .prescale => decide (v = 0) || decide (256 < v)
    | .edge => decide (3 < v)
  guardAct [(bad, .range)] s fun s =>
    okAct { (s.wn (capin k (match f with | .prescale => 4 | .edge => 1)) v) with capPre := Tab.set 0 s.capPre k 0 }

/-- A write of CAPIN[k].PRESCALE or EDGE. -/
def execCapinConfigWrite (a : Path) (k : Nat) (f : CapField) (v : BitVec 16) (s : State) : Out :=
  .next (operate a false 2 (0x3C40 + k) (match f with | .prescale => 4 | .edge => 1)
    (leBytes (match f with | .prescale => 2 | .edge => 1) v.toNat) (capinAct k f v.toNat) s)

/-- A read of TMR[n].CAPT in a tick in which a capture has landed: it returns what stood before, `old`, and clears its NEW
    and OVR; the capture finds NEW at 0, sets it, and overwrites nothing (R352). -/
def State.readBefore (s : State) (n : Nat) (old : W64) : State :=
  let s := s.wr (tmr n 0x0C) (putFld (s.rd (tmr n 0x0C)) 33 33 0)
  let s := { s with capOld := Tab.set (0, 0) s.capOld n (s.now + 1, putFld old 33 32 0) }
  let k := s.rn (tmr n 0x0E)
  if bit old 32 ∧ k < 2 ^ 32 - 1 then s.wn (tmr n 0x0E) (k - 1) else s

/-- A read of TMR[n].CAPT returns the state before the captures of its tick, and clears NEW and OVR (R352). -/
def tmrCaptAct (n : Nat) : Act := fun s =>
  let w := s.rd (tmr n 0x0C)
  let old := Tab.get (0, 0) s.capOld n
  if old.1 = s.now + 1 then .done .ok (leBytes 8 old.2.toNat) (s.readBefore n old.2)
  else .done .ok (leBytes 8 w.toNat) (s.wr (tmr n 0x0C) (putFld w 33 32 0))

/-- A read of TMR[n].CAPT. -/
def execTmrCaptRead (a : Path) (n : Nat) (s : State) : Out :=
  .next (operate a false 1 (0x3C10 + n) 0x0C [] (tmrCaptAct n) s)

end Sys2Proof.Machine
end

