-- ==== Sys2Proof/Machine/Mail.lean ====
section
/-! DEFINITION. Mailboxes, path resets and notices (11 R382 to R391). -/

namespace Sys2Proof.Machine

/-- MB[i] registers (11 Table 11.14): RECEIVER 1, PROD 5, CONS 6, VECTOR 7, OWNER 8, SENT 9, PADS 0A, DOORBELLS 0B,
    ABORTED 0C, LOCK_IGNORED 0D, LOCK_BREAK 0E, NOTICE_LOST 0F, WAIT_TICKS 10, HWM 11. -/
def mb (i sub : Nat) : Nat := rk 0 (0x3100 + i) sub

/-- MB.NOTICE[d] of path number n. -/
def rNotice (n d : Nat) : Nat := rk n 0x3120 (d + 1)

/-! Doorbells and notices (R387, R390) -/

/-- A doorbell of mailbox i: it wakes the receiver's domain and interrupts the receiver. -/
def State.doorbell (s : State) (i : Nat) : State :=
  let s := s.bump (mb i 0x0B)
  match s.rn (mb i 1) with
  | 1 => (s.wake 77 5).raise (s.rn (mb i 7))
  | 2 => { s with sdio := { s.sdio with intPend := s.sdio.intPend ||| 2 } }
  | _ => s.wake 88 5

/-- Set bits of MB.NOTICE[d] of a local path, and interrupt it. -/
def State.noticeLocal (s : State) (n d mask : Nat) : State :=
  let s := s.wn (rNotice n d) (Nat.lor (s.rn (rNotice n d)) mask)
  if n = 1 then s.raise (s.rn (rk 0 0x3001 5))
  else if n = 2 then { s with sdio := { s.sdio with intPend := s.sdio.intPend ||| 4 } }
  else s

/-- Notify a sender that an unread message of it in mailbox i was cleared. -/
def State.notify (s : State) (i n : Nat) : State :=
  if n < 8 then s.noticeLocal n s.dev (2 ^ i)
  else if (s.routed (n - 8)).isSome then
    s.sendMsg { mkind := 4, sdev := s.dev, ddev := n - 8, tag := 0, idx := 0, sub := 0, op := 0,
                body := leBytes 8 (2 ^ i + s.dev * 2 ^ 24) }
  else s.bump32 (mb i 0x0F)

/-- A NOTICE message from device dev (R390). -/
def execNotice (dev : Nat) (mask : BitVec 24) (s : State) : Out :=
  .next (s.clk fun s => s.noticeLocal 1 dev mask.toNat)

/-- A read of MB.NOTICE[d] returns its bits and clears them (R391). -/
def mbNoticeAct (p : Path) (d : Nat) : Act := fun s =>
  .done .ok (leBytes 4 (s.rn (rNotice (sender p) d))) (s.wn (rNotice (sender p) d) 0)

/-- A read of MB.NOTICE[d]. -/
def execMbNoticeRead (a : Path) (d : Nat) (s : State) : Out :=
  .next (operate a false 1 0x3120 (d + 1) [] (mbNoticeAct a d) s)

/-! Writing a message (R385) -/

/-- Units occupied. -/
def State.mbUsed (s : State) (i : Nat) : Nat := (s.rn (mb i 5) + 2 ^ 32 - s.rn (mb i 6)) % 2 ^ 32

/-- Word 0 of a message header (Table 11.11). -/
def mbWord0 (seq sender kind ph units len : Nat) : W64 :=
  w64 (seq % 65536 * 2 ^ 48 + sender % 16 * 2 ^ 44 + kind % 4 * 2 ^ 42 + ph * 2 ^ 39 + units % 512 * 2 ^ 30 +
    len % 8192 * 2 ^ 17)

/-- Write a message, or a PAD, of m units at PROD: payload first, header last. -/
def State.mbPut (s : State) (i n kind m : Nat) (payload : Bytes) : State :=
  let prod := s.rn (mb i 5)
  let w0 := mbWord0 (s.mbox i).seq.toNat n kind (lapPhase prod 1024) m payload.length
  let body := if kind = 0 then [] else payload ++ List.replicate (16 * (m - 1) - payload.length) 0
  let a := 16 * (prod % 1024)
  let s := s.updMbox i fun b =>
    { b with
      ring := (b.ring.wrBytes (a + 16) body).wrBytes a (leBytes 8 w0.toNat ++ leBytes 8 (s.rn rTB)),
      seq := b.seq + 1, msgs := if kind = 0 then b.msgs else b.msgs ++ [(prod, n)] }
  let s := s.wn (mb i 5) ((prod + m) % 2 ^ 32)
  s.hwm (mb i 0x11) (s.mbUsed i)

/-- The SEND of path number n goes as far as the free units let it: none while it must wait. -/
def State.mbTry (s : State) (i n : Nat) (payload : Bytes) : State × Bool :=
  let m := 1 + (payload.length + 15) / 16
  let tail := 1024 - s.rn (mb i 5) % 1024
  let free := 1024 - s.mbUsed i
  let s := if tail < m ∧ tail ≤ free then (s.mbPut i n 0 tail []).bump (mb i 0x0A) else s
  let tail := 1024 - s.rn (mb i 5) % 1024
  let free := 1024 - s.mbUsed i
  if m ≤ tail ∧ m ≤ free then
    let s := (s.mbPut i n 1 m payload).bump (mb i 9)
    ((s.updMbox i fun b => { b with staged := none, waiting := none }).doorbell i, true)
  else (s, false)

/-- The path is not the owner of MB[i].LOCK (R384). -/
def State.notOwner (s : State) (p : Path) (i : Nat) : Bool := decide (s.rn (mb i 8) ≠ sender p)

/-- MB[i].CMD = 1. -/
def mbSendAct (p : Path) (i : Nat) : Act := fun s =>
  guardAct [(s.notOwner p i, .access), ((s.mbox i).staged.isNone, .state)] s fun s =>
    let r := s.mbTry i (sender p) ((s.mbox i).staged.getD [])
    if r.2 then okAct r.1
    else .wait (.mbSend i) (r.1.updMbox i fun b => { b with waiting := some (sender p) })

/-- MB[i].CMD = 1 SEND. -/
def execMbSend (a : Path) (i : Nat) (s : State) : Out :=
  .next (operate a false 2 (0x3100 + i) 4 [1] (mbSendAct a i) s)

/-- A SEND has waited 10 ms: TIMEOUT, the staging kept. -/
def execMbSendTimeout (i : Nat) (s : State) : Out :=
  .next (s.clk fun s =>
    match (s.mbox i).waiting with
    | some n => (s.updMbox i fun b => { b with waiting := none }).finish n (.mbSend i) false .timeout
    | none => s)

/-- MB[i].CMD = 2. -/
def mbDoorbellAct (i : Nat) : Act := fun s => okAct (s.doorbell i)

/-- MB[i].CMD = 2 DOORBELL. -/
def execMbDoorbell (a : Path) (i : Nat) (s : State) : Out :=
  .next (operate a false 2 (0x3100 + i) 4 [2] (mbDoorbellAct i) s)

/-! The lock and the staging (R383, R384) -/

/-- A read of MB[i].LOCK takes a free lock. -/
def mbLockReadAct (p : Path) (i : Nat) : Act := fun s =>
  let o := s.rn (mb i 8)
  .done .ok [BitVec.ofNat 8 o] (if o = 0 then s.wn (mb i 8) (sender p) else s)

/-- A read of MB[i].LOCK. -/
def execMbLockRead (a : Path) (i : Nat) (s : State) : Out :=
  .next (operate a false 1 (0x3100 + i) 2 [] (mbLockReadAct a i) s)

/-- A write of MB[i].LOCK: only the owner's write of its own number frees the lock. -/
def mbLockWriteAct (p : Path) (i v : Nat) : Act := fun s =>
  okAct (if s.rn (mb i 8) = sender p ∧ v = sender p then s.wn (mb i 8) 0 else s.bump32 (mb i 0x0D))

/-- A write of MB[i].LOCK. -/
def execMbLockWrite (a : Path) (i : Nat) (v : Byte) (s : State) : Out :=
  .next (operate a false 2 (0x3100 + i) 2 [v] (mbLockWriteAct a i v.toNat) s)

/-- A write of MB[i].MSG stages 1 to 4,080 bytes. -/
def mbMsgAct (p : Path) (i : Nat) (d : Bytes) : Act := fun s =>
  guardAct [(s.notOwner p i, .access), (decide (d.length = 0) || decide (4080 < d.length), .type)] s fun s =>
    okAct (s.updMbox i fun b => { b with staged := some d })

/-- A write of MB[i].MSG. -/
def execMbMsgWrite (a : Path) (i : Nat) (d : Bytes) (s : State) : Out :=
  .next (operate a false 2 (0x3100 + i) 3 d (mbMsgAct a i d) s)

/-! The receiver (R382, R386, R388) -/

/-- Messages between CONS and PROD. -/
def State.mbUnread (s : State) (i : Nat) : List (Nat × Nat) :=
  (s.mbox i).msgs.filter fun q => decide ((q.1 + 2 ^ 32 - s.rn (mb i 6)) % 2 ^ 32 < s.mbUsed i)

/-- MB[i].CONS = v: units are freed, and a SEND that waits goes on. -/
def mbConsAct (p : Path) (i v : Nat) : Act := fun s =>
  guardAct [(decide (s.rn (mb i 1) ≠ sender p), .access),
    (decide (s.mbUsed i < (v + 2 ^ 32 - s.rn (mb i 6)) % 2 ^ 32), .range)] s fun s =>
    let s := s.wn (mb i 6) v
    let s := s.updMbox i fun b => { b with msgs := s.mbUnread i }
    okAct (match (s.mbox i).waiting with
      | some n =>
        let r := s.mbTry i n ((s.mbox i).staged.getD [])
        if r.2 then r.1.finish n (.mbSend i) false .ok else r.1
      | none => s)

/-- A write of MB[i].CONS. -/
def execMbConsWrite (a : Path) (i : Nat) (v : W32) (s : State) : Out :=
  .next (operate a false 2 (0x3100 + i) 6 (leBytes 4 v.toNat) (mbConsAct a i v.toNat) s)

/-- A receiver reset of mailbox i (R388). -/
def State.mbReset (s : State) (i : Nat) : State :=
  let unread := s.mbUnread i
  let s := match (s.mbox i).waiting with
    | some n => s.finish n (.mbSend i) false .aborted
    | none => s
  let s := s.bumpBy 64 (mb i 0x0C) unread.length
  let s := (((s.updMbox i fun _ => .reset).wn (mb i 5) 0).wn (mb i 6) 0).wn (mb i 8) 0
  (unread.foldl (fun (l : List Nat) q => addNew q.2 l) []).foldl (fun s n => s.notify i n) s

/-- MB[i].CMD = 3. -/
def mbResetAct (p : Path) (i : Nat) : Act := fun s =>
  guardAct [(decide (s.rn (mb i 1) ≠ sender p), .access)] s fun s => okAct (s.mbReset i)

/-- MB[i].CMD = 3 RESET. -/
def execMbReset (a : Path) (i : Nat) (s : State) : Out :=
  .next (operate a false 2 (0x3100 + i) 4 [3] (mbResetAct a i) s)

/-- MB[i].RECEIVER = v. -/
def mbReceiverAct (i v : Nat) : Act := fun s =>
  guardAct [(decide (s.mbUsed i ≠ 0) || decide (s.rn (mb i 8) ≠ 0) || (s.mbox i).waiting.isSome, .busy),
    (decide (v = 0) || decide (3 < v), .range)] s fun s => okAct (s.wn (mb i 1) v)

/-- A write of MB[i].RECEIVER. -/
def execMbReceiverWrite (a : Path) (i : Nat) (v : Byte) (s : State) : Out :=
  .next (operate a false 2 (0x3100 + i) 1 [v] (mbReceiverAct i v.toNat) s)

/-! Path resets (R389) -/

/-- The operation in progress of path number n ends with ABORTED; an OPEN of a REMOTE half gives its context back. -/
def State.abortOp (s : State) (n : Nat) : State :=
  match (s.pathN n).op with
  | none => s
  | some (.waiting (.connOpen i)) => (s.dropOpen i).answer n .aborted false []
  | some (.waiting (.hkc _ _ _ _)) => s.answer n .aborted true []
  | some (.waiting _) => s.answer n .aborted false []
  | some (.answered _ hkc _) => s.answer n .aborted hkc []
  | some (.relayed _ _) => s.updPathN n fun q => { q with op := some (.relayed .aborted []) }

/-- Free every lock that path number n owns. -/
def State.breakLocks (s : State) (n : Nat) : State :=
  (List.range 24).foldl (fun s i =>
    if s.rn (mb i 8) = n then
      ((s.wn (mb i 8) 0).updMbox i fun b => { b with staged := none, waiting := none }).bump32 (mb i 0x0E)
    else s) s

/-- Return the entries that path number n keeps for itself to their defaults. -/
def State.clearBank (s : State) (n : Nat) : State :=
  { s with regs := Tab.keep (fun k => decide (k / 0x1000000 ≠ n)) s.regs }

/-- A reset of path number n (R389). -/
def State.resetPath (s : State) (n : Nat) : State :=
  let s := (s.abortOp n).updPathN n fun q => { q with session := none, attest := false, blobs := [] }
  let s := (s.clearBank n).breakLocks n
  (List.range 24).foldl (fun s i => if s.rn (mb i 1) = n then s.mbReset i else s) s

end Sys2Proof.Machine
end

