-- ==== Sys2Proof/Machine/Dma.lean ====
section
/-! DEFINITION. The DMA engine (09 R293 to R308): channels, descriptors, staging beats, completion lines. -/

namespace Sys2Proof.Machine

/-- DMA.CH[c] registers: PROD 2, CONS 3, STATUS 4, DESCS 6, BYTES 7, PREEMPT 8, WAIT_TICKS 9. -/
def ch (c sub : Nat) : Nat := rk 0 (0x3410 + c) sub
/-- DMA.LINE[l] registers: ROUTE 1, PULSES 2, DROP 3. -/
def lineReg (l sub : Nat) : Nat := rk 0 (0x3480 + l) sub
/-- DMA.HANDLE of a path. -/
def rDmaHandle (p : Path) : Nat := rk (sender p) 0x3400 3

/-! Completion lines (R306 to R308) -/

/-- The flit that an AXON route starts (R307). -/
def State.lineFlit (s : State) (w : W64) : W64 :=
  w64 (s.eng.count.toNat % 4 * 2 ^ 60 + (if s.reconf.cgen then 2 ^ 59 else 0) + fld w 15 13 * 2 ^ 56 +
    s.dev * 2 ^ 52 + fld w 55 40 * 2 ^ 36 + fld w 39 28 * 2 ^ 24 + fld w 27 24 * 2 ^ 20 + fld w 23 16 * 2 ^ 12)

/-- Start one new event at the DMA bridge, counted in SENT (02 Table 2.6). -/
def State.startEvent (s : State) (f : W64) : State := (s.addSent 87 (flTag f) 1).inject 87 0 (.event 0 0 f)

/-- What the route of line l does with a pulse. -/
def State.routePulse (s : State) (l : Nat) : State :=
  let w := s.rd (lineReg l 1)
  match fld w 63 61 with
  | 1 => s.doorbell (fld w 60 56)
  | 2 => s.capture (fld w 60 56) 2
  | 3 => s.stepSource (0x20 + l)
  | 4 => if s.stopped then s.bump (lineReg l 3) else s.startEvent (s.lineFlit w)
  | _ => s

/-- A pulse on line l: its route, and a token on every connection that names the line (R308). -/
def State.pulse (s : State) (l : Nat) : State :=
  let s := (s.bump (lineReg l 2)).routePulse l
  s.conns.foldl (fun s e =>
    let c := s.conn e.1
    if c.state = .opn ∧ !c.opening ∧ c.skind = 3 ∧ c.src = l ∧ s.sourceHere c then s.pulseToken e.1 else s) s

/-! Channels (R294, R295, R303) -/

/-- Handle of channel c. -/
def Chan.handle (x : Chan) (c : Nat) : Nat := x.gen.toNat * 4096 + c

/-- The generation after a close; the last context passes from 14 to 0 (R294, 07 R213). -/
def nextChanGen (c : Nat) (g : BitVec 4) : BitVec 4 := if c = 63 ∧ g = 14 then 0 else g + 1

/-- The channel that a handle names. -/
def State.chanOf (s : State) (h : Nat) : Option Nat :=
  let c := h % 64
  if h / 64 % 64 = 0 ∧ (s.chan c).state ≠ .free ∧ (s.chan c).gen.toNat = h / 4096 then some c else none

/-- Staging that open channels hold, in units of 4 KiB. -/
def State.stageUsed (s : State) : Nat :=
  (s.chans.map fun e => if e.2.state = .free then 0 else e.2.quota).sum

/-- A descriptor ring granule lies in mapped LPDDR5X or in the TSM of a resident tile (R295). -/
def State.ringPlaceOk (s : State) (a : Nat) : Bool :=
  match s.placeOf a with
  | .lp _ | .tsm _ _ | .mcOff => true
  | .hold (some _) => decide (a < 0x4000000000) || decide (0x18000000000 ≤ a)
  | _ => false

/-- The lowest free channel. -/
def State.freeChan (s : State) : Option Nat := (List.range 64).find? fun c => decide ((s.chan c).state = .free)

/-- DMA.CMD = 1. -/
def dmaOpenAct (p : Path) : Act := fun s =>
  let w := descWords (s.blob (sender p) 0x3400 2 32)
  let host := bit w.1 58
  let rsize := fld w.1 57 53
  let quota := fld w.1 52 46
  let base := w.2.1.toNat
  let rsvd := decide (fld w.1 45 0 ≠ 0) || decide (fld w.2.2.1 31 0 ≠ 0) || decide (w.2.2.2 ≠ 0) ||
    (!host && decide (fld w.2.1 63 44 ≠ 0))
  let range := decide (rsize < 7) || decide (16 < rsize) || decide (quota < 1) || decide (64 < quota) ||
    decide (base % 4096 ≠ 0) || (!host && !((granules base (32 * 2 ^ rsize)).all s.ringPlaceOk))
  guardAct [(range, .range), (rsvd, .rsvdSet),
    (s.freeChan.isNone || decide (448 < s.stageUsed + quota), .noContext), (decide (fld w.1 63 62 ≠ 0), .version)] s
    fun s =>
      match s.freeChan with
      | none => .refuse .noContext
      | some c =>
        let s := s.updChan c fun x =>
          { x with state := .stopped, prio := fld w.1 61 59, host := host, rsize := rsize, quota := quota,
                   rbase := base, descs := [] }
        let s := (s.wn (ch c 2) (fld w.2.2.1 63 32)).wn (ch c 3) (fld w.2.2.1 63 32)
        okAct (s.wn (rDmaHandle p) ((s.chan c).handle c))

/-- DMA.CMD = 1 OPEN. -/
def execDmaOpen (a : Path) (s : State) : Out := .next (operate a false 2 0x3400 1 [1] (dmaOpenAct a) s)

/-- DMA.CMD = 2: it wakes the DMA domain (13 Table 13.3). -/
def dmaStartAct (p : Path) : Act := fun s =>
  match s.chanOf (s.rn (rDmaHandle p)) with
  | none => .refuse .noEntry
  | some c =>
    guardAct [(decide ((s.chan c).state = .stopping), .busy)] s fun s =>
      okAct ((if (s.chan c).state = .stopped then s.updChan c fun x => { x with state := .running } else s).wake 86 1)

/-- DMA.CMD = 2 START. -/
def execDmaStart (a : Path) (s : State) : Out := .next (operate a false 2 0x3400 1 [2] (dmaStartAct a) s)

/-- A STOPPING channel with no started descriptor left is STOPPED (R303). -/
def State.settleChan (s : State) (c : Nat) : State :=
  s.updChan c fun x => if x.state = .stopping ∧ x.descs = [] then { x with state := .stopped } else x

/-- Stop channel c at its next descriptor boundary. -/
def State.stopChan (s : State) (c : Nat) : State :=
  (s.updChan c fun x => if x.state = .running then { x with state := .stopping } else x).settleChan c

/-- DMA.CMD = 3. -/
def dmaStopAct (p : Path) : Act := fun s =>
  match s.chanOf (s.rn (rDmaHandle p)) with
  | none => .refuse .noEntry
  | some c => okAct (s.stopChan c)

/-- DMA.CMD = 3 STOP. -/
def execDmaStop (a : Path) (s : State) : Out := .next (operate a false 2 0x3400 1 [3] (dmaStopAct a) s)

/-- DMA.CMD = 4. -/
def dmaCloseAct (p : Path) : Act := fun s =>
  match s.chanOf (s.rn (rDmaHandle p)) with
  | none => .refuse .noEntry
  | some c =>
    guardAct [(decide ((s.chan c).state ≠ .stopped), .busy)] s fun s =>
      okAct (s.updChan c fun x => { Chan.reset with gen := nextChanGen c x.gen })

/-- DMA.CMD = 4 CLOSE. -/
def execDmaClose (a : Path) (s : State) : Out := .next (operate a false 2 0x3400 1 [4] (dmaCloseAct a) s)

/-- DMA.CH[c].PROD = v: neither backward nor past CONS + 2^RSIZE (R296). -/
def dmaProdAct (c v : Nat) : Act := fun s =>
  let cons := s.rn (ch c 3)
  let ahead := (v + 2 ^ 32 - cons) % 2 ^ 32
  let back := decide (ahead < (s.rn (ch c 2) + 2 ^ 32 - cons) % 2 ^ 32)
  guardAct [(back || decide (2 ^ (s.chan c).rsize < ahead), .range)] s fun s => okAct (s.wn (ch c 2) v)

/-- A write of DMA.CH[c].PROD. -/
def execDmaProdWrite (a : Path) (c : Nat) (v : W32) (s : State) : Out :=
  .next (operate a false 2 (0x3410 + c) 2 (leBytes 4 v.toNat) (dmaProdAct c v.toNat) s)

/-! Descriptors (R297, R298) -/

/-- A device-space range that R298 refuses with RANGE; an image or the bank view is none of R284's. -/
def badRange (ps : List Place) : Bool :=
  ps.any fun p => match p with | .miss | .image _ | .imageEnd => true | _ => false

/-- A device-space range reaches a controller in OFF. -/
def offRange (ps : List Place) : Bool := ps.contains .mcOff

/-- What the checks on a descriptor find (R298). The CRC lies in bytes 28 to 31 (R297), so bytes 24 to 27 of word 3 are the
    reserved ones. -/
def State.dmaCheck (s : State) (w : W64 × W64 × W64 × W64) : Status :=
  let w0 := w.1
  let zero := decide (fld w0 61 60 = 1)
  let ss := fld w0 59 58
  let ds := fld w0 57 56
  let len := fld w0 47 24
  let sa := fld w.2.1 47 0
  let da := fld w.2.2.1 47 0
  let bits := fun (sp : Nat) (a : W64) =>
    (decide (sp = 0) && decide (fld a 63 44 ≠ 0)) || (decide (sp = 2) && decide (fld a 63 48 ≠ 0))
  let src := if !zero && decide (ss = 0) then s.places sa len else []
  let dst := if ds = 0 then s.places da len else []
  let peer := fun (sp a : Nat) => decide (sp = 2) && decide (a / 2 ^ 44 = s.dev)
  let gone := fun (sp a : Nat) => decide (sp = 2) &&
    (decide (7 < a / 2 ^ 44) || !s.isMember (a / 2 ^ 44) || decide (s.rn (rRoute (a / 2 ^ 44)) / 2 ^ 14 = 2))
  pickAll
    [(!descCrcOk w, .fault), (decide (fld w0 63 62 ≠ 0), .version),
     (decide (fld w0 7 0 ≠ 0) || decide (fld w.2.2.2 31 0 ≠ 0) || (!zero && bits ss w.2.1) || bits ds w.2.2.1, .rsvdSet),
     (decide (2 ≤ fld w0 61 60) || decide (ss = 3) || decide (ds = 3) || (zero && decide (ss ≠ 0)) ||
        badRange src || badRange dst ||
        (!zero && decide (ss = 0) && decide (ds = 0) && overlaps sa len da len) ||
        (!zero && peer ss sa) || peer ds da, .range),
     ((!zero && gone ss sa) || gone ds da || offRange src || offRange dst, .state)]

/-- A descriptor as it starts, under an identity of its own. -/
def startDesc (id : Nat) (w : W64 × W64 × W64 × W64) : DDesc :=
  let w0 := w.1
  let addr := fun (sp : Nat) (a : W64) => if sp = 1 then a.toNat else fld a 47 0
  { id := id, zero := decide (fld w0 61 60 = 1), sspace := fld w0 59 58, dspace := fld w0 57 56, lineEn := bit w0 54,
    lineNo := fld w0 53 49, halt := bit w0 48, len := fld w0 47 24, saddr := addr (fld w0 59 58) w.2.1,
    daddr := addr (fld w0 57 56) w.2.2.1, rd := 0, wr := 0, staged := [], failed := none }

/-- DMA record: channel c refuses or ends its descriptor with st and is STOPPED (R298, R304; 12 Table 12.9). -/
def State.dmaFail (s : State) (c : Nat) (st : Status) : State :=
  let s := s.wn (ch c 4) st.code
  let s := s.post 7 st.code 0 (w64 ((s.chan c).handle c)) (w64 (s.rn (ch c 3)))
  s.updChan c fun x => { x with state := .stopped, descs := [] }

/-- The ring address of entry k of channel c (R296). -/
def Chan.entry (x : Chan) (k : Nat) : Nat := x.rbase + 32 * (k % 2 ^ x.rsize)

/-- The next entry of channel c: its index, when the channel may start one: RUNNING, the entry written, and every byte
    of the descriptors before it read (R296, R300). -/
def State.nextDesc (s : State) (c : Nat) : Option Nat :=
  let x := s.chan c
  let k := (s.rn (ch c 3) + x.descs.length) % 2 ^ 32
  if x.state = .running ∧ s.domUp 86 ∧ k ≠ s.rn (ch c 2) ∧ (x.descs.all fun d => decide (d.rd = d.len)) then some k
  else none

/-- Channel c takes the descriptor w of entry CONS + its started ones: it starts, waits for a FENCE, or is refused once
    it is the oldest. -/
def State.takeDma (s : State) (c : Nat) (w : W64 × W64 × W64 × W64) : State :=
  let first := (s.chan c).descs.isEmpty
  let st := s.dmaCheck w
  if st ≠ .ok then (if first then s.dmaFail c st else s)
  else if bit w.1 55 && !first then s
  else
    let d := startDesc (s.ids + 1) w
    { s with ids := s.ids + 1 }.updChan c fun x => { x with descs := x.descs ++ [d], state := if d.halt then .stopping else x.state }

/-- Channel c fetches its next descriptor; `host` is the entry when the ring lies in host memory, and `ecc` what a ring in
    LPDDR5X meets (R291). -/
def execDmaDescFetch (c : Nat) (e : RingRead) (s : State) : Out :=
  .next (s.clk fun s =>
    match s.nextDesc c with
    | none => s
    | some k =>
      let x := s.chan c
      if x.host then (if s.hostOk then s.takeDma c (descWords e.host) else s)
      else
        let ps := s.placesRd (x.entry k) 32
        if holds ps then s.holdAccess ps
        else
          let r := s.readEcc (x.entry k) 32 e.ecc
          if r.1.2 then (if x.descs.isEmpty then r.2.dmaFail c .fault else r.2) else r.2.takeDma c (descWords r.1.1))

/-! Staging beats (R299 to R302) -/

/-- The descriptor of a channel that reads next. -/
def Chan.reading (x : Chan) : Option DDesc := x.descs.find? fun d => decide (d.rd < d.len) && d.failed.isNone
/-- The descriptor of a channel that writes next. -/
def Chan.writing (x : Chan) : Option DDesc := x.descs.find? fun d => !d.staged.isEmpty && d.failed.isNone

/-- Bytes that a channel holds in staging. -/
def Chan.stagedBytes (x : Chan) : Nat :=
  (x.descs.map fun d => (d.staged.map fun q => q.2.length).sum).sum

/-- Bytes of the next read beat of a descriptor. -/
def DDesc.chunk (d : DDesc) : Nat := min 64 (d.len - d.rd)

/-- Where the next read beat of a descriptor leads. -/
def State.readPlaces (s : State) (d : DDesc) : List Place :=
  if d.zero ∨ d.sspace ≠ 0 then [] else s.placesRd (d.saddr + d.rd) d.chunk

/-- Where the oldest staged beat of a descriptor goes. -/
def State.writePlaces (s : State) (d : DDesc) : List Place :=
  match d.staged with
  | q :: _ => if d.dspace = 0 then s.places (d.daddr + q.1) q.2.length else []
  | [] => []

/-- Channel c has source data left to read and room left in its quota. -/
def State.canRead (s : State) (c : Nat) : Bool :=
  let x := s.chan c
  match x.reading with
  | some d => decide (x.stagedBytes + d.chunk ≤ 4096 * x.quota) && !holds (s.readPlaces d)
  | none => false

/-- Channel c has staged data whose destination takes it. -/
def State.canWrite (s : State) (c : Nat) : Bool :=
  match (s.chan c).writing with
  | some d => !holds (s.writePlaces d)
  | none => false

/-- The channels that f finds ready. -/
def readyChans (f : Nat → Bool) : List Nat := (List.range 64).filter f

/-- Staging beats of one copy phase of a swap (R309, R318). -/
def swapBeats : Nat := 15761408 / 64

/-- The swap sequencer's copy has source data left to read. -/
def State.swapReads (s : State) : Bool :=
  match s.swap with
  | some w => (decide (w.stage = .copyOut) || decide (w.stage = .copyIn)) && decide (w.beatR < swapBeats)
  | none => false

/-- The swap sequencer has staged data. -/
def State.swapWrites (s : State) : Bool :=
  match s.swap with
  | some w => (decide (w.stage = .copyOut) || decide (w.stage = .copyIn)) && decide (w.beatW < w.beatR)
  | none => false

/-- The place of the swap sequencer among the channels, behind the last (DESIGN CHOICE, log 47). -/
def swapSeq : Nat := 64

/-- The priority of a channel, or of the swap sequencer (SWAP.PRIO). -/
def State.prioOf (s : State) (c : Nat) : Nat := if c = swapSeq then s.rn (rk 0 0x3502 8) else (s.chan c).prio

/-- The ready channel of highest priority; equals take turns in ascending index after the one of them served last. -/
def State.pickChan (s : State) (ready : List Nat) (turn : Tab Nat) : Option Nat :=
  let top := (ready.map s.prioOf).foldl max 0
  let best := ready.filter fun c => decide (s.prioOf c = top)
  match best.find? fun c => decide (Tab.get swapSeq turn top < c) with
  | some c => some c
  | none => best.head?

/-- The turn of the priority of c passes to the one after it. -/
def State.turnAfter (s : State) (turn : Tab Nat) (c : Nat) : Tab Nat := Tab.set swapSeq turn (s.prioOf c) c

/-- Every ready channel of a lower priority than the one served loses the beat (DMA.CH.PREEMPT). -/
def State.preempt (s : State) (ready : List Nat) (c : Nat) : State :=
  (ready.filter fun d => decide (d ≠ swapSeq) && decide (s.prioOf d < s.prioOf c)).foldl (fun s d => s.bump (ch d 8)) s

/-- Channels held by a sleeping tile or controller wake it (R292, 13 R441). -/
def State.wakeFor (s : State) (f : State → DDesc → List Place) (g : Chan → Option DDesc) : State :=
  s.chans.foldl (fun s e =>
    match g (s.chan e.1) with
    | some d => if (wakesOf (f s d)).any fun k => decide (s.rn (rDomain k) = 2) then s.holdAccess (f s d) else s
    | none => s) s

/-- Change the first descriptor of a list that satisfies f. -/
def updFirst {α : Type} (f : α → Bool) (g : α → α) : List α → List α
  | [] => []
  | a :: t => if f a then g a :: t else a :: updFirst f g t

/-- Change the descriptor that channel c reads. -/
def State.updReading (s : State) (c : Nat) (g : DDesc → DDesc) : State :=
  s.updChan c fun x => { x with descs := updFirst (fun d => decide (d.rd < d.len) && d.failed.isNone) g x.descs }

/-- Change the descriptor that channel c writes. -/
def State.updWriting (s : State) (c : Nat) (g : DDesc → DDesc) : State :=
  s.updChan c fun x => { x with descs := updFirst (fun d => !d.staged.isEmpty && d.failed.isNone) g x.descs }

/-- The descriptor that channel c works on ends with st, once it is the oldest (R292, R304). -/
def failDesc (st : Status) (d : DDesc) : DDesc := { d with failed := some st, staged := [] }

/-- The read beat of channel c: zeros, device memory, or `data` from the host or a peer; `ecc` is what a word of LPDDR5X
    meets, and `bad` from the host or a peer says that the read failed. A controller in OFF ends the descriptor with STATE
    (R292). -/
def State.readBeat (s : State) (c : Nat) (data : Bytes) (ecc : Ecc) : State :=
  match (s.chan c).reading with
  | none => s
  | some d =>
    let n := d.chunk
    let a := d.saddr + d.rd
    let dev := !d.zero && decide (d.sspace = 0)
    let r : (Bytes × Bool) × State :=
      if d.zero then ((List.replicate n 0, false), s)
      else if d.sspace = 0 then s.readEcc a n ecc
      else ((data.take n, decide (ecc = .bad) || (decide (d.sspace = 1) && !s.hostOk)), s)
    if dev && offRange (s.placesRd a n) then r.2.updReading c (failDesc .state)
    else if r.1.2 then r.2.updReading c (failDesc .fault)
    else r.2.updReading c fun d => { d with staged := d.staged ++ [(d.rd, r.1.1)], rd := d.rd + n }

/-- The read engine serves one beat, to a channel or to the copy of a swap. -/
def execDmaReadBeat (data : Bytes) (ecc : Ecc) (s : State) : Out :=
  .next (s.clk fun s =>
    if !s.domUp 86 then s
    else
      let s := s.wakeFor State.readPlaces Chan.reading
      let ready := readyChans s.canRead ++ if s.swapReads then [swapSeq] else []
      match s.pickChan ready s.turnR with
      | none => s
      | some c =>
        let s := { (s.preempt ready c) with turnR := s.turnAfter s.turnR c }
        if c = swapSeq then { s with swap := s.swap.map fun w => { w with beatR := w.beatR + 1 } }
        else s.readBeat c data ecc)

/-- The write beat of channel c. -/
def State.writeBeat (s : State) (c : Nat) : State :=
  match (s.chan c).writing with
  | none => s
  | some d =>
    match d.staged with
    | [] => s
    | (off, b) :: rest =>
      if d.dspace = 1 ∧ !s.hostOk then s.updWriting c (failDesc .fault)
      else
        let a := d.daddr + off
        let off' := decide (d.dspace = 0) && offRange (s.places a b.length)
        let t := s.updWriting c (if off' then failDesc .state else fun d => { d with staged := rest, wr := d.wr + b.length })
        match d.dspace with
        | 0 => t.writeSpace a b
        | 1 => t.toHost a b
        | _ => t.inject 87 1 (.data d.id (a / 2 ^ 44) (a % 2 ^ 44) b)

/-- The write engine serves one beat, of a channel or of the copy of a swap. -/
def execDmaWriteBeat (s : State) : Out :=
  .next (s.clk fun s =>
    if !s.domUp 86 then s
    else
      let s := s.wakeFor State.writePlaces Chan.writing
      let ready := readyChans s.canWrite ++ if s.swapWrites then [swapSeq] else []
      match s.pickChan ready s.turnW with
      | none => s
      | some c =>
        let s := { (s.preempt ready c) with turnW := s.turnAfter s.turnW c }
        if c = swapSeq then { s with swap := s.swap.map fun w => { w with beatW := w.beatW + 1 } }
        else s.writeBeat c)

/-! The end of a descriptor (R300, R301, R304) -/

/-- A write of descriptor `id` to a peer has not yet been acknowledged on the way that this device sees (R301). On a DETOUR
    the intermediate device takes it first: there the command that completes the descriptor says that the peer's bridge has
    reported it taken (log 15). -/
def State.dataInFlight (s : State) (id : Nat) : Bool :=
  let on := fun (l : List Item) => l.any fun i => match i with
    | .data d _ _ _ | .frag (.data d _ _ _) _ _ => decide (d = id)
    | _ => false
  let tx := fun (t : Tab TxStream) => t.any fun q => q.2.buf.any fun r => on r.pk.items
  s.nodes.any (fun n => n.2.out.any (fun q => on q.2) || tx n.2.tx) ||
    s.ports.any (fun p => p.2.out.any (fun q => on q.2) || tx p.2.tx)

/-- Every write of a descriptor has been acknowledged at its destination. -/
def State.descDone (s : State) (d : DDesc) : Bool :=
  decide (d.rd = d.len) && decide (d.wr = d.len) && d.failed.isNone &&
    !(decide (d.dspace = 2) && s.dataInFlight d.id)

/-- The oldest descriptor d of channel c completes. -/
def State.completeDesc (s : State) (c : Nat) (d : DDesc) : State :=
  let s := (s.wn (ch c 3) ((s.rn (ch c 3) + 1) % 2 ^ 32)).wn (ch c 4) 0
  let s := ((s.bump (ch c 6)).bumpBy 64 (ch c 7) d.len).updChan c fun x => { x with descs := x.descs.drop 1 }
  let s := s.settleChan c
  if d.lineEn then s.pulse d.lineNo else s

/-- Every write of the oldest descriptor of channel c has been acknowledged. -/
def execDmaDescComplete (c : Nat) (s : State) : Out :=
  .next (s.clk fun s =>
    match (s.chan c).descs with
    | d :: _ => if s.domUp 86 && s.descDone d then s.completeDesc c d else s
    | [] => s)

/-- A descriptor may meet a fault: one it has met, or one of the host link or of the way to a peer. -/
def DDesc.faulty (d : DDesc) : Bool :=
  d.failed.isSome || ((decide (d.sspace = 1 ∧ d.zero = false) || decide (d.dspace = 1))) ||
    (decide (d.sspace = 2 ∧ d.zero = false) || decide (d.dspace = 2))

/-- The oldest descriptor of channel c has met a memory, link, PCIe or port fault, or a controller in OFF. -/
def execDmaDescFault (c : Nat) (s : State) : Out :=
  .next (s.clk fun s =>
    match (s.chan c).descs with
    | d :: _ => if s.domUp 86 && d.faulty then s.dmaFail c (d.failed.getD .fault) else s
    | [] => s)

end Sys2Proof.Machine
end

