-- ==== Sys2Proof/Machine/Swap.lean ====
section
/-! DEFINITION. Parking, replay and the swaps of virtual tiles (09 R309 to R319), and the patrol scrubber (R291). -/

namespace Sys2Proof.Machine

/-! Uncorrectable SRAM words (12 R418) -/

/-- Post the MEMORY record of an SRAM word (Table 12.9): kind 0 core memory, 1 TSM, 3 buffer; how 0 read, 1 scrub. -/
def State.postMemory (s : State) (loc : W64) (kind how : Nat) : State :=
  (s.bump (rk 0 0x0120 6)).post 4 0 0 loc (w64 (kind * 2 ^ 60 + how * 2 ^ 56))

/-- LOC of a word that has no device address and is no core's. -/
def State.noAddress (s : State) : W64 × State := (Config.locNoAddress s.free, { s with free := s.free + 1 })

/-- A core-memory word at window offset off is found uncorrectable (R418): once until it is written; a core that serves a
    slot is fenced, a spare is marked. -/
def State.coreUe (s : State) (k off how : Nat) : State :=
  let a := off / 8 * 8
  if (s.core k).bad.contains a then s
  else
    let s := s.updCore k fun c => { c with bad := addNew a c.bad }
    match s.lcidOf k with
    | some l => (s.postMemory (w64 (windowAddr l a)) 0 how).fenceCore k 3
    | none =>
      let s := s.postMemory (w64 (0xF * 2 ^ 44 + k / 136 * 2 ^ 32 + k % 136 * 2 ^ 24 + a)) 0 how
      if (s.slotOf k).isSome then s.fenceCore k 3
      else { s with boot := { s.boot with markCores := addNew k s.boot.markCores } }

/-- A TSM word at offset off is found uncorrectable: it is poisoned. -/
def State.tsmUe (s : State) (t off how : Nat) : State :=
  let a := off / 8 * 8
  if (s.tile t).poison.contains a then s
  else
    let s := s.updTile t fun d => { d with poison := addNew a d.poison }
    match s.vtOf t with
    | some v => s.postMemory (w64 (0x18000000000 + v * 0x400000 + a)) 1 how
    | none => let r := s.noAddress; r.2.postMemory r.1 1 how

/-! Parking (R310, R311) -/

/-- Take the first element that satisfies f: it, and what stays. -/
def takeFirst {α : Type} (f : α → Bool) : List α → Option (α × List α)
  | [] => none
  | a :: t => if f a then some (a, t) else (takeFirst f t).map fun q => (q.1, a :: q.2)

/-- Oldest entry of the parking queue of v. -/
def State.parkHead (s : State) (v : Nat) : Nat := (Tab.get { head := 0 } s.parks v).head
/-- LPDDR5X address of entry k of the parking queue of v. -/
def State.parkAddr (s : State) (v k : Nat) : Nat :=
  s.rn (vtReg v 3) + 16 * (k % 2 ^ s.rn (vtReg v 4))

/-- A parking entry (Table 9.8). -/
def parkBytes (f : W64) (t : W32) : Bytes := leBytes 8 f.toNat ++ leBytes 8 (t.toNat * 2 ^ 32)

/-- Append flit f with target step t to the parking queue of v, or drop it. -/
def State.parkOne (s : State) (v : Nat) (f : W64) (t : W32) : State :=
  let n := s.rn (vtReg v 5)
  let size := s.rn (vtReg v 4)
  if size = 0 ∨ 2 ^ size ≤ n ∨ s.tileKind v = 0 then s.bump (vtReg v 8)
  else
    let s := s.writeSpace (s.parkAddr v (s.parkHead v + n)) (parkBytes f t)
    ((s.wn (vtReg v 5) (n + 1)).hwm (vtReg v 6) (n + 1)).bump (vtReg v 7)

/-- The parking writer appends a diverted flit; a sleeping controller holds it (R292). -/
def execParkWrite (s : State) : Out :=
  .next (s.clk fun s =>
    if !s.domUp 86 then s
    else match takeFirst (fun i => match i with | Item.park _ _ _ _ => true | _ => false) s.parkq with
      | some (.park id v f t, rest) =>
        let ps := s.places (s.parkAddr v (s.parkHead v + s.rn (vtReg v 5))) 16
        if s.rn (vtReg v 4) ≠ 0 ∧ holds ps then s.holdAccess ps
        else (({ s with parkq := rest }).parkOne v f t).itemEnd id
      | _ => s)

/-- The LPDDR5X of a state in which controllers in OFF have kept what they held in `old`: what a write would store there
    is not performed (R292). -/
def State.keepOff (s : State) (old : Mem) : State :=
  let off := fun (a : Nat) => decide (s.rn (rDomain (mcDomain a)) = 0)
  { s with lpddr := (Tab.keep off old).foldl (fun m e => m.wr e.1 e.2) (Tab.keep (fun a => !off a) s.lpddr) }

/-- Store a descriptor in queue q of core slot sl of the image of v (R311). -/
def State.parkQueue (s : State) (v sl q i : Nat) (d : DescMsg) : State :=
  let x := s.savedQueue v sl q
  let s := s.writeSpace (s.imageAddr v sl (aQslot q (x.head + x.held))) (descBytes d.words)
  let s := s.setSavedQueue v sl q { x with held := x.held + 1 }
  ((s.updConn i fun c => { c with qhwm := max c.qhwm (x.held + 1) }).bump (vtReg v 0x0C)).itemEnd d.id

/-- The parking writer stores a descriptor or token in the image. It waits while a swap-out of the tile has not ended
    its copy, and sends the descriptor on when the tile has become RESIDENT again. -/
def execDescPark (s : State) : Out :=
  .next (s.clk fun s =>
    if !s.domUp 86 then s
    else match takeFirst (fun i => match i with | Item.parkDesc _ _ _ _ => true | _ => false) s.parkq with
      | some (.parkDesc v sl q d, rest) =>
        let s' := { s with parkq := rest }
        if s.tileKind v = 1 then s'.inject 87 1 (.desc d)
        else if (s.swapFrom v).isSome ∨ s.copying v then s
        else match s.connOf d.dst.toNat with
          | none => s'.itemEnd d.id
          | some i =>
            let c := s.conn i
            if c.state = .closing then ((s'.itemEnd d.id).abortDesc i d.dev d.lcid d.words true).closeCheck
            else if !c.acceptsFrom s.dev d.dev then s'.itemEnd d.id
            else if s.tileKind v = 0 ∨ s.imageSlot v = 0xFFFF then
              (((s'.itemEnd d.id).dropAt 87 0x0B 1).creditBack i).postDesc .noEntry d.dst.toNat 0x3F 0
            else
              let x := s.savedQueue v sl q
              let ps := s.places (s.imageAddr v sl 0x1E000) 256 ++ s.places (s.imageAddr v sl (aQslot q (x.head + x.held))) 32
              if holds ps then s.holdAccess ps
              else if 32 ≤ x.held then s
              else (s'.parkQueue v sl q i d).keepOff s.lpddr
      | _ => s)

/-! Replay (R312) -/

/-- The oldest entry of the parking queue of v has left it. -/
def State.parkPop (s : State) (v : Nat) : State :=
  let n := s.rn (vtReg v 5) - 1
  { ((s.wn (vtReg v 5) n).wn (vtReg v 0x0B) (s.rn (vtReg v 0x0B) - 1)) with
    parks := Tab.set { head := 0 } s.parks v { head := if n = 0 then 0 else (s.parkHead v + 1) % 2 ^ s.rn (vtReg v 4) } }

/-- A parked flit with target step t becomes a new event of the open step or of a delay slot. -/
def State.replayFlit (s : State) (v : Nat) (f : W64) (t : Nat) : State :=
  let j := s.eng.count.toNat
  let d := (t + 2 ^ 32 - j % 2 ^ 32) % 2 ^ 32
  let ahead := decide (1 ≤ d) && decide (d ≤ 3)
  let s := if ahead || d = 0 then s else s.bump (vtReg v 0x0A)
  (s.bump (vtReg v 9)).startEvent (putFld f 61 60 ((if ahead then t else j) % 4))

/-- The DMA replays the oldest parking entry of v; `ecc` is what it meets: an entry with an uncorrectable word is skipped
    (R291). -/
def execReplay (v : Nat) (ecc : Ecc) (s : State) : Out :=
  .next (s.clk fun s =>
    if !s.domUp 86 || decide (s.rn (vtReg v 0x0B) = 0) || decide (s.rn (vtReg v 5) = 0) then s
    else
      let a := s.parkAddr v (s.parkHead v)
      let ps := s.places a 16
      if holds ps then s.holdAccess ps
      else
        let r := s.readEcc a 16 ecc
        let s := r.2.parkPop v
        if r.1.2 then s.bump (vtReg v 8)
        else s.replayFlit v (w64 (leNat (r.1.1.take 8))) (leNat (r.1.1.drop 12)))

/-! SWAP.CMD (R313, R314) -/

/-- SWAP entries of a path: VT 2, VT_IN 3, PTILE 4; of the device: STATUS 6, LINE 7, PRIO 8, COUNT 9, LAST_TIME 0A. -/
def swapReg (p : Path) (sub : Nat) : Nat := rk (sender p) 0x3502 sub

/-- A combining queue of virtual tile v is bound to an open or closing connection. -/
def State.combsBound (s : State) (v : Nat) : Bool :=
  s.anyConn fun c => decide (c.dkind = 2) && decide (c.combNo / 16 = v)

/-- What refuses OUT of virtual tile v. -/
def State.outConds (s : State) (v : Nat) : List (Bool × Status) :=
  let t := s.tilePt v
  let here := decide (s.tileKind v = 1)
  [(s.swap.isSome || (here && ((s.tile t).rings.any fun r => decide (r.2.held ≠ 0))) ||
      (here && s.cores.any fun e => decide (e.1 / 136 = t) && e.2.midnight) ||
      decide (s.reconf.state ≠ .idle) || s.combsBound v || (s.drains.any fun d => decide (d.v = v)), .busy),
   (!here || decide (s.imageSlot v = 0xFFFF), .state)]

/-- The image slot of v lies beyond MEM.USABLE, or overlaps a parking queue. -/
def State.slotBad (s : State) (v : Nat) : Bool :=
  let a := s.imageSlot v * 2 ^ 24
  decide (s.imageSlot v ≠ 0xFFFF) &&
    (decide (s.usable < a + 2 ^ 24) ||
      (List.range 512).any fun u => decide (s.rn (vtReg u 4) ≠ 0) &&
        overlaps a (2 ^ 24) (s.rn (vtReg u 3)) (16 * 2 ^ s.rn (vtReg u 4)))

/-- What refuses IN of virtual tile v to physical tile t, `freed` when an OUT frees t first. The 64 virtual tiles that
    R19 lets be RESIDENT bound it as R266 bounds a map write (DEDUCED, log 80). -/
def State.inConds (s : State) (v t : Nat) (freed : Bool) : List (Bool × Status) :=
  [(s.swap.isSome, .busy),
   (decide (s.tileKind v ≠ 2) || decide (s.imageSlot v = 0xFFFF) || (!freed && s.tileTaken t v) || !s.domOn t, .state),
   (s.tileBad t || s.slotBad v || (!freed && decide (64 ≤ s.residents.length)), .range)]

/-- Start OUT of v, with an IN of `next` after it. -/
def State.startOut (s : State) (v : Nat) (next : Option Nat) : State :=
  let t := s.tilePt v
  let s := s.wr (rk 0 (0x2200 + v) 0) (w64 (2 * 2 ^ 14 + t * 2 ^ 7))
  let w : Swap :=
    { stage := .drain, vt := v, pt := t, next := next, wait := mapHolders, got := [], frozen := false, beatR := 0, beatW := 0 }
  ((({ s with swap := some w } : State).sendMarks v t 0).wake 86 1).wake t 4

/-- SWAP.CMD = 1. -/
def swapOutAct (p : Path) : Act := fun s =>
  let v := s.rn (swapReg p 2)
  guardAct (s.outConds v ++ [(s.slotBad v, .range)]) s fun s => okAct (s.startOut v none)

/-- SWAP.CMD = 1 OUT. -/
def execSwapOut (a : Path) (s : State) : Out := .next (operate a false 2 0x3502 1 [1] (swapOutAct a) s)

/-- A swap that copies v into physical tile t. -/
def Swap.copyingIn (v t : Nat) : Swap :=
  { stage := .copyIn, vt := v, pt := t, next := none, wait := [], got := [], frozen := false, beatR := 0, beatW := 0 }

/-- SWAP.CMD = 2. -/
def swapInAct (p : Path) : Act := fun s =>
  let v := s.rn (swapReg p 2)
  let t := s.rn (swapReg p 4)
  guardAct (s.inConds v t false) s fun s =>
    okAct ({ s with swap := some (.copyingIn v t) }.wake 86 1)

/-- SWAP.CMD = 2 IN. -/
def execSwapIn (a : Path) (s : State) : Out := .next (operate a false 2 0x3502 1 [2] (swapInAct a) s)

/-- SWAP.CMD = 3. -/
def swapExchangeAct (p : Path) : Act := fun s =>
  let v := s.rn (swapReg p 2)
  let u := s.rn (swapReg p 3)
  guardAct (s.outConds v ++ [(s.slotBad v, .range)] ++ s.inConds u (s.tilePt v) true) s fun s =>
    okAct (s.startOut v (some u))

/-- SWAP.CMD = 3 EXCHANGE. -/
def execSwapExchange (a : Path) (s : State) : Out := .next (operate a false 2 0x3502 1 [3] (swapExchangeAct a) s)

/-! The stages (R315, R316, R319) -/

/-- The swap ends with a status. -/
def State.endSwap (s : State) (st : Status) (ticks : Nat) : State :=
  let s := { s with swap := none }
  let s := ((s.wn (rk 0 0x3502 6) st.code).bump (rk 0 0x3502 9)).wn (rk 0 0x3502 0x0A) (min ticks (2 ^ 32 - 1))
  if s.rn (rk 0 0x3502 7) ≤ 31 then s.pulse (s.rn (rk 0 0x3502 7)) else s

/-- Every core of physical tile t has declared its pass done, or is FENCED or UNCONFIGURED. -/
def State.tileDone (s : State) (t : Nat) : Bool :=
  s.cores.all fun e => decide (e.1 / 136 ≠ t) || s.coreDone e.1

/-- Stage 2 of a swap-out: from now on the cores of the tile start no pass. -/
def execSwapFreeze (s : State) : Out :=
  .next (s.clk fun s =>
    match s.swap with
    | some w =>
      if w.stage = .freeze ∧ !w.frozen ∧ s.domUp 86 ∧ s.tileDone w.pt then
        ({ s with swap := some { w with frozen := true } }).phaseStep
      else s
    | none => s)

/-- The buffers of physical tile t and of its NI are empty. -/
def State.tileQuiet (s : State) (t : Nat) : Bool :=
  (s.cores.all fun e => decide (e.1 / 136 ≠ t) || (e.2.inbuf.isEmpty && e.2.jobs.isEmpty)) &&
    (s.tile t).copies.isEmpty && (s.tile t).recs.isEmpty && (s.tile t).vc1.isEmpty &&
    ((s.node t).tx.all fun e => e.2.buf.isEmpty) && ((s.node t).out.all fun e => e.2.isEmpty)

/-- A device-space range reaches into the core windows or the TSM window of virtual tile v. -/
def windowsOf (v a n : Nat) : Bool :=
  overlaps a n (windowAddr (128 * v) 0) (128 * 0x20000) || overlaps a n (0x18000000000 + v * 0x400000) 0x400000

/-- A started descriptor has a range in the windows of v. -/
def State.descsOn (s : State) (v : Nat) : Bool :=
  s.chans.any fun e => e.2.descs.any fun d =>
    (!d.zero && decide (d.sspace = 0) && windowsOf v d.saddr d.len) ||
      (decide (d.dspace = 0) && windowsOf v d.daddr d.len)

/-- Stage 4 of a swap-out begins: the tile is quiet, and no started descriptor has a range in its windows. -/
def execSwapCopyOut (s : State) : Out :=
  .next (s.clk fun s =>
    match s.swap with
    | some w =>
      if w.stage = .freeze ∧ w.frozen ∧ s.domUp 86 ∧ s.tileQuiet w.pt ∧ !s.descsOn w.vt then
        { s with swap := some { w with stage := .copyOut } }
      else s
    | none => s)

/-- The saved state of a core (Table 9.7). -/
def savedState (c : Core) (qs : List Queue) : Bytes :=
  let body := leBytes 8 (c.state.code * 2 ^ 59 + c.cause.toNat * 2 ^ 55) ++
    (qs.map fun q => leBytes 8 q.word.toNat).flatten ++
    ((List.range 16).map fun i => leBytes 4 (Tab.get 0 c.macc i).toNat).flatten ++ List.replicate 148 0
  body ++ leBytes 4 (crc32c body)

/-- Copy the image and the saved state of core slot sl of v from physical tile t. -/
def State.copyOutSlot (s : State) (v t sl : Nat) : State :=
  let c := match s.coreOf t sl with | some k => s.shown k | none => { Core.reset with mem := [] }
  let mem := c.mem.wr64 aCFG (c.status s.eng.tagRef.toNat)
  let qs := (List.range 4).map fun q => s.queue t sl q
  { s with lpddr := (s.lpddr.copy mem 0 0x1E000 (s.imageAddr v sl 0)).wrBytes (s.savedAt v sl) (savedState c qs) }

/-- A core of a tile that a swap leaves: UNCONFIGURED, its memories kept. -/
def Core.unloaded (c : Core) : Core :=
  { c with
    state := .unconfigured, cause := 0, passDone := false, stalled := false, emitHold := false, pc := 0, pass := .idle,
    rep := none, committed := false, written := false, midnight := false, night := .start, dn := none, due := none,
    undo := none, shadow := [] }

/-- Every core of physical tile t becomes UNCONFIGURED, and its NI keeps no queue. -/
def State.unloadTile (s : State) (t : Nat) : State :=
  { (s.updTile t fun d => { d with queues := [] }) with
    cores := s.cores.map fun e => (e.1, if e.1 / 136 = t then e.2.unloaded else e.2) }

/-- Some word of a core of physical tile t is known to be uncorrectable. -/
def State.tileUe (s : State) (t : Nat) : Bool := s.cores.any fun e => decide (e.1 / 136 = t) && !e.2.bad.isEmpty

/-- The fault record of a swap, naming the image slot of v (R319). -/
def State.swapFault (s : State) (v ticks : Nat) : State :=
  (s.post 4 Status.fault.code 0 (w64 (s.imageSlot v * 2 ^ 24)) (w64 (2 * 2 ^ 60))).endSwap .fault ticks

/-- What sleeps of the tile and the controllers of a copy: it holds the copy. -/
def State.copyHeld (s : State) (w : Swap) : List Nat :=
  (w.pt :: (List.range 8).map (78 + ·)).filter fun d => decide (s.rn (rDomain d) = 2) || decide (s.rn (rDomain d) = 4)

/-- A copy that is held wakes what holds it, and counts in MEM.WAKE_HOLDS at a controller in RETENTION (R292). -/
def State.holdCopy (s : State) (w : Swap) : State :=
  let s := if (s.copyHeld w).any fun d => decide (78 ≤ d) && decide (s.rn (rDomain d) = 2) then s.bump rWakeHolds else s
  (s.copyHeld w).foldl (fun s d => s.wake d 4) s

/-- A copy counts in MEM.OFF_MISS the staging beats of its 128 images of 481 × 256 bytes that a controller in OFF does not
    perform (R289, R292, R309). -/
def State.countCopy (s : State) : State :=
  let off := (List.range 8).filter fun m => decide (s.rn (rDomain (78 + m)) = 0)
  s.bumpBy 64 rOffMiss ((off.map fun m => 512 * (if m = 0 then 61 else 60)).sum)

/-- Stage 5 of a swap-out; `ue` is the word of the images that the copy finds uncorrectable, by slot × 128 KiB + offset,
    and `ticks` the time since the command. -/
def State.copyOutDone (s : State) (w : Swap) (ue : Option Nat) (ticks : Nat) : State :=
  let s := match ue.bind fun a => (s.coreOf w.pt (a / 0x20000)).map fun k => (k, a % 0x20000) with
    | some (k, off) => s.coreUe k off 0
    | none => s
  if s.tileUe w.pt then (s.unloadTile w.pt).swapFault w.vt ticks
  else
    let t := ((List.range 128).foldl (fun s sl => s.copyOutSlot w.vt w.pt sl) s).unloadTile w.pt
    let t := (t.keepOff s.lpddr).countCopy
    match w.next with
    | some u => { t with swap := some (.copyingIn u w.pt) }
    | none => t.endSwap .ok ticks

/-- The copy-out ends. -/
def execSwapCopyOutDone (ue : Option Nat) (ticks : Nat) (s : State) : Out :=
  .next (s.clk fun s =>
    match s.swap with
    | some w =>
      if w.stage ≠ .copyOut ∨ !s.domUp 86 then s
      else if s.copyHeld w ≠ [] then s.holdCopy w
      else (s.copyOutDone w ue ticks).release
    | none => s)

/-- The saved state of core slot sl of v passes its CRC and FMT. -/
def State.savedOk (s : State) (v sl : Nat) : Bool :=
  let a := s.savedAt v sl
  decide (s.lpddr.rdN (a + 0xFC) 4 = savedCrc s.lpddr a) && decide (fld (s.lpddr.rd64 a) 63 62 = 0)

/-- STATUS.STATE as a swap-in restores it. -/
def restoredState (code : Nat) : CoreState :=
  match code with
  | 1 | 2 => .ready
  | 3 => .fenced
  | _ => .unconfigured

/-- The core of slot sl of v, as its image and saved state give it. The configuration in force has a step table
    exactly when a commit has covered the core. -/
def State.restoredCore (s : State) (v sl : Nat) : Core :=
  let a := s.savedAt v sl
  let w := s.lpddr.rd64 a
  let mem := (Mem.slice s.lpddr (s.imageAddr v sl 0) 0x1E000 0).clear aCFG 8
  let st := restoredState (fld w 61 59)
  let c : Core :=
    { Core.reset with
      mem := mem, state := st, cause := BitVec.ofNat 4 (fld w 58 55), cgen := s.reconf.cgen,
      macc := (List.range 16).foldl (fun m i => Tab.set 0 m i (s.lpddr.rd32 (a + 0x28 + 4 * i))) [] }
  { c with committed := decide (c.stbLen ≠ 0), written := decide (st = .unconfigured) && !mem.isEmpty }

/-- Restore core slot sl of v into physical tile t. -/
def State.copyInSlot (s : State) (v t sl : Nat) : State :=
  let s := (List.range 4).foldl (fun s q => s.setQueue t sl q (s.savedQueue v sl q)) s
  match s.coreOf t sl with
  | some k => s.setCore k (s.restoredCore v sl)
  | none => s

/-- The state as a copy reads it: what a controller in OFF holds reads as zero (R292). -/
def State.readable (s : State) : State :=
  { s with lpddr := Tab.keep (fun a => !decide (s.rn (rDomain (mcDomain a)) = 0)) s.lpddr }

/-- The state with these contents of LPDDR5X. -/
def State.withLpddr (s : State) (m : Mem) : State := { s with lpddr := m }

/-- Steps 2 and 3 of a swap-in: every saved state is checked, the tile is restored, and MAP begins with a DRAIN of every
    holder on VC1. `ue` is the byte of the image slot at which the copy meets an uncorrectable word under INLINE (R291). -/
def State.copyInDone (s : State) (w : Swap) (ue : Option Nat) (ticks : Nat) : State :=
  let s := s.countCopy
  match ue.filter fun _ => s.inlineEcc with
  | some a => ((s.memUe (s.imageSlot w.vt * 2 ^ 24 + a % 2 ^ 24) 0).unloadTile w.pt).swapFault w.vt ticks
  | none =>
    if !(List.range 128).all (s.readable.savedOk w.vt) then (s.unloadTile w.pt).swapFault w.vt ticks
    else
      let t := (List.range 128).foldl (fun s sl => s.copyInSlot w.vt w.pt sl) (s.readable.unloadTile w.pt)
      let s := (t.withLpddr s.lpddr).wr (rk 0 (0x2200 + w.vt) 0) (w64 (2 ^ 14 + w.pt * 2 ^ 7))
      ({ s with swap := some { w with stage := .map, wait := mapHolders, got := [] } } : State).sendMarks w.vt 87 1

/-- The copy-in ends. -/
def execSwapCopyInDone (ue : Option Nat) (ticks : Nat) (s : State) : Out :=
  .next (s.clk fun s =>
    match s.swap with
    | some w =>
      if w.stage ≠ .copyIn ∨ !s.domUp 86 then s
      else if s.copyHeld w ≠ [] then s.holdCopy w
      else (s.copyInDone w ue ticks).release
    | none => s)

/-- Every holder's DRAIN has reached the parking writer, behind every entry for v: the swap ends, and replay begins. -/
def execSwapMapDone (ticks : Nat) (s : State) : Out :=
  .next (s.clk fun s =>
    match s.swap with
    | some w =>
      let left := s.parkq.any fun i => match i with
        | .park _ u _ _ | .parkDesc u _ _ _ => decide (u = w.vt)
        | _ => false
      if w.stage = .map ∧ w.wait = [] ∧ s.domUp 86 ∧ !left then
        (s.wn (vtReg w.vt 0x0B) (s.rn (vtReg w.vt 5))).endSwap .ok ticks
      else s
    | none => s)

/-- VT[v].STATE (Table 9.12). -/
def State.vtState (s : State) (v : Nat) : Nat :=
  match s.swap.filter fun w => decide (w.vt = v) with
  | some w => if w.stage = .copyIn ∨ w.stage = .map then 4 else 3
  | none => if 2 < s.tileKind v then 0 else s.tileKind v

/-- SWAP.STATE: 0 IDLE, 1 DRAIN, 2 FREEZE, 3 COPY_OUT, 4 COPY_IN, 5 MAP. -/
def State.swapState (s : State) : Nat :=
  match s.swap with
  | some w => match w.stage with | .drain => 1 | .freeze => 2 | .copyOut => 3 | .copyIn => 4 | .map => 5
  | none => 0

/-! The patrol scrubber (R291) -/

/-- A patrol pass over every mapped word under INLINE: `ce` words corrected, and the addresses found uncorrectable. -/
def execMemPatrolPass (ue : List Nat) (ce : Nat) (s : State) : Out :=
  .next (s.clk fun s =>
    if s.rn (rk 0 0x3500 4) = 1 ∧ s.usable ≠ 0 then
      ((ue.filter fun a => decide (a < s.usable)).foldl (fun s a => s.memUe a 2) (s.bumpBy 64 (rk 0 0x3500 5) ce)).bump
        (rk 0 0x3500 9)
    else s)

end Sys2Proof.Machine
end

