-- ==== Sys2Proof/Machine/Boot.lean ====
section
/-! DEFINITION. Device reset (12 R398, R399, 14 R468), the boot images (R402 to R404), and the stages DAWN, SUNRISE and
    MORNING (R397, R400, R401, R406 to R414). -/

namespace Sys2Proof.Machine

/-! Registers -/

/-- BOOT.STAGE 1, CAUSE 2, FAULT_CODE 3, DEGRADED 4, SLOT 5. -/
def rBoot (sub : Nat) : Nat := rk 0 0x0100 sub
/-- BOOT.TIME[1] to [3]. -/
def rBootTime (stage : Nat) : Nat := rk 0 0x0101 stage
/-- DEFECT.TILES_SHORT. -/
def rTilesShort : Nat := rk 0 0x0102 2
/-- SRAM.ROWS_USED. -/
def rRowsUsed : Nat := rk 0 0x0102 6
/-- HKC.STATE: 0 RUNNING, 1 RESTARTING, 2 HALTED. -/
def rHkc : Nat := rk 0 0x0121 1
/-- ID.FEATURES. -/
def rFeatures : Nat := rk 0 0x0000 6
/-- MEM.STATE 1, SIZE 2, USABLE 3, ECC_MODE 4. -/
def rMem (sub : Nat) : Nat := rk 0 0x3500 sub
/-- SCRUB.EN 1, PASSES 3, LATE 4; SRAM.CE 5, UE 6. -/
def rScrub (sub : Nat) : Nat := rk 0 0x0120 sub

/-! Device reset -/

/-- BOOT.CAUSE's value (R398). -/
def causeCode : ResetCause → Nat
  | .powerOn => 0 | .pin => 1 | .command => 2 | .supply => 3

/-- The bytes of a memory listed in any order. -/
def memOf (l : List (Nat × Byte)) : Mem :=
  l.foldl (fun m e => if e.1 < 2 ^ 38 then m.wr e.1 e.2 else m) []

/-- The contents of LPDDR5X become undefined. -/
def State.loseLpddr (s : State) : State := { s with lpddr := memOf (Config.lpddrLost s.free), free := s.free + 1 }

/-- A device reset: every unit to its After reset values, the fuses and the straps read again (R398, 14 R472). The host's
    memory, the level of PERST#, the commands that wait and the THERMTRIP_N latch (13 R451) are not of the device's units. -/
def State.deviceReset (s : State) (c : ResetCause) (d : BitVec 3) (cc : Bool) : State :=
  let r := State.initial s.fuses d cc
  let r :=
    { r with
      hostMem := s.hostMem, pending := s.pending, free := s.free,
      pcie := { r.pcie with perst := s.pcie.perst, training := !s.pcie.perst },
      mon := { r.mon with thermtrip := s.mon.thermtrip && decide (c ≠ ResetCause.powerOn) } }
  (r.wn (rBoot 2) (causeCode c)).loseLpddr

/-- A device reset. -/
def execDeviceReset (c : ResetCause) (d : BitVec 3) (cc : Bool) (s : State) : Out := .next (s.deviceReset c d cc)

/-- A low pulse on PORST_N of `ns` nanoseconds: 10 µs or more resets, below 1 µs is ignored, and between them it does
    either (14 R468). -/
def execPorstPulse (ns : Nat) (d : BitVec 3) (cc : Bool) (s : State) : Out :=
  .next (if 10000 ≤ ns then s.deviceReset .pin d cc
    else if ns < 1000 then s
    else
      let t := { s with free := s.free + 1 }
      if Config.porstResets s.free then t.deviceReset .pin d cc else t)

/-- VDD_CORE falls to `mv`: below 0.52 V the device resets (R398, 13 R455). -/
def execSupplyReset (mv : Nat) (d : BitVec 3) (cc : Bool) (s : State) : Out :=
  .next (if mv < 520 then s.deviceReset .supply d cc else s)

/-- REFCLK is lost: the clocked islands stop (14 R470). -/
def execRefclkLoss (s : State) : Out := .next { s with boot := { s.boot with refclk := false } }

/-- BOOT.CMD = 1 (R399). -/
def bootResetAct : Act := fun s =>
  guardAct [(!s.stopped || s.chans.any (fun e => decide (e.2.state = .running) || decide (e.2.state = .stopping)) ||
      s.swap.isSome, .busy)] s fun s => okAct { s with boot := { s.boot with pending := true } }

/-- BOOT.CMD = 1 RESET. -/
def execBootReset (p : Path) (s : State) : Out := .next (operate p false 2 0x0100 6 [1] bootResetAct s)

/-- BOOT.CMD = 2 (R399). -/
def bootForceAct : Act := fun s => okAct { s with boot := { s.boot with pending := true } }

/-- BOOT.CMD = 2 FORCE_RESET. -/
def execBootForceReset (p : Path) (s : State) : Out := .next (operate p false 2 0x0100 6 [2] bootForceAct s)

/-- 100 µs have passed since a BOOT.CMD was accepted. -/
def execResetDelayExpire (d : BitVec 3) (cc : Bool) (s : State) : Out :=
  .next (s.clk fun s => if s.boot.pending then s.deviceReset .command d cc else s)

/-! FAULT (R401, Table 12.2) -/

/-- The device enters FAULT with a code of Table 12.2 and posts its BOOT record. -/
def State.bootFault (s : State) (code : Nat) (detail : W64) : State :=
  let st := s.boot.stage.code
  ({ s with boot := { s.boot with stage := .fault } }.wn (rBoot 3) code).post 13 0 (st + code * 256) 0 detail

/-! Boot images (R403, R404) -/

/-- The 64-bit header word at a byte offset. -/
def imgWord (i : Image) (off : Nat) : W64 := w64 (leNat ((i.header.drop off).take 8))
/-- BODY_LEN. -/
def imgLen (i : Image) : Nat := fld (imgWord i 0) 31 0
/-- SVN. -/
def imgSvn (i : Image) : Nat := fld (imgWord i 8) 7 0
/-- PUBKEY. -/
def imgKey (i : Image) : Bytes := (i.header.drop 0x100).take 97

/-- Step 1 of R404: MAGIC, FMT, and every reserved field zero. -/
def imgShape (i : Image) : Bool :=
  decide (fld (imgWord i 0) 63 48 = 0xE0C1) && decide (fld (imgWord i 0) 47 32 = 0) && decide (fld (imgWord i 8) 31 8 = 0) &&
    decide (fld (imgWord i 0x40) 63 62 = 0) && decide (fld (imgWord i 0x40) 53 0 = 0) &&
    ((i.header.drop 0x48).take 0xB8).all (fun b => decide (b = 0)) &&
    ((i.header.drop 0x161).take 0x3F).all (fun b => decide (b = 0))

/-- The step of R404 that a slot fails first; 0 when it passes. -/
def imgCheck (i : Image) (f : Fuses) : Nat :=
  if !imgShape i then 1
  else if imgLen i < 1 ∨ 4194304 < imgLen i then 2
  else if sha384 (imgKey i) ≠ f.keyHash then 3
  else if imgSvn i < f.arb then 4
  else if !ecdsaOk (imgKey i) (i.header.take 0x1A0) ((i.header.drop 0x1A0).take 96) then 5
  else if sha384 (i.body.take (imgLen i)) ≠ (i.header.drop 0x10).take 48 then 6
  else 0

/-- The image of slot n boots (R404). -/
def State.bootImage (s : State) (n : Nat) (i : Image) : State :=
  let s :=
    { s with
      boot :=
        { s.boot with
          svn := imgSvn i, meas := sha384 (i.header.take 0x200), inline := bit (imgWord i 0x40) 61,
          fpmask := BitVec.ofNat 7 (fld (imgWord i 0x40) 60 54) } }
  (s.wn rFw (fld (imgWord i 8) 63 32)).wn (rBoot 5) n

/-- What the ROM finds in the two slots: the slot that boots, if any, and the failing steps (R404). -/
def romPick (f : Fuses) (i0 i1 : Image) : Option (Nat × Image) × Nat × Nat :=
  let a := imgCheck i0 f
  if a = 0 then (some (0, i0), 0, 0)
  else
    let b := imgCheck i1 f
    if b = 0 then (some (1, i1), a, 0) else (none, a, b)

/-- The ROM boots a slot; when slot 0 failed it posts the BOOT record of R404. None where neither passes. -/
def State.romBoot (s : State) (i0 i1 : Image) : Option State :=
  match romPick s.fuses i0 i1 with
  | (some (n, i), a, _) =>
    let s := s.bootImage n i
    some (if n = 1 then s.post 13 0 (0 + 3 * 256) 0 (w64 a) else s)
  | (none, _, _) => none

/-! DAWN -/

/-- The fuse bank in a fixed order of its fields, from which Config.fuseBank gives its bytes. -/
def Fuses.list (f : Fuses) : Bytes :=
  leBytes 8 f.serial.toNat ++ leBytes 2 f.grade.toNat ++ leBytes 6 f.mac0.toNat ++ leBytes 6 f.mac1.toNat ++
    leBytes 2 f.cores.length ++ (f.cores.map (leBytes 2)).flatten ++
    leBytes 2 f.tiles.length ++ (f.tiles.map (leBytes 2)).flatten ++ f.keyHash ++ leBytes 1 f.arb ++ f.custHash

/-- What the fuses give once DAWN has read them: the stream MACs, ID.FEATURES (11 R394), the hash of the bank. -/
def State.readFuses (s : State) : State :=
  let s := (s.wn (sp 0 3) s.fuses.mac0.toNat).wn (sp 1 3) s.fuses.mac1.toNat
  let s := s.wn rFeatures (1 + if s.signedMode then 2 else 0)
  { s with boot := { s.boot with fuseSum := sha384 (Config.fuseBank s.fuses.list) } }

/-- Record the time of a stage, in µs. -/
def State.bootTime (s : State) (stage us : Nat) : State := s.wn (rBootTime stage) (min us (2 ^ 32 - 1))

/-- The end of DAWN: the images are checked, and the firmware of the slot that boots runs (R404). -/
def execDawnEnd (i0 i1 : Image) (us : Nat) (s : State) : Out :=
  .next (s.clk fun s =>
    if s.boot.stage ≠ .dawn then s
    else
      let s := s.bootTime 1 us
      match s.romBoot i0 i1 with
      | some t => { t.readFuses with boot := { t.readFuses.boot with stage := .sunrise } }
      | none =>
        let r := romPick s.fuses i0 i1
        s.bootFault 3 (w64 (r.2.1 + r.2.2 * 16)))

/-! SUNRISE -/

/-- The population is full and of one density of 2, 4 or 8 GiB (09 R288). -/
def densityOk (l : List Nat) : Bool :=
  decide (l.length = 32) && l.all fun g => decide (g = l.headD 0) && (decide (g = 2) || decide (g = 4) || decide (g = 8))

/-- The outcome of LPDDR5X training (R406, 09 R288, R290). -/
def State.trainMem (s : State) (density untrained : List Nat) : State :=
  let size := density.sum
  let bad := !densityOk density || !untrained.isEmpty || decide (s.rn (rMem 1) = 2)
  let s := (s.wn (rMem 4) (if s.boot.inline then 1 else 0)).wn (rMem 2) size
  (s.wn (rMem 1) (if bad then 2 else 1)).wn (rMem 3)
    (if bad then 0 else if s.boot.inline then size * 7 / 8 else size)

/-- Healthy physical cores of tile t, in ascending order. -/
def State.healthy (s : State) (t : Nat) : List Nat := (List.range 136).filter fun c => !s.coreBad (136 * t + c)

/-- The outcome of the self-test (R407): units failed by fuse are not tested. -/
def State.selfTest (s : State) (r : Sunrise) : State :=
  let s :=
    { s with
      boot :=
        { s.boot with
          stCores := r.coreFail.filter fun c => !s.fuses.cores.contains c,
          rows := r.rows.foldl (fun (m : Tab Nat) (e : Nat × Nat) => Tab.upd 0 m e.1 (· + e.2)) [] } }
  let tiles := (List.range 70).filter fun t =>
    !s.fuses.tiles.contains t && (r.tileFail.contains t || decide ((s.healthy t).length < 128))
  { s with boot := { s.boot with stTiles := tiles } }.wn rRowsUsed ((r.rows.map Prod.snd).sum)

/-- The core map of one tile: each failed slot takes the next healthy spare core (R408). -/
def coreMap (bad : Nat → Bool) : Nat → Nat → List Nat → List (Nat × Nat)
  | 0, _, _ => []
  | n + 1, slot, spares =>
    if bad slot then (slot, spares.headD 0xFF) :: coreMap bad n (slot + 1) spares.tail
    else (slot, slot) :: coreMap bad n (slot + 1) spares

/-- Write the core map of tile t (R408). -/
def State.mapCores (s : State) (t : Nat) : State :=
  let l :=
    if s.tileBad t then (List.range 128).map fun sl => (sl, 0xFF)
    else coreMap (fun sl => s.coreBad (136 * t + sl)) 128 0 ((s.healthy t).filter fun c => decide (128 ≤ c))
  l.foldl (fun s e => s.wn (rk (16 + t) 0x2401 e.1) e.2) s

/-- The entries of the tile map for virtual tiles v to v + n − 1, and the logical tiles left NONE (R408). -/
def tileMap (bad : Nat → Bool) : Nat → Nat → List Nat → List (Nat × Nat) × Nat
  | 0, _, _ => ([], 0)
  | n + 1, v, spares =>
    if !bad v then
      let r := tileMap bad n (v + 1) spares
      ((v, 2 ^ 14 + v * 2 ^ 7) :: r.1, r.2)
    else
      match spares with
      | t :: rest =>
        let r := tileMap bad n (v + 1) rest
        ((v, 2 ^ 14 + t * 2 ^ 7) :: r.1, r.2)
      | [] =>
        let r := tileMap bad n (v + 1) []
        ((v, 0) :: r.1, r.2 + 1)

/-- Write the maps in every holder (R408, 08 R265, R267). -/
def State.mapTiles (s : State) : State :=
  let s := (List.range 70).foldl (fun s t => s.mapCores t) s
  let r := tileMap s.tileBad 64 0 ((List.range 70).filter fun t => decide (64 ≤ t) && !s.tileBad t)
  (r.1.foldl (fun s e => s.wn (rk 0 (0x2200 + e.1) 0) e.2) s).wn rTilesShort r.2

/-- The scrubber starts a pass (R417). -/
def State.startScrub (s : State) : State := { s with scrub := s.scrub + 1 }

/-- Set bit n of BOOT.DEGRADED (R401). -/
def State.degrade (s : State) (n : Nat) (c : Bool) : State :=
  if c then s.wn (rBoot 4) (Nat.lor (s.rn (rBoot 4)) (2 ^ n)) else s

/-- Port p is in FPMASK. -/
def State.inMask (s : State) (p : Nat) : Bool := s.boot.fpmask.getLsbD p

/-- MORNING begins: every port in FPMASK trains (Table 12.1). -/
def State.startMorning (s : State) : State :=
  (List.range 7).foldl (fun s p => if s.inMask p then s.train p none else s)
    { s with boot := { s.boot with stage := .morning } }

/-- What SUNRISE finds and writes (R406 to R408). -/
def State.sunrise (s : State) (r : Sunrise) : State :=
  let s := (s.trainMem r.density r.untrained).selfTest r
  match r.router with
  | some n => s.bootFault 6 (w64 (n % 128))
  | none =>
    if (List.range 70).all s.tileBad then s.bootFault 5 0
    else
      let s := s.mapTiles
      let s := (s.degrade 0 (decide (s.rn (rMem 1) = 2))).degrade 1 (decide (0 < s.rn rTilesShort))
      let s := if s.rn (rScrub 1) = 1 then s.startScrub else s
      s.startMorning

/-- The end of SUNRISE. -/
def execSunriseEnd (r : Sunrise) (us : Nat) (s : State) : Out :=
  .next (s.clk fun s => if s.boot.stage ≠ .sunrise then s else (s.bootTime 2 us).sunrise r)

/-- 120 ms after SUNRISE began a controller is still training: MEM.STATE becomes FAULT (R406). -/
def execMemTrainingTimeout (s : State) : Out :=
  .next (s.clk fun s => if s.boot.stage = .sunrise then s.wn (rMem 1) 2 else s)

/-! MORNING -/

/-- Every port in FPMASK is UP, DEGRADED, FENCED or DOWN, and one JOIN exchange has completed on each port that is UP or
    DEGRADED (R414). -/
def State.morningDone (s : State) : Bool :=
  (List.range 7).all fun p =>
    !s.inMask p || (decide (s.portState p ≠ 1) && decide (s.portState p ≠ 2) && (!s.portUp p || (s.port p).joined))

/-- The end of MORNING (R414, R401). -/
def execMorningEnd (us : Nat) (s : State) : Out :=
  .next (s.clk fun s =>
    if s.boot.stage = .morning ∧ s.morningDone then
      let s := s.bootTime 3 us
      let s := s.degrade 2 ((List.range 7).any fun p => s.inMask p && decide (s.portState p ≠ 3))
      let s := s.degrade 3 (!s.pcie.link)
      { s with boot := { s.boot with stage := .noon } }
    else s)

/-- A port in FPMASK that does not reach training within 100 ms is DOWN (R413). -/
def State.trainingFailed (s : State) (p : Nat) : State :=
  (s.updPort p fun t => { t with qual := qualBytes 3 t.windows t.swapped [] 0 }).downPort p

/-- A bring-up step reaches its time limit and takes its failure outcome (R400, R401, R413). -/
def execBootStepTimeout (b : BootStep) (s : State) : Out :=
  .next (match b with
    | .supply aon core =>
      if s.boot.stage = .dawn ∧ (aon || core) then
        s.bootFault 1 (w64 ((if aon then 1 else 0) + if core then 2 else 0))
      else s
    | .fuse w => if s.boot.stage = .dawn then s.bootFault 2 (w64 (w % 2 ^ 16)) else s
    | .image => s.clk fun s => if s.boot.stage = .dawn then s.bootFault 3 0 else s
    | .lockstep pc =>
      s.clk fun s =>
        if s.boot.stage = .dawn ∨ s.boot.stage = .sunrise then s.bootFault 4 (w64 pc.toNat) else s
    | .portTraining p =>
      s.clk fun s => if s.boot.stage = .morning ∧ s.inMask p ∧ s.portState p = 1 then s.trainingFailed p else s)

/-- PERST# is released: link training starts while the PCIE domain is ON (R411). -/
def execPerstRelease (s : State) : Out :=
  .next { s with pcie := { s.pcie with perst := false, training := s.domOn 77 } }

end Sys2Proof.Machine
end

