-- ==== Sys2Proof/Machine/Security.lean ====
section
/-! DEFINITION. The SEC island: attestation (12 R426, R427), the anti-rollback fuses (R405), and the customer key
    (R432). -/

namespace Sys2Proof.Machine

/-- A path's BLOB is set. -/
def State.setBlob (s : State) (n idx sub : Nat) (b : Bytes) : State :=
  s.updPathN n fun q => { q with blobs := Tab.set [] q.blobs (blobKey idx sub) b }

/-- The n first bytes of a string, zeros beyond its end. -/
def fixLen (n : Nat) (b : Bytes) : Bytes := (b ++ List.replicate n 0).take n

/-- Bytes 0x000 to 0x0FF of the attestation report (Table 12.10). -/
def State.reportBody (s : State) (nonce : Bytes) : Bytes :=
  let head := 2 ^ 58 + s.dev * 2 ^ 54 + (if s.signedMode then 2 ^ 53 else 0) + s.fuses.arb % 128 * 2 ^ 46
  leBytes 8 head ++ leBytes 8 s.fuses.serial.toNat ++ fixLen 32 nonce ++ fixLen 48 s.boot.meas ++
    leBytes 8 (s.rn rFw % 2 ^ 32 * 2 ^ 32 + s.boot.svn % 256) ++ fixLen 48 s.boot.fuseSum ++ fixLen 48 s.reconf.hash ++
    leBytes 8 s.eng.count.toNat ++ leBytes 8 (s.rn rTB) ++ List.replicate 40 0

/-- SEC.CMD = 1: the report of Table 12.10 in SEC.REPORT of the path. -/
def attestAct (p : Path) : Act := fun s =>
  let b := s.reportBody (s.blob (sender p) 0x0C02 1 32)
  okAct ((s.setBlob (sender p) 0x0C02 2 (b ++ fixLen 96 (Config.identitySign b))).updPath p fun q =>
    { q with attest := true })

/-- SEC.CMD = 1 ATTEST. -/
def execSecAttest (a : Path) (s : State) : Out := .next (operate a true 2 0x0C02 3 [1] (attestAct a) s)

/-- A path that may blow fuses: PCIe or SDIO (R405, R432). -/
def blows : Path → Bool
  | .pcie | .sdio => true
  | _ => false

/-- SEC.CMD = 2 (R405). -/
def arbAct (p : Path) : Act := fun s =>
  guardAct [(!blows p, .access)] s fun s =>
    okAct { s with fuses := { s.fuses with arb := max s.fuses.arb s.boot.svn } }

/-- SEC.CMD = 2 ADVANCE_ARB. -/
def execSecAdvanceArb (a : Path) (s : State) : Out := .next (operate a true 2 0x0C02 3 [2] (arbAct a) s)

/-- SEC.CMD = 3 (R432). -/
def provisionAct (p : Path) : Act := fun s =>
  let k := s.blob (sender p) 0x0C02 4 97
  guardAct [(!blows p, .access), (s.signedMode, .state), ((ecKey k).isNone, .range)] s fun s =>
    okAct { s with fuses := { s.fuses with custHash := sha384 k } }

/-- SEC.CMD = 3 PROVISION. -/
def execSecProvision (a : Path) (s : State) : Out := .next (operate a true 2 0x0C02 3 [3] (provisionAct a) s)

end Sys2Proof.Machine
end

