-- ==== Sys2Proof/Machine/Faults.lean ====
section
/-! DEFINITION. Run-time marks (12 R410), the scrubber (R415, R417, R418), the watchdogs (R419), the HKC's lockstep
    (R420), and the fault ring (R423, R424). -/

namespace Sys2Proof.Machine

/-! Run-time marks -/

/-- DEFECT.ARG of a path. -/
def rDefectArg (p : Path) : Nat := rk (sender p) 0x0102 4
/-- The tile that DEFECT.ARG names. -/
def argTile (v : Nat) : Nat := v / 256 % 128
/-- DEFECT.ARG names the whole tile. -/
def argWhole (v : Nat) : Bool := decide (v % 256 = 0xFF)

/-- DEFECT.ARG names a unit that failed by fuse or self-test. -/
def State.argFailed (s : State) (v : Nat) : Bool :=
  if argWhole v then s.fuses.tiles.contains (argTile v) || s.boot.stTiles.contains (argTile v)
  else s.fuses.cores.contains (136 * argTile v + v % 256) || s.boot.stCores.contains (136 * argTile v + v % 256)

/-- Set or clear the run-time mark of the unit that v names. -/
def State.mark (s : State) (v : Nat) (on : Bool) : State :=
  let put := fun (l : List Nat) (n : Nat) => if on then addNew n l else l.filter fun m => decide (m ≠ n)
  if argWhole v then { s with boot := { s.boot with markTiles := put s.boot.markTiles (argTile v) } }
  else { s with boot := { s.boot with markCores := put s.boot.markCores (136 * argTile v + v % 256) } }

/-- DEFECT.CMD = 1, and 2 with `on` false. -/
def markAct (p : Path) (on : Bool) : Act := fun s =>
  let v := s.rn (rDefectArg p)
  guardAct [(s.argFailed v, .state)] s fun s => okAct (s.mark v on)

/-- DEFECT.CMD = 1 MARK. -/
def execDefectMark (a : Path) (s : State) : Out := .next (operate a false 2 0x0102 3 [1] (markAct a true) s)

/-- DEFECT.CMD = 2 UNMARK. -/
def execDefectUnmark (a : Path) (s : State) : Out := .next (operate a false 2 0x0102 3 [2] (markAct a false) s)

/-! The scrubber -/

/-- FAULT.PROMISE_WHY bit 2 (R415, R434): SCRUB.EN is 1 and the last pass that ended took at most 200 ms. -/
def State.whyScrub (s : State) : State := s.whyBit 2 (!(decide (s.rn (rScrub 1) = 1) && s.scrubbed))

/-- How a word was found uncorrectable, as a MEMORY record tells it: 0 by a read, 1 by the scrubber. -/
def howFound (read : Bool) : Nat := if read then 0 else 1

/-- What one word turns out to hold (R418). -/
def State.scrubHit (s : State) : ScrubHit → State
  | .corrected => s.bump (rScrub 5)
  | .core k off r => s.coreUe k off (howFound r)
  | .tsm t off r => s.tsmUe t off (howFound r)
  | .buffer rd => let r := s.noAddress; r.2.postMemory r.1 3 (howFound rd)

/-- The error was met by a read other than the scrubber's. -/
def byRead : ScrubHit → Bool
  | .corrected => false
  | .core _ _ r | .tsm _ _ r | .buffer r => r

/-- SCRUB.CMD = 1 (R417). -/
def scrubAct : Act := fun s => okAct s.startScrub

/-- SCRUB.CMD = 1 PASS. -/
def execScrubPass (a : Path) (s : State) : Out := .next (operate a false 2 0x0120 2 [1] scrubAct s)

/-- The scrubber starts its periodic pass, in which it finds `hits`; those that other reads have met hold while SCRUB.EN
    is 0 as well (log 40). -/
def execScrubPassStart (hits : List ScrubHit) (s : State) : Out :=
  .next (if s.rn (rScrub 1) = 1 then hits.foldl (fun s h => s.scrubHit h) s.startScrub
    else (hits.filter byRead).foldl (fun s h => s.scrubHit h) s)

/-- A pass ends, `ms` milliseconds after its start (R417, R434). -/
def execScrubPassEnd (ms : Nat) (s : State) : Out :=
  .next (if s.scrub = 0 then s
    else
      let s := { s with scrub := s.scrub - 1, scrubbed := decide (ms ≤ 200) }.bump (rScrub 3)
      (if 200 < ms then s.bump32 (rScrub 4) else s).whyScrub)

/-! Watchdogs -/

/-- LOC of a WATCHDOG record (Table 12.9). -/
def wdLoc (type node lcid : Nat) : W64 := w64 (type * 2 ^ 60 + node * 2 ^ 53 + lcid * 2 ^ 32)

/-- A watchdog expires: the record, and what becomes of the unit (R419). -/
def State.watchdog (s : State) (u : WdUnit) (stage : Nat) : State :=
  let s := s.bump32 (rk 0 0x0122 1)
  match u with
  | .core k => (s.post 3 0 0 (wdLoc 0 (k / 136) ((s.lcidOf k).getD 0)) (w64 stage)).fenceCore k 2
  | .ni t =>
    let s := s.post 3 0 0 (wdLoc 1 t 0) (w64 stage)
    let s := (List.range 136).foldl (fun s c => s.fenceCore (136 * t + c) 2) s
    { s with boot := { s.boot with markTiles := addNew t s.boot.markTiles, deadNis := addNew t s.boot.deadNis } }
  | .router r =>
    let s := s.post 3 0 0 (wdLoc 2 r 0) (w64 stage)
    { s with boot := { s.boot with markTiles := addNew r s.boot.markTiles, deadRtrs := addNew r s.boot.deadRtrs } }
  | .portBridge p =>
    let s := s.post 3 0 0 (wdLoc 3 (70 + p) 0) (w64 stage)
    if s.portState p = 0 then s else s.downPort p
  | .bridge n => s.post 3 0 0 (wdLoc 4 n 0) (w64 stage)

/-- A handshake watchdog expires. -/
def execWatchdogExpire (u : WdUnit) (stage : BitVec 16) (s : State) : Out := .next (s.watchdog u stage.toNat)

/-! The HKC's lockstep -/

/-- HKC.STATE leaves RUNNING: FAULT.PROMISE_WHY bits 0 and 1 are set, and the monitors' samples count anew (R420, R434). -/
def State.hkcStops (s : State) (st : Nat) : State :=
  let s := { s with mon := { s.mon with sinceT := [], sinceV := [] } }
  ((s.wn rHkc st).whyBit 0 true).whyBit 1 true

/-- Every ATTEST in progress ends with FAULT (R427). -/
def State.endAttests (s : State) : State :=
  senders.foldl (fun s n =>
    if (s.pathN n).attest then (s.answer n .fault true []).updPathN n fun q => { q with attest := false } else s) s

/-- The two cores of the HKC disagree at `pc`, for the n-th time within 1 s (R420); during DAWN and SUNRISE the device
    enters FAULT (Table 12.2). -/
def State.lockstep (s : State) (pc n : Nat) : State :=
  let s := s.post 12 0 0 (w64 pc) (w64 (n % 256))
  if s.boot.stage = .dawn ∨ s.boot.stage = .sunrise then (s.hkcStops 2).bootFault 4 (w64 pc)
  else if 3 ≤ n then s.endAttests.hkcStops 2
  else ((s.endAttests.hkcStops 1).bump32 (rk 0 0x0121 2)).resetPath 3

/-- A lockstep mismatch of the running HKC. -/
def execLockstepMismatch (pc : BitVec 32) (n : Nat) (s : State) : Out :=
  .next (s.clk fun s => if s.hkcUp then s.lockstep pc.toNat n else s)

/-! The fault ring -/

/-- FAULT.RING_BASE 1, SIZE 2, VEC 3, STATE 5, PROD 6, CONS 7. -/
def fRing (sub : Nat) : Nat := rk 0 0x0112 sub
/-- Records that the fault ring holds. -/
def State.fSize (s : State) : Nat := 2 ^ s.rn (fRing 2) / 32
/-- Records written and not freed. -/
def State.fUsed (s : State) : Nat := (s.rn (fRing 6) + 2 ^ 32 - s.rn (fRing 7)) % 2 ^ 32
/-- FAULT.RING_STATE: 0 DISABLED, 1 ENABLED, 2 FULL (R424). -/
def State.fState (s : State) : Nat :=
  if s.rn (fRing 5) = 0 then 0 else if s.fSize ≤ s.fUsed then 2 else 1

/-- The 32 bytes of a record in the ring, with its lap phase (R423). -/
def recBytes (r : FRec) (ph : Nat) : Bytes :=
  leBytes 8 (putFld r.1 51 51 ph).toNat ++ leBytes 8 r.2.1.toNat ++ leBytes 8 r.2.2.1.toNat ++ leBytes 8 r.2.2.2.toNat

/-- The PCIE island writes the oldest queued record into the ring and raises FAULT.RING_VEC. -/
def State.ringRecord (s : State) (r : FRec) (rest : List FRec) : State :=
  let prod := s.rn (fRing 6)
  let a := s.rn (fRing 1) + 32 * (prod % s.fSize)
  let s := { s with log := { s.log with queue := rest } }
  ((s.toHost a (recBytes r (lapPhase prod s.fSize))).wn (fRing 6) ((prod + 1) % 2 ^ 32)).raise (s.rn (fRing 3))

/-- The fault ring takes one record, if it may (R423, R424). -/
def execFaultRingWrite (s : State) : Out :=
  .next (s.clk fun s =>
    match s.log.queue with
    | r :: rest => if s.fState = 1 ∧ s.hostOk ∧ s.domUp 77 then s.ringRecord r rest else s
    | [] => s)

/-- FAULT.RING_CMD = 1 (R423, 07 R232). -/
def faultRingEnableAct : Act := fun s =>
  guardAct [(decide (s.rn (fRing 5) = 1), .state), (s.ringRange (fRing 1) (fRing 2), .range)] s fun s =>
    okAct (((s.wn (fRing 5) 1).wn (fRing 6) 0).wn (fRing 7) 0).whyRing

/-- FAULT.RING_CMD = 1 ENABLE. -/
def execFaultRingEnable (a : Path) (s : State) : Out := .next (operate a false 2 0x0112 4 [1] faultRingEnableAct s)

/-- FAULT.RING_CMD = 2. -/
def faultRingDisableAct : Act := fun s => okAct (s.wn (fRing 5) 0).whyRing

/-- FAULT.RING_CMD = 2 DISABLE. -/
def execFaultRingDisable (a : Path) (s : State) : Out := .next (operate a false 2 0x0112 4 [2] faultRingDisableAct s)

/-- FAULT.RING_CONS = v (R423, 07 R235). -/
def faultConsAct (v : Nat) : Act := fun s =>
  guardAct [(decide (s.fUsed < (v + 2 ^ 32 - s.rn (fRing 7)) % 2 ^ 32), .range)] s fun s => okAct (s.wn (fRing 7) v)

end Sys2Proof.Machine
end

