-- ==== Sys2Proof/Machine/Power.lean ====
section
/-! DEFINITION. Power domains (13 R435 to R449) and monitors (R450 to R455), and the host side that a reset or a power-off
    of the PCIE island ends (11 R360 steps 2 to 4). -/

namespace Sys2Proof.Machine

/-- PWR.DOMAIN[d]: STATE 1, AUTOWAKE 3, RES_ON 4, RES_RET 5, RES_OFF 6, LAST_WAKE 7, WAKES 8, DISCARD 9, REFUSED 0A. -/
def pwr (d sub : Nat) : Nat := rk 0 (0x0400 + d) sub

/-! The host side (11 R360) -/

/-- Close every open connection that f names; queued descriptors are discarded without return. -/
def State.closeWhere (s : State) (f : Conn → Bool) : State :=
  s.conns.foldl (fun s e =>
    if decide ((s.conn e.1).state = .opn) && f (s.conn e.1) then s.startClose e.1 none none false else s) s

/-- Descriptors queued at the destination halves that f names. -/
def State.queuedAt (s : State) (f : Conn → Bool) : Nat :=
  (s.conns.map fun e =>
    if decide (e.2.state = .opn) && f e.2 && decide (e.2.dkind = 0) then (s.queueAt e.2.dest e.2.q).held else 0).sum

/-- A connection whose source is a host descriptor ring, or whose destination or return ring is a host output ring. -/
def State.hostConn (s : State) (c : Conn) : Bool := (s.dringOf c).isSome || decide (c.dkind = 1) || c.rren

/-- Descriptors and messages that the end of the host side discards. -/
def State.hostLoad (s : State) : Nat :=
  s.queuedAt s.hostConn + (s.hrings.map fun e => e.2.staged.length).sum + s.pcie.wait.length +
    (s.conns.map fun e =>
      match s.dringOf e.2 with | some r => if e.2.state = .opn then s.dringLeft r else 0 | none => 0).sum

/-- The messages staged for one ring are dropped while no request may be issued (11 R359). -/
def State.dropStaged (s : State) (l : List (Nat × HMsg)) : State :=
  l.foldl (fun s e => (s.bump (rk 0 0x3002 3)).hringDrop e.1 e.2) s

/-- The host side may no longer issue requests: the messages on their way into its output rings are dropped (11 R359). -/
def State.hostLost (s : State) : State :=
  if s.hostOk then s
  else
    let l := (s.hrings.map fun e => e.2.staged.map fun m => (e.1, m)).flatten ++ s.pcie.wait
    let s :=
      { s with
        hrings := s.hrings.map fun (e : Nat × HRing) => (e.1, { e.2 with staged := [] }), pcie := { s.pcie with wait := [] } }
    (s.dropStaged l).closeCheck

/-- Steps 2 to 4 of R360: connections of the host close, every ring is DISABLED, channels with a host ring stop. -/
def State.hostDetach (s : State) : State :=
  let s := s.closeWhere s.hostConn
  let s := (List.range 64).foldl (fun s r => (if s.hringOn r then s.hringForce r else s).wn (dReg r 4) 0) s
  (List.range 64).foldl (fun s c => if (s.chan c).host then s.stopChan c else s) s

/-! Work in flight (Table 13.2) -/

/-- A swap names physical tile t. -/
def State.swapNames (s : State) (t : Nat) : Bool := match s.swap with | some w => decide (w.pt = t) | none => false

/-- A DMA channel is RUNNING or STOPPING. -/
def State.dmaBusy (s : State) : Bool :=
  s.chans.any fun e => decide (e.2.state = .running) || decide (e.2.state = .stopping)

/-- A stream context is not DISABLED. -/
def State.streamBusy (s : State) : Bool := (List.range 128).any fun x => decide (s.rn (scx x 8) ≠ 0)

/-- An operation of a path that the HKC serves is in progress. -/
def hkcOp (o : Option PathOp) : Bool :=
  match o with
  | some (.waiting (.hkc _ _ _ _)) | some (.answered _ true _) => true
  | _ => false

/-- An HKC-served operation, a qualification or the bring-up is in progress. -/
def State.hkcBusy (s : State) : Bool :=
  decide (s.boot.stage ≠ .noon) || s.paths.any (fun e => hkcOp e.2.op) ||
    (List.range 7).any fun p => decide (s.portState p = 2)

/-- A tile does what no power request may interrupt. -/
def State.tileBusy (s : State) (t : Nat) : Bool :=
  s.cores.any (fun e => decide (e.1 / 136 = t) && e.2.midnight) || s.swapNames t || decide (s.reconf.state ≠ .idle)

/-- A connection's destination lies in virtual tile v (07 R243). -/
def endsIn (v : Nat) (c : Conn) : Bool :=
  (decide (c.dkind = 0) && decide (c.dest / 128 = v)) || (decide (c.dkind = 2) && decide (c.combNo / 16 = v))

/-- Tile t serves a RESIDENT virtual tile with a core not UNCONFIGURED, or a connection ends there. -/
def State.tileUsed (s : State) (t : Nat) : Bool :=
  match s.vtOf t with
  | some v =>
    s.cores.any (fun e => decide (e.1 / 136 = t) && decide (e.2.state ≠ .unconfigured)) ||
      s.conns.any fun e => decide (e.2.state ≠ .free) && endsIn v e.2
  | none => false

/-- RETENTION of domain d is refused. -/
def State.retBusy (s : State) (d : Nat) : Bool :=
  if d < 70 then s.tileBusy d
  else if d < 77 then !(s.portBuf (d - 70)).isEmpty
  else if d = 77 then !s.pcie.d3 && s.pcie.link
  else if d < 86 then false
  else if d = 86 then s.dmaBusy || s.swap.isSome
  else if d = 87 then s.streamBusy
  else s.hkcBusy

/-- OFF of domain d is refused without FORCE. -/
def State.offBusy (s : State) (d : Nat) : Bool :=
  if d < 70 then s.tileBusy d || s.tileUsed d
  else if d < 77 then decide (3 ≤ s.portState (d - 70))
  else if d = 77 then
    (List.range 64).any (fun r => s.hringOn r || decide (s.rn (dReg r 4) = 1)) || decide (s.rn (fRing 5) = 1) ||
      (s.path .pcie).session.isSome
  else if d < 86 then
    (decide (s.rn (rMem 1) = 1) &&
      (List.range 512).any fun v => decide (s.imageSlot v ≠ 0xFFFF) || decide (s.rn (vtReg v 4) ≠ 0)) || s.swap.isSome
  else if d = 86 then s.dmaBusy || s.swap.isSome
  else if d = 87 then s.streamBusy
  else s.hkcBusy

/-! What a forced OFF discards (R439) -/

/-- Add n to PWR.DOMAIN[d].DISCARD. -/
def State.discarded (s : State) (d n : Nat) : State := s.bumpBy 64 (pwr d 9) n

/-- Core k loses its buffered flits; each counts in ACC when the last copy of its flit is gone. -/
def State.dropInbuf (s : State) (k : Nat) : State :=
  let c := s.core k
  c.inbuf.foldl (fun s q => s.flightEnd q.flight 1) (s.setCore k { c with inbuf := [] })

/-- The LRN of a core holds a nonzero DACC. -/
def Core.hasDacc (c : Core) : Bool := c.mem.any fun e => decide (aLRN ≤ e.1) && decide (e.1 < aLRN + 0x3000)

/-- The copies and VC1 items that the NI of tile t holds are dropped. -/
def State.dropNiHold (s : State) (t : Nat) : State :=
  let d := s.tile t
  let s := s.updTile t fun d => { d with copies := [], vc1 := [] }
  let s := d.copies.foldl (fun s q => (s.flightEnd q.flight 1).itemEnd q.id) s
  d.vc1.foldl (fun s i => (s.dropSide i).itemEnd i.ident) s

/-- The work of tile t: connections that end there close, and every buffer empties. -/
def State.discardTile (s : State) (t : Nat) : State :=
  let v := (s.vtOf t).getD 512
  let mine := (s.cores.filter fun e => decide (e.1 / 136 = t))
  let flits := (mine.map fun e => e.2.inbuf.length).sum + s.dlyHeld t + (s.tile t).copies.length +
    (s.tile t).vc1.length
  let n := flits + s.queuedAt (endsIn v) + (mine.filter fun e => e.2.hasDacc).length
  let s := s.closeWhere (endsIn v)
  let s := mine.foldl (fun s e => s.dropInbuf e.1) s
  ((s.dropNiHold t).updTile t fun d => { d with rings := [] }).discarded t n

/-- Every started descriptor is abandoned (09 R305). -/
def State.discardDma (s : State) : State :=
  let n := (s.chans.map fun e => e.2.descs.length).sum
  let s := s.chans.foldl (fun s e =>
    if e.2.state = .running ∨ e.2.state = .stopping then
      (s.updChan e.1 fun x => { x with state := .stopped, descs := [] }).wn (ch e.1 4) Status.aborted.code
    else s) s
  s.discarded 86 n

/-- Every frame held in the ingress buffers and the egress staging is discarded, and its records count in ACC (10 R333): at
    the request, and again when the domain reaches OFF for what a port that still served took meanwhile. -/
def State.discardStream (s : State) : State :=
  let n := ((List.range 2).map fun p => (s.sport p).frames.length + (s.sport p).staged.length).sum
  let s := (List.range 2).foldl (fun s p =>
    let q := s.sport p
    let s := s.updSport p fun q => { q with frames := [], staged := [], recs := [], hold := false, paused := false, stuck := [] }
    let s := q.staged.foldl (fun s f => f.2.1.foldl (fun s r => s.recEnd p r) s) s
    q.recs.foldl (fun s r => s.recEnd p r) s) s
  let s := s.sctxs.foldl (fun s e =>
    let s := e.2.build.foldl (fun s r => s.recEnd (s.sctxPort e.1) r.1) s
    s.updSctx e.1 fun c => { c with build := [] }) s
  s.discarded 87 n

/-- Every HKC-served operation ends with ABORTED. -/
def State.discardHkc (s : State) : State :=
  let l := senders.filter fun n => hkcOp (s.pathN n).op
  (l.foldl (fun s n => s.answer n .aborted true []) s).discarded 88 l.length

/-- A forced OFF of domain d discards its work (Table 13.2). -/
def State.discardWork (s : State) (d : Nat) : State :=
  if d < 70 then s.discardTile d
  else if d < 77 then (if s.portState (d - 70) = 0 then s else s.downPort (d - 70))
  else if d = 77 then (s.hostDetach).discarded 77 s.hostLoad
  else if d < 86 then s.discarded d ((List.range 512).map fun v => s.rn (vtReg v 5)).sum
  else if d = 86 then s.discardDma
  else if d = 87 then s.discardStream
  else s.discardHkc

/-! Requests (R438) -/

/-- The transition of an accepted request begins: RETENTION (2) or OFF (3). A port tells its peer that it enters RETENTION
    (R447). -/
def State.beginEntry (s : State) (d want : Nat) (force : Bool) : State :=
  let s := s.enterDomain d (decide (want = 3))
  let s := if force then s.discardWork d else s
  if 70 ≤ d ∧ d < 77 ∧ want = 2 ∧ 3 ≤ s.portState (d - 70) then s.putLink (d - 70) 7 0 0 0 0 15 else s

/-- Start, or hold while VWARN is latched (R454), an accepted request. -/
def State.acceptRequest (s : State) (d want : Nat) (force : Bool) : State :=
  if want = 1 then s.wake d 1
  else if s.mon.vwarn then s.updDom d fun q => { q with held := some (want, force) }
  else s.beginEntry d want force

/-- PWR.DOMAIN[d].CMD: want is 1 ON, 2 RETENTION or 3 OFF (R438). -/
def domainAct (d want : Nat) (force : Bool) : Act := fun s =>
  let st := s.rn (rDomain d)
  let moving := decide (st = 3) || decide (st = 4)
  let range := (force && decide (want ≠ 3)) || (decide (d = 89) && decide (want ≠ 1))
  let same := (decide (want = 1) && decide (st = 1)) || (decide (want = 2) && decide (st = 2)) ||
    (decide (want = 3) && decide (st = 0))
  let busy := (decide (want = 2) && s.retBusy d) || (decide (want = 3) && !force && s.offBusy d)
  guardAct [(moving, .busy), (range, .range)] s fun s =>
    if same then okAct s
    else if busy then .done .busy [] (s.bump32 (pwr d 0x0A))
    else if force && decide (d = 86) && s.swap.isSome then .refuse .busy
    else okAct (s.acceptRequest d want force)

/-- PWR.DOMAIN[d].CMD = 1 ON. -/
def execDomainOn (a : Path) (d : Nat) (s : State) : Out :=
  .next (operate a false 2 (0x0400 + d) 2 [1] (domainAct d 1 false) s)

/-- PWR.DOMAIN[d].CMD = 2 RETENTION. -/
def execDomainRetention (a : Path) (d : Nat) (s : State) : Out :=
  .next (operate a false 2 (0x0400 + d) 2 [2] (domainAct d 2 false) s)

/-- PWR.DOMAIN[d].CMD = 3 OFF. -/
def execDomainOff (a : Path) (d : Nat) (s : State) : Out :=
  .next (operate a false 2 (0x0400 + d) 2 [3] (domainAct d 3 false) s)

/-- PWR.DOMAIN[d].CMD = 0x83 OFF with FORCE. -/
def execDomainOffForce (a : Path) (d : Nat) (s : State) : Out :=
  .next (operate a false 2 (0x0400 + d) 2 [0x83] (domainAct d 3 true) s)

/-! Entry (R440, R442, R448) -/

/-- The two conditions of R440 on tile t. -/
def State.tileQuietFor (s : State) (t : Nat) : Bool :=
  (s.stopped || s.tileDone t) && decide (s.dlyHeld t = 0) && decide (s.nodeHeld t = 0) &&
    s.cores.all fun e => decide (e.1 / 136 ≠ t) || (e.2.inbuf.isEmpty && e.2.jobs.isEmpty)

/-- Entry of domain d may end. -/
def State.entryReady (s : State) (d : Nat) : Bool :=
  decide (s.rn (rDomain d) = 3) && (decide (70 ≤ d) || s.tileQuietFor d)

/-- A tile in OFF holds UNCONFIGURED cores and nothing else (R442, 04 R160). -/
def State.offTile (s : State) (t : Nat) : State :=
  let was := s.inNight
  let s :=
    ({ s with cores := Tab.keep (fun k => decide (k / 136 ≠ t)) s.cores }.nightLeft was).updTile t fun d =>
      { d with tsm := [], poison := [], rings := [], queues := [] }
  ((s.wn (rk (16 + t) 0x1200 2) 31).wn (rk (16 + t) 0x1200 3) 16).wn (rk 0 0x0820 (t + 1)) 0

/-- What is parked for the writer of a DMA domain in OFF is dropped (R448). -/
def State.dropParkq (s : State) : State :=
  let l := s.parkq
  l.foldl (fun s i =>
    match i with
    | .park id v _ _ => (s.bump (vtReg v 8)).itemEnd id
    | .parkDesc v _ _ _ => (s.bump (vtReg v 8)).itemEnd i.ident
    | _ => s) { s with parkq := [] }

/-- What the ports still hold is discarded in OFF; context settings and channel entries are cleared, a DISABLE that waits
    returns OK, since its context reads DISABLED, and the ports are DOWN (10 R332, R333, Table 13.3). -/
def State.offStream (s : State) : State :=
  let s := { s.discardStream with sctxs := [], sch := [] }
  let s := (List.range 128).foldl (fun s x =>
    ((List.range 9).foldl (fun s i => s.wn (scx x (i + 1)) 0) s).sctxOff x) s
  (s.wn (sp 0 2) 0).wn (sp 1 2) 0

/-- The PCIE island in OFF: the link is down, and the function's configuration is lost. -/
def State.offPcie (s : State) : State :=
  let s :=
    { s with
      pcie :=
        { s.pcie with
          bme := false, d3 := false, link := false, training := false, msixEn := false, msixMask := false,
          table := [] } }
  ((s.wn (rk 0 0x3001 2) 0).wn (rk 0 0x3001 3) 0).hostLost

/-- What a domain loses in OFF. -/
def State.offDomain (s : State) (d : Nat) : State :=
  if d < 70 then s.offTile d
  else if d < 77 then s
  else if d = 77 then s.offPcie
  else if d < 86 then s.loseLpddr
  else if d = 86 then s.dropParkq
  else if d = 87 then s.offStream
  else s.hkcStops 2

/-- A domain reaches RETENTION or OFF; a wake source that came meanwhile wakes it at once (R440, R444). -/
def execDomainEntryDone (d : Nat) (s : State) : Out :=
  .next (if s.entryReady d then
      let q := s.dom d
      let s := if q.off then (s.wn (rDomain d) 0).offDomain d else s.wn (rDomain d) 2
      let s := s.updDom d fun q => { Dom.reset with off := q.off }
      match q.wake with | some src => s.wake d src | none => s
    else s)

/-- A tile's conditions have not held 1 ms after the request: it returns to ON (R440). -/
def execDomainEntryAbandon (d : Nat) (s : State) : Out :=
  .next (if decide (d < 70) && decide (s.rn (rDomain d) = 3) && !s.tileQuietFor d then
      ((s.wn (rDomain d) 1).updDom d fun _ => .reset).bump32 (pwr d 0x0A)
    else s)

/-! Waking (R443, R444) -/

/-- A wake source of Table 13.3: from RETENTION; OFF answers only those of offWakes. -/
def State.wakesRet (s : State) (d src : Nat) : Bool :=
  decide (src = 1) ||
    (if d < 70 then (decide (src = 2) && decide (s.rn (pwr d 3) = 1)) || decide (src = 3) || decide (src = 4)
     else if d < 77 then decide (src = 6) || decide (src = 7)
     else if d = 77 then decide (src = 5)
     else if d < 86 then decide (src = 4)
     else if d = 86 then decide (src = 3)
     else if d = 88 then decide (src = 5) || decide (src = 8)
     else false)

/-- A wake source reaches a domain. -/
def execDomainWake (d src : Nat) (s : State) : Out := .next (if s.wakesRet d src then s.wake d src else s)

/-- Domain d is ON again: what was held for it goes on, and what its OFF ended starts anew; the cores of a tile are
    UNCONFIGURED, whatever a command did to them while it was in OFF (03 R125, R128). -/
def State.domainBack (s : State) (d : Nat) (fromOff : Bool) : State :=
  if d < 70 then ((((if fromOff then s.offTile d else s).pumpTile d).pumpVc1 d)).release
  else if d < 77 then (if fromOff then s.train (d - 70) none else s)
  else if d = 77 then { s with pcie := { s.pcie with training := s.pcie.training || (fromOff && !s.pcie.perst) } }
  else if d < 86 then s.release
  else if d = 88 then (if fromOff then (s.wn rHkc 1).resetPath 3 else s)
  else s

/-! Monitors (R450 to R453) -/

/-- The HKC runs, as the monitors' bits of FAULT.PROMISE_WHY ask (12 R434). -/
def State.hkcRuns (s : State) : Bool := decide (s.boot.stage ≠ .dawn) && decide (s.rn rHkc = 0)

/-- FAULT.PROMISE_WHY bit 1 (R451, 12 R415, R434). -/
def State.whyTemp (s : State) : State :=
  s.whyBit 1 (!s.hkcRuns || !((List.range 96).all s.mon.sinceT.contains) || s.mon.tooHot)

/-- FAULT.PROMISE_WHY bit 0 (R452, 12 R415, R434). -/
def State.whyVolt (s : State) : State :=
  s.whyBit 0 (!s.hkcRuns || !((List.range 90).all s.mon.sinceV.contains) || !s.mon.volt.isEmpty || s.mon.vwarn)

/-- The reading of sensor i in °C × 8. -/
def State.tempOf (s : State) (i : Nat) : Int := sx 32 (s.rn (rk 0 0x0800 (i + 1)))

/-- Judge a reading against a threshold with 2 °C hysteresis: whether it crosses upward, and the sensors above it. -/
def cross (l : List Nat) (i : Nat) (v at' : Int) : Bool × List Nat :=
  if at' ≤ v then (!l.contains i, addNew i l)
  else if v ≤ at' - 16 then (false, l.filter fun j => decide (j ≠ i))
  else (false, l)

/-- Post a TEMP record. -/
def State.postTemp (s : State) (c : Bool) (i : Nat) (v : Int) : State :=
  if c then s.post 15 0 0 (w64 i) (w64 (enc 16 v)) else s

/-- The thresholds of R451 on a reading. -/
def State.judgeTemp (s : State) (i : Nat) (v : Int) : State :=
  let warn := cross s.mon.warn i v (s.rn (rk 0 0x0802 1) * 8)
  let hot : Bool × List Nat :=
    if 841 ≤ v then (!s.mon.hot.contains i, addNew i s.mon.hot)
    else if v ≤ 824 then (false, s.mon.hot.filter fun j => decide (j ≠ i)) else (false, s.mon.hot)
  let trip := cross s.mon.trip i v 920
  let cool := s.mon.firstT.all fun j => decide (s.tempOf j ≤ 824)
  let s :=
    { s with
      mon :=
        { s.mon with
          warn := warn.2, hot := hot.2, trip := trip.2, thermtrip := s.mon.thermtrip || decide (920 ≤ v),
          tooHot := decide (841 ≤ v) || (s.mon.tooHot && !cool) } }
  let s := if warn.1 then s.bump32 (rk 0 0x0802 2) else s
  ((s.postTemp warn.1 i v).postTemp hot.1 i v).postTemp trip.1 i v

/-- A sample of temperature sensor i (R450, R451). -/
def execTempSample (i : Nat) (v : Int) (s : State) : Out :=
  .next (s.clk fun s =>
    let first := !s.mon.firstT.contains i
    let top := first || decide (sx 32 (s.rn (rk 0 0x0801 (i + 1))) < v)
    let s := s.wn (rk 0 0x0800 (i + 1)) (enc 32 v)
    let s := if top then s.wn (rk 0 0x0801 (i + 1)) (enc 32 v) else s
    let s :=
      { s with
        mon :=
          { s.mon with
            firstT := addNew i s.mon.firstT,
            sinceT := if s.hkcRuns then addNew i s.mon.sinceT else s.mon.sinceT } }
    (s.judgeTemp i v).whyTemp)

/-- The operating range of a rail in mV (14 Table 14.5). -/
def railRange : Rail → Nat × Nat
  | .core => (650, 800)
  | .sram | .serdesL | .aon => (728, 773)
  | .serdesH => (1164, 1236)
  | .memQ => (485, 515)
  | .io => (1710, 1890)

/-- A sample of the supply of domain d, judged by its rail (R452, 14 R464); a domain in OFF is not judged. -/
def execVoltSample (d : Nat) (rail : Rail) (mv : Nat) (s : State) : Out :=
  .next (s.clk fun s =>
    let first := !s.mon.firstV.contains d
    let low := first || decide (mv < s.rn (rk 0 0x0811 (d + 1)))
    let s := s.wn (rk 0 0x0810 (d + 1)) mv
    let s := if low then s.wn (rk 0 0x0811 (d + 1)) mv else s
    let bad := (decide (mv < (railRange rail).1) || decide ((railRange rail).2 < mv)) && decide (s.rn (rDomain d) ≠ 0)
    let s :=
      { s with
        mon :=
          { s.mon with
            firstV := addNew d s.mon.firstV,
            sinceV := if s.hkcRuns then addNew d s.mon.sinceV else s.mon.sinceV,
            volt := if bad then addNew d s.mon.volt else s.mon.volt.filter fun e => decide (e ≠ d) } }
    let s := if bad then
        { s with free := s.free + 1 }.post 14 0 0 (w64 d)
          (w64 ((Config.voltDuration s.free).toNat * 2 ^ 32 + mv % 65536))
      else s
    s.whyVolt)

/-- The process monitor of tile t; a tile in OFF reads 0 (R453). -/
def execProcSample (t ps : Nat) (s : State) : Out :=
  .next (s.clk fun s => s.wn (rk 0 0x0820 (t + 1)) (if s.rn (rDomain t) = 0 then 0 else ps % 65536))

/-- MON.TEMP_MAX[i] or MON.VMIN[i] = v (R458). -/
def extremeAct (volt : Bool) (i v : Nat) : Act := fun s =>
  guardAct [(decide (v ≠ 0), .range)] s fun s =>
    okAct (if volt then s.wn (rk 0 0x0811 (i + 1)) (s.rn (rk 0 0x0810 (i + 1)))
      else s.wn (rk 0 0x0801 (i + 1)) (s.rn (rk 0 0x0800 (i + 1))))

/-- A write of MON.TEMP_MAX[i] or MON.VMIN[i]. -/
def execMonExtremeClear (a : Path) (volt : Bool) (i : Nat) (v : W32) (s : State) : Out :=
  .next (operate a false 2 (if volt then 0x0811 else 0x0801) (i + 1) (leBytes (if volt then 2 else 4) v.toNat)
    (extremeAct volt i v.toNat) s)

/-! The supply dip (R454, R455) -/

/-- MON.DIPS 2, DIP_MIN 3, DIP_TIME 4. -/
def rDip (sub : Nat) : Nat := rk 0 0x0830 sub

/-- VDD_CORE reads `mv`: below 0.60 V MON.VWARN latches, and while it is latched DIP_MIN tracks the minimum. -/
def execVwarnLatch (mv : Nat) (s : State) : Out :=
  .next (if s.mon.vwarn then s.wn (rDip 3) (min mv (s.rn (rDip 3)))
    else if mv < 600 then
      let s := { s with mon := { s.mon with vwarn := true } }
      (((s.bump32 (rDip 2)).wn (rDip 3) mv).whyVolt).holdPhase
    else s)

/-- The domain whose monitor saw the lowest MON.VMIN. -/
def State.lowestDomain (s : State) : Nat :=
  (List.range 90).foldl (fun b d =>
    if s.rn (rk 0 0x0811 (d + 1)) < s.rn (rk 0 0x0811 (b + 1)) then d else b) 0

/-- Every action that VWARN held goes on: power requests, wakes from OFF, a SETTLE of this device, the boundary work of a
    SETTLE that it received. -/
def State.resumeHeld (s : State) : State :=
  let s := s.doms.foldl (fun s e =>
    match e.2.held, e.2.wake with
    | some (want, force), _ => s.beginEntry e.1 want force
    | none, some src => if s.rn (rDomain e.1) = 0 then s.startWake e.1 src else s
    | none, none => s) s
  if s.settleReady then s.settleTo s.nextStep
  else match s.eng.round with
    | some r =>
      if r.work then s
      else (s.updEng fun e => { e with phase := if e.phase = .held then .settle else e.phase }).boundaryWork r.step r
    | none => s

/-- VDD_CORE has stayed above 0.62 V for 50 µs, `us` microseconds after the latch (R455). -/
def execVwarnClear (mv us : Nat) (s : State) : Out :=
  .next (if s.mon.vwarn && decide (620 < mv) && decide (50 ≤ us) then
      let s := ({ s with mon := { s.mon with vwarn := false } }.wn (rDip 4) (min us (2 ^ 32 - 1))).whyVolt
      let s := s.resumeHeld.lrnResume
      (s.post 14 0 0 (w64 s.lowestDomain) (w64 (us % 2 ^ 32 * 2 ^ 32 + s.rn (rDip 3) % 65536))).startScrub
    else s)

end Sys2Proof.Machine
end

