-- ==== Sys2Proof/Machine/DictTable.lean ====
section
/-! DEFINITION. The entries of the object dictionary (11 R367 to R369, R372): the rows of the tables of every chapter
    that owns an index range, with type, access right and serving unit. -/

namespace Sys2Proof.Machine

/-- Entry types (11 Table 11.5); a record carries its size, a BLOB its largest length. -/
inductive EType where
  | u8 | u16 | u32 | u64 | i32 | bool | enum8 | str
  | record (n : Nat)
  | blob (n : Nat)
  | cmd
deriving DecidableEq, Repr

/-- Access rights (11 R369); `clr` is an RW entry that R13 lets the host clear only: a counter, a sum of ticks or a
    high-water mark (log 20). -/
inductive EAcc where
  | ro | rw | clr | rws | wo | cmd
deriving DecidableEq, Repr

/-- A row of the dictionary: ranges of indices and subindices that share type and access. -/
structure EntryRow where
  lo  : Nat
  hi  : Nat
  slo : Nat
  shi : Nat
  ty  : EType
  acc : EAcc
deriving DecidableEq, Repr

/-- Type code of Table 11.5. -/
def typeCode : EType → Nat
  | .u8 => 1 | .u16 => 2 | .u32 => 3 | .u64 => 4 | .i32 => 5 | .bool => 6 | .enum8 => 7 | .str => 8
  | .record _ => 9 | .blob _ => 10 | .cmd => 11

/-- The largest length the type takes. -/
def typeMax : EType → Nat
  | .u8 | .bool | .enum8 => 1
  | .u16 => 2
  | .u32 | .i32 => 4
  | .u64 | .cmd => 8
  | .str => 64
  | .record n | .blob n => n

/-- A written value has a length that its type refuses (Table 11.5). -/
def badLength (t : EType) (n : Nat) : Bool :=
  match t with
  | .str | .blob _ | .cmd => decide (n = 0) || decide (typeMax t < n)
  | t => decide (n ≠ typeMax t)

/-- Access code of INFO (R376). -/
def accCode : EAcc → Nat
  | .ro => 1 | .rw | .clr => 2 | .rws => 3 | .wo => 4 | .cmd => 5

/-- One entry. -/
def one (i sub : Nat) (t : EType) (a : EAcc) : EntryRow := ⟨i, i, sub, sub, t, a⟩
/-- One entry per index of a range. -/
def each (lo hi sub : Nat) (t : EType) (a : EAcc) : EntryRow := ⟨lo, hi, sub, sub, t, a⟩
/-- One entry per index and subindex of two ranges. -/
def span (lo hi slo shi : Nat) (t : EType) (a : EAcc) : EntryRow := ⟨lo, hi, slo, shi, t, a⟩

/-- Identity, host and mailbox entries (11 Table 11.14). -/
def rowsHost : List EntryRow :=
  [span 0 0 1 3 .str .ro, one 0 4 .u16 .ro, one 0 5 .u64 .ro, one 0 6 .u32 .ro, one 1 0 .u8 .ro, one 2 0 .u16 .ro,
   one 3 0 .u32 .ro,
   one 0x3000 1 (.record 32) .rw, one 0x3000 2 .cmd .cmd, one 0x3000 3 (.record 32) .ro,
   one 0x3001 1 .u64 .rw, span 0x3001 0x3001 2 3 .u8 .ro, span 0x3001 0x3001 4 5 .u16 .rw,
   span 0x3002 0x3002 1 3 .u64 .clr, one 0x3002 4 .u32 .clr, one 0x3002 5 .u64 .clr,
   span 0x3003 0x3003 1 2 .u64 .clr, span 0x3003 0x3003 3 5 .u32 .clr,
   span 0x3100 0x3117 1 2 .u8 .rw, each 0x3100 0x3117 3 (.blob 4080) .rw, each 0x3100 0x3117 4 .cmd .cmd,
   each 0x3100 0x3117 5 .u32 .ro, each 0x3100 0x3117 6 .u32 .rw, each 0x3100 0x3117 7 .u16 .rw,
   each 0x3100 0x3117 8 .u8 .ro, span 0x3100 0x3117 9 0x0C .u64 .clr, span 0x3100 0x3117 0x0D 0x0F .u32 .clr,
   each 0x3100 0x3117 0x10 .u64 .clr, each 0x3100 0x3117 0x11 .u16 .clr, span 0x3120 0x3120 1 8 .u32 .ro]

/-- Bring-up, fault and security entries (12 Table 12.11). -/
def rowsHealth : List EntryRow :=
  [span 0x0100 0x0100 1 2 .enum8 .ro, span 0x0100 0x0100 3 5 .u8 .ro, one 0x0100 6 .cmd .cmd,
   span 0x0101 0x0101 1 3 .u32 .ro,
   one 0x0102 1 (.blob 2240) .ro, one 0x0102 2 .u8 .ro, one 0x0102 3 .cmd .cmd, one 0x0102 4 .u16 .rw,
   one 0x0102 5 (.blob 18) .ro, one 0x0102 6 .u32 .ro,
   span 0x0110 0x0110 1 0x40 (.record 32) .ro,
   one 0x0111 1 .u64 .ro, one 0x0111 2 .bool .ro, one 0x0111 3 .u8 .ro, one 0x0111 4 .u32 .clr, one 0x0111 5 .u64 .clr,
   one 0x0112 1 .u64 .rws, one 0x0112 2 .u8 .rws, one 0x0112 3 .u16 .rws, one 0x0112 4 .cmd .cmd,
   one 0x0112 5 .enum8 .ro, one 0x0112 6 .u32 .ro, one 0x0112 7 .u32 .rw,
   one 0x0120 1 .bool .rw, one 0x0120 2 .cmd .cmd, one 0x0120 3 .u64 .clr, one 0x0120 4 .u32 .clr,
   span 0x0120 0x0120 5 6 .u64 .clr,
   one 0x0121 1 .enum8 .ro, one 0x0121 2 .u32 .clr, one 0x0122 1 .u32 .clr,
   each 0x0200 0x0206 0 (.record 96) .ro,
   one 0x0C00 1 (.blob 48) .ro, one 0x0C00 2 .u8 .ro, one 0x0C00 3 (.blob 48) .ro, one 0x0C00 4 .bool .ro,
   one 0x0C00 5 (.blob 48) .ro, one 0x0C01 1 (.blob 97) .ro, one 0x0C01 2 (.blob 2048) .ro,
   one 0x0C02 1 (.blob 32) .rw, one 0x0C02 2 (.blob 352) .ro, one 0x0C02 3 .cmd .cmd, one 0x0C02 4 (.blob 97) .rw,
   one 0x0C10 1 (.blob 48) .ro, one 0x0C10 2 .u64 .rw, one 0x0C10 3 .u32 .rw, span 0x0C10 0x0C10 4 5 .u64 .ro,
   one 0x0C10 6 .u32 .clr, one 0x0C10 7 (.blob 48) .ro]

/-- Power and monitor entries (13 Table 13.9). -/
def rowsPower : List EntryRow :=
  [each 0x0400 0x0459 1 .enum8 .ro, each 0x0400 0x0459 2 .cmd .cmd, each 0x0400 0x0459 3 .bool .rw,
   span 0x0400 0x0459 4 6 .u64 .clr, each 0x0400 0x0459 7 .enum8 .ro, span 0x0400 0x0459 8 9 .u64 .clr,
   each 0x0400 0x0459 0x0A .u32 .clr,
   span 0x0800 0x0800 1 0x60 .i32 .ro, span 0x0801 0x0801 1 0x60 .i32 .rw, one 0x0802 1 .u8 .rw, one 0x0802 2 .u32 .clr,
   span 0x0810 0x0810 1 0x5A .u16 .ro, span 0x0811 0x0811 1 0x5A .u16 .rw, span 0x0820 0x0820 1 0x46 .u16 .ro,
   one 0x0830 1 .bool .ro, one 0x0830 2 .u32 .clr, one 0x0830 3 .u16 .ro, one 0x0830 4 .u32 .ro]

/-- Core, tile, output-scaler and learning entries (03 Table 3.20, 04 Table 4.11, 05, 06 Table 6.10). -/
def rowsCore : List EntryRow :=
  [one 0x1100 1 .u16 .rw, one 0x1100 2 .enum8 .ro, one 0x1100 3 .cmd .cmd, one 0x1100 4 .enum8 .ro,
   span 0x1100 0x1100 5 6 .u32 .clr, one 0x1100 7 .u64 .clr, one 0x1100 8 .u64 .ro, one 0x1100 9 .u16 .ro,
   span 0x1101 0x1101 1 2 .u32 .clr,
   one 0x1200 1 .u16 .rw, one 0x1200 2 .u8 .rws, one 0x1200 3 .u16 .rws, one 0x1200 4 .u16 .clr, one 0x1200 5 .u64 .clr,
   one 0x1200 6 .u32 .ro, one 0x1200 7 .u64 .clr,
   one 0x3200 0 .u8 .ro, span 0x3200 0x3200 1 0xFF .u32 .rw, span 0x3201 0x3201 1 2 .u64 .clr,
   one 0x4400 1 .u32 .rws, one 0x4400 2 .u64 .ro, one 0x4400 3 .cmd .cmd, one 0x4400 4 .enum8 .ro, one 0x4400 5 .u64 .clr,
   one 0x4400 6 .u32 .clr, span 0x4401 0x4401 1 9 .u32 .clr, span 0x4401 0x4401 0x0A 0x0B .u32 .ro]

/-- Fabric, map and system entries (08 Table 8.16). -/
def rowsFabric : List EntryRow :=
  [one 0x2000 1 .u32 .rw, one 0x2000 2 .u64 .ro,
   each 0x2010 0x2016 1 .enum8 .ro, each 0x2010 0x2016 2 .u8 .ro, each 0x2010 0x2016 3 .cmd .cmd,
   each 0x2010 0x2016 4 .u32 .rw, each 0x2010 0x2016 5 .u16 .ro, each 0x2010 0x2016 6 .u16 .rw,
   each 0x2010 0x2016 7 .u32 .clr, each 0x2010 0x2016 8 .u64 .ro, each 0x2010 0x2016 9 .u64 .clr,
   span 0x2010 0x2016 0x10 0x1D .u64 .clr, span 0x2010 0x2016 0x20 0x23 .u16 .ro, span 0x2010 0x2016 0x24 0x27 .u16 .clr,
   one 0x2100 1 .u8 .rw, span 0x2110 0x2114 1 4 .u64 .clr, span 0x2110 0x2114 5 8 .u16 .ro,
   span 0x2110 0x2114 9 0x0C .u16 .clr,
   one 0x2120 1 .u8 .rw, span 0x2121 0x2121 1 7 .u64 .clr, one 0x2121 8 .u16 .clr, span 0x2121 0x2121 9 0x0D .u64 .clr,
   each 0x2200 0x23FF 0 .u16 .rw, one 0x2400 0 .u8 .rw, span 0x2401 0x2401 0 0x7F .u8 .rw,
   one 0x4800 1 .u8 .ro, span 0x4800 0x4800 2 3 .u8 .rws, one 0x4800 4 .u8 .ro, one 0x4800 5 .enum8 .ro,
   one 0x4800 6 .cmd .cmd, one 0x4800 7 .u64 .ro, one 0x4800 8 .i32 .ro, one 0x4800 9 .u32 .clr,
   one 0x4800 0x0A .enum8 .ro, one 0x4800 0x0B .u8 .ro, each 0x4810 0x4817 0 .u16 .rw,
   span 0x4820 0x4827 1 2 .enum8 .ro, each 0x4820 0x4827 3 .u64 .ro, each 0x4820 0x4827 4 .u32 .ro,
   each 0x4820 0x4827 5 .u16 .ro, each 0x4820 0x4827 6 (.blob 48) .ro, each 0x4820 0x4827 7 .u64 .ro,
   each 0x4820 0x4827 8 .u32 .ro]

/-- DMA, memory and virtual tile entries (09 Table 9.12). -/
def rowsMemory : List EntryRow :=
  [one 0x3400 1 .cmd .cmd, one 0x3400 2 (.record 32) .rw, one 0x3400 3 .u16 .rw, one 0x3400 4 .u8 .ro, one 0x3400 5 .u16 .ro,
   each 0x3410 0x344F 1 .enum8 .ro, each 0x3410 0x344F 2 .u32 .rw, each 0x3410 0x344F 3 .u32 .ro,
   each 0x3410 0x344F 4 .enum8 .ro, each 0x3410 0x344F 5 .u16 .ro, span 0x3410 0x344F 6 9 .u64 .clr,
   each 0x3480 0x349F 1 .u64 .rw, span 0x3480 0x349F 2 3 .u64 .clr,
   one 0x3500 1 .enum8 .ro, span 0x3500 0x3500 2 3 .u16 .ro, one 0x3500 4 .enum8 .ro, span 0x3500 0x3500 5 6 .u64 .clr,
   one 0x3500 7 .u64 .ro, one 0x3500 8 .u32 .rw, span 0x3500 0x3500 9 0x0B .u64 .clr, one 0x3501 1 .u64 .clr,
   one 0x3502 1 .cmd .cmd, span 0x3502 0x3502 2 3 .u16 .rw, one 0x3502 4 .u8 .rw, span 0x3502 0x3502 5 6 .enum8 .ro,
   span 0x3502 0x3502 7 8 .u8 .rw, one 0x3502 9 .u64 .clr, one 0x3502 0x0A .u32 .ro,
   each 0x3600 0x37FF 1 .enum8 .ro, each 0x3600 0x37FF 2 .u16 .rw, each 0x3600 0x37FF 3 .u64 .rw, each 0x3600 0x37FF 4 .u8 .rw,
   each 0x3600 0x37FF 5 .u32 .ro, each 0x3600 0x37FF 6 .u32 .clr, span 0x3600 0x37FF 7 0x0A .u64 .clr,
   each 0x3600 0x37FF 0x0B .u32 .ro, each 0x3600 0x37FF 0x0C .u64 .clr]

/-- Connection, queue and ring entries (07 Table 7.13). -/
def rowsConn : List EntryRow :=
  [one 0x3800 1 .cmd .cmd, one 0x3800 2 (.record 32) .rw, one 0x3800 3 .u16 .rw, one 0x3800 4 .u32 .ro, one 0x3800 5 .u16 .ro,
   one 0x3801 1 .enum8 .ro, one 0x3801 2 .u8 .ro, one 0x3801 3 .u8 .clr, one 0x3801 4 .u8 .ro, one 0x3801 5 .u64 .ro,
   one 0x3801 6 .u64 .clr, one 0x3801 7 .u16 .ro, span 0x3802 0x3802 1 4 .u64 .clr,
   each 0x3810 0x384F 1 .u64 .rws, each 0x3810 0x384F 2 .u8 .rws, span 0x3810 0x384F 3 5 .u16 .rws,
   each 0x3810 0x384F 6 .cmd .cmd, each 0x3810 0x384F 7 .enum8 .ro, each 0x3810 0x384F 8 .u32 .ro,
   each 0x3810 0x384F 9 .u32 .rw, span 0x3810 0x384F 0x0A 0x0C .u64 .clr, each 0x3810 0x384F 0x0D .u32 .clr,
   each 0x3810 0x384F 0x0E .u64 .clr,
   each 0x3850 0x388F 1 .u64 .rws, each 0x3850 0x388F 2 .u8 .rws, each 0x3850 0x388F 3 .cmd .cmd,
   each 0x3850 0x388F 4 .enum8 .ro, each 0x3850 0x388F 5 .u32 .rw, each 0x3850 0x388F 6 .u32 .ro,
   each 0x3850 0x388F 7 .u16 .ro,
   one 0x3890 1 .u16 .rw, one 0x3890 2 .u64 .ro, one 0x3890 3 .u16 .ro, span 0x3890 0x3890 4 6 .u64 .clr,
   one 0x3891 0 .u64 .clr]

/-- Step engine, timer, capture and trigger entries (02 Table 2.9, 10 Table 10.11). -/
def rowsStep : List EntryRow :=
  [span 0x3C00 0x3C00 1 3 .enum8 .rws, one 0x3C01 0 .u32 .rw, one 0x3C02 1 .u64 .ro, one 0x3C02 2 .enum8 .ro,
   one 0x3C02 3 .u8 .ro, span 0x3C03 0x3C03 1 3 .cmd .cmd, span 0x3C04 0x3C04 1 7 .u64 .clr,
   one 0x3C05 1 .cmd .cmd, one 0x3C05 2 .u64 .rw, one 0x3C05 3 .enum8 .ro, one 0x3C05 4 .bool .ro, one 0x3C05 5 .u64 .ro,
   one 0x3C05 6 .u64 .clr, one 0x3C06 1 .u8 .rws, one 0x3C06 2 .u64 .clr,
   each 0x3C10 0x3C2F 1 .bool .rw, each 0x3C10 0x3C2F 2 .enum8 .rw, span 0x3C10 0x3C2F 3 6 .u32 .rw,
   span 0x3C10 0x3C2F 7 8 .u16 .rw, each 0x3C10 0x3C2F 9 .u8 .rw, each 0x3C10 0x3C2F 0x0A .u32 .clr,
   each 0x3C10 0x3C2F 0x0B .u8 .rw, each 0x3C10 0x3C2F 0x0C .u64 .ro, each 0x3C10 0x3C2F 0x0D .u64 .clr,
   each 0x3C10 0x3C2F 0x0E .u32 .clr,
   each 0x3C40 0x3C4F 1 .enum8 .rw, each 0x3C40 0x3C4F 2 .u16 .rw, each 0x3C40 0x3C4F 3 .u8 .rw,
   each 0x3C40 0x3C4F 4 .u16 .rw, each 0x3C40 0x3C4F 5 .bool .ro, span 0x3C40 0x3C4F 6 7 .u64 .clr,
   span 0x3C50 0x3C57 1 2 .u8 .rw, each 0x3C50 0x3C57 3 .u16 .rw, each 0x3C50 0x3C57 4 .u8 .wo, each 0x3C50 0x3C57 5 .bool .ro,
   each 0x3C50 0x3C57 6 .u32 .clr]

/-- Stream entries (10 Table 10.10). -/
def rowsStream : List EntryRow :=
  [each 0x4000 0x4001 1 .cmd .cmd, each 0x4000 0x4001 2 .enum8 .ro, span 0x4000 0x4001 3 4 .u64 .rw,
   each 0x4000 0x4001 5 .bool .rw, each 0x4000 0x4001 6 .u16 .rw, each 0x4000 0x4001 7 .bool .rw,
   span 0x4000 0x4001 0x10 0x1B .u64 .clr,
   one 0x4010 1 .u16 .rw, one 0x4010 2 .u64 .rw,
   span 0x4080 0x40FF 1 2 .u64 .rws, span 0x4080 0x40FF 3 4 .u32 .rws, span 0x4080 0x40FF 5 6 .u16 .rws,
   each 0x4080 0x40FF 7 .cmd .cmd, each 0x4080 0x40FF 8 .enum8 .ro, each 0x4080 0x40FF 9 .u64 .ro,
   span 0x4080 0x40FF 0x10 0x18 .u64 .clr]

/-- The rows of an index range's owner (Table 11.6). -/
def rowsOf (idx : Nat) : List EntryRow :=
  if idx ≤ 0x00FF then rowsHost
  else if idx ≤ 0x03FF then rowsHealth
  else if idx ≤ 0x0BFF then rowsPower
  else if idx ≤ 0x0FFF then rowsHealth
  else if idx ≤ 0x1FFF then rowsCore
  else if idx ≤ 0x2FFF then rowsFabric
  else if idx ≤ 0x31FF then rowsHost
  else if idx ≤ 0x33FF then rowsCore
  else if idx ≤ 0x37FF then rowsMemory
  else if idx ≤ 0x3BFF then rowsConn
  else if idx ≤ 0x3FFF then rowsStep
  else if idx ≤ 0x43FF then rowsStream
  else if idx ≤ 0x47FF then rowsCore
  else if idx ≤ 0x4BFF then rowsFabric
  else []

/-- The row of an entry; none where no table defines it (R367). -/
def entryRow (idx sub : Nat) : Option EntryRow :=
  (rowsOf idx).find? fun r => decide (r.lo ≤ idx) && decide (idx ≤ r.hi) && decide (r.slo ≤ sub) && decide (sub ≤ r.shi)

/-- The HKC serves the entry (08 R282, 12 R433); the DICT island serves every other. -/
def hkcServed (idx sub : Nat) : Bool :=
  (decide (0x0C00 ≤ idx) && decide (idx ≤ 0x0C02)) || (decide (0x0200 ≤ idx) && decide (idx ≤ 0x0206)) ||
    (decide (idx = 0x2000) && decide (sub = 2)) || (decide (0x4820 ≤ idx) && decide (idx ≤ 0x4827))

/-- The 8 bytes of INFO (R376). -/
def infoBytes (r : EntryRow) (idx sub : Nat) : Bytes :=
  [BitVec.ofNat 8 (typeCode r.ty), BitVec.ofNat 8 (accCode r.acc), if hkcServed idx sub then 1 else 0, 0] ++
    leBytes 2 (typeMax r.ty) ++ [0, 0]

/-- The command codes that a CMD entry lists. -/
def cmdCodes (idx sub : Nat) : List Nat :=
  if idx = 0x3C03 then [1]
  else if idx = 0x3C05 ∨ (0x3100 ≤ idx ∧ idx ≤ 0x3117) ∨ idx = 0x0C02 ∨ (0x3810 ≤ idx ∧ idx ≤ 0x384F) ∨ idx = 0x3502 then
    [1, 2, 3]
  else if idx = 0x3400 then [1, 2, 3, 4]
  else if idx = 0x0120 then [1]
  else if 0x0400 ≤ idx ∧ idx ≤ 0x0459 then [1, 2, 3, 0x83]
  else if sub ≤ 7 then [1, 2]
  else []

end Sys2Proof.Machine
end

