-- ==== Sys2Proof/Machine/Dict.lean ====
section
/-! DEFINITION. READ, WRITE and INFO of a dictionary entry on a path (11 R367 to R376, R392 to R394), from whichever
    path the operation comes. -/

namespace Sys2Proof.Machine

/-! Which copy of an entry a path addresses -/

/-- Entries that exist once per access path and are registers (11 R373). -/
def perPath (idx sub : Nat) : Bool :=
  (decide (sub = 1) && (decide (idx = 0x1100) || decide (idx = 0x1200) || decide (idx = 0x3890) || decide (idx = 0x2100) ||
    decide (idx = 0x2120) || decide (idx = 0x4010))) ||
  (decide (idx = 0x3800) && (decide (sub = 3) || decide (sub = 4))) || (decide (idx = 0x3400) && decide (sub = 3)) ||
  (decide (idx = 0x3502) && decide (2 ≤ sub) && decide (sub ≤ 4)) || (decide (idx = 0x0102) && decide (sub = 4)) ||
  decide (idx = 0x2400) || decide (idx = 0x3120)

/-- Records and BLOBs that a path keeps for itself. -/
def pathBlob (idx sub : Nat) : Bool :=
  (decide (idx = 0x3000) && decide (sub = 1)) || (decide (idx = 0x3800) && decide (sub = 2)) ||
    (decide (idx = 0x3400) && decide (sub = 2)) ||
    (decide (idx = 0x0C02) && (decide (sub = 1) || decide (sub = 2) || decide (sub = 4)))

/-- The physical tile that serves the virtual tile of TILE.SEL (04 R163). -/
def State.selTile (s : State) (p : Path) : Option Nat := s.servedBy (s.rn (rk (sender p) 0x1200 1))
/-- The connection that CONN.HANDLE names (07 R245). -/
def State.selConn (s : State) (p : Path) : Option Nat := s.connOf (s.rn (rConnHandle p))
/-- The queue that COMB.SEL names. -/
def State.selComb (s : State) (p : Path) : Nat := s.rn (rk (sender p) 0x3890 1)

/-- CORE.* entries other than CORE.SEL (03 R132, 04 R163, 06 R210). -/
def coreEntry (idx sub : Nat) : Bool :=
  (decide (idx = 0x1100) && decide (sub ≠ 1)) || decide (idx = 0x1101) || decide (idx = 0x4401)

/-- The unit that an entry describes is there (03 R132, 04 R163, 07 R245). -/
def State.entryThere (s : State) (p : Path) (idx sub : Nat) : Bool :=
  if coreEntry idx sub then (s.selCore p).isSome
  else if idx = 0x1200 ∧ sub ≠ 1 then (s.selTile p).isSome
  else if idx = 0x3801 then (s.selConn p).isSome
  else true

/-- The bank of the register that an entry addresses on a path. -/
def State.bankOf (s : State) (p : Path) (idx sub : Nat) : Nat :=
  if perPath idx sub then sender p
  else if idx = 0x1200 then 16 + (s.selTile p).getD 0
  else if idx = 0x2401 then 16 + s.rn (rTsel p)
  else if 0x2110 ≤ idx ∧ idx ≤ 0x2114 then 96 + s.rn (rk (sender p) 0x2100 1)
  else if idx = 0x2121 then 176 + s.rn (rk (sender p) 0x2120 1)
  else 0

/-- The key of that register. -/
def State.entryKey (s : State) (p : Path) (idx sub : Nat) : Nat := rk (s.bankOf p idx sub) idx sub

/-! Reading -/

/-- The window word of a core counter. -/
def coreWord (idx sub : Nat) : Nat :=
  if idx = 0x1100 then (if sub = 5 then aSAT else if sub = 6 then aSTALLS else if sub = 7 then aFIRES else aBEATS)
  else if idx = 0x1101 then (if sub = 1 then aAXMISS else aTGTMISS)
  else [aDSAT, aDSAT, aWSAT, aRSAT, aNSAT, aZSUM, aTSAT, aMODEV, aMODSAT, aMISSED, aLASTEPOCH, aMNBEATS].getD sub 0

/-- A CORE.* entry of physical core k. -/
def State.readCore (s : State) (k idx sub : Nat) : Nat :=
  let c := s.core k
  if idx = 0x1100 ∧ sub = 2 then c.state.code
  else if idx = 0x1100 ∧ sub = 4 then c.cause.toNat
  else if idx = 0x1100 ∧ sub = 9 then k / 136 * 256 + k % 136
  else (c.rd64 (coreWord idx sub)).toNat

/-- A CONN.* status entry of context i. -/
def State.readConn (s : State) (i sub : Nat) : Nat :=
  let c := s.conn i
  match sub with
  | 1 => c.state.code
  | 2 => if c.dkind = 0 then (s.queueAt c.dest c.q).held else 0
  | 3 => c.qhwm
  | 4 => if c.edkind = 0 ∧ s.sourceHere c then 32 - c.taken else 0
  | 5 => c.sent.toNat
  | 6 => c.blockT.toNat
  | _ => c.tokens

/-- A COMB.* entry of queue q. -/
def State.readComb (s : State) (q sub : Nat) : Nat :=
  let b := s.comb q
  match sub with
  | 2 => b.round.toNat
  | 3 => b.count
  | 4 => b.sat.toNat
  | 5 => b.aborted.toNat
  | _ => b.blockT.toNat

/-- FAB.PORT[p].RX_NEXT: 12 bits per virtual channel. -/
def State.rxNextWord (s : State) (p : Nat) : Nat :=
  ((List.range 4).map fun v => Tab.get 0 (s.port p).rxNext v % 4096 * 2 ^ (12 * v)).sum

/-- SYS.ROUTE_PENDING. -/
def State.routesPending (s : State) : Nat :=
  ((List.range 8).map fun e => if (Tab.get none s.routes e).isSome then 2 ^ e else 0).sum

/-- An entry of the identity, bring-up, power and monitor ranges that no register of its own holds. -/
def State.readHealth (s : State) (idx sub : Nat) : Option Nat :=
  if idx = 0x0000 ∧ sub = 4 then some s.fuses.grade.toNat
  else if idx = 0x0000 ∧ sub = 5 then some s.fuses.serial.toNat
  else if idx = 0x0001 then some 1
  else if idx = 0x0002 then some schema
  else if idx = 0x0100 ∧ sub = 1 then some s.boot.stage.code
  else if idx = 0x0112 ∧ sub = 5 then some s.fState
  else if idx = 0x0830 ∧ sub = 1 then some (if s.mon.vwarn then 1 else 0)
  else if idx = 0x0C00 ∧ sub = 2 then some s.fuses.arb
  else if idx = 0x0C00 ∧ sub = 4 then some (if s.signedMode then 1 else 0)
  else none

/-- An entry of the fabric and system ranges that no register holds. -/
def State.readFabric (s : State) (p : Path) (idx sub : Nat) : Option Nat :=
  if 0x2010 ≤ idx ∧ idx ≤ 0x2016 ∧ sub = 8 then some (s.rxNextWord (idx - 0x2010))
  else if 0x2010 ≤ idx ∧ idx ≤ 0x2016 ∧ 0x20 ≤ sub ∧ sub ≤ 0x23 then
    some ((Tab.get [] (s.node (70 + (idx - 0x2010))).out (sub - 0x20)).map Item.ingress).sum
  else if 0x2110 ≤ idx ∧ idx ≤ 0x2114 ∧ 5 ≤ sub ∧ sub ≤ 8 then
    some (Tab.get [] (s.rtr (s.rn (rk (sender p) 0x2100 1))).inb (4 * (idx - 0x2110) + (sub - 5))).length
  else if idx = 0x4800 then
    (if sub = 1 then some s.dev else if sub = 4 then some 1 else if sub = 5 then some s.joinState
     else if sub = 0x0A then some s.tbState else if sub = 0x0B then some s.routesPending else none)
  else none

/-- An entry of the DMA, memory, connection, ring, step, learning and stream ranges that no register holds. -/
def State.readUnit (s : State) (p : Path) (idx sub : Nat) : Option Nat :=
  if idx = 0x3200 ∧ sub = 0 then some 255
  else if idx = 0x3400 ∧ sub = 4 then some ((List.range 64).filter fun c => decide ((s.chan c).state = .free)).length
  else if idx = 0x3400 ∧ sub = 5 then some (1792 - 4 * s.stageUsed)
  else if 0x3410 ≤ idx ∧ idx ≤ 0x344F ∧ sub = 1 then
    some (match (s.chan (idx - 0x3410)).state with | .free => 0 | .stopped => 1 | .running => 2 | .stopping => 3)
  else if 0x3410 ≤ idx ∧ idx ≤ 0x344F ∧ sub = 5 then
    some (if (s.chan (idx - 0x3410)).state = .free then 0xFFFF else (s.chan (idx - 0x3410)).handle (idx - 0x3410))
  else if idx = 0x3502 ∧ sub = 5 then some s.swapState
  else if 0x3600 ≤ idx ∧ idx ≤ 0x37FF ∧ sub = 1 then some (s.vtState (idx - 0x3600))
  else if idx = 0x3800 ∧ sub = 5 then some (4096 - (s.conns.filter fun e => decide (e.2.state ≠ .free)).length)
  else if idx = 0x3801 then (s.selConn p).map fun i => s.readConn i sub
  else if 0x3810 ≤ idx ∧ idx ≤ 0x384F ∧ sub = 7 then some (s.hringState (idx - 0x3810))
  else if idx = 0x3890 ∧ sub ≠ 1 then some (s.readComb (s.selComb p) sub)
  else if idx = 0x3C02 ∧ sub = 1 then some s.eng.count.toNat
  else if idx = 0x3C02 ∧ sub = 2 then some s.eng.phase.code
  else if idx = 0x3C05 ∧ sub = 3 then some s.reconf.state.code
  else if idx = 0x3C05 ∧ sub = 4 then some (if s.reconf.cgen then 1 else 0)
  else if idx = 0x4010 ∧ sub = 2 then some (s.schAt (s.rn (rSchSel p))).toNat
  else if idx = 0x4400 ∧ sub = 2 then some s.lrn.epoch.toNat
  else if idx = 0x4400 ∧ sub = 4 then some s.lrnState
  else none

/-- The number that an entry of fixed size reads as. -/
def State.readNum (s : State) (p : Path) (idx sub : Nat) : Nat :=
  if coreEntry idx sub then (match s.selCore p with | some k => s.readCore k idx sub | none => 0)
  else if idx = 0x1200 ∧ sub = 6 then s.dlyHeld ((s.selTile p).getD 0)
  else
    let r := if idx < 0x1000 then s.readHealth idx sub
      else if idx < 0x3000 ∨ 0x4800 ≤ idx then s.readFabric p idx sub
      else s.readUnit p idx sub
    r.getD (s.rn (s.entryKey p idx sub))

/-- HOST.SESSION of path number n (11 Table 11.13); all but COUNT read 0 while it has none. -/
def State.sessionRec (s : State) (n : Nat) : Bytes :=
  let count := s.rn (rSessions n)
  match (s.pathN n).session with
  | some q =>
    leBytes 8 (q.gen.toNat * 2 ^ 58 + schema * 2 ^ 42 + n % 16 * 2 ^ 38) ++ leBytes 8 (q.features.toNat * 2 ^ 32 + count) ++
      leBytes 8 q.driver.toNat ++ leBytes 8 0
  | none => leBytes 8 0 ++ leBytes 8 count ++ leBytes 16 0

/-- A bit string as bytes, bit 0 first. -/
def bitBytes (n : Nat) (f : Nat → Bool) : Bytes :=
  leBytes n (((List.range (8 * n)).map fun i => if f i then 2 ^ i else 0).sum)

/-- The DEFECT.MAP record of tile t (12 Table 12.4a). -/
def State.defectRec (s : State) (t : Nat) : Bytes :=
  let failed := fun (c : Nat) => decide (c < 136) &&
    (s.fuses.cores.contains (136 * t + c) || s.boot.stCores.contains (136 * t + c))
  let flags := (if s.fuses.tiles.contains t then 1 else 0) + (if s.boot.stTiles.contains t then 2 else 0) +
    (if s.boot.markTiles.contains t then 4 else 0)
  bitBytes 17 failed ++ [BitVec.ofNat 8 flags] ++ leBytes 2 (Tab.get 0 s.boot.rows t) ++ List.replicate 12 0

/-- DEFECT.MARKS for tile t: bits 0 to 135 cores, bit 136 the tile. -/
def State.marksOf (s : State) (t : Nat) : Bytes :=
  bitBytes 18 fun i => if i = 136 then s.boot.markTiles.contains t
    else decide (i < 136) && s.boot.markCores.contains (136 * t + i)

/-- A FAULT.LOG record. -/
def State.logRec (s : State) (i : Nat) : Bytes :=
  let r := Tab.get (0, 0, 0, 0) s.log.recs i
  leBytes 8 r.1.toNat ++ leBytes 8 r.2.1.toNat ++ leBytes 8 r.2.2.1.toNat ++ leBytes 8 r.2.2.2.toNat

/-- The ASCII bytes of a text. -/
def ascii (t : String) : Bytes := t.toList.map fun c => BitVec.ofNat 8 c.toNat

/-- The value of a string, record or BLOB entry of n bytes at most. -/
def State.readBytes (s : State) (p : Path) (idx sub n : Nat) : Bytes :=
  if pathBlob idx sub then s.blob (sender p) idx sub n
  else if idx = 0x0000 then ascii (if sub = 1 then "Lerpias" else if sub = 2 then "EKV8192" else "A1")
  else if idx = 0x0102 then
    (if sub = 1 then ((List.range 70).map s.defectRec).flatten else s.marksOf (argTile (s.rn (rDefectArg p))))
  else if idx = 0x0110 then s.logRec sub
  else if 0x0200 ≤ idx ∧ idx ≤ 0x0206 then (s.port (idx - 0x0200)).qual
  else if idx = 0x0C00 then (if sub = 1 then s.fuses.keyHash else if sub = 3 then s.fuses.custHash else s.boot.meas)
  else if idx = 0x0C01 then (if sub = 1 then Config.identityPubkey else Config.identityCert)
  else if idx = 0x0C10 then (if sub = 1 then s.reconf.hash else s.reconf.joinHash)
  else if idx = 0x3000 then s.sessionRec (sender p)
  else if 0x3100 ≤ idx ∧ idx ≤ 0x3117 then ((s.mbox (idx - 0x3100)).staged.getD [])
  else fixLen n (s.peer (idx - 0x4820)).hash

/-- The whole value of an entry (R368). -/
def State.readValue (s : State) (p : Path) (r : EntryRow) (idx sub : Nat) : Bytes :=
  match r.ty with
  | .str | .record _ | .blob _ => s.readBytes p idx sub (typeMax r.ty)
  | t => leBytes (typeMax t) (s.readNum p idx sub)

/-- READ of an entry; three entries change when they are read (10 R352, 11 R383, R391). -/
def readAct (p : Path) (r : EntryRow) (idx sub : Nat) : Act :=
  if 0x3100 ≤ idx ∧ idx ≤ 0x3117 ∧ sub = 2 then mbLockReadAct p (idx - 0x3100)
  else if idx = 0x3120 then mbNoticeAct p (sub - 1)
  else if 0x3C10 ≤ idx ∧ idx ≤ 0x3C2F ∧ sub = 0x0C then tmrCaptAct (idx - 0x3C10)
  else fun s => .done .ok (s.readValue p r idx sub) s

/-! Sessions (R392 to R394) -/

/-- ID.FEATURES, and the features that path p is offered. -/
def State.offered (s : State) (p : Path) : Nat :=
  let all := s.rn rFeatures
  if p = .pcie then all else all - all % 2

/-- HOST.CMD = 1 (R393, R394). -/
def hostOpenAct (p : Path) : Act := fun s =>
  let w := descWords (s.blob (sender p) 0x3000 1 32)
  let asked := fld w.2.1 63 32
  let version := decide (fld w.1 63 62 ≠ 0) || decide (1 < fld w.1 61 58) || decide (fld w.1 57 54 < 1) ||
    decide (1 < fld w.1 53 46) || decide (fld w.1 45 38 < 1)
  guardAct [((s.path p).session.isSome, .state),
    (decide (4 ≤ asked) || decide (fld w.1 37 0 ≠ 0) || decide (fld w.2.1 31 0 ≠ 0) || decide (w.2.2.2 ≠ 0), .rsvdSet),
    (version, .version)] s fun s =>
      okAct (s.openSession (sender p) (BitVec.ofNat 32 (Nat.land asked (s.offered p))) w.2.2.1)

/-- HOST.CMD = 2 (R389, R392). -/
def hostCloseAct (p : Path) : Act := fun s =>
  guardAct [((s.path p).session.isNone, .state)] s fun s => okAct (s.resetPath (sender p))

/-! Writing -/

/-- WINBASE refuses v (R362). -/
def badWinbase (v : Nat) : Bool := decide (v % 2 ^ 30 ≠ 0) || decide (2 ^ 44 < v + 64 * 2 ^ 30)

/-- HOST.WINBASE. -/
def rWinbase : Nat := rk 0 0x3001 1

/-- HOST.WINBASE = v. -/
def winbaseAct (v : Nat) : Act := fun s => guardAct [(badWinbase v, .range)] s fun s => okAct (s.wn rWinbase v)

/-- A vector that a naming entry refuses (R365). -/
def badVec (v : Nat) : Bool := decide (255 < v) && decide (v ≠ 0xFFFF)

/-- DLY_BASE or DLY_DEPTH of tile t refuses v (04 R160). -/
def State.badDelay (s : State) (t sub v : Nat) : Bool :=
  let base := if sub = 2 then v else s.dlyBase t
  let depth := if sub = 3 then v else s.dlyDepth t
  (decide (sub = 2) && decide (31 < v)) || !([0, 16, 32, 64, 128, 256].contains depth) || decide (0x200000 < base * 0x10000 + depth * 0x1000) ||
    s.cores.any fun e => decide (e.1 / 136 = t) && e.2.committed &&
      overlaps (fld e.2.spill 15 7 * 0x1000) (fld e.2.spill 6 0 * 0x1000) (base * 0x10000) (depth * 0x1000)

/-- DMA.LINE[l].ROUTE refuses w with RANGE (09 R306). -/
def badLine (w : W64) : Bool :=
  let kind := fld w 63 61
  let num := fld w 60 56
  decide (4 < kind) || (decide (kind = 1) && decide (23 < num)) || (decide (kind ≠ 1) && decide (kind ≠ 2) && decide (num ≠ 0)) ||
    decide (128 < fld w 46 40 + 2 ^ fld w 15 13)

/-- A ring SIZE that is no log2 of 4 KiB to 256 MiB (07 Table 7.13, 12 Table 12.11; log 60). -/
def badSize (v : Nat) : Bool := decide (v < 12) || decide (28 < v)

/-- OSC.SCALE refuses v: not a finite nonzero normal number (05). -/
def badScale (v : Nat) : Bool := decide (v / 2 ^ 23 % 256 = 0) || decide (v / 2 ^ 23 % 256 = 255)

/-- SCTX.CFG = w holds a MODE or KIND that Table 10.2 marks reserved, for an IN context (00 R12). -/
def badSctxCfg (w : W64) : Bool := !bit w 61 && (decide (fld w 59 58 = 3) || decide (fld w 57 56 = 3))

/-- SCTX.CFG = w sets a reserved field, or one that has no meaning for the direction it gives (00 R12, 10 R329). -/
def rsvdSctxCfg (w : W64) : Bool := decide (fld w 20 0 ≠ 0) || (bit w 61 && decide (fld w 59 21 ≠ 0))

/-- A write outside the range that a table states: fabric, power, memory and stream entries. -/
def State.badFabric (s : State) (idx sub v : Nat) : Bool :=
  if idx = 0x2000 ∨ (0x2010 ≤ idx ∧ idx ≤ 0x2016 ∧ sub = 4) then decide (v < 10) || decide (10000 < v)
  else if idx = 0x2100 ∨ idx = 0x2120 ∨ idx = 0x2400 then decide (69 < v)
  else if idx = 0x4800 ∧ sub = 3 then decide (7 < v) && decide (v ≠ 0xFF)
  else if 0x0400 ≤ idx ∧ idx ≤ 0x0459 ∧ sub = 3 then decide (1 < v) || (decide (0x0446 ≤ idx) && decide (v = 0))
  else if idx = 0x0802 then decide (v < 60) || decide (104 < v)
  else if idx = 0x0102 then decide (69 < v / 256 % 128) || (decide (135 < v % 256) && decide (v % 256 < 255))
  else if idx = 0x0112 ∧ sub = 2 then badSize v
  else if idx = 0x0112 ∧ sub = 3 then badVec v
  else if idx = 0x3500 then decide (v < 60) || decide (86400 < v)
  else if idx = 0x3502 then
    (if sub ≤ 3 then decide (511 < v) else if sub = 4 then decide (69 < v)
     else if sub = 7 then decide (31 < v) && decide (v ≠ 0xFF) else decide (7 < v))
  else if 0x3600 ≤ idx ∧ idx ≤ 0x37FF then
    (if sub = 2 then decide (16383 < v) && decide (v ≠ 0xFFFF) else if sub = 3 then decide (v % 4096 ≠ 0)
     else decide (v ≠ 0) && (decide (v < 8) || decide (24 < v)))
  else if 0x3480 ≤ idx ∧ idx ≤ 0x349F then badLine (w64 v)
  else if idx = 0x4000 ∨ idx = 0x4001 then
    (if sub = 6 then decide (v < 64) || decide (9216 < v) else if sub = 5 ∨ sub = 7 then decide (1 < v) else false)
  else if idx = 0x4010 then decide (8191 < v)
  else if 0x4080 ≤ idx ∧ idx ≤ 0x40FF then
    (if sub = 1 then badSctxCfg (w64 v) else if sub = 3 then decide (v = 0) || decide (2 ^ 31 ≤ v) else if sub = 4 then decide (s.rn (rk 0 idx 3) < v)
     else if sub = 5 then decide (v = 0) || decide (573 < v) else false)
  else false

/-- A write outside the range that a table states: host, ring, step, timer and core entries. -/
def State.badRangeOf (s : State) (p : Path) (idx sub v : Nat) : Bool :=
  if idx = 0x3001 ∨ (0x3100 ≤ idx ∧ idx ≤ 0x3117 ∧ sub = 7) then badVec v
  else if idx = 0x1200 then
    (if sub = 1 then decide (511 < v) else match s.selTile p with | some t => s.badDelay t sub v | none => false)
  else if idx = 0x3200 then badScale v
  else if 0x3810 ≤ idx ∧ idx ≤ 0x384F then
    (if sub = 2 then badSize v else if sub = 3 then badVec v else if sub = 4 ∨ sub = 5 then decide (v = 0) else false)
  else if 0x3850 ≤ idx ∧ idx ≤ 0x388F ∧ sub = 2 then badSize v
  else if idx = 0x3890 then decide (8191 < v)
  else if idx = 0x3C00 then decide (1 < v) || (decide (sub = 2) && decide (v = 1) && decide (s.rn (rk 0 0x3C02 3) = 3))
  else if idx = 0x3C06 then decide (0 < v ∧ v < 0x20) || decide (0x6F < v)
  else if 0x3C10 ≤ idx ∧ idx ≤ 0x3C2F then
    (if sub = 2 then decide (1 < v) || (decide (v = 1) && decide (idx = 0x3C10))
     else if sub = 7 ∨ sub = 8 then badVec v
     else if sub = 0x0B then decide (v ≠ 0) && (decide (v < 0x10) || decide (0x1F < v)) else false)
  else if 0x3C40 ≤ idx ∧ idx ≤ 0x3C4F then
    (if sub = 2 then decide (v = 0) || decide (256 < v) else if sub = 3 then decide (v = 0) else false)
  else if 0x3C50 ≤ idx ∧ idx ≤ 0x3C57 then (decide (sub ≤ 2) && decide (63 < v) && decide (v ≠ 0xFF))
  else s.badFabric idx sub v

/-- A write that sets a reserved field. -/
def rsvdWrite (idx sub v : Nat) : Bool :=
  if 0x3480 ≤ idx ∧ idx ≤ 0x349F then decide (v % 2 ^ 13 ≠ 0)
  else if (idx = 0x4000 ∨ idx = 0x4001) ∧ (sub = 3 ∨ sub = 4) then decide (2 ^ 48 ≤ v)
  else if idx = 0x0102 then decide (2 ^ 15 ≤ v)
  else if 0x4080 ≤ idx ∧ idx ≤ 0x40FF then
    (if sub = 1 then rsvdSctxCfg (w64 v) else if sub = 2 then decide (v % 2 ^ 16 ≠ 0) else false)
  else false

/-- The owning unit of an RWS entry is stopped (02 R70, 04 R160, 06 R210, 07 R245, 08 R282, 10 R355, 12 R433). -/
def State.unitStopped (s : State) (idx : Nat) : Bool :=
  if idx = 0x0112 then decide (s.rn (fRing 5) = 0)
  else if 0x3810 ≤ idx ∧ idx ≤ 0x384F then !s.hringOn (idx - 0x3810)
  else if 0x3850 ≤ idx ∧ idx ≤ 0x388F then decide (s.rn (dReg (idx - 0x3850) 4) = 0)
  else if 0x4080 ≤ idx ∧ idx ≤ 0x40FF then decide (s.rn (scx (idx - 0x4080) 8) = 0)
  else s.stopped

/-- Conditions of the unit's own state on a write of a plain entry: CLKSRC while the timer counts (10 R344), and the
    image and parking queue of a virtual tile (09 R322). -/
def State.busyUnit (s : State) (idx sub : Nat) : Bool :=
  if 0x3C10 ≤ idx ∧ idx ≤ 0x3C2F ∧ sub = 2 then decide (s.rn (tmr (idx - 0x3C10) 1) ≠ 0)
  else if 0x3600 ≤ idx ∧ idx ≤ 0x37FF ∧ 2 ≤ sub ∧ sub ≤ 4 then
    let v := idx - 0x3600
    (match s.swap with | some w => decide (w.vt = v) || decide (w.next = some v) | none => false) ||
      (decide (s.tileKind v = 2) && decide (0 < s.rn (vtReg v 5)))
  else false

/-- SYS.MEMBERS changes: the path of a peer that leaves is reset, and new JOIN records go out (08 R277, 11 R389). -/
def State.newMembers (s : State) (v : Nat) : State :=
  let gone := (List.range 8).filter fun e => s.isMember e && decide (e ≠ s.dev) && decide (v / 2 ^ e % 2 = 0)
  (gone.foldl (fun s e => s.resetPath (8 + e)) (s.wn rMembers v)).sendJoins

/-- What storing v in a plain entry does beside the register itself. -/
def State.storeNum (s : State) (p : Path) (idx sub v : Nat) : State :=
  if idx = 0x4800 ∧ sub = 2 then s.newMembers v
  else
    let s := s.wn (s.entryKey p idx sub) v
    if idx = 0x3C00 ∨ (idx = 0x4400 ∧ sub = 1) then s.rehash
    else if idx = 0x4800 ∧ sub = 3 then s.sendJoins
    else if idx = 0x0120 then s.whyScrub
    else s

/-- A write of zero to a counter (00 R13). -/
def State.clearNum (s : State) (p : Path) (idx sub : Nat) : State :=
  if coreEntry idx sub then
    (match s.selCore p with | some k => s.updCore k fun c => c.wr64 (coreWord idx sub) 0 | none => s)
  else if idx = 0x3801 then
    (match s.selConn p with
     | some i => s.updConn i fun c => if sub = 3 then { c with qhwm := 0 } else { c with blockT := 0 }
     | none => s)
  else if idx = 0x3890 then
    s.updComb (s.selComb p) fun b =>
      if sub = 4 then { b with sat := 0 } else if sub = 5 then { b with aborted := 0 } else { b with blockT := 0 }
  else
    let s := s.wn (s.entryKey p idx sub) 0
    if idx = 0x0111 ∧ sub = 5 then s.whyRing else s

/-- A CMD write with a code that the entry lists. Two commands take what no write carries: LRN.CMD = 1 its duration,
    which is open, and ADOPT_STEP the leader's STEP.COUNT, which its last JOIN record gave. -/
def cmdAct (p : Path) (idx sub code : Nat) : Act := fun s =>
  if idx = 0x3000 then (if code = 1 then hostOpenAct p s else hostCloseAct p s)
  else if 0x3100 ≤ idx ∧ idx ≤ 0x3117 then
    (let i := idx - 0x3100
     if code = 1 then mbSendAct p i s else if code = 2 then mbDoorbellAct i s else mbResetAct p i s)
  else if idx = 0x0100 then (if code = 1 then bootResetAct s else bootForceAct s)
  else if idx = 0x0102 then markAct p (decide (code = 1)) s
  else if idx = 0x0112 then (if code = 1 then faultRingEnableAct s else faultRingDisableAct s)
  else if idx = 0x0120 then scrubAct s
  else if 0x0400 ≤ idx ∧ idx ≤ 0x0459 then domainAct (idx - 0x0400) (code % 128) (decide (128 ≤ code)) s
  else if idx = 0x0C02 then (if code = 1 then attestAct p s else if code = 2 then arbAct p s else provisionAct p s)
  else if idx = 0x1100 then (if code = 1 then coreFenceAct p s else coreReleaseAct p s)
  else if 0x2010 ≤ idx ∧ idx ≤ 0x2016 then
    (if code = 1 then portTrainAct (idx - 0x2010) s else portDownAct (idx - 0x2010) s)
  else if idx = 0x3400 then
    (if code = 1 then dmaOpenAct p s else if code = 2 then dmaStartAct p s else if code = 3 then dmaStopAct p s
     else dmaCloseAct p s)
  else if idx = 0x3502 then (if code = 1 then swapOutAct p s else if code = 2 then swapInAct p s else swapExchangeAct p s)
  else if idx = 0x3800 then (if code = 1 then openAct p s else closeAct p s)
  else if 0x3810 ≤ idx ∧ idx ≤ 0x384F then
    (let r := idx - 0x3810
     if code = 1 then hringEnableAct r s else if code = 2 then hringDisableAct r s else hringForceAct r s)
  else if 0x3850 ≤ idx ∧ idx ≤ 0x388F then
    (if code = 1 then dringEnableAct (idx - 0x3850) s else dringDisableAct (idx - 0x3850) s)
  else if idx = 0x3C03 then (if sub = 1 then runAct s else if sub = 2 then stopAct s else fenceAct s)
  else if idx = 0x3C05 then (if code = 3 then cancelAct s else commitAct p (decide (code = 2)) s)
  else if idx = 0x4000 ∨ idx = 0x4001 then (if code = 1 then spUpAct (idx - 0x4000) s else spDownAct (idx - 0x4000) s)
  else if 0x4080 ≤ idx ∧ idx ≤ 0x40FF then
    (if code = 1 then sctxEnableAct (idx - 0x4080) s else sctxDisableAct (idx - 0x4080) s)
  else if idx = 0x4400 then
    (if code = 1 then lrnMidnightAct ⟨0, false⟩ 0 s else lrnClearAct s)
  else if idx = 0x4800 then
    (if code = 1 then rejoinAct s else adoptAct (s.rd (rk 0 (0x4820 + s.rn rLeader) 7)) s)
  else .refuse .range

/-- What the text of a CMD entry lets refuse any write to it, whatever its code, with a status below RANGE: a commit that is
    ARMED or in its window, a swap in progress, a domain in ENTERING or WAKING (00 R17, 02 R81, 09 R314, 13 R438). -/
def State.cmdBusy (s : State) (idx : Nat) : Bool :=
  if idx = 0x3C05 then decide (s.reconf.state = .armed) || decide (s.reconf.state = .window)
  else if idx = 0x3502 then s.swap.isSome
  else if 0x0400 ≤ idx ∧ idx ≤ 0x0459 then
    decide (s.rn (rDomain (idx - 0x0400)) = 3) || decide (s.rn (rDomain (idx - 0x0400)) = 4)
  else false

/-- Entries whose write is more than storing a value, with the value v of the bytes d. -/
def specialAct (p : Path) (idx sub v : Nat) (d : Bytes) : Option Act :=
  if idx = 0x3001 ∧ sub = 1 then some (winbaseAct v)
  else if 0x3100 ≤ idx ∧ idx ≤ 0x3117 ∧ sub ≠ 7 then
    (let i := idx - 0x3100
     some (if sub = 1 then mbReceiverAct i v else if sub = 2 then mbLockWriteAct p i v
       else if sub = 3 then mbMsgAct p i d else mbConsAct p i v))
  else if idx = 0x0112 ∧ sub = 7 then some (faultConsAct v)
  else if idx = 0x0801 then some (extremeAct false (sub - 1) v)
  else if idx = 0x0811 then some (extremeAct true (sub - 1) v)
  else if 0x2200 ≤ idx ∧ idx ≤ 0x23FF then some (mapTileAct (idx - 0x2200) (w64 v))
  else if idx = 0x2401 then some (mapCoreAct p sub v)
  else if 0x4810 ≤ idx ∧ idx ≤ 0x4817 then some (routeAct (idx - 0x4810) (w64 v))
  else if 0x3410 ≤ idx ∧ idx ≤ 0x344F then some (dmaProdAct (idx - 0x3410) v)
  else if 0x3810 ≤ idx ∧ idx ≤ 0x384F ∧ sub = 9 then some (hringConsAct (idx - 0x3810) v)
  else if 0x3850 ≤ idx ∧ idx ≤ 0x388F ∧ sub = 5 then some (dringProdAct (idx - 0x3850) v)
  else if idx = 0x3C01 then some (periodAct v)
  else if idx = 0x4010 ∧ sub = 2 then some (schEntryAct p (w64 v))
  else if 0x3C10 ≤ idx ∧ idx ≤ 0x3C2F then
    (let n := idx - 0x3C10
     if sub = 1 then some (tmrEnAct n v) else if sub = 3 then some (tmrCountAct n v)
     else if sub = 5 ∨ sub = 6 then some (tmrCmpAct n (sub - 5) v) else if sub = 9 then some (tmrFlagsAct n v) else none)
  else if 0x3C40 ≤ idx ∧ idx ≤ 0x3C4F ∧ sub = 1 then some (capinAct (idx - 0x3C40) .edge v)
  else if 0x3C40 ≤ idx ∧ idx ≤ 0x3C4F ∧ sub = 4 then some (capinAct (idx - 0x3C40) .prescale v)
  else if 0x3C50 ≤ idx ∧ idx ≤ 0x3C57 ∧ sub = 4 then some (trgForceAct (idx - 0x3C50) v)
  else none

/-- A reply under a refusal of the dictionary itself: the lowest code is reported, and nothing happens (00 R17). -/
def under (st : Status) (r : Reply) : Reply :=
  if st = .ok then r
  else match r with
    | .refuse e => .refuse (Status.pick e st)
    | .done e _ _ => .refuse (Status.pick e st)
    | .wait _ _ => .refuse st

/-- What the dictionary itself refuses in a write of d (R368, R369). -/
def State.writeStatus (s : State) (r : EntryRow) (idx sub : Nat) (d : Bytes) : Status :=
  let v := leNat d
  let code := r.acc = .cmd
  pickAll
    [(decide (r.acc = .ro), .access), (badLength r.ty d.length, .type),
     (decide (r.acc = .clr) && decide (v ≠ 0), .range), (decide code && !(cmdCodes idx sub).contains v, .range),
     (decide (r.ty = .bool) && decide (1 < v), .range),
     (decide (r.acc = .rws) && !s.unitStopped idx, .state)]

/-- The write itself, under no refusal of the dictionary. -/
def storeAct (p : Path) (r : EntryRow) (idx sub : Nat) (d : Bytes) : Act :=
  let v := leNat d
  match r.acc with
  | .ro => okAct
  | .cmd => if (cmdCodes idx sub).contains v then cmdAct p idx sub v else fun s => guardAct [(s.cmdBusy idx, .busy)] s okAct
  | .clr => fun s => okAct (s.clearNum p idx sub)
  | _ =>
    if pathBlob idx sub then fun s => okAct (s.setBlob (sender p) idx sub d)
    else match specialAct p idx sub v d with
      | some a => a
      | none => fun s =>
        guardAct [(s.badRangeOf p idx sub v, .range), (s.busyUnit idx sub, .state), (rsvdWrite idx sub v, .rsvdSet)] s
          fun s => okAct (s.storeNum p idx sub v)

/-- WRITE of d to an entry. -/
def writeAct (p : Path) (r : EntryRow) (idx sub : Nat) (d : Bytes) : Act := fun s =>
  under (s.writeStatus r idx sub d) (storeAct p r idx sub d s)

/-- One operation on an entry of this device: 1 READ, 2 WRITE, 3 INFO, which asks for no unit but that of a CORE.* entry
    (03 R132, 11 R376; log 65). The diagnostic range holds entries that this
    manual does not describe (R372). -/
def dictAct (p : Path) (op idx sub : Nat) (d : Bytes) : Act := fun s =>
  if 0xF000 ≤ idx then
    match Config.diagnostic idx sub with
    | none => .refuse .noEntry
    | some info =>
      if op = 2 then .refuse .access
      else if op = 3 then .done .ok ([info.headD 0, 1] ++ fixLen 6 (info.drop 2)) s
      else .done .ok ((Config.diagnosticValue s.free idx sub).take 4096) { s with free := s.free + 1 }
  else
    match entryRow idx sub with
    | none => .refuse .noEntry
    | some r =>
      if op = 3 ∧ !(coreEntry idx sub && (s.selCore p).isNone) then .done .ok (infoBytes r idx sub) s
      else if !s.entryThere p idx sub then
        .refuse .noEntry
      else if op = 1 then (if r.acc = .wo ∨ r.acc = .cmd then .refuse .access else readAct p r idx sub s)
      else writeAct p r idx sub d s

end Sys2Proof.Machine
end

