-- ==== Sys2Proof/Machine/Host.lean ====
section
/-! DEFINITION. The host's PCIe function with BAR0 and BAR2 (11 R356 to R366, R487), the dictionary window (R374 to R376),
    the SDIO function (R377 to R379), the management channel (R380, R381), sessions (R392 to R394), and what waits for the
    HKC (R371, 12 R420, 13 R443). -/

namespace Sys2Proof.Machine

/-! The dictionary window -/

/-- OP of CTL. -/
def ctlOp (c : W64) : Nat := fld c 15 13
/-- TAG of CTL. -/
def ctlTag (c : W64) : Nat := fld c 23 16
/-- LEN of CTL. -/
def ctlLen (c : W64) : Nat := fld c 12 0
/-- DEV of ADDR. -/
def addrDev (a : W64) : Nat := fld a 7 4

/-- A reserved field of ADDR or CTL is nonzero. -/
def winRsvd (addr ctl : W64) : Bool := decide (fld addr 63 32 ≠ 0) || decide (fld addr 3 0 ≠ 0) || decide (fld ctl 63 24 ≠ 0)

/-- The value that a WRITE carries: LEN bytes of DATA, and none for a LEN that fits no entry. -/
def winValue (ctl : W64) (data : Bytes) : Bytes :=
  if ctlOp ctl ≠ 2 ∨ 4096 < ctlLen ctl then [] else fixLen (ctlLen ctl) data

/-- The operation writes a CMD entry. -/
def cmdWrite (op idx sub : Nat) : Bool :=
  decide (op = 2) && (match entryRow idx sub with | some r => decide (r.acc = .cmd) | none => false)

/-- Forward an operation of the PCIe window to device dev over VC3 (R380). -/
def forwardAct (dev tag op idx sub : Nat) (d : Bytes) : Act := fun s =>
  let granted := match (s.path .pcie).session with | some q => q.features.getLsbD 0 | none => false
  guardAct [(!granted, .access),
    (!s.isMember dev || decide (s.rn (rRoute dev) / 2 ^ 14 = 2), .state)] s fun s =>
    .wait (.forward dev (BitVec.ofNat 8 tag) (cmdWrite op idx sub))
      (s.sendMsg { mkind := 1, sdev := s.dev, ddev := dev, tag := BitVec.ofNat 8 tag, idx := idx, sub := sub, op := op, body := d })

/-- A window operation starts, with ADDR, CTL and DATA as they stand (R374, R375). -/
def State.windowOp (s : State) (p : Path) : State :=
  let q := s.path p
  let idx := fld q.addr 31 16
  let sub := fld q.addr 15 8
  let op := ctlOp q.ctl
  let dev := addrDev q.addr
  let rsvd := winRsvd q.addr q.ctl
  let d := winValue q.ctl q.data
  let s := s.updPath p fun q => { q with status := w64 (q.status.toNat % 2 ^ 32 + 2 ^ 33) }
  if 8 ≤ dev ∧ dev ≤ 14 then serve p false idx sub (fun _ => .refuse .rsvdSet) s
  else if dev < 8 ∧ dev ≠ s.dev then
    (if p = .pcie then
      match under (if rsvd || decide (op = 0) || decide (3 < op) then .rsvdSet else .ok)
          (forwardAct dev (ctlTag q.ctl) op idx sub d s) with
      | .wait w t => t.updPath p fun q => { q with op := some (.waiting w) }
      | .refuse st | .done st _ _ => s.answer 1 st false []
     else s.answer (sender p) .access false [])
  else if op = 0 ∨ 3 < op then serve p false idx sub (fun t => under .rsvdSet (dictAct p 3 idx sub [] t)) s
  else if rsvd then serve p false idx sub (fun t => under .rsvdSet (dictAct p op idx sub d t)) s
  else serveOp p (hkcServed idx sub) op idx sub d (dictAct p op idx sub d) s

/-- A path writes ADDR, CTL and DATA, and starts the operation: dropped while the window is busy (R375). -/
def State.startWindow (s : State) (p : Path) (addr ctl : W64) (data : Bytes) : State :=
  if (s.path p).op.isSome then s.bump32 rWinOverrun
  else (s.openWindow p addr ctl data).windowOp p

/-- A window READ. -/
def execDwRead (p : Path) (addr ctl : W64) (s : State) : Out := .next (s.clk fun s => s.startWindow p addr ctl [])

/-- A window WRITE. -/
def execDwWrite (p : Path) (addr ctl : W64) (data : Bytes) (s : State) : Out :=
  .next (s.clk fun s => s.startWindow p addr ctl data)

/-- A window INFO. -/
def execDwInfo (p : Path) (addr ctl : W64) (s : State) : Out := .next (s.clk fun s => s.startWindow p addr ctl [])

/-- STATUS at completion: DONE, TAG, the code and LEN (R375). -/
def doneStatus (ctl : W64) (st : Status) (data : Bytes) : W64 :=
  w64 (2 ^ 32 + ctlTag ctl * 2 ^ 24 + st.code * 2 ^ 16 + if ctlOp ctl = 2 then ctlLen ctl else data.length % 8192)

/-- What the completion of an operation reports to: MSI-X, INT_PEND, or a DRSP message to a peer (R365, R378, R380). -/
def State.report (s : State) (p : Path) (st : Status) (data : Bytes) : State :=
  match p with
  | .pcie => s.raise (s.rn (rk 0 0x3001 4))
  | .sdio => { s with sdio := { s.sdio with intPend := s.sdio.intPend ||| 1 } }
  | .hkc => s
  | .peer n =>
    let q := s.path p
    s.sendMsg { mkind := 2, sdev := s.dev, ddev := n, tag := BitVec.ofNat 8 (ctlTag q.ctl), idx := fld q.addr 31 16, sub := fld q.addr 15 8,
                op := st.code, body := data }

/-- The operation of path p completes: STATUS, DATA, DONE. -/
def State.complete1 (s : State) (p : Path) (st : Status) (data : Bytes) : State :=
  (s.updPath p fun q =>
    { q with op := none, attest := false, status := doneStatus q.ctl st data, data := data ++ q.data.drop data.length }).report
    p st data

/-- DICT.HW_OPS 1, HKC_OPS 2, TIMEOUTS 3, LATE_RSP 5. -/
def rDict (sub : Nat) : Nat := rk 0 0x3003 sub

/-- A served operation completes. -/
def execDictOpComplete (p : Path) (s : State) : Out :=
  .next (s.clk fun s =>
    match (s.path p).op with
    | some (.answered st hkc data) => (s.bump (rDict (if hkc then 2 else 1))).complete1 p st data
    | some (.relayed st data) => s.complete1 p st data
    | _ => s)

/-- An HKC-served operation has no answer 1 ms after the HKC domain is ON (R371). -/
def execDictHkcTimeout (p : Path) (s : State) : Out :=
  .next (s.clk fun s =>
    match (s.path p).op with
    | some (.waiting (.hkc _ _ _ _)) =>
      if s.domOn 88 then (s.bump32 (rDict 3)).answer (sender p) .timeout true [] else s
    | _ => s)

/-! The management channel -/

/-- A DREQ of device dev is served on its path (R380). -/
def execDreq (dev : Nat) (tag : Byte) (op idx sub : Nat) (data : Bytes) (s : State) : Out :=
  .next (s.clk fun s =>
    s.startWindow (.peer dev) (addrOf idx sub) (ctlOf op tag.toNat data.length) data)

/-- A DRSP: it completes the forwarded operation that waits for it, or is late (R380). -/
def execDrsp (dev : Nat) (tag status : Byte) (data : Bytes) (s : State) : Out :=
  .next (s.clk fun s =>
    match (s.path .pcie).op with
    | some (.waiting (.forward d t _)) =>
      if d = dev ∧ t = tag then
        s.updPath .pcie fun q => { q with op := some (.relayed (Status.ofCode status.toNat) data) }
      else s.bump32 (rDict 5)
    | _ => s.bump32 (rDict 5))

/-- No response has come within 1 ms, or 20 ms for a CMD write (R380). -/
def execDictForwardTimeout (s : State) : Out :=
  .next (s.clk fun s =>
    match (s.path .pcie).op with
    | some (.waiting (.forward _ _ _)) =>
      (s.bump32 (rDict 3)).updPath .pcie fun q => { q with op := some (.relayed .timeout []) }
    | _ => s)

/-! Sessions -/

/-- HOST.CMD = 1 OPEN. -/
def execHostOpen (p : Path) (s : State) : Out := .next (operate p false 2 0x3000 2 [1] (hostOpenAct p) s)

/-- HOST.CMD = 2 CLOSE. -/
def execHostClose (p : Path) (s : State) : Out := .next (operate p false 2 0x3000 2 [2] (hostCloseAct p) s)

/-! BAR0 (R361) -/

/-- HOST.BAR0_MISS. -/
def rBar0Miss : Nat := rk 0 0x3002 1

/-- An aligned access of 4 or 8 bytes. -/
def bar0Aligned (off n : Nat) : Bool := (decide (n = 4) || decide (n = 8)) && decide (off % n = 0)

/-- Bytes off to off + n − 1 of a byte string that starts at offset base. -/
def bytesAt (b : Bytes) (base off n : Nat) : Bytes := (b.drop (off - base)).take n

/-- Put d into b at offset i. -/
def putBytes (b : Bytes) (i : Nat) (d : Bytes) : Bytes :=
  fixLen i b ++ d ++ b.drop (i + d.length)

/-- ADDR, CTL and STATUS of a window, in order (Table 11.7). -/
def PathSt.regBytes (q : PathSt) : Bytes := leBytes 8 q.addr.toNat ++ leBytes 8 q.ctl.toNat ++ leBytes 8 q.status.toNat

/-- The control block (Table 11.3). -/
def State.controlBlock (s : State) : Bytes :=
  leBytes 8 (2 ^ 16 + schema) ++ leBytes 8 (s.rn rWinbase) ++ leBytes 8 (s.dev * 2 ^ 8 + s.boot.stage.code)

/-- What n aligned bytes of BAR0 read as; none for a reserved range. -/
def State.bar0Value (s : State) (off n : Nat) : Option Bytes :=
  if off < 0x18 then some (bytesAt s.controlBlock 0 off n)
  else if 0x2000 ≤ off ∧ off < 0x2018 then some (bytesAt (s.path .pcie).regBytes 0x2000 off n)
  else if 0x3000 ≤ off ∧ off < 0x4000 then some (fixLen n (bytesAt (s.path .pcie).data 0x3000 off n))
  else if 0x10000 ≤ off ∧ off < 0x11000 then
    some ((List.range n).map fun i => Tab.get (msixDefault (off - 0x10000 + i)) s.pcie.table (off - 0x10000 + i))
  else if 0x11000 ≤ off ∧ off < 0x11020 then
    some (bytesAt (bitBytes 32 fun v => Tab.get false s.pcie.pend v) 0x11000 off n)
  else if 0x100000 ≤ off ∧ off < 0x160000 then
    some ((s.mbox ((off - 0x100000) / 0x4000)).ring.rdBytes (off % 0x4000) n)
  else none

/-- A BAR0 read. -/
def execBar0Read (off n : Nat) (s : State) : Out :=
  .next (s.clk fun s =>
    match if bar0Aligned off n then s.bar0Value off n else none with
    | some d => s.complete d false
    | none => (s.bump rBar0Miss).complete (List.replicate n 0) false)

/-- Write d to the MSI-X table at offset o. -/
def msixPut (t : Mem) (o : Nat) (d : Bytes) : Mem :=
  ((List.range d.length).zip d).foldl (fun t e => Tab.set (msixDefault (o + e.1)) t (o + e.1) e.2) t

/-- A write of d to byte o of the registers ADDR and CTL of a window. -/
def PathSt.putReg (q : PathSt) (o : Nat) (d : Bytes) : PathSt :=
  let b := putBytes q.regBytes o d
  { q with addr := w64 (leNat (b.take 8)), ctl := w64 (leNat ((b.drop 8).take 8)) }

/-- A write to byte o of the window of path p, at offsets of Table 11.7: dropped and counted while it is busy; byte 0 of
    CTL starts an operation (R374, R375). -/
def State.windowPut (s : State) (p : Path) (o : Nat) (d : Bytes) : State :=
  if o < 0x10 ∨ 0x1000 ≤ o then
    if (s.path p).op.isSome then s.bump32 rWinOverrun
    else if o < 0x10 then
      let s := s.updPath p fun q => q.putReg o d
      if o ≤ 8 ∧ 8 < o + d.length then s.windowOp p else s
    else s.updPath p fun q => { q with data := putBytes q.data (o - 0x1000) d }
  else s

/-- A BAR0 write (R361): a WINBASE that R362 refuses is dropped and counted. -/
def State.bar0Write (s : State) (off : Nat) (d : Bytes) : State :=
  if !bar0Aligned off d.length then s.bump rBar0Miss
  else if 8 ≤ off ∧ off < 0x10 then
    let v := leNat (putBytes (leBytes 8 (s.rn rWinbase)) (off - 8) d)
    if badWinbase v then s.bump rBar0Miss else s.wn rWinbase v
  else if 0x2000 ≤ off ∧ off < 0x2018 ∨ 0x3000 ≤ off ∧ off < 0x4000 then s.windowPut .pcie (off - 0x2000) d
  else if 0x10000 ≤ off ∧ off < 0x11000 then
    { s with pcie := { s.pcie with table := msixPut s.pcie.table (off - 0x10000) d } }
  else if 0x11000 ≤ off ∧ off < 0x11020 ∨ 0x100000 ≤ off ∧ off < 0x160000 then s
  else s.bump rBar0Miss

/-! BAR2 (R362 to R364, R487) -/

/-- A write of WINBASE. -/
def execWinbaseWrite (via : WinVia) (v : W64) (s : State) : Out :=
  .next (match via with
    | .dict p => operate p false 2 0x3001 1 (leBytes 8 v.toNat) (winbaseAct v.toNat) s
    | .bar0 => s.clk fun s => if badWinbase v.toNat then s.bump rBar0Miss else s.wr rWinbase v)

/-- A BAR2 read of n bytes; `ecc` is what its LPDDR5X words meet (R364, 09 R291). Before NOON it returns zero (12 R400). -/
def execBar2Read (off n : Nat) (ecc : Ecc) (s : State) : Out :=
  .next (s.clk fun s =>
    if s.boot.stage ≠ .noon then (s.bump rAddrMiss).complete (List.replicate n 0) false
    else
      let a := s.rn rWinbase + off
      let ps := s.placesRd a n
      if holds ps then
        let s := s.holdAccess ps
        { s with pcie := { s.pcie with heldRd := s.pcie.heldRd ++ [(a, n, ecc)] } }
      else
        let r := s.readEcc a n ecc
        r.2.complete r.1.1 r.1.2)

/-- A posted BAR2 write. -/
def execBar2Write (off : Nat) (data : Bytes) (s : State) : Out :=
  .next (s.clk fun s =>
    if s.boot.stage ≠ .noon then s.bump rAddrMiss else s.postWrite (s.rn rWinbase + off) data)

/-- A request outside BAR0 and BAR2 (R358). -/
def execUnsupportedRequest (bar : Nat) (s : State) : Out :=
  .next (if bar = 0 ∨ bar = 2 then s else { s with pcie := { s.pcie with ur := true } })

/-! The function (R359, R360, R366) -/

/-- The link state as HOST.LINK_SPEED and HOST.LINK_WIDTH show it. -/
def State.showLink (s : State) (up : Bool) (speed width : Nat) : State :=
  (s.wn (rk 0 0x3001 2) (if up then speed else 0)).wn (rk 0 0x3001 3) (if up then width else 0)

/-- A Function Level Reset, or an assertion of PERST#, which also ends the link (R360). -/
def execPcieFlr (perst : Bool) (s : State) : Out :=
  .next (s.clk fun s =>
    let s := { s with pcie := { s.pcie with bme := false } }
    let n := s.hostLoad
    let s := s.hostLost.hostDetach.resetPath 1
    let s :=
      { s with
        pcie :=
          { s.pcie with
            d3 := false, msixEn := false, msixMask := false, table := [], heldRd := [], cfg := .reset,
            perst := s.pcie.perst || perst, link := s.pcie.link && !perst, training := s.pcie.training && !perst } }
    let s := if perst then s.showLink false 0 0 else s
    ((s.wn rWinbase 0).bump32 (rk 0 0x3002 4)).bumpBy 64 (rk 0 0x3002 5) n)

/-- Bus Master Enable, the power state or the link changes; the host leaving D3hot wakes the PCIE domain (R359,
    13 Table 13.3). The link is up only with PERST# released and the domain working. -/
def execBusMasterEnableChange (bme d3 link : Bool) (speed width : Byte) (s : State) : Out :=
  .next (s.clk fun s =>
    let up := link && !s.pcie.perst && s.domUp 77
    let leaves := s.pcie.d3 && !d3
    let s := { s with pcie := { s.pcie with bme := bme, d3 := d3, link := up, training := s.pcie.training && !up } }
    let s := (s.showLink up speed.toNat width.toNat).hostLost
    if leaves then s.wake 77 4 else s)

/-- A pending vector can be sent again: one message goes out (R366). -/
def execMsixPendingSend (v : Nat) (s : State) : Out :=
  .next (s.clk fun s =>
    if Tab.get false s.pcie.pend v then ({ s with pcie := { s.pcie with pend := Tab.set false s.pcie.pend v false } }).raise v
    else s)

/-! SDIO (R377 to R379) -/

/-- CMD5 is answered with S18A = 1. -/
def execCmd5 (s : State) : Out := .next { s with sdio := { s.sdio with resp := [1] } }

/-- CMD11 is accepted; the signalling is 1.8 V already. -/
def execCmd11 (s : State) : Out := .next { s with sdio := { s.sdio with resp := [] } }

/-- CMD19 tunes for SDR104. -/
def execCmd19 (s : State) : Out := .next { s with sdio := { s.sdio with tuned := true } }

/-- One byte of function 1 (Table 11.9). -/
def State.sdioByte (s : State) (a : Nat) : Byte :=
  if a < 0x18 then ((s.path .sdio).regBytes.drop a).headD 0
  else if a = 0x20 then s.sdio.intPend
  else if a = 0x28 then s.sdio.intEn
  else if a = 0x30 then s.sdio.mbsel
  else if 0x1000 ≤ a ∧ a < 0x2000 then ((s.path .sdio).data.drop (a - 0x1000)).headD 0
  else if 0x10000 ≤ a ∧ a < 0x14000 then (s.mbox s.sdio.mbsel.toNat).ring.rd (a - 0x10000)
  else 0

/-- Store one byte in function 1, outside STATUS and RING; reserved addresses drop it. -/
def State.sdioStore (s : State) (a : Nat) (b : Byte) : State :=
  if a < 0x10 then s.updPath .sdio fun q => q.putReg a [b]
  else if a = 0x20 then { s with sdio := { s.sdio with intPend := s.sdio.intPend &&& ~~~b } }
  else if a = 0x28 then { s with sdio := { s.sdio with intEn := b } }
  else if a = 0x30 then { s with sdio := { s.sdio with mbsel := if b.toNat < 24 then b else 0 } }
  else if 0x1000 ≤ a ∧ a < 0x2000 then s.updPath .sdio fun q => { q with data := putBytes q.data (a - 0x1000) [b] }
  else s

/-- An address of the window. -/
def sdioWindow (a : Nat) : Bool := decide (a < 0x10) || (decide (0x1000 ≤ a) && decide (a < 0x2000))

/-- One SDIO write of bytes to the addresses given: a busy window drops its part and counts the write once; a write that
    touches byte 0 of CTL then starts an operation (R375, R378). -/
def State.sdioWrite (s : State) (l : List (Nat × Byte)) : State :=
  let busy := (s.path .sdio).op.isSome
  let hits := l.any fun e => sdioWindow e.1
  let s := (l.filter fun e => !(busy && sdioWindow e.1)).foldl (fun s e => s.sdioStore e.1 e.2) s
  if busy && hits then s.bump32 rWinOverrun
  else if l.any fun e => decide (e.1 = 8) then s.windowOp .sdio
  else s

/-- CMD52: one byte. -/
def execCmd52 (write : Bool) (a : Nat) (v : Byte) (s : State) : Out :=
  .next (s.clk fun s =>
    if write then s.sdioWrite [(a, v)] else { s with sdio := { s.sdio with resp := [s.sdioByte a] } })

/-- CMD53: `count` bytes, at rising addresses or all at one. -/
def execCmd53 (write : Bool) (a : Nat) (incr : Bool) (count : Nat) (data : Bytes) (s : State) : Out :=
  .next (s.clk fun s =>
    let at' := fun (i : Nat) => if incr then a + i else a
    let s := { s with sdio := { s.sdio with xfer := true } }
    if write then s.sdioWrite (((List.range count).map at').zip data)
    else { s with sdio := { s.sdio with resp := (List.range count).map fun i => s.sdioByte (at' i) } })

/-- I/O Abort ends the CMD53 transfer; a dictionary operation goes on. -/
def execIoAbort (s : State) : Out := .next { s with sdio := { s.sdio with xfer := false } }

/-- RES resets the SDIO path and, as the base specification has it, the function's registers. -/
def execSdioRes (s : State) : Out := .next (s.clk fun s => ({ s with sdio := Sdio.reset }).resetPath 2)

/-- A write to INT_PEND clears each bit written as 1. -/
def execIntPendWrite (v : Byte) (s : State) : Out := .next (s.clk fun s => s.sdioStore 0x20 v)

/-! REGISTER_WRITE -/

/-- A write of configuration space (R356, Table 11.1): a BAR keeps the address bits above its size, a payload or read-request
    size that the function does not support changes nothing. -/
def PcieCfg.put (c : PcieCfg) : CfgReg → PcieCfg
  | .memory on => { c with memory := on }
  | .bar0 a => { c with bar0 := w64 (a.toNat / 2 ^ 26 * 2 ^ 26) }
  | .bar2 a => { c with bar2 := w64 (a.toNat / 2 ^ 36 * 2 ^ 36) }
  | .sizes m r =>
    { c with
      payload := if [128, 256, 512].contains m then m else c.payload,
      read := if [128, 256, 512, 1024, 2048, 4096].contains r then r else c.read }
  | .tags10 on => { c with tags10 := on }


/-- A write to a dictionary entry or register that has no command of its own (R369, R361, R366, R378, R379). -/
def execRegisterWrite (t : RegTarget) (s : State) : Out :=
  .next (match t with
    | .entry p idx sub d => operate p (hkcServed idx sub) 2 idx sub d (dictAct p 2 idx sub d) s
    | .bar0 off d => s.clk fun s => s.bar0Write off d
    | .sdio a b => s.clk fun s => s.sdioWrite [(a, b)]
    | .ien1 on => { s with sdio := { s.sdio with ien1 := on } }
    | .msixControl en mask => s.clk fun s => { s with pcie := { s.pcie with msixEn := en, msixMask := mask } }
    | .config r => s.clk fun s => { s with pcie := { s.pcie with cfg := s.pcie.cfg.put r } })

/-- Function 1 signals its interrupt (R379). -/
def State.sdioInt (s : State) : Bool := s.sdio.ien1 && decide (s.sdio.intPend &&& s.sdio.intEn ≠ 0)

/-! What waits for the HKC -/

/-- The path of a sender number. -/
def pathOf (n : Nat) : Path := if n = 1 then .pcie else if n = 2 then .sdio else if n = 3 then .hkc else .peer (n - 8)

/-- The HKC serves again: every operation held for it is served (R371). -/
def State.serveHeld (s : State) : State :=
  if !s.hkcUp then s
  else senders.foldl (fun s n =>
    match (s.pathN n).op with
    | some (.waiting (.hkc op idx sub d)) => serve (pathOf n) true idx sub (dictAct (pathOf n) op idx sub d) s
    | _ => s) s

/-- The wake delay ends: domain d is ON (13 R443). -/
def execDomainWakeDone (d : Nat) (s : State) : Out :=
  .next (if s.rn (rDomain d) = 4 then
      let off := (s.dom d).fromOff
      ((s.wn (rDomain d) 1).updDom d fun _ => .reset).domainBack d off |>.serveHeld
    else s)

/-- The restart of the HKC from ROM ends (12 R420): its firmware is checked again under R404. -/
def execHkcRestartDone (i0 i1 : Image) (s : State) : Out :=
  .next (s.clk fun s =>
    if s.rn rHkc = 1 ∧ s.domOn 88 then
      match s.romBoot i0 i1 with
      | some t => (t.wn rHkc 0).serveHeld
      | none =>
        let s := s.wn rHkc 2
        if s.boot.stage = .morning then
          let r := romPick s.fuses i0 i1
          s.bootFault 3 (w64 (r.2.1 + r.2.2 * 16))
        else s
    else s)

end Sys2Proof.Machine
end

