-- ==== Sys2Proof/Machine/Clock.lean ====
section
/-! DEFINITION. A 2 ns tick of the timebase, which is what a step on an empty queue is (log 1): SYS.TB, the step timer,
    the timers, the counters of 2 ns telemetry ticks, and the residency counters of the power domains. -/

namespace Sys2Proof.Machine

/-- Count one tick for each unit of a list that satisfies f. -/
def State.tickWhere (s : State) (l : List Nat) (f : Nat → Bool) (key : Nat → Nat) : State :=
  l.foldl (fun (t : State) n => if f n then t.bump (key n) else t) s

/-- The NI of tile t holds a copy for a full ring (04 R157). -/
def State.dlyFull (s : State) (t : Nat) : Bool :=
  match (s.tile t).copies with
  | q :: _ => q.delay && s.domUp t && (s.handCopy t q).isNone
  | [] => false

/-- The packet that port p has to send on v, whatever holds it: one to be sent again, or the next of its queue. -/
def State.portWaiting (s : State) (p v : Nat) : Option Packet :=
  if (Tab.get [] (s.port p).again v).isEmpty then (s.portPack p v).map Prod.fst else s.portAgain p v

/-- What waits at port p on v is held: for credits, for a full sequence range or retransmit buffer, or because the port is
    TRAINING or QUALIFYING (08 R249, R255, R262, R273). -/
def State.vcStalled (s : State) (p v : Nat) : Bool :=
  match s.portWaiting p v with
  | some pk =>
    (s.portCarries p v && ((s.portNext p v).isNone || decide (s.portCredit p v < 1 + pk.flits))) ||
      decide (s.portState p = 1) || decide (s.portState p = 2)
  | none => false

/-- Port p is held on some virtual channel. -/
def State.portStalled (s : State) (p : Nat) : Bool := (List.range 4).any (s.vcStalled p)

/-- Input q of router r has a flit ready and no credit for it. -/
def State.rtrStalled (s : State) (r q : Nat) : Bool :=
  (List.range 4).any fun v =>
    match Tab.get [] (s.rtr r).inb (4 * q + v) with
    | f :: _ => !s.outRoom r (hopPort r f.dnode) v f.dnode
    | [] => false

/-- An operation of some core is blocked on connection i (07 R226). -/
def State.connBlocked (s : State) (i : Nat) : Bool :=
  s.cores.any fun e =>
    match e.2.pass with
    | .blocked _ h _ _ => decide (s.connOf h.toNat = some i)
    | _ => false

/-- A contribution waits at combining queue q (07 R229). -/
def State.combBlocked (s : State) (q : Nat) : Bool :=
  (s.comb q).full && (match s.servedBy (q / 16) with
    | some t => (s.tile t).vc1.any fun i => match i.whole with
      | .contrib c => (s.combOf c).any fun k => decide ((s.conn k).combNo = q)
      | _ => false
    | none => false)

/-- Channel c is ready to read or to write (09 R299). -/
def State.chanReady (s : State) (c : Nat) : Bool := s.domUp 86 && (s.canRead c || s.canWrite c)

/-- The counters of 2 ns telemetry ticks. -/
def State.telemetry (s : State) : State :=
  let s := s.tickWhere (s.tiles.map Prod.fst) s.dlyFull fun t => rk (16 + t) 0x1200 5
  let s := s.tickWhere (s.hrings.map Prod.fst) (fun r => decide (s.hringState r = 2)) fun r => hReg r 0x0C
  let s := s.tickWhere (s.chans.map Prod.fst) s.chanReady fun c => ch c 9
  let s := s.tickWhere (s.mboxes.map Prod.fst) (fun i => (s.mbox i).waiting.isSome) fun i => mb i 0x10
  let s := s.tickWhere (List.range 7) s.portStalled fun p => pReg p 0x1B
  let s := s.tickWhere (s.nodes.map Prod.fst) (fun n => (List.range 4).any (s.rtxFull n)) fun n => niCtr n 7
  let s := s.rtrs.foldl (fun (t : State) e => t.tickWhere (List.range 5) (s.rtrStalled e.1) fun q => rtrCtr e.1 q 4) s
  let s := s.tickWhere (s.sports.map Prod.fst) (s.streamHeld) fun p => sp p 0x19
  let s := s.tickWhere (s.sports.map Prod.fst) (fun p => !(s.sport p).stuck.isEmpty) fun p => sp p 0x1A
  let s := (s.conns.map Prod.fst).foldl (fun (t : State) i =>
    if s.connBlocked i then t.updConn i fun c => { c with blockT := w64 (satAdd 64 c.blockT.toNat 1) } else t) s
  (s.combs.map Prod.fst).foldl (fun (t : State) q =>
    if s.combBlocked q then t.updComb q fun b => { b with blockT := w64 (satAdd 64 b.blockT.toNat 1) } else t) s

/-- PWR.DOMAIN[d]'s residency register for its present state: ENTERING counts as ON, WAKING as the state being left
    (13 R449). -/
def State.residency (s : State) (d : Nat) : Nat :=
  match s.rn (rDomain d) with
  | 0 => pwr d 6
  | 2 => pwr d 5
  | 4 => if (s.dom d).fromOff then pwr d 6 else pwr d 5
  | _ => pwr d 4

/-- One tick of the timebase: SYS.TB, the step timer, and the timers, which count it (08 R280, 10 R347). -/
def State.timebaseTick (s : State) : State :=
  let s := s.wr rTB (s.rd rTB + 1)
  let s := if s.stopped then s else s.updEng fun e => { e with timer := e.timer + 1 }
  (if s.timesStep && decide (s.rn rPeriod / 2 ≤ s.eng.timer) then s.placeDeadline else s).tickTimers

/-- The timebase in one 2 ns tick of this device: a follower that trims its rate leaves one tick out, or counts one more
    (08 R280, 10 R347). -/
def State.timebase (s : State) : State :=
  let t := { s with slew := none }
  match s.slew with
  | none => t.timebaseTick
  | some true => t.timebaseTick.timebaseTick
  | some false => t

/-- The residency counters of the power domains count microseconds (13 R449). -/
def State.residencyTick (s : State) : State :=
  if s.now % 500 = 0 then (List.range 90).foldl (fun s d => s.bump (s.residency d)) s else s

/-- The state with this count of ticks since reset. -/
def State.withNow (s : State) (n : Nat) : State := { s with now := n }

/-- One 2 ns tick: none while REFCLK is lost (14 R470). -/
def State.clockTick (s : State) : State :=
  s.clk fun s =>
    (s.withNow (s.now + 1)).timebase.telemetry.holdRound.sendSack.residencyTick

end Sys2Proof.Machine
end

