-- ==== Sys2Proof/Machine/Dispatch.lean ====
section
/-! DEFINITION. One arm for each command. -/

namespace Sys2Proof.Machine

/-- The effect of a command on everything but the queue. -/
def exec (i : Instr) (s : State) : Host.Outcome State Fault Refusal :=
  match i with
  | .deviceReset a0 a1 a2 => Sys2Proof.Machine.execDeviceReset a0 a1 a2 s
  | .porstPulse a0 a1 a2 => Sys2Proof.Machine.execPorstPulse a0 a1 a2 s
  | .dawnEnd a0 a1 a2 => Sys2Proof.Machine.execDawnEnd a0 a1 a2 s
  | .sunriseEnd a0 a1 => Sys2Proof.Machine.execSunriseEnd a0 a1 s
  | .memTrainingTimeout => Sys2Proof.Machine.execMemTrainingTimeout s
  | .morningEnd a0 => Sys2Proof.Machine.execMorningEnd a0 s
  | .bootStepTimeout a0 => Sys2Proof.Machine.execBootStepTimeout a0 s
  | .bootReset a0 => Sys2Proof.Machine.execBootReset a0 s
  | .bootForceReset a0 => Sys2Proof.Machine.execBootForceReset a0 s
  | .resetDelayExpire a0 a1 => Sys2Proof.Machine.execResetDelayExpire a0 a1 s
  | .registerWrite a0 => Sys2Proof.Machine.execRegisterWrite a0 s
  | .coreWindowWrite a0 a1 a2 => Sys2Proof.Machine.execCoreWindowWrite a0 a1 a2 s
  | .stepRun a0 => Sys2Proof.Machine.execStepRun a0 s
  | .stepStop a0 => Sys2Proof.Machine.execStepStop a0 s
  | .stepFence a0 => Sys2Proof.Machine.execStepFence a0 s
  | .stepFenceTimeout a0 => Sys2Proof.Machine.execStepFenceTimeout a0 s
  | .stepPeriodWrite a0 a1 => Sys2Proof.Machine.execStepPeriodWrite a0 a1 s
  | .stepDeadline => Sys2Proof.Machine.execStepDeadline s
  | .stepSourceEvent a0 => Sys2Proof.Machine.execStepSourceEvent a0 s
  | .wave a0 => Sys2Proof.Machine.execWave a0 s
  | .settle a0 => Sys2Proof.Machine.execSettle a0 s
  | .sack a0 => Sys2Proof.Machine.execSack a0 s
  | .openStep a0 => Sys2Proof.Machine.execOpenStep a0 s
  | .reconfCommitBoundary a0 => Sys2Proof.Machine.execReconfCommitBoundary a0 s
  | .reconfCommitGeneration a0 => Sys2Proof.Machine.execReconfCommitGeneration a0 s
  | .reconfCancel a0 => Sys2Proof.Machine.execReconfCancel a0 s
  | .nop a0 => Sys2Proof.Machine.execNop a0 s
  | .fire a0 => Sys2Proof.Machine.execFire a0 s
  | .leak a0 => Sys2Proof.Machine.execLeak a0 s
  | .trace a0 => Sys2Proof.Machine.execTrace a0 s
  | .dense a0 a1 => Sys2Proof.Machine.execDense a0 a1 s
  | .send a0 => Sys2Proof.Machine.execSend a0 s
  | .recv a0 => Sys2Proof.Machine.execRecv a0 s
  | .combine a0 => Sys2Proof.Machine.execCombine a0 s
  | .fence a0 => Sys2Proof.Machine.execFence a0 s
  | .fenceDone a0 => Sys2Proof.Machine.execFenceDone a0 s
  | .repeatOp a0 => Sys2Proof.Machine.execRepeatOp a0 s
  | .waitstep a0 => Sys2Proof.Machine.execWaitstep a0 s
  | .passDone a0 => Sys2Proof.Machine.execPassDone a0 s
  | .emit a0 a1 => Sys2Proof.Machine.execEmit a0 a1 s
  | .eventAccumulate a0 a1 => Sys2Proof.Machine.execEventAccumulate a0 a1 s
  | .stallLimitReached a0 => Sys2Proof.Machine.execStallLimitReached a0 s
  | .coreFence a0 => Sys2Proof.Machine.execCoreFence a0 s
  | .coreRelease a0 => Sys2Proof.Machine.execCoreRelease a0 s
  | .midnight a0 a1 a2 => Sys2Proof.Machine.execMidnight a0 a1 a2 s
  | .lrnCmdMidnight a0 a1 a2 => Sys2Proof.Machine.execLrnCmdMidnight a0 a1 a2 s
  | .lrnCmdClear a0 => Sys2Proof.Machine.execLrnCmdClear a0 s
  | .packetSend a0 a1 => Sys2Proof.Machine.execPacketSend a0 a1 s
  | .routerForward a0 a1 => Sys2Proof.Machine.execRouterForward a0 a1 s
  | .packetReceive a0 => Sys2Proof.Machine.execPacketReceive a0 s
  | .delayRingPlace a0 => Sys2Proof.Machine.execDelayRingPlace a0 s
  | .ack a0 => Sys2Proof.Machine.execAck a0 s
  | .nak a0 => Sys2Proof.Machine.execNak a0 s
  | .retransmitTimeout a0 a1 a2 => Sys2Proof.Machine.execRetransmitTimeout a0 a1 a2 s
  | .skip a0 => Sys2Proof.Machine.execSkip a0 s
  | .haveAns a0 => Sys2Proof.Machine.execHave a0 s
  | .absent a0 => Sys2Proof.Machine.execAbsent a0 s
  | .credit a0 a1 => Sys2Proof.Machine.execCredit a0 a1 s
  | .laneFailure a0 a1 a2 => Sys2Proof.Machine.execLaneFailure a0 a1 a2 s
  | .lane a0 a1 => Sys2Proof.Machine.execLane a0 a1 s
  | .portRetentionNotice a0 a1 => Sys2Proof.Machine.execPortRetentionNotice a0 a1 s
  | .portTrain a0 a1 => Sys2Proof.Machine.execPortTrain a0 a1 s
  | .portTrainingDone a0 => Sys2Proof.Machine.execPortTrainingDone a0 s
  | .qualWindowEnd a0 a1 => Sys2Proof.Machine.execQualWindowEnd a0 a1 s
  | .portDown a0 a1 => Sys2Proof.Machine.execPortDown a0 a1 s
  | .portRxNextReply a0 a1 => Sys2Proof.Machine.execPortRxNextReply a0 a1 s
  | .portDownReconcileTimeout a0 => Sys2Proof.Machine.execPortDownReconcileTimeout a0 s
  | .mapTileWrite a0 a1 a2 => Sys2Proof.Machine.execMapTileWrite a0 a1 a2 s
  | .drain a0 a1 => Sys2Proof.Machine.execDrain a0 a1 s
  | .mapCoreWrite a0 a1 a2 => Sys2Proof.Machine.execMapCoreWrite a0 a1 a2 s
  | .routeWrite a0 a1 a2 => Sys2Proof.Machine.execRouteWrite a0 a1 a2 s
  | .drained a0 => Sys2Proof.Machine.execDrained a0 s
  | .join a0 a1 => Sys2Proof.Machine.execJoin a0 a1 s
  | .sysRejoin a0 => Sys2Proof.Machine.execSysRejoin a0 s
  | .sysAdoptStep a0 a1 => Sys2Proof.Machine.execSysAdoptStep a0 a1 s
  | .tickSend => Sys2Proof.Machine.execTickSend s
  | .tick a0 a1 a2 => Sys2Proof.Machine.execTick a0 a1 a2 s
  | .lossRateUpdate => Sys2Proof.Machine.execLossRateUpdate s
  | .connOpen a0 => Sys2Proof.Machine.execConnOpen a0 s
  | .connConfirm a0 a1 a2 a3 => Sys2Proof.Machine.execConnConfirm a0 a1 a2 a3 s
  | .connAck a0 a1 a2 a3 a4 => Sys2Proof.Machine.execConnAck a0 a1 a2 a3 a4 s
  | .connOpenTimeout a0 => Sys2Proof.Machine.execConnOpenTimeout a0 s
  | .connClose a0 => Sys2Proof.Machine.execConnClose a0 s
  | .connCloseMessage a0 a1 => Sys2Proof.Machine.execConnCloseMessage a0 a1 s
  | .connCloseTimeout a0 a1 => Sys2Proof.Machine.execConnCloseTimeout a0 a1 s
  | .queueDeliver a0 => Sys2Proof.Machine.execQueueDeliver a0 s
  | .queueCreditReturn a0 => Sys2Proof.Machine.execQueueCreditReturn a0 s
  | .recordHandoff a0 => Sys2Proof.Machine.execRecordHandoff a0 s
  | .combContribute a0 => Sys2Proof.Machine.execCombContribute a0 s
  | .combDeliver a0 => Sys2Proof.Machine.execCombDeliver a0 s
  | .hringWrite a0 => Sys2Proof.Machine.execHringWrite a0 s
  | .hringHoldoffExpire a0 => Sys2Proof.Machine.execHringHoldoffExpire a0 s
  | .hringConsWrite a0 a1 a2 => Sys2Proof.Machine.execHringConsWrite a0 a1 a2 s
  | .hringEnable a0 a1 => Sys2Proof.Machine.execHringEnable a0 a1 s
  | .hringDisable a0 a1 => Sys2Proof.Machine.execHringDisable a0 a1 s
  | .hringForceDisable a0 a1 => Sys2Proof.Machine.execHringForceDisable a0 a1 s
  | .dringEnable a0 a1 => Sys2Proof.Machine.execDringEnable a0 a1 s
  | .dringDisable a0 a1 => Sys2Proof.Machine.execDringDisable a0 a1 s
  | .dringProdWrite a0 a1 a2 => Sys2Proof.Machine.execDringProdWrite a0 a1 a2 s
  | .dringFetch a0 a1 => Sys2Proof.Machine.execDringFetch a0 a1 s
  | .dmaOpen a0 => Sys2Proof.Machine.execDmaOpen a0 s
  | .dmaStart a0 => Sys2Proof.Machine.execDmaStart a0 s
  | .dmaStop a0 => Sys2Proof.Machine.execDmaStop a0 s
  | .dmaClose a0 => Sys2Proof.Machine.execDmaClose a0 s
  | .dmaProdWrite a0 a1 a2 => Sys2Proof.Machine.execDmaProdWrite a0 a1 a2 s
  | .dmaDescFetch a0 a1 => Sys2Proof.Machine.execDmaDescFetch a0 a1 s
  | .dmaReadBeat a0 a1 => Sys2Proof.Machine.execDmaReadBeat a0 a1 s
  | .dmaWriteBeat => Sys2Proof.Machine.execDmaWriteBeat s
  | .dmaDescComplete a0 => Sys2Proof.Machine.execDmaDescComplete a0 s
  | .dmaDescFault a0 => Sys2Proof.Machine.execDmaDescFault a0 s
  | .parkWrite => Sys2Proof.Machine.execParkWrite s
  | .descPark => Sys2Proof.Machine.execDescPark s
  | .replay a0 a1 => Sys2Proof.Machine.execReplay a0 a1 s
  | .swapOut a0 => Sys2Proof.Machine.execSwapOut a0 s
  | .swapIn a0 => Sys2Proof.Machine.execSwapIn a0 s
  | .swapExchange a0 => Sys2Proof.Machine.execSwapExchange a0 s
  | .swapFreeze => Sys2Proof.Machine.execSwapFreeze s
  | .swapCopyOut => Sys2Proof.Machine.execSwapCopyOut s
  | .swapCopyOutDone a0 a1 => Sys2Proof.Machine.execSwapCopyOutDone a0 a1 s
  | .swapCopyInDone a0 a1 => Sys2Proof.Machine.execSwapCopyInDone a0 a1 s
  | .swapMapDone a0 => Sys2Proof.Machine.execSwapMapDone a0 s
  | .memPatrolPass a0 a1 => Sys2Proof.Machine.execMemPatrolPass a0 a1 s
  | .frameReceive a0 a1 a2 => Sys2Proof.Machine.execFrameReceive a0 a1 a2 s
  | .pauseFrameReceive a0 a1 => Sys2Proof.Machine.execPauseFrameReceive a0 a1 s
  | .sampleConvert a0 a1 => Sys2Proof.Machine.execSampleConvert a0 a1 s
  | .egressRecord a0 => Sys2Proof.Machine.execEgressRecord a0 s
  | .egressHoldoffExpire a0 => Sys2Proof.Machine.execEgressHoldoffExpire a0 s
  | .egressFrameTransmit a0 => Sys2Proof.Machine.execEgressFrameTransmit a0 s
  | .sctxEnable a0 a1 => Sys2Proof.Machine.execSctxEnable a0 a1 s
  | .sctxDisable a0 a1 => Sys2Proof.Machine.execSctxDisable a0 a1 s
  | .schEntryWrite a0 a1 => Sys2Proof.Machine.execSchEntryWrite a0 a1 s
  | .spUp a0 a1 => Sys2Proof.Machine.execSpUp a0 a1 s
  | .spDown a0 a1 => Sys2Proof.Machine.execSpDown a0 a1 s
  | .spLinkChange a0 a1 => Sys2Proof.Machine.execSpLinkChange a0 a1 s
  | .timerWrap a0 => Sys2Proof.Machine.execTimerWrap a0 s
  | .timerMatch a0 a1 => Sys2Proof.Machine.execTimerMatch a0 a1 s
  | .tmrCountWrite a0 a1 a2 => Sys2Proof.Machine.execTmrCountWrite a0 a1 a2 s
  | .tmrCmpWrite a0 a1 a2 a3 => Sys2Proof.Machine.execTmrCmpWrite a0 a1 a2 a3 s
  | .tmrEnWrite a0 a1 a2 => Sys2Proof.Machine.execTmrEnWrite a0 a1 a2 s
  | .tmrFlagsWrite a0 a1 a2 => Sys2Proof.Machine.execTmrFlagsWrite a0 a1 a2 s
  | .tmrCaptRead a0 a1 => Sys2Proof.Machine.execTmrCaptRead a0 a1 s
  | .trgForceWrite a0 a1 a2 => Sys2Proof.Machine.execTrgForceWrite a0 a1 a2 s
  | .trgPulseEnd a0 => Sys2Proof.Machine.execTrgPulseEnd a0 s
  | .captureFilterAccept a0 a1 => Sys2Proof.Machine.execCaptureFilterAccept a0 a1 s
  | .capinConfigWrite a0 a1 a2 a3 => Sys2Proof.Machine.execCapinConfigWrite a0 a1 a2 a3 s
  | .pcieFlr a0 => Sys2Proof.Machine.execPcieFlr a0 s
  | .busMasterEnableChange a0 a1 a2 a3 a4 => Sys2Proof.Machine.execBusMasterEnableChange a0 a1 a2 a3 a4 s
  | .winbaseWrite a0 a1 => Sys2Proof.Machine.execWinbaseWrite a0 a1 s
  | .bar2Read a0 a1 a2 => Sys2Proof.Machine.execBar2Read a0 a1 a2 s
  | .bar2Write a0 a1 => Sys2Proof.Machine.execBar2Write a0 a1 s
  | .dwRead a0 a1 a2 => Sys2Proof.Machine.execDwRead a0 a1 a2 s
  | .dwWrite a0 a1 a2 a3 => Sys2Proof.Machine.execDwWrite a0 a1 a2 a3 s
  | .dwInfo a0 a1 a2 => Sys2Proof.Machine.execDwInfo a0 a1 a2 s
  | .dictOpComplete a0 => Sys2Proof.Machine.execDictOpComplete a0 s
  | .dictHkcTimeout a0 => Sys2Proof.Machine.execDictHkcTimeout a0 s
  | .dreq a0 a1 a2 a3 a4 a5 => Sys2Proof.Machine.execDreq a0 a1 a2 a3 a4 a5 s
  | .drsp a0 a1 a2 a3 => Sys2Proof.Machine.execDrsp a0 a1 a2 a3 s
  | .dictForwardTimeout => Sys2Proof.Machine.execDictForwardTimeout s
  | .cmd5 => Sys2Proof.Machine.execCmd5 s
  | .cmd11 => Sys2Proof.Machine.execCmd11 s
  | .cmd19 => Sys2Proof.Machine.execCmd19 s
  | .cmd52 a0 a1 a2 => Sys2Proof.Machine.execCmd52 a0 a1 a2 s
  | .cmd53 a0 a1 a2 a3 a4 => Sys2Proof.Machine.execCmd53 a0 a1 a2 a3 a4 s
  | .ioAbort => Sys2Proof.Machine.execIoAbort s
  | .sdioRes => Sys2Proof.Machine.execSdioRes s
  | .intPendWrite a0 => Sys2Proof.Machine.execIntPendWrite a0 s
  | .hostOpen a0 => Sys2Proof.Machine.execHostOpen a0 s
  | .hostClose a0 => Sys2Proof.Machine.execHostClose a0 s
  | .mbLockRead a0 a1 => Sys2Proof.Machine.execMbLockRead a0 a1 s
  | .mbLockWrite a0 a1 a2 => Sys2Proof.Machine.execMbLockWrite a0 a1 a2 s
  | .mbMsgWrite a0 a1 a2 => Sys2Proof.Machine.execMbMsgWrite a0 a1 a2 s
  | .mbSend a0 a1 => Sys2Proof.Machine.execMbSend a0 a1 s
  | .mbSendTimeout a0 => Sys2Proof.Machine.execMbSendTimeout a0 s
  | .mbDoorbell a0 a1 => Sys2Proof.Machine.execMbDoorbell a0 a1 s
  | .mbReset a0 a1 => Sys2Proof.Machine.execMbReset a0 a1 s
  | .mbConsWrite a0 a1 a2 => Sys2Proof.Machine.execMbConsWrite a0 a1 a2 s
  | .mbReceiverWrite a0 a1 a2 => Sys2Proof.Machine.execMbReceiverWrite a0 a1 a2 s
  | .notice a0 a1 => Sys2Proof.Machine.execNotice a0 a1 s
  | .mbNoticeRead a0 a1 => Sys2Proof.Machine.execMbNoticeRead a0 a1 s
  | .secAttest a0 => Sys2Proof.Machine.execSecAttest a0 s
  | .secAdvanceArb a0 => Sys2Proof.Machine.execSecAdvanceArb a0 s
  | .secProvision a0 => Sys2Proof.Machine.execSecProvision a0 s
  | .defectMark a0 => Sys2Proof.Machine.execDefectMark a0 s
  | .defectUnmark a0 => Sys2Proof.Machine.execDefectUnmark a0 s
  | .scrubPass a0 => Sys2Proof.Machine.execScrubPass a0 s
  | .scrubPassStart a0 => Sys2Proof.Machine.execScrubPassStart a0 s
  | .watchdogExpire a0 a1 => Sys2Proof.Machine.execWatchdogExpire a0 a1 s
  | .lockstepMismatch a0 a1 => Sys2Proof.Machine.execLockstepMismatch a0 a1 s
  | .hkcRestartDone a0 a1 => Sys2Proof.Machine.execHkcRestartDone a0 a1 s
  | .faultRingWrite => Sys2Proof.Machine.execFaultRingWrite s
  | .faultRingEnable a0 => Sys2Proof.Machine.execFaultRingEnable a0 s
  | .faultRingDisable a0 => Sys2Proof.Machine.execFaultRingDisable a0 s
  | .domainOn a0 a1 => Sys2Proof.Machine.execDomainOn a0 a1 s
  | .domainRetention a0 a1 => Sys2Proof.Machine.execDomainRetention a0 a1 s
  | .domainOff a0 a1 => Sys2Proof.Machine.execDomainOff a0 a1 s
  | .domainOffForce a0 a1 => Sys2Proof.Machine.execDomainOffForce a0 a1 s
  | .domainEntryDone a0 => Sys2Proof.Machine.execDomainEntryDone a0 s
  | .domainEntryAbandon a0 => Sys2Proof.Machine.execDomainEntryAbandon a0 s
  | .domainWake a0 a1 => Sys2Proof.Machine.execDomainWake a0 a1 s
  | .domainWakeDone a0 => Sys2Proof.Machine.execDomainWakeDone a0 s
  | .tempSample a0 a1 => Sys2Proof.Machine.execTempSample a0 a1 s
  | .voltSample a0 a1 a2 => Sys2Proof.Machine.execVoltSample a0 a1 a2 s
  | .procSample a0 a1 => Sys2Proof.Machine.execProcSample a0 a1 s
  | .monExtremeClear a0 a1 a2 a3 => Sys2Proof.Machine.execMonExtremeClear a0 a1 a2 a3 s
  | .vwarnLatch a0 => Sys2Proof.Machine.execVwarnLatch a0 s
  | .vwarnClear a0 a1 => Sys2Proof.Machine.execVwarnClear a0 a1 s
  | .supplyReset a0 a1 a2 => Sys2Proof.Machine.execSupplyReset a0 a1 a2 s
  | .scrubPassEnd a0 => Sys2Proof.Machine.execScrubPassEnd a0 s
  | .refclkLoss => Sys2Proof.Machine.execRefclkLoss s
  | .perstRelease => Sys2Proof.Machine.execPerstRelease s
  | .bar0Read a0 a1 => Sys2Proof.Machine.execBar0Read a0 a1 s
  | .unsupportedRequest a0 => Sys2Proof.Machine.execUnsupportedRequest a0 s
  | .msixPendingSend a0 => Sys2Proof.Machine.execMsixPendingSend a0 s
  | .captureGlitch a0 => Sys2Proof.Machine.execCaptureGlitch a0 s
  | .pauseExpire a0 => Sys2Proof.Machine.execPauseExpire a0 s

end Sys2Proof.Machine
end

