-- ==== Sys2Proof/Safety.lean ====
section
/-! DEFINITION. The terms that claims use: a safe step, the parts of the state that a frame names, and what it takes for
    an operation of an access path to be served. -/

namespace Sys2Proof.Machine

/-- The step of the block from s ends in a next state: no fault and no refusal. -/
def Safe (s : State) : Prop := ∃ t, step s = .next t

/-- The fuses g are the fuses f after blowing some more: only the anti-rollback value and the customer key hash may differ,
    the former has not fallen (12 R405), and a hash that holds a nonzero byte is kept (12 R432). -/
structure Fuses.Blown (f g : Fuses) : Prop where
  rest : g = { f with arb := g.arb, custHash := g.custHash }
  arb : f.arb ≤ g.arb
  cust : (f.custHash.any fun b => decide (b ≠ 0)) = true → g.custHash = f.custHash

/-- The parts of the state that a frame statement names: its fields, BOOT.STAGE beside the other bring-up state, and
    the THERMTRIP_N latch beside the other monitor state; `oneWay` is that fuses are only blown, never
    restored, and `hostForm` that the host's memory keeps its canonical form. -/
inductive Part where
  | regs | fuses | straps | cc | stage | boot | eng | reconf | lrn | cores | tiles | nodes | rtrs | ports | conns
  | combs | hrings | hostMem | lpddr | chans | turnR | turnW | swap | parks | parkq | sports | sctxs | sch | was
  | hits | capOld | capPre | paths | mboxes | sdio | pcie | log | doms | thermtrip | mon | drains | routes | peers | lossSnap
  | flights | live | ids | now | slew | scrub | scrubbed | free | pending | oneWay | hostForm
deriving DecidableEq, Repr

/-- States s and t agree on a part. -/
def Part.same (s t : State) : Part → Prop
  | .regs => t.regs = s.regs
  | .fuses => t.fuses = s.fuses
  | .straps => t.straps = s.straps
  | .cc => t.cc = s.cc
  | .stage => t.boot.stage = s.boot.stage
  | .boot => t.boot = s.boot
  | .eng => t.eng = s.eng
  | .reconf => t.reconf = s.reconf
  | .lrn => t.lrn = s.lrn
  | .cores => t.cores = s.cores
  | .tiles => t.tiles = s.tiles
  | .nodes => t.nodes = s.nodes
  | .rtrs => t.rtrs = s.rtrs
  | .ports => t.ports = s.ports
  | .conns => t.conns = s.conns
  | .combs => t.combs = s.combs
  | .hrings => t.hrings = s.hrings
  | .hostMem => t.hostMem = s.hostMem
  | .lpddr => t.lpddr = s.lpddr
  | .chans => t.chans = s.chans
  | .turnR => t.turnR = s.turnR
  | .turnW => t.turnW = s.turnW
  | .swap => t.swap = s.swap
  | .parks => t.parks = s.parks
  | .parkq => t.parkq = s.parkq
  | .sports => t.sports = s.sports
  | .sctxs => t.sctxs = s.sctxs
  | .sch => t.sch = s.sch
  | .was => t.was = s.was
  | .hits => t.hits = s.hits
  | .capOld => t.capOld = s.capOld
  | .capPre => t.capPre = s.capPre
  | .paths => t.paths = s.paths
  | .mboxes => t.mboxes = s.mboxes
  | .sdio => t.sdio = s.sdio
  | .pcie => t.pcie = s.pcie
  | .log => t.log = s.log
  | .doms => t.doms = s.doms
  | .thermtrip => t.mon.thermtrip = s.mon.thermtrip
  | .mon => t.mon = s.mon
  | .drains => t.drains = s.drains
  | .routes => t.routes = s.routes
  | .peers => t.peers = s.peers
  | .lossSnap => t.lossSnap = s.lossSnap
  | .flights => t.flights = s.flights
  | .live => t.live = s.live
  | .ids => t.ids = s.ids
  | .now => t.now = s.now
  | .slew => t.slew = s.slew
  | .scrub => t.scrub = s.scrub
  | .scrubbed => t.scrubbed = s.scrubbed
  | .free => t.free = s.free
  | .pending => t.pending = s.pending
  | .oneWay => s.fuses.Blown t.fuses
  | .hostForm => s.hostMem.wf → t.hostMem.wf

/-- From s to t nothing has changed but parts of W. -/
structure Only (W : List Part) (s t : State) : Prop where
  same : ∀ p : Part, W.contains p = false → p.same s t

/-- From s, command c ends in a next state of which Q holds. -/
def Runs (c : Instr) (s : State) (Q : State → Prop) : Prop := ∃ t, exec c s = .next t ∧ Q t

/-- From s, command c ends in a next state that differs from s in parts of W only and of which Q holds. -/
def Completes (W : List Part) (c : Instr) (s : State) (Q : State → Prop) : Prop :=
  ∃ t, exec c s = .next t ∧ Only W s t ∧ Q t

/-- A path with a free window serves an access to an entry (11 R371 to R375, R392): REFCLK runs, the path serves no other
    operation, its session and the boot stage admit the entry, and the HKC runs where it serves the entry. -/
def State.serves (s : State) (p : Path) (hkc : Bool) (idx sub : Nat) : Bool :=
  s.boot.refclk && (s.path p).op.isNone && s.gate p idx sub && (!hkc || s.hkcUp)

/-- The operation of path p has ended with a status and these bytes, and its completion is due. -/
def State.answered (s : State) (p : Path) (st : Status) (hkc : Bool) (d : Bytes) : Prop :=
  (s.path p).op = some (.answered st hkc d)

/-- The operation of path p waits for w. -/
def State.waits (s : State) (p : Path) (w : Wait) : Prop := (s.path p).op = some (.waiting w)

/-- The operation of path p stands as reply r of its entry leaves it: refused, ended with a status and bytes, or waiting. -/
def State.replied (s : State) (p : Path) (hkc : Bool) : Reply → Prop
  | .refuse st => s.answered p (Status.pick st .ok) hkc []
  | .done st d _ => s.answered p st hkc d
  | .wait w _ => s.waits p w

/-- The state in which the entry's act of an operation runs. -/
def State.opened (s : State) (p : Path) (op idx sub : Nat) (data : Bytes) : State :=
  s.openWindow p (addrOf idx sub) (ctlOf op 0 data.length) data

/-- t is the device right after a device reset of s (12 R398, R399, 14 R468, R472): every unit as State.initial has it for
    the fuses as they are and the straps as they read then, BOOT.CAUSE the cause, the contents of LPDDR5X undefined (a free
    value). The host's memory, the level of PERST#, the commands that wait and the THERMTRIP_N latch, which only power-on
    clears (13 R451), are not of the units that a device reset reaches. -/
structure State.IsResetOf (s t : State) (c : ResetCause) (d : BitVec 3) (cc : Bool) : Prop where
  units : Only [.regs, .hostMem, .hostForm, .lpddr, .pcie, .thermtrip, .mon, .free, .pending] (State.initial s.fuses d cc) t
  cause : t.rn (rBoot 2) = causeCode c
  regs : ∀ k, k ≠ rBoot 2 → t.rd k = (State.initial s.fuses d cc).rd k
  pcie : t.pcie = { Pcie.reset with perst := s.pcie.perst, training := !s.pcie.perst }
  mon : t.mon = { Mon.reset with thermtrip := s.mon.thermtrip && decide (c ≠ .powerOn) }
  host : t.hostMem = s.hostMem ∧ t.pending = s.pending

/-- From s to t one fault record of this kind, status, auxiliary field, LOC and DETAIL has been posted, stamped with SYS.TB
    (12 R421, R422, Table 12.8): it stands at its place of the fault log under the next SEQ. -/
def State.Posts (s t : State) (kind status aux : Nat) (loc detail : W64) : Prop :=
  Tab.get (0, 0, 0, 0) t.log.recs (1 + s.log.seq.toNat % 64) =
    (faultWord0 kind s.dev s.log.seq.toNat status aux, s.rd rTB, loc, detail) ∧
  t.log.seq = s.log.seq + 1

/-! What each command may change -/

/-- The parts that an operation of the dictionary may change. -/
def dictParts : List Part :=
  [.regs, .fuses, .boot, .eng, .reconf, .lrn, .cores, .tiles, .nodes, .ports, .conns, .combs, .hrings, .lpddr,
   .chans, .swap, .parks, .sports, .sctxs, .sch, .was, .capOld, .capPre, .paths, .mboxes, .sdio, .pcie, .log,
   .doms, .drains, .routes, .peers, .flights, .live, .scrub, .free]

/-- Every part of the state. -/
def allParts : List Part :=
  [.regs, .fuses, .straps, .cc, .stage, .boot, .eng, .reconf, .lrn, .cores, .tiles, .nodes, .rtrs, .ports,
   .conns, .combs, .hrings, .hostMem, .lpddr, .chans, .turnR, .turnW, .swap, .parks, .parkq, .sports, .sctxs,
   .sch, .was, .hits, .capOld, .capPre, .paths, .mboxes, .sdio, .pcie, .log, .doms, .thermtrip, .mon, .drains,
   .routes, .peers, .lossSnap, .flights, .live, .ids, .now, .slew, .scrub, .scrubbed, .free, .pending,
   .oneWay, .hostForm]

/-- The parts that receiving a packet may change. -/
def rxParts : List Part :=
  [.regs, .eng, .reconf, .cores, .tiles, .nodes, .ports, .conns, .combs, .hrings, .lpddr, .chans, .swap,
   .parkq, .sports, .paths, .pcie, .doms, .drains, .flights, .live, .ids]

/-- The parts that moving packets and stopping the mesh may change. -/
def meshParts : List Part :=
  [.regs, .cores, .tiles, .nodes, .ports, .conns, .combs, .hrings, .lpddr, .chans, .sports, .sctxs, .paths,
   .pcie, .log, .doms, .routes, .peers, .flights, .live]

/-- The parts that a write of the dictionary may change. -/
def storeParts : List Part :=
  [.regs, .fuses, .boot, .eng, .reconf, .lrn, .cores, .tiles, .nodes, .ports, .conns, .combs, .hrings, .lpddr,
   .chans, .swap, .parks, .sports, .sctxs, .sch, .was, .capPre, .paths, .mboxes, .sdio, .pcie, .log, .doms,
   .drains, .routes, .peers, .flights, .live, .scrub, .free]

/-- The parts that ending a supply warning may change. -/
def warnParts : List Part :=
  [.regs, .eng, .reconf, .lrn, .cores, .tiles, .nodes, .ports, .conns, .combs, .hrings, .lpddr, .chans,
   .sports, .sctxs, .paths, .pcie, .log, .doms, .mon, .routes, .peers, .flights, .live, .scrub]

/-- The parts that a command entry of the dictionary may change. -/
def cmdParts : List Part :=
  [.regs, .fuses, .boot, .eng, .reconf, .lrn, .cores, .tiles, .nodes, .ports, .conns, .combs, .hrings, .lpddr,
   .chans, .swap, .sports, .sctxs, .paths, .mboxes, .sdio, .pcie, .log, .doms, .routes, .peers, .flights,
   .live, .scrub, .free]

/-- The parts that a write of a processor or a register may change. -/
def regParts : List Part :=
  [.regs, .fuses, .stage, .boot, .eng, .reconf, .lrn, .cores, .tiles, .nodes, .ports, .conns, .combs, .hrings,
   .lpddr, .chans, .swap, .parks, .sports, .sctxs, .sch, .was, .capOld, .capPre, .paths, .mboxes, .sdio,
   .pcie, .log, .doms, .drains, .routes, .peers, .flights, .live, .scrub, .free]

/-- What a command may change: the parts of the state that its rules let it write, and no other (02 to 13; the frame of
    every command). -/
def changes : Instr → List Part
  | .deviceReset .. | .porstPulse .. | .resetDelayExpire .. | .supplyReset .. => allParts
  | .dawnEnd .. => [.regs, .stage, .boot, .log]
  | .sunriseEnd .. => [.regs, .stage, .boot, .ports, .log, .scrub]
  | .memTrainingTimeout | .portTrainingDone .. | .trgPulseEnd .. | .procSample .. | .captureGlitch .. => [.regs]
  | .morningEnd .. => [.regs, .stage, .boot]
  | .bootStepTimeout .. => [.regs, .stage, .boot, .nodes, .ports, .chans, .log, .routes, .peers, .live]
  | .bootReset .. | .bootForceReset .. | .defectMark .. | .defectUnmark .. => [.regs, .boot, .paths, .doms]
  | .registerWrite .. | .dwRead .. | .dwWrite .. | .dwInfo .. | .dreq .. | .cmd52 .. | .cmd53 ..
  | .domainWakeDone .. => dictParts
  | .coreWindowWrite .. | .bar2Write .. => [.regs, .eng, .reconf, .cores, .tiles, .lpddr, .pcie, .doms, .ids]
  | .stepRun .. => [.regs, .eng, .reconf, .lrn, .cores, .tiles, .nodes, .ports, .paths, .doms]
  | .stepStop .. => [.regs, .eng, .cores, .ports, .paths, .doms]
  | .stepFence .. | .mapCoreWrite .. | .hringConsWrite .. | .dringEnable .. | .dringDisable ..
  | .dringProdWrite .. | .dmaProdWrite .. | .spUp .. | .tmrCountWrite .. | .tmrFlagsWrite .. | .trgForceWrite ..
  | .winbaseWrite .. | .hostOpen .. | .mbLockRead .. | .mbLockWrite .. | .mbReceiverWrite .. | .mbNoticeRead ..
  | .secAttest .. | .faultRingEnable .. | .faultRingDisable .. | .monExtremeClear .. => [.regs, .paths, .doms]
  | .stepFenceTimeout .. => [.paths]
  | .stepPeriodWrite .. => [.regs, .reconf, .ports, .paths, .doms]
  | .stepDeadline => [.eng]
  | .stepSourceEvent .. => [.regs, .eng]
  | .wave .. => [.regs, .eng, .cores, .nodes, .ports]
  | .settle .. => [.regs, .eng, .reconf, .lrn, .cores, .tiles, .nodes, .ports]
  | .sack .. => [.regs, .eng, .cores, .nodes, .log]
  | .openStep .. => [.regs, .eng, .reconf, .cores, .nodes, .ports, .log]
  | .reconfCommitBoundary .. | .reconfCommitGeneration .. =>
      [.regs, .eng, .reconf, .lrn, .cores, .tiles, .ports, .paths, .doms]
  | .reconfCancel .. => [.regs, .eng, .reconf, .cores, .paths, .doms]
  | .nop .. | .fire .. | .leak .. | .trace .. | .fence .. | .fenceDone .. | .repeatOp .. | .waitstep .. => [.cores]
  | .dense .. | .eventAccumulate .. | .midnight .. =>
      [.regs, .boot, .cores, .tiles, .nodes, .paths, .log, .flights, .live, .free]
  | .send .. | .combine .. | .queueCreditReturn .. => [.cores, .nodes, .conns, .live, .ids]
  | .recv .. => [.regs, .cores, .tiles, .conns, .log]
  | .passDone .. => [.eng, .cores]
  | .emit .. => [.cores, .tiles, .nodes, .flights, .live, .ids]
  | .stallLimitReached .. => [.regs, .cores, .log]
  | .coreFence .. => [.regs, .boot, .eng, .cores, .tiles, .nodes, .paths, .doms, .flights, .live, .free]
  | .coreRelease .. | .lrnCmdClear .. => [.regs, .cores, .paths, .doms]
  | .lrnCmdMidnight .. =>
      [.regs, .boot, .eng, .lrn, .cores, .tiles, .nodes, .paths, .log, .doms, .flights, .live, .free]
  | .packetSend .. =>
      [.regs, .cores, .tiles, .nodes, .ports, .conns, .combs, .lpddr, .chans, .paths, .log, .live, .ids]
  | .routerForward .. => [.regs, .nodes, .rtrs]
  | .packetReceive .. => rxParts
  | .delayRingPlace .. => [.regs, .cores, .tiles, .nodes, .flights, .live]
  | .ack .. | .haveAns .. => [.regs, .tiles, .nodes, .ports, .conns, .combs, .lpddr, .paths, .routes, .live]
  | .nak .. | .retransmitTimeout .. => [.regs, .nodes, .ports, .log]
  | .skip .. | .credit .. => [.regs, .nodes, .ports]
  | .absent .. | .portRxNextReply .. | .portDownReconcileTimeout .. =>
      [.regs, .tiles, .nodes, .ports, .conns, .combs, .lpddr, .chans, .paths, .routes, .live]
  | .laneFailure .. => [.regs, .ports]
  | .lane .. => [.regs, .nodes, .ports, .log, .free]
  | .portRetentionNotice .. => [.regs, .nodes, .doms]
  | .portTrain .. => [.regs, .ports, .paths, .log, .doms]
  | .qualWindowEnd .. => [.regs, .nodes, .ports, .chans, .log, .routes, .peers, .live]
  | .portDown .. => [.regs, .nodes, .ports, .chans, .paths, .log, .doms, .routes, .peers, .live]
  | .mapTileWrite .. => [.regs, .nodes, .parks, .paths, .doms, .drains]
  | .drain .. => [.swap, .paths, .drains]
  | .routeWrite .. => [.regs, .ports, .paths, .doms, .routes]
  | .drained .. => [.routes]
  | .join .. => [.regs, .eng, .cores, .nodes, .ports, .chans, .paths, .log, .routes, .peers, .live]
  | .sysRejoin .. => [.regs, .ports, .paths, .doms]
  | .sysAdoptStep .. => [.regs, .eng, .ports, .paths, .doms]
  | .tickSend => [.nodes]
  | .tick .. => [.regs, .slew]
  | .lossRateUpdate => [.regs, .lossSnap, .free]
  | .connOpen .. => [.regs, .tiles, .nodes, .conns, .combs, .lpddr, .paths, .doms]
  | .connConfirm .. => [.nodes, .conns]
  | .connAck .. | .connCloseTimeout .. | .combDeliver .. => [.regs, .tiles, .nodes, .conns, .combs, .lpddr, .paths]
  | .connOpenTimeout .. => [.conns, .paths]
  | .connClose .. | .connCloseMessage .. =>
      [.regs, .cores, .tiles, .nodes, .conns, .combs, .hrings, .lpddr, .paths, .pcie, .doms, .live]
  | .queueDeliver .. =>
      [.regs, .cores, .tiles, .nodes, .conns, .combs, .hrings, .lpddr, .paths, .pcie, .log, .doms, .live]
  | .recordHandoff .. => [.regs, .tiles, .nodes, .conns, .live]
  | .combContribute .. => [.regs, .cores, .tiles, .nodes, .conns, .combs, .lpddr, .paths, .live]
  | .hringWrite .. =>
      [.regs, .tiles, .nodes, .conns, .combs, .hrings, .hostMem, .lpddr, .paths, .pcie, .doms, .live]
  | .hringHoldoffExpire .. => [.hrings, .pcie]
  | .hringEnable .. | .hringDisable .. => [.regs, .hrings, .paths, .doms]
  | .hringForceDisable .. | .busMasterEnableChange .. =>
      [.regs, .tiles, .nodes, .conns, .combs, .hrings, .lpddr, .paths, .pcie, .doms, .live]
  | .dringFetch .. => [.regs, .nodes, .conns, .log, .live, .ids]
  | .dmaOpen .. | .dmaStart .. | .dmaStop .. | .dmaClose .. => [.regs, .chans, .paths, .doms]
  | .dmaDescFetch .. => [.regs, .chans, .log, .doms, .ids]
  | .dmaReadBeat .. => [.regs, .chans, .turnR, .swap, .log, .doms]
  | .dmaWriteBeat => [.regs, .eng, .reconf, .cores, .tiles, .nodes, .hostMem, .lpddr, .chans, .turnW, .swap, .doms]
  | .dmaDescComplete .. => [.regs, .eng, .nodes, .conns, .chans, .capOld, .sdio, .pcie, .doms, .live, .ids]
  | .dmaDescFault .. => [.regs, .chans, .log]
  | .parkWrite => [.regs, .eng, .reconf, .cores, .tiles, .lpddr, .parkq, .doms, .live]
  | .descPark =>
      [.regs, .eng, .reconf, .cores, .tiles, .nodes, .conns, .combs, .hrings, .lpddr, .parkq, .paths, .pcie,
       .log, .doms, .live]
  | .replay .. => [.regs, .nodes, .parks, .log, .doms]
  | .swapOut .. | .swapExchange .. => [.regs, .nodes, .swap, .paths, .doms]
  | .swapIn .. => [.regs, .swap, .paths, .doms]
  | .swapFreeze => [.eng, .swap]
  | .swapCopyOut => [.swap]
  | .swapCopyOutDone .. =>
      [.regs, .boot, .eng, .reconf, .cores, .tiles, .nodes, .conns, .lpddr, .swap, .capOld, .paths, .sdio,
       .pcie, .log, .doms, .flights, .live, .ids, .free]
  | .swapCopyInDone .. =>
      [.regs, .eng, .reconf, .cores, .tiles, .nodes, .conns, .lpddr, .swap, .capOld, .paths, .sdio, .pcie, .log,
       .doms, .live, .ids]
  | .swapMapDone .. => [.regs, .eng, .nodes, .conns, .swap, .capOld, .sdio, .pcie, .doms, .live, .ids]
  | .memPatrolPass .. => [.regs, .log]
  | .frameReceive .. => [.regs, .sports, .sctxs, .paths]
  | .pauseFrameReceive .. => [.regs, .sports]
  | .sampleConvert .. => [.regs, .nodes, .sports, .sch, .paths, .free]
  | .egressRecord .. => [.regs, .nodes, .sports, .sctxs, .live]
  | .egressHoldoffExpire .. => [.sports, .sctxs]
  | .egressFrameTransmit .. => [.regs, .nodes, .sports, .paths, .live]
  | .sctxEnable .. => [.regs, .sctxs, .paths, .doms]
  | .sctxDisable .. => [.regs, .sports, .sctxs, .paths, .doms]
  | .schEntryWrite .. => [.regs, .sch, .paths, .doms]
  | .spDown .. => [.regs, .nodes, .sports, .sctxs, .paths, .doms, .live]
  | .spLinkChange .. => [.regs, .nodes, .sports, .sctxs, .paths, .live]
  | .timerWrap .. | .timerMatch .. => [.regs, .eng, .was, .hits, .pcie]
  | .tmrCmpWrite .. | .tmrEnWrite .. => [.regs, .was, .paths, .doms]
  | .tmrCaptRead .. => [.regs, .capOld, .paths, .doms]
  | .captureFilterAccept .. => [.regs, .eng, .capOld, .capPre]
  | .capinConfigWrite .. => [.regs, .capPre, .paths, .doms]
  | .pcieFlr .. =>
      [.regs, .cores, .tiles, .nodes, .conns, .combs, .hrings, .lpddr, .chans, .paths, .mboxes, .sdio, .pcie,
       .doms, .live]
  | .bar2Read .. => [.regs, .pcie, .log, .doms]
  | .dictOpComplete .. => [.regs, .nodes, .paths, .sdio, .pcie]
  | .dictHkcTimeout .. | .drsp .. | .dictForwardTimeout => [.regs, .paths]
  | .cmd5 | .cmd11 | .cmd19 | .ioAbort => [.sdio]
  | .sdioRes => [.regs, .nodes, .conns, .paths, .mboxes, .sdio, .pcie]
  | .intPendWrite .. => [.paths, .sdio]
  | .hostClose .. => [.regs, .nodes, .conns, .paths, .mboxes, .sdio, .pcie, .doms]
  | .mbMsgWrite .. => [.regs, .paths, .mboxes, .doms]
  | .mbSend .. | .mbConsWrite .. => [.regs, .paths, .mboxes, .sdio, .pcie, .doms]
  | .mbSendTimeout .. => [.paths, .mboxes]
  | .mbDoorbell .. => [.regs, .paths, .sdio, .pcie, .doms]
  | .mbReset .. => [.regs, .nodes, .paths, .mboxes, .sdio, .pcie, .doms]
  | .notice .. => [.regs, .sdio, .pcie]
  | .secAdvanceArb .. | .secProvision .. => [.regs, .fuses, .paths, .doms]
  | .scrubPass .. => [.regs, .paths, .doms, .scrub]
  | .scrubPassStart .. => [.regs, .boot, .cores, .tiles, .nodes, .paths, .log, .flights, .live, .scrub, .free]
  | .watchdogExpire .. =>
      [.regs, .boot, .cores, .tiles, .nodes, .ports, .chans, .paths, .log, .routes, .peers, .flights, .live,
       .free]
  | .lockstepMismatch .. => [.regs, .stage, .boot, .nodes, .conns, .paths, .mboxes, .sdio, .pcie, .log, .mon]
  | .hkcRestartDone .. => regParts
  | .faultRingWrite => [.regs, .hostMem, .pcie, .log]
  | .domainOn .. | .domainRetention .. | .domainOff .. | .domainOffForce .. => meshParts
  | .domainEntryDone .. =>
      [.regs, .cores, .tiles, .nodes, .conns, .combs, .hrings, .lpddr, .parkq, .sports, .sctxs, .sch, .paths,
       .pcie, .doms, .mon, .live, .free]
  | .domainEntryAbandon .. | .domainWake .. => [.regs, .doms]
  | .tempSample .. => [.regs, .log, .thermtrip, .mon]
  | .voltSample .. => [.regs, .log, .mon, .free]
  | .vwarnLatch .. => [.regs, .eng, .mon]
  | .vwarnClear .. => warnParts
  | .scrubPassEnd .. => [.regs, .scrub, .scrubbed]
  | .refclkLoss => [.boot]
  | .perstRelease | .unsupportedRequest .. | .msixPendingSend .. => [.pcie]
  | .bar0Read .. => [.regs, .pcie]
  | .pauseExpire .. => [.sports]

end Sys2Proof.Machine
end

