-- ==== Sys2Proof/Certificates/Slice0/Obligations.lean ====
section
/-! DEFINITION. The obligations: what the block must do by the numbered rules of the specification, for the provers. -/

section
open Sys2Proof Sys2Proof.Machine

/-- A step takes the command at the front of the queue and runs it on the rest, first in, first out. -/
def Obligations.StepRunsTheFrontCommand : Prop :=
  ∀ (c : Instr) (rest : List Instr) (s : State), s.pending = c :: rest → step s = exec c { s with pending := rest }

/-- On an empty queue a step is one 2 ns tick of the clock (a design choice of the model, log 1): while REFCLK runs it
    counts the ticks since reset, and SYS.TB advances by one; by two or by none in the tick in which a follower trims its
    rate (08 R280, 10 R347). While REFCLK is lost nothing happens. -/
def Obligations.AnEmptyQueueTicks : Prop :=
  ∀ s : State, s.pending = [] →
    (s.boot.refclk = false → step s = .next s) ∧
    (s.boot.refclk = true → ∃ t, step s = .next t ∧
      Only [.regs, .eng, .nodes, .conns, .combs, .was, .hits, .pcie, .log, .now, .slew] s t ∧
      t.rd rTB = s.rd rTB + (match s.slew with | none => 1 | some true => 2 | some false => 0) ∧
      t.now = s.now + 1 ∧ t.slew = none)

/-- Every command ends in a next state, never in a fault or a refusal, and changes only the parts of the state that
    `changes` lists for it: in particular only a device reset and the commands that the list names write the status, the
    memories, the fuses, the fault log or the boot stage, and no command touches the queue but a device reset, which keeps
    its contents. -/
def Obligations.EveryCommandKeepsItsFrame : Prop :=
  ∀ (c : Instr) (s : State), ∃ t, exec c s = .next t ∧ Only (changes c) s t

/-- What a device reset leaves, for every fuse bank and straps (00 R11, 02 R45, R46, R70, R71, 03 R128, 08 R281, 12 R397, R434,
    13 R457): the device in DAWN with the step engine STOPPED, STEP.COUNT 0, tag reference 0 and no settle round; every core
    UNCONFIGURED with its memories zero; every connection FREE, every port DOWN, the mailboxes, rings and queues empty, the
    fault log empty with SEQ 0, every power domain ON, CONFIG.HASH zero; and the registers of Tables 2.9, 7.13, 8.16, 10.4,
    12.16 and 13.6 at their defaults. -/
def Obligations.ResetValues : Prop :=
  ∀ (f : Fuses) (d : BitVec 3) (cc : Bool), let s := State.initial f d cc
    s.boot.stage = .dawn ∧ s.eng.phase = .stopped ∧ s.eng.count = 0 ∧ s.eng.tagRef = 0 ∧ s.eng.round = none ∧
    s.reconf.state = .idle ∧ s.reconf.cgen = false ∧ s.reconf.hash = List.replicate 48 0 ∧
    (∀ k, (s.core k).state = .unconfigured ∧ (s.core k).inbuf = [] ∧ ∀ a, (a < aCFG ∨ aCFG + 0x800 ≤ a) → (s.core k).mem.rd a = 0) ∧
    (∀ i, (s.conn i).state = .free ∧ (s.conn i).gen = 0) ∧ (∀ p, p < 7 → s.portState p = 0) ∧
    (∀ i, (s.mbox i).ring = [] ∧ (s.mbox i).staged = none) ∧ s.swap = none ∧ s.chans = [] ∧
    s.log.recs = [] ∧ s.log.seq = 0 ∧ s.log.queue = [] ∧ (∀ x, x < 90 → s.rn (rDomain x) = 1) ∧
    s.rn (rk 0 0x4800 2) = 2 ^ d.toNat ∧ s.rn rPeriod = 1000000 ∧ s.rn (rk 0 0x3800 3) = 0xFFFF ∧
    (∀ r, r < 64 → s.rn (hReg r 2) = 12 ∧ s.rn (hReg r 5) = 100) ∧ (∀ v, v < 64 → s.tileKind v = 1 ∧ s.tilePt v = v) ∧
    (∀ v, 64 ≤ v → v < 512 → s.tileKind v = 0) ∧ (∀ v, v < 512 → s.imageSlot v = 0xFFFF) ∧
    (∀ n, n < 32 → s.rn (tmr n 4) = 0xFFFFFFFF ∧ s.rn (tmr n 1) = 0) ∧ s.rn (rk 0 0x0802 1) = 95 ∧
    s.rd rTB = 0 ∧ s.pending = []

/-- The memories of the reset state have their canonical form, and it keeps the invariants that steps keep. -/
def Obligations.ResetIsCanonical : Prop :=
  State.reset.hostMem.wf ∧ State.reset.lpddr.wf ∧ (∀ k, (State.reset.tile k).tsm.wf) ∧ (∀ k, (State.reset.core k).mem.wf) ∧
  (∀ i, (State.reset.mbox i).ring.wf) ∧ State.reset.pending = []

/-- The host's memory keeps its canonical form, addresses strictly rising and no byte listed that reads as an unlisted one
    does, in every step from every state in which it has it. -/
def Obligations.HostMemoryStaysCanonical : Prop :=
  ∀ s t : State, step s = .next t → s.hostMem.wf → t.hostMem.wf

/-- BOOT.STAGE (12 R397): in every step the stage stays, or passes from DAWN to SUNRISE, from SUNRISE to MORNING, from MORNING
    to NOON, or from one of these three to FAULT, or the step was a device reset, after which it is DAWN: NOON and FAULT are
    left only by a device reset. -/
def Obligations.BootStageOrder : Prop :=
  ∀ s t : State, step s = .next t →
    t.boot.stage = s.boot.stage ∨
    (s.boot.stage, t.boot.stage) ∈ [(Stage.dawn, Stage.sunrise), (.sunrise, .morning), (.morning, .noon), (.dawn, .fault),
      (.sunrise, .fault), (.morning, .fault)] ∨
    (t.boot.stage = .dawn ∧ ∃ q c d cc, ({ s with pending := q } : State).IsResetOf t c d cc)

/-- Fuses are only ever blown (12 R405, R432): no step changes the serial number, the grade, the MAC addresses, the failed
    units or the firmware key hash, lowers the anti-rollback value, or changes a customer key hash that holds a nonzero
    byte, so that signed-configuration mode cannot be left. -/
def Obligations.FusesAreOnlyBlown : Prop :=
  ∀ s t : State, step s = .next t → s.fuses.Blown t.fuses ∧ (s.signedMode = true → t.signedMode = true)

/-- The straps are read at a device reset only (14 R472): in every other step DEVNUM and the common-clock strap stay. -/
def Obligations.StrapsHoldUntilReset : Prop :=
  ∀ s t : State, step s = .next t →
    (t.straps = s.straps ∧ t.cc = s.cc) ∨ ∃ q c d cc, ({ s with pending := q } : State).IsResetOf t c d cc

/-- THERMTRIP_N stays latched until the supplies are removed (13 R451): a step that leaves it unasserted is a device reset of
    cause POWER_ON. -/
def Obligations.ThermtripLatchHolds : Prop :=
  ∀ s t : State, step s = .next t → s.mon.thermtrip = true →
    t.mon.thermtrip = true ∨ ∃ q d cc, ({ s with pending := q } : State).IsResetOf t .powerOn d cc

/-- When more than one condition applies, the device reports the lowest nonzero code, FAULT before every other (00 R17). -/
def Obligations.LowestStatusIsReported : Prop :=
  ∀ cs : List (Bool × Status),
    (pickAll cs = .ok ∨ (true, pickAll cs) ∈ cs) ∧
    ((true, Status.fault) ∈ cs → pickAll cs = .fault) ∧
    ((true, Status.fault) ∉ cs → ∀ st, (true, st) ∈ cs → st ≠ .ok → pickAll cs ≠ .ok ∧ (pickAll cs).code ≤ st.code)

/-- rne(n / 2^s) is the integer nearest to the exact quotient, and the even one when the quotient lies halfway between two
    integers (05 R164). -/
def Obligations.RneIsNearestEven : Prop :=
  ∀ (n : Int) (s : Nat), let d : Int := 2 * (n - rneShr n s * 2 ^ s);
    0 ≤ d + 2 ^ s ∧ d ≤ 2 ^ s ∧ (s ≠ 0 → (d = 2 ^ s ∨ d = -(2 ^ s)) → rneShr n s % 2 = 0)

/-- The step-table operations that move the pass: NOP and the opcodes 0xB to 0xF move to the next entry, the latter
    counting in CFG.BADREC; FENCE awaits what the core has handed on and FENCE_DONE goes on once all of it has
    ended; REPEAT takes the next entry N times; WAITSTEP starts the release; and a stall limit reached counts, sets
    STALLED and posts a STALL record. No other core changes. Each of these commands completes, exec answering a next
    state: NOP, FENCE, FENCE_DONE, REPEAT, WAITSTEP, STALL_LIMIT_REACHED. -/
def Obligations.PassFlow : Prop :=
  (∀ (k : Nat) (s : State), s.atEntry k = true → opcode (s.core k).word = 0 → (s.core k).rep = none →
    (s.core k).pc.toNat + 1 < (s.core k).stbBase + (s.core k).stbLen →
    Completes [.cores] (.nop k) s fun t =>
      t.core k = { s.core k with pc := (s.core k).pc + 1, pass := .run } ∧ ∀ j, j ≠ k → t.core j = s.core j) ∧
  (∀ (k : Nat) (s : State), s.atEntry k = true → 0xB ≤ opcode (s.core k).word → (s.core k).rep = none →
    (s.core k).pc.toNat + 1 < (s.core k).stbBase + (s.core k).stbLen →
    Completes [.cores] (.nop k) s fun t =>
      (t.core k).rn aBADREC = min ((s.core k).rn aBADREC + 1) (2 ^ 32 - 1) ∧ (t.core k).pc = (s.core k).pc + 1 ∧
      (t.core k).pass = .run ∧ ∀ j, j ≠ k → t.core j = s.core j) ∧
  (∀ (k : Nat) (s : State), s.atOp k 8 = true →
    Completes [.cores] (.fence k) s fun t =>
      t.core k = { s.core k with pass := .fence ((s.live.filter fun p => p.2 = k).map Prod.fst) } ∧
      ∀ j, j ≠ k → t.core j = s.core j) ∧
  (∀ (k : Nat) (s : State) (ids : List Nat), (s.core k).pass = .fence ids → s.tileLive (k / 136) = true →
    (∀ i ∈ ids, ∀ p ∈ s.live, p.1 ≠ i) → (s.core k).rep = none →
    (s.core k).pc.toNat + 1 < (s.core k).stbBase + (s.core k).stbLen →
    Completes [.cores] (.fenceDone k) s fun t =>
      t.core k = { s.core k with pc := (s.core k).pc + 1, pass := .run } ∧ ∀ j, j ≠ k → t.core j = s.core j) ∧
  (∀ (k : Nat) (s : State), s.atOp k 9 = true → fld (s.core k).word 59 48 ≠ 0 →
    (s.core k).pc.toNat + 1 < (s.core k).stbBase + (s.core k).stbLen →
    1 ≤ opcode ((s.core k).stb ((s.core k).pc.toNat + 1)) → opcode ((s.core k).stb ((s.core k).pc.toNat + 1)) ≤ 7 →
    Completes [.cores] (.repeatOp k) s fun t =>
      t.core k =
        { s.core k with
          pc := (s.core k).pc + 1,
          rep := some { n := fld (s.core k).word 59 48, stride := fld (s.core k).word 47 36, k := 0 } } ∧
      ∀ j, j ≠ k → t.core j = s.core j) ∧
  (∀ (k : Nat) (s : State), s.atOp k 0xA = true →
    Completes [.cores] (.waitstep k) s fun t =>
      t.core k = { s.core k with pass := .release } ∧ ∀ j, j ≠ k → t.core j = s.core j) ∧
  (∀ (k : Nat) (s : State), (s.core k).stalling = true → (s.core k).stalled = false →
    Completes [.regs, .cores, .log] (.stallLimitReached k) s fun t =>
      (t.core k).stalled = true ∧ (t.core k).rn aSTALLS = min ((s.core k).rn aSTALLS + 1) (2 ^ 32 - 1) ∧
      (t.core k).rd64 aSTALLINFO = (s.core k).stallInfo ∧ t.log.seq = s.log.seq + 1 ∧
      ∀ j, j ≠ k → t.core j = s.core j)

/-- The array operations of a pass: FIRE and LEAK visit neurons FIRST to FIRST + COUNT − 1 in order, FIRE then waiting
    while the emitter holds what the visits caused; TRACE on a core that does not learn only goes on; and DENSE runs
    its descriptor over SYN, NST and the TSM of its own tile. No other core changes. Each of these commands
    completes, exec answering a next state: FIRE, LEAK, TRACE, DENSE. -/
def Obligations.PassArrays : Prop :=
  (∀ (k : Nat) (s : State), s.atOp k 1 = true →
    let c := s.core k
    let n := fld c.word 47 35
    let d := Core.visits (fun c r i => c.fireVisit s.passCtx r i) c.opFirst n (c.countRange n)
    Completes [.cores] (.fire k) s fun t =>
      (d.passJobs = true → t.core k = { d with pass := .drain }) ∧ (d.passJobs = false → t.core k = d.advance) ∧
      ∀ j, j ≠ k → t.core j = s.core j) ∧
  (∀ (k : Nat) (s : State), s.atOp k 2 = true →
    let c := s.core k
    let n := fld c.word 47 35
    Completes [.cores] (.leak k) s fun t =>
      t.core k = (Core.visits (fun c r i => c.leakVisit r i) c.opFirst n (c.countRange n)).advance ∧
      ∀ j, j ≠ k → t.core j = s.core j) ∧
  (∀ (k : Nat) (s : State), s.atOp k 3 = true → (s.core k).learns = false → (s.core k).rep = none →
    (s.core k).rangeBad (s.core k).opFirst (fld (s.core k).word 47 35) = false →
    (s.core k).pc.toNat + 1 < (s.core k).stbBase + (s.core k).stbLen →
    Completes [.cores] (.trace k) s fun t =>
      t.core k = { s.core k with pc := (s.core k).pc + 1, pass := .run } ∧ ∀ j, j ≠ k → t.core j = s.core j) ∧
  (∀ (k : Nat) (s : State), s.atOp k 3 = true →
    Completes [.cores] (.trace k) s fun t =>
      t.core k = (((s.core k).countRange (fld (s.core k).word 47 35)).traceOp (s.core k).opFirst
        (fld (s.core k).word 47 35)).advance ∧ ∀ j, j ≠ k → t.core j = s.core j) ∧
  (∀ (k beats : Nat) (s : State), s.atOp k 4 = true →
    let c := s.core k
    let g := s.denseGrant k beats
    let r := denseBeats s.passCtx (c.dense c.opSlot) (s.tile (k / 136)).poison g
      { c := { c with dn := some c.denseRun }, tsm := (s.tile (k / 136)).tsm }
    let e := { r.1.c with evLast := decide (g = 0) && c.evLast }
    (s.eventReady k = false → g = beats) ∧
    Completes [.regs, .boot, .cores, .tiles, .nodes, .paths, .log, .flights, .live, .free] (.dense k ⟨beats, false⟩) s fun t =>
      (r.2 = .done → t.core k = { e with dn := none }.advance) ∧ (r.2 = .more → t.core k = e) ∧
      (r.2 = .poison → r.1.c.state ≠ .fenced → (t.core k).state = .fenced ∧ (t.core k).cause = 3 ∧ (t.core k).dn = none) ∧
      (r.2 ≠ .poison →
        t.tile (k / 136) = { s.tile (k / 136) with tsm := r.1.tsm } ∧ (∀ j, j ≠ k / 136 → t.tile j = s.tile j) ∧
        Only [.cores, .tiles] s t) ∧
      ∀ j, j ≠ k → t.core j = s.core j) ∧
  (∀ (k beats : Nat) (s : State), s.atOp k 4 = true → 0 < s.denseGrant k beats →
    let c := s.core k
    let r := denseBeats s.passCtx (c.dense c.opSlot) (s.tile (k / 136)).poison (s.denseGrant k beats - 1)
      { c := { c with dn := some c.denseRun }, tsm := (s.tile (k / 136)).tsm }
    r.2 = .more → r.1.c.state ≠ .fenced →
    Completes [.regs, .boot, .cores, .tiles, .nodes, .paths, .log, .flights, .live, .free] (.dense k ⟨beats, true⟩) s fun t =>
      (t.core k).state = .fenced ∧ (t.core k).cause = 1 ∧ (t.core k).dn = none ∧ ∀ j, j ≠ k → t.core j = s.core j)

/-- SEND, RECV and COMBINE of a core: a SEND that no check refuses and nothing holds hands its descriptor to VC1, takes
    a credit of a QUEUE destination and counts in CONN.SENT; one that its credit or its NI holds blocks; a RECV on a
    queue that holds a descriptor takes the oldest and starts a credit back; a COMBINE that no check refuses hands
    its contribution to VC1 and blocks until a bank accepts it; and what a check refuses ends with its status. Each
    of these commands completes, exec answering a next state: SEND, RECV, COMBINE. -/
def Obligations.PassMessages : Prop :=
  (∀ (k : Nat) (s : State), s.atOp k 5 = true →
    let c := s.core k
    let h := fld c.word 55 40
    let n := c.opSlot
    pickAll (s.sendRefusal h ((s.lcidOf k).getD 0)) = .ok → descCheck (c.rdDesc (aDslot n)) = .ok →
    s.sendWaits k (h % 4096) = false →
    Completes [.cores, .nodes, .conns, .live, .ids] (.send k) s fun t =>
      t.core k = c.opEnd n .ok none ∧
      (t.conn (h % 4096)).sent = w64 (min ((s.conn (h % 4096)).sent.toNat + 1) (2 ^ 64 - 1)) ∧
      (t.conn (h % 4096)).taken = (s.conn (h % 4096)).taken + (if (s.conn (h % 4096)).edkind = 0 then 1 else 0) ∧
      (∃ m : DescMsg, Tab.get [] (t.node (k / 136)).out 1 = Tab.get [] (s.node (k / 136)).out 1 ++ [.desc m] ∧
        m.words = c.rdDesc (aDslot n) ∧ m.id = s.ids + 1 ∧ m.core = k) ∧
      (s.ids + 1, k) ∈ t.live ∧ (∀ j, j ≠ k → t.core j = s.core j) ∧
      ∀ j, j ≠ h % 4096 → t.conn j = s.conn j) ∧
  (∀ (k : Nat) (s : State), s.atOp k 5 = true →
    let c := s.core k
    let h := fld c.word 55 40
    let n := c.opSlot
    pickAll (s.sendRefusal h ((s.lcidOf k).getD 0)) = .ok → descCheck (c.rdDesc (aDslot n)) = .ok →
    s.sendWaits k (h % 4096) = true →
    Completes [.cores] (.send k) s fun t => t.core k = c.block 0x5 h n 0 ∧ ∀ j, j ≠ k → t.core j = s.core j) ∧
  (∀ (k : Nat) (s : State), s.atOp k 5 = true →
    let c := s.core k
    let st := Status.pick (pickAll (s.sendRefusal (fld c.word 55 40) ((s.lcidOf k).getD 0)))
      (descCheck (c.rdDesc (aDslot c.opSlot)))
    st ≠ .ok →
    Completes [.cores] (.send k) s fun t => t.core k = c.opEnd c.opSlot st none ∧ ∀ j, j ≠ k → t.core j = s.core j) ∧
  (∀ (k i : Nat) (s : State), s.atOp k 6 = true →
    let c := s.core k
    let h := fld c.word 55 40
    let n := c.opSlot
    let sl := (s.lcidOf k).getD 0 % 128
    let q := s.queue (k / 136) sl (s.conn i).q
    s.connOf h = some i → (s.conn i).dkind = 0 → (s.conn i).dest = (s.lcidOf k).getD 0 → (s.conn i).state = .opn →
    q.held ≠ 0 → descCrcOk (c.rdDesc (aQslot (s.conn i).q q.head)) = true →
    Completes [.cores, .tiles, .conns] (.recv k) s fun t =>
      t.core k = (c.wrDesc (aDslot n) (c.rdDesc (aQslot (s.conn i).q q.head))).opEnd n .ok (some true) ∧
      t.queue (k / 136) sl (s.conn i).q = { q with head := (q.head + 1) % 32, held := q.held - 1 } ∧
      (t.conn i).creditsBack = (s.conn i).creditsBack + 1 ∧ (∀ j, j ≠ k → t.core j = s.core j) ∧
      ∀ j, j ≠ i → t.conn j = s.conn j) ∧
  (∀ (k i : Nat) (s : State), s.atOp k 6 = true →
    let c := s.core k
    let h := fld c.word 55 40
    s.connOf h = some i → (s.conn i).dkind = 0 → (s.conn i).dest = (s.lcidOf k).getD 0 → (s.conn i).state = .opn →
    (s.queue (k / 136) ((s.lcidOf k).getD 0 % 128) (s.conn i).q).held = 0 →
    Completes [.cores] (.recv k) s fun t => t.core k = c.block 0x6 h c.opSlot 0 ∧ ∀ j, j ≠ k → t.core j = s.core j) ∧
  (∀ (k i : Nat) (s : State), s.atOp k 7 = true →
    let u := s.updCore k fun c => c.countRange (fld c.word 47 44 + 1)
    let c := u.core k
    let first := c.opFirst
    let w := c.word
    s.connOf (fld w 43 28) = some i → (s.conn i).edkind = 2 → (s.conn i).elanes = fld w 47 44 → (s.conn i).state = .opn →
    Completes [.cores, .nodes, .conns, .live, .ids] (.combine k) s fun t =>
      t.core k = c.block 0x7 (fld w 43 28) (first % 16) (s.ids + 1) ∧
      (∃ m : Contrib, Tab.get [] (t.node (k / 136)).out 1 = Tab.get [] (s.node (k / 136)).out 1 ++ (Item.contrib m).cut ∧
        m.id = s.ids + 1 ∧ m.core = k ∧ m.lanes = c.lanesAt first (fld w 47 44 + 1)) ∧
      (t.conn i).sent = w64 (min ((s.conn i).sent.toNat + 1) (2 ^ 64 - 1)) ∧
      (s.ids + 1, k) ∈ t.live ∧ ∀ j, j ≠ k → t.core j = s.core j)

/-- What a core takes in and hands out: the NI places a delay copy in the ring of its slot and tag, in the TSM and
    nowhere else; the core applies the oldest flit of its input buffer; the emitter hands on the flit that a DST
    word gives, counted in SENT under its tag, and holds without a credit; a pass that is ready is declared done;
    and MIDNIGHT processes its next rows, ends behind the last of them, and stops with the core FENCED at a residue
    mismatch. Each of these commands completes, exec answering a next state: DELAY_RING_PLACE, EVENT_ACCUMULATE,
    EMIT, PASS_DONE, MIDNIGHT. -/
def Obligations.CoreTraffic : Prop :=
  (∀ (t k : Nat) (q : Copy) (s : State), s.domUp t = true → (s.tile t).copies = [q] → q.delay = true →
    s.coreOf t q.slot = some k → ((s.core k).state = .running ∨ (s.core k).state = .ready) → s.swappingOut t = none →
    let g := flTag q.flit
    (s.ring t q.slot g).held < s.dlyDepth t →
    Completes [.regs, .tiles, .nodes, .flights, .live] (.delayRingPlace t) s fun u =>
      (u.tile t).copies = [] ∧ u.ring t q.slot g = { s.ring t q.slot g with held := (s.ring t q.slot g).held + 1 } ∧
      (let a := s.ringAddr t q.slot g ((s.ring t q.slot g).head + (s.ring t q.slot g).held)
       (u.tile t).tsm.rd64 a = slotFlit q.flit q.slot ∧
       ∀ b, b < a ∨ a + 8 ≤ b → (u.tile t).tsm.rd b = (s.tile t).tsm.rd b) ∧
      ∀ j, j ≠ t → u.tile j = s.tile j) ∧
  (∀ (k : Nat) (q : Copy) (rest : List Copy) (s : State), s.domUp (k / 136) = true →
    ((s.core k).state = .running ∨ (s.core k).state = .ready) → (s.core k).pass ≠ .release →
    s.takesCopy k q = true → (s.core k).inbuf = q :: rest → (s.core k).dn = none → (s.tile (k / 136)).copies = [] →
    let c := (Core.applyCopy { s.core k with inbuf := rest } (s.copyCtx q) q.flit none).1
    (c.inbuf[63]?).bind Copy.spill = none →
    Completes [.regs, .boot, .cores, .tiles, .nodes, .paths, .log, .flights, .live, .free] (.eventAccumulate k none) s fun u =>
      u.core k = c ∧ ∀ j, j ≠ k → u.core j = s.core j) ∧
  (∀ (k : Nat) (j : Job) (rest : List Job) (s : State), s.domUp (k / 136) = true → (s.core k).jobs = j :: rest →
    Completes [.cores] (.emit k false) s fun u =>
      u.core k = { s.core k with emitHold := true } ∧ ∀ i, i ≠ k → u.core i = s.core i) ∧
  (∀ (k : Nat) (j : Job) (rest : List Job) (s : State), s.domUp (k / 136) = true → (s.core k).jobs = j :: rest →
    j.readout = false →
    let w := (s.core k).dstWord j.pos
    let f := buildFlit w ((j.step.toNat + fld w 61 60) % 4) (s.stamp (s.core k).cgen) j.value.toInt (j.shift + fld w 23 20)
    dstBad w s.delayLimit = false → bit w 63 = false → j.shift + fld w 23 20 ≤ 15 →
    Completes [.cores, .tiles, .nodes, .flights, .live, .ids] (.emit k true) s fun u =>
      Tab.get [] (u.node (k / 136)).out 0 = Tab.get [] (s.node (k / 136)).out 0 ++ [.event (s.ids + 1) k f] ∧
      Tab.get 0 (u.node (k / 136)).sent (flTag f) = Tab.get 0 (s.node (k / 136)).sent (flTag f) + 1 ∧
      (u.core k).jobs = (if j.stop ≤ j.pos + 1 then rest else { j with pos := j.pos + 1 } :: rest) ∧
      ∀ i, i ≠ k → u.core i = s.core i) ∧
  (∀ (k : Nat) (s : State), s.passReady k = true → s.eng.round = none →
    Completes [.eng, .cores] (.passDone k) s fun u =>
      u.core k = { s.core k with pass := .done, passDone := true } ∧ (∀ j, j ≠ k → u.core j = s.core j) ∧
      (u.eng.phase ≠ s.eng.phase → s.eng.phase = .fire ∧ u.eng.phase = .deliver)) ∧
  (∀ (k rows ticks : Nat) (s : State), (s.core k).midnight = true → s.mon.vwarn = false →
    let c := Core.nightRowsStep (s.core k).nightRows rows (s.core k)
    (c.nightAll = false →
      Completes [.cores] (.midnight k ⟨rows, false⟩ ticks) s fun u => u.core k = c ∧ ∀ j, j ≠ k → u.core j = s.core j) ∧
    (c.nightAll = true → c.due = none → (s.tile (k / 136)).copies = [] →
      Completes [.regs, .boot, .cores, .tiles, .nodes, .paths, .log, .flights, .live, .free] (.midnight k ⟨rows, false⟩ ticks) s fun u =>
        u.core k = c.nightOff s.lrn.epoch.toNat ∧ ∀ j, j ≠ k → u.core j = s.core j) ∧
    (c.nightAll = false → c.state ≠ .fenced →
      Completes [.regs, .boot, .cores, .tiles, .nodes, .paths, .log, .flights, .live, .free] (.midnight k ⟨rows, true⟩ ticks) s fun u =>
        (u.core k).state = .fenced ∧ (u.core k).cause = 1 ∧ (u.core k).midnight = false ∧ ∀ j, j ≠ k → u.core j = s.core j))

/-- The commands on cores and on learning: CORE_FENCE leaves the core that CORE.SEL names FENCED with the cause of the
    driver and drops what it held, CORE_RELEASE takes it out of FENCED, LRN_CMD_MIDNIGHT marks MIDNIGHT for the next
    boundary while the engine runs; while it is stopped it advances EPOCH and starts MIDNIGHT on every learning core
    at once, each doing the rows that its operand gives, and answers when none is left in MIDNIGHT, or waits for
    VWARN to clear; LRN_CMD_CLEAR zeroes the learning state of the resident cores, and CORE_WINDOW_WRITE lands in
    the window of the core that its LCID names. Each of these commands completes, exec answering a next state:
    CORE_FENCE, CORE_RELEASE, LRN_CMD_MIDNIGHT, LRN_CMD_CLEAR, CORE_WINDOW_WRITE. -/
def Obligations.CoreCommands : Prop :=
  (∀ (p : Path) (k : Nat) (s : State), s.serves p false 0x1100 3 = true → s.selCore p = some k →
    (s.core k).state ≠ .fenced →
    Completes [.regs, .boot, .eng, .cores, .tiles, .nodes, .paths, .flights, .live, .free] (.coreFence p) s fun t =>
      t.answered p .ok false [] ∧ (t.core k).state = .fenced ∧ (t.core k).cause = 4 ∧ (t.core k).inbuf = [] ∧
      (t.core k).jobs = [] ∧ (t.core k).pass = .idle ∧ ∀ j, j ≠ k → t.core j = s.core j) ∧
  (∀ (p : Path) (k : Nat) (s : State), s.serves p false 0x1100 3 = true → s.selCore p = some k →
    (s.core k).state = .fenced →
    Completes [.cores, .paths] (.coreRelease p) s fun t =>
      t.answered p .ok false [] ∧
      (t.core k).state = (if (s.core k).committed then .ready else .unconfigured) ∧ (t.core k).cause = 0 ∧
      (t.core k).mem = (s.core k).mem ∧ ∀ j, j ≠ k → t.core j = s.core j) ∧
  (∀ (p : Path) (w : Work) (ticks : Nat) (s : State), s.serves p false 0x4400 3 = true → s.stopped = false →
    Completes [.lrn, .paths] (.lrnCmdMidnight p w ticks) s fun t =>
      t.answered p .ok false [] ∧ t.lrn = { s.lrn with pend := true }) ∧
  (∀ (p : Path) (bad : Bool) (ticks : Nat) (s : State), s.serves p false 0x4400 3 = true → s.stopped = true →
    s.swap = none → s.inNight = false → s.mon.vwarn = false →
    Completes [.eng, .lrn, .cores, .paths] (.lrnCmdMidnight p ⟨0, bad⟩ ticks) s fun t =>
      (s.nightCores = [] → s.eng.round = none → t.answered p .ok false []) ∧ (s.nightCores ≠ [] → t.waits p .lrn) ∧
      t.lrn = { s.lrn with epoch := s.lrn.epoch + 1 } ∧
      (∀ k, k ∉ s.nightCores → t.core k = s.core k) ∧
      ∀ k, k ∈ s.nightCores → (t.core k).midnight = true) ∧
  (∀ (p : Path) (w : Work) (ticks : Nat) (s : State), s.serves p false 0x4400 3 = true → s.stopped = true →
    s.swap = none → s.inNight = false → s.mon.vwarn = false →
    let u := (s.opened p 2 0x4400 3 [1]).nightStart w ticks
    Completes [.regs, .boot, .eng, .lrn, .cores, .tiles, .nodes, .paths, .log, .flights, .live, .free]
      (.lrnCmdMidnight p w ticks) s fun t =>
      (u.inNight = false → t.answered p .ok false []) ∧ (u.inNight = true → t.waits p .lrn) ∧
      t.lrn = { s.lrn with epoch := s.lrn.epoch + 1 } ∧ t.cores = u.cores ∧ t.tiles = u.tiles ∧ t.regs = u.regs) ∧
  (∀ (p : Path) (w : Work) (ticks : Nat) (s : State), s.serves p false 0x4400 3 = true → s.stopped = true →
    s.swap = none → s.inNight = false → s.mon.vwarn = true →
    Completes [.paths] (.lrnCmdMidnight p w ticks) s fun t => t.waits p .lrnHeld) ∧
  (∀ (p : Path) (s : State), s.serves p false 0x4400 3 = true → s.stopped = true →
    Completes [.cores, .paths] (.lrnCmdClear p) s fun t =>
      t.answered p .ok false [] ∧
      t.cores = s.cores.map fun e => (e.1, if (s.lcidOf e.1).isSome then e.2.clearLrn else e.2)) ∧
  (∀ (l off k : Nat) (data : Bytes) (s : State), off % 8 = 0 → data.length = 8 →
    s.placeOf (windowAddr l off) = .core k off → s.places (windowAddr l off) 8 = [.core k (off / 64 * 64)] →
    s.qmBound k off = false →
    (s.core k).dropsWord (s.setsInForce (s.core k)) off (w64 (leNat data)) = false → shadowed off = false →
    counterWidth off = none →
    Completes [.cores] (.coreWindowWrite l off data) s fun t =>
      (t.core k).rd64 off = w64 (leNat data) ∧ (t.core k).written = true ∧
      (∀ b, b < off ∨ off + 8 ≤ b → (t.core k).mem.rd b = (s.core k).mem.rd b) ∧ ∀ j, j ≠ k → t.core j = s.core j) ∧
  (∀ (l off k : Nat) (data : Bytes) (s : State), off % 8 = 0 → data.length = 8 →
    s.placeOf (windowAddr l off) = .core k off → s.places (windowAddr l off) 8 = [.core k (off / 64 * 64)] →
    s.qmBound k off = false →
    (s.core k).dropsWord (s.setsInForce (s.core k)) off (w64 (leNat data)) = false → shadowed off = true →
    (s.reconf.state = .armed → s.eng.round = none) →
    Completes [.reconf, .cores] (.coreWindowWrite l off data) s fun t =>
      Tab.get none (t.core k).shadow off = some (w64 (leNat data)) ∧ (t.core k).mem = (s.core k).mem ∧
      t.reconf.state = (if s.reconf.state = .window then .window else .loading) ∧ ∀ j, j ≠ k → t.core j = s.core j)

/-- The commands of the step engine: STEP_RUN issues SETTLE of step STEP.COUNT, STEP_STOP stops the engine once the last
    open step has closed and lets it run on until then, STEP_FENCE ends at once when no posted write is held and
    waits for those that are, STEP_FENCE_TIMEOUT ends that wait with TIMEOUT, STEP_PERIOD_WRITE sets STEP.PERIOD,
    and the step timer or an event of the step source places the deadline of the open step. Each of these commands
    completes, exec answering a next state: STEP_RUN, STEP_STOP, STEP_FENCE, STEP_FENCE_TIMEOUT, STEP_PERIOD_WRITE,
    STEP_DEADLINE, STEP_SOURCE_EVENT. -/
def Obligations.StepCommands : Prop :=
  (∀ (p : Path) (s : State), s.serves p false 0x3C03 1 = true → s.leads = true → s.isMember s.dev = true →
    s.stopped = true → s.joinState ≠ 1 → s.joinState ≠ 3 → s.mon.vwarn = false →
    Completes [.regs, .eng, .reconf, .lrn, .cores, .tiles, .nodes, .ports, .paths] (.stepRun p) s fun t =>
      t.answered p .ok false [] ∧ t.eng.phase = .settle ∧ t.eng.settled = s.eng.count ∧ t.eng.count = s.eng.count ∧
      t.eng.starting = true ∧ t.eng.timer = 0 ∧ t.eng.tagRef = BitVec.ofNat 2 s.eng.count.toNat ∧
      ∃ r : Round, t.eng.round = some r ∧ r.step = s.eng.count) ∧
  (∀ (p : Path) (s : State), s.serves p false 0x3C03 2 = true → s.stopped = true →
    Completes [.paths] (.stepStop p) s fun t => t.answered p .ok false []) ∧
  (∀ (p : Path) (s : State), s.serves p false 0x3C03 2 = true → s.stopped = false → s.eng.starting = false →
    s.eng.closed = true → s.eng.prev = false → s.eng.round = none →
    Completes [.eng, .cores, .ports, .paths] (.stepStop p) s fun t =>
      t.answered p .ok false [] ∧ t.eng.phase = .stopped ∧ t.eng.count = s.eng.count + 1 ∧ t.eng.stopReq = false ∧
      ∀ k, (s.core k).state = .running →
        (t.core k).state = .ready ∧ (t.core k).pass = .idle ∧ (t.core k).mem = (s.core k).mem) ∧
  (∀ (p : Path) (s : State), s.serves p false 0x3C03 2 = true → s.stopped = false → s.eng.starting = false →
    s.eng.closed = false →
    Completes [.eng, .paths] (.stepStop p) s fun t =>
      t.answered p .ok false [] ∧ t.eng = { s.eng with stopReq := true }) ∧
  (∀ (p : Path) (s : State), s.serves p false 0x3C03 3 = true → s.pcie.held = [] →
    Completes [.paths] (.stepFence p) s fun t => t.answered p .ok false []) ∧
  (∀ (p : Path) (s : State), s.serves p false 0x3C03 3 = true → s.pcie.held ≠ [] →
    Completes [.paths] (.stepFence p) s fun t => t.waits p (.fence (s.pcie.held.map Prod.fst))) ∧
  (∀ (p : Path) (ids : List Nat) (s : State), s.boot.refclk = true → s.waits p (.fence ids) →
    Completes [.paths] (.stepFenceTimeout p) s fun t => t.answered p .timeout false []) ∧
  (∀ (p : Path) (v : W32) (s : State), s.serves p false 0x3C01 0 = true → 1000 ≤ v.toNat → v.toNat ≤ 1000000000 →
    v.toNat % 2 = 0 →
    Completes [.regs, .reconf, .ports, .paths] (.stepPeriodWrite p v) s fun t =>
      t.answered p .ok false [] ∧ t.rn rPeriod = v.toNat ∧
      ∀ k, k ≠ rPeriod → k ≠ rStep 6 → t.rd k = s.rd k) ∧
  (∀ s : State, s.boot.refclk = true → s.timesStep = true → s.mon.vwarn = false → s.eng.round = none →
    s.eng.closed = false →
    Completes [.eng] .stepDeadline s fun t =>
      t.eng = { s.eng with timer := max s.eng.timer (s.rn rPeriod / 2), phase := .dusk,
                           deadline := some (max s.eng.timer (s.rn rPeriod / 2)) }) ∧
  (∀ (src : Nat) (s : State), s.boot.refclk = true → s.timing = true → s.rn rSource = src → src ≠ 0 →
    s.eng.deadline = none → s.mon.vwarn = false → s.eng.round = none → s.eng.closed = false →
    Completes [.eng] (.stepSourceEvent src) s fun t =>
      t.eng = { s.eng with phase := .dusk, deadline := some s.eng.timer }) ∧
  (∀ (src : Nat) (s : State), s.boot.refclk = true → s.timing = true → s.rn rSource = src → src ≠ 0 →
    s.eng.deadline ≠ none →
    Completes [.regs] (.stepSourceEvent src) s fun t =>
      t.rn (rk 0 0x3C06 2) = min (s.rn (rk 0 0x3C06 2) + 1) (2 ^ 64 - 1) ∧
      ∀ k, k ≠ rk 0 0x3C06 2 → t.rd k = s.rd k)

/-- The sequence of a step: SETTLE(j) opens a settle round of step j with the tag reference j modulo 4 and stops the
    timer, SACK enters an acknowledgement, OPEN makes STEP.COUNT the step of the round and starts a pass on every
    core that is RUNNING or READY on a live tile, and WAVE closes the open step when its sums agree with each other
    and with those of the wave before it. Each of these commands completes, exec answering a next state: SETTLE,
    SACK, OPEN, WAVE. -/
def Obligations.StepSequence : Prop :=
  (∀ s : State, s.boot.refclk = true → s.settleReady = true → s.mon.vwarn = false →
    Completes [.regs, .eng, .reconf, .lrn, .cores, .tiles, .nodes, .ports] (.settle none) s fun t =>
      ∃ r : Round, t.eng.round = some r ∧ r.step = s.nextStep ∧ r.acked = [] ∧ t.eng.phase = .settle ∧
        t.eng.settled = s.nextStep ∧ t.eng.tagRef = BitVec.ofNat 2 s.nextStep.toNat ∧ t.eng.timer = 0 ∧
        t.eng.deadline = none ∧ t.eng.count = s.eng.count) ∧
  (∀ (j : W64) (s : State), s.boot.refclk = true → s.follows = true → s.eng.round = none → s.mon.vwarn = false →
    Completes [.regs, .eng, .reconf, .lrn, .cores, .tiles, .nodes, .ports] (.settle (some j)) s fun t =>
      ∃ r : Round, t.eng.round = some r ∧ r.step = j ∧ r.acked = [] ∧ t.eng.phase = .settle ∧ t.eng.settled = j ∧
        t.eng.tagRef = BitVec.ofNat 2 j.toNat ∧ t.eng.timer = 0 ∧ t.eng.deadline = none ∧ t.eng.count = s.eng.count) ∧
  (∀ (n : Nat) (r : Round) (s : State), s.boot.refclk = true → s.eng.round = some r → r.work = true →
    (70 ≤ n ∨ s.tileSettled n = true) →
    Completes [.regs, .eng, .cores, .nodes, .log] (.sack (.node n)) s fun t =>
      ∃ q : Round, t.eng.round = some q ∧ q.step = r.step ∧ n ∈ q.acked ∧ ∀ m ∈ r.acked, m ∈ q.acked) ∧
  (∀ (d : Nat) (rc : BitVec 2) (dv : Bool) (r : Round) (s : State), s.boot.refclk = true → s.eng.round = some r →
    s.leads = true → s.isMember d = true → d ≠ s.dev →
    Completes [.regs, .eng, .cores, .nodes, .log] (.sack (.device d rc dv)) s fun t =>
      (∃ q : Round, t.eng.round = some q ∧ (d, rc) ∈ q.peers) ∧ t.eng.stopReq = (s.eng.stopReq || dv)) ∧
  (∀ (r : Round) (s : State), s.boot.refclk = true → s.eng.round = some r → s.leads = true → s.ackedAll r = true →
    s.someLoading r = false → s.isSplit r = false → r.commit = none → s.eng.heldAt = none →
    Completes [.eng, .cores, .nodes] (.openStep none) s fun t =>
      t.eng.count = r.step ∧ t.eng.round = none ∧ t.eng.starting = false ∧
      ∀ k, (s.core k).state = .running ∨ (s.core k).state = .ready → s.tileLive (k / 136) = true →
        t.core k = { s.core k with state := .running, pass := .run, pc := BitVec.ofNat 8 (s.core k).stbBase,
                                   passDone := false, rep := none, undo := none }) ∧
  (∀ (r : Round) (s : State), s.boot.refclk = true → s.eng.round = some r → s.follows = true → s.ackedAll r = true →
    r.commit = none → s.eng.heldAt = none →
    Completes [.eng, .cores, .nodes] (.openStep (some s.nextStep)) s fun t =>
      t.eng.count = s.nextStep ∧ t.eng.round = none ∧ t.eng.starting = false) ∧
  (∀ (ps : List WaveIn) (s : State), s.boot.refclk = true → s.eng.phase ≠ .stopped → s.eng.round = none →
    s.eng.starting = false → s.eng.closed = false → s.eng.prev = false → s.eng.stopReq = false → s.mon.vwarn = false →
    s.passesDone = true → (∀ q ∈ ps, q.done = true) →
    let sent := ps.foldl (fun a q => a + q.sent) (s.sumSent (s.eng.count.toNat % 4))
    sent = ps.foldl (fun a q => a + q.acc) (s.sumAcc (s.eng.count.toNat % 4)) → s.eng.waveCur = some sent →
    Completes [.regs, .eng, .nodes] (.wave ps) s fun t =>
      t.eng.closed = true ∧ (s.eng.deadline = none → t.eng.phase = .quiet) ∧
      t.rn (rStep 7) = min (s.rn (rStep 7) + 1) (2 ^ 64 - 1)) ∧
  (∀ (ps : List WaveIn) (s : State), s.boot.refclk = true → s.eng.phase ≠ .stopped → s.eng.round = none →
    s.eng.starting = false → s.eng.closed = false → s.eng.prev = false →
    ps.foldl (fun a q => a + q.sent) (s.sumSent (s.eng.count.toNat % 4)) ≠
      ps.foldl (fun a q => a + q.acc) (s.sumAcc (s.eng.count.toNat % 4)) →
    Completes [.regs, .eng, .nodes] (.wave ps) s fun t =>
      t.eng.closed = false ∧ t.eng.waveCur = none ∧ t.rn (rStep 7) = min (s.rn (rStep 7) + 1) (2 ^ 64 - 1))

/-- The commands of live reconfiguration: a commit that no check refuses applies at once on a stopped device, where it
    chains the digest of its manifest into CONFIG.HASH, takes RECONF.APPLIED and, when it is a GENERATION commit,
    changes RECONF.CGEN and opens the window; while steps run on a lone device it becomes ARMED for the next step;
    one whose manifest check ends with AUTH counts in CONFIG.AUTH_FAIL; and RECONF_CANCEL drops every shadow. Each
    of these commands completes, exec answering a next state: RECONF_COMMIT_BOUNDARY, RECONF_COMMIT_GENERATION,
    RECONF_CANCEL. -/
def Obligations.ReconfCommands : Prop :=
  (∀ (p : Path) (d : Bytes) (named : Bool) (s : State), s.serves p false 0x3C05 1 = true → s.stopped = true →
    s.reconf.state ≠ .armed → s.reconf.state ≠ .window → s.shadowAsleep = false → s.commitStatus false = .ok →
    (s.opened p 2 0x3C05 1 [1]).manifest p = (.ok, d, named) →
    Completes [.regs, .reconf, .cores, .tiles, .ports, .paths] (.reconfCommitBoundary p) s fun t =>
      t.answered p .ok false [] ∧ t.reconf.state = .idle ∧ t.reconf.cgen = s.reconf.cgen ∧ t.reconf.req = none ∧
      t.reconf.hash = sha384 (s.reconf.hash ++ d)) ∧
  (∀ (p : Path) (d : Bytes) (named : Bool) (s : State), s.serves p false 0x3C05 1 = true → s.stopped = true →
    s.reconf.state ≠ .armed → s.reconf.state ≠ .window → s.shadowAsleep = false → s.commitStatus true = .ok →
    (s.opened p 2 0x3C05 1 [2]).manifest p = (.ok, d, named) →
    Completes [.regs, .reconf, .cores, .tiles, .ports, .paths] (.reconfCommitGeneration p) s fun t =>
      t.answered p .ok false [] ∧ t.reconf.state = .window ∧ t.reconf.cgen = !s.reconf.cgen ∧
      t.reconf.win = some s.eng.count ∧ t.reconf.hash = sha384 (s.reconf.hash ++ d)) ∧
  (∀ (p : Path) (gen : Bool) (d : Bytes) (named : Bool) (s : State), s.serves p false 0x3C05 1 = true →
    s.stopped = false → s.eng.round = none → s.alone = true → s.rn (rReconf 2) = 0 → s.reconf.state ≠ .armed →
    s.reconf.state ≠ .window → s.shadowAsleep = false → s.commitStatus gen = .ok →
    (s.opened p 2 0x3C05 1 [if gen then 2 else 1]).manifest p = (.ok, d, named) →
    Completes [.reconf, .paths] (if gen then .reconfCommitGeneration p else .reconfCommitBoundary p) s fun t =>
      t.answered p .ok false [] ∧
      t.reconf = { s.reconf with state := .armed, req := some (gen, s.nextSettle), digest := d, named := named }) ∧
  (∀ (p : Path) (d : Bytes) (named : Bool) (s : State), s.serves p false 0x3C05 1 = true → s.stopped = true →
    s.reconf.state ≠ .armed → s.reconf.state ≠ .window → s.shadowAsleep = false → s.commitStatus false = .ok →
    (s.opened p 2 0x3C05 1 [1]).manifest p = (.auth, d, named) →
    Completes [.regs, .paths] (.reconfCommitBoundary p) s fun t =>
      t.answered p .auth false [] ∧ t.rn rAuthFail = min (s.rn rAuthFail + 1) (2 ^ 32 - 1) ∧
      ∀ k, k ≠ rAuthFail → t.rd k = s.rd k) ∧
  (∀ (p : Path) (s : State), s.serves p false 0x3C05 1 = true →
    (s.reconf.state = .loading ∨ s.reconf.state = .armed ∧ s.eng.round = none) →
    Completes [.cores, .reconf, .eng, .paths] (.reconfCancel p) s fun t =>
      t.answered p .ok false [] ∧ t.reconf = { s.reconf with state := .idle, req := none } ∧
      ∀ k, t.core k = { s.core k with shadow := [] }) ∧
  (∀ (p : Path) (r : Round) (s : State), s.serves p false 0x3C05 1 = true → s.reconf.state = .armed →
    s.eng.round = some r → r.commit.isSome = true →
    Completes [.cores, .reconf, .eng, .paths] (.reconfCancel p) s fun t =>
      t.answered p .ok false [] ∧ t.reconf.state = .idle ∧ t.reconf.req = none ∧
      t.reconf.cgen = s.reconf.cgen.xor (decide (r.commit = some true)) ∧
      t.eng = { s.eng with round := some { r with commit := none } } ∧
      ∀ k, t.core k = { (s.core k).takeBack with shadow := [] })

/-- The commands of device reset: a power-on, a PORST_N pulse of 10 µs or more, VDD_CORE below 0.52 V, and the end of
    the delay of an accepted BOOT.CMD each reset the device; a pulse below 1 µs and a dip that stays at or above
    0.52 V do nothing; BOOT_RESET and BOOT_FORCE_RESET accept a reset; the loss of REFCLK stops the clocked islands;
    and the release of PERST# lets link training start. Each of these commands completes, exec answering a next
    state: DEVICE_RESET, PORST_PULSE, SUPPLY_RESET, RESET_DELAY_EXPIRE, REFCLK_LOSS, BOOT_RESET, BOOT_FORCE_RESET,
    PERST_RELEASE. -/
def Obligations.ResetCommands : Prop :=
  (∀ (c : ResetCause) (d : BitVec 3) (cc : Bool) (s : State),
    Runs (.deviceReset c d cc) s fun t => s.IsResetOf t c d cc) ∧
  (∀ (ns : Nat) (d : BitVec 3) (cc : Bool) (s : State), 10000 ≤ ns →
    Runs (.porstPulse ns d cc) s fun t => s.IsResetOf t .pin d cc) ∧
  (∀ (ns : Nat) (d : BitVec 3) (cc : Bool) (s : State), ns < 1000 → exec (.porstPulse ns d cc) s = .next s) ∧
  (∀ (mv : Nat) (d : BitVec 3) (cc : Bool) (s : State), mv < 520 →
    Runs (.supplyReset mv d cc) s fun t => s.IsResetOf t .supply d cc) ∧
  (∀ (mv : Nat) (d : BitVec 3) (cc : Bool) (s : State), 520 ≤ mv → exec (.supplyReset mv d cc) s = .next s) ∧
  (∀ (d : BitVec 3) (cc : Bool) (s : State), s.boot.refclk = true → s.boot.pending = true →
    Runs (.resetDelayExpire d cc) s fun t => s.IsResetOf t .command d cc) ∧
  (∀ s : State, Completes [.boot] .refclkLoss s fun t => t.boot = { s.boot with refclk := false }) ∧
  (∀ (p : Path) (s : State), s.serves p false 0x0100 6 = true → s.stopped = true →
    s.chans.any (fun e => decide (e.2.state = .running) || decide (e.2.state = .stopping)) = false → s.swap = none →
    Completes [.boot, .paths] (.bootReset p) s fun t =>
      t.answered p .ok false [] ∧ t.boot = { s.boot with pending := true }) ∧
  (∀ (p : Path) (s : State), s.serves p false 0x0100 6 = true → s.stopped = false →
    Completes [.paths] (.bootReset p) s fun t => t.answered p .busy false []) ∧
  (∀ (p : Path) (s : State), s.serves p false 0x0100 6 = true →
    Completes [.boot, .paths] (.bootForceReset p) s fun t =>
      t.answered p .ok false [] ∧ t.boot = { s.boot with pending := true }) ∧
  (∀ s : State, Completes [.pcie] .perstRelease s fun t =>
    t.pcie = { s.pcie with perst := false, training := decide (s.rn (rDomain 77) = 1) })

/-- The commands of the boot stages: DAWN_END boots the first slot that passes every check and enters SUNRISE, or enters
    FAULT with code 3 and the failing steps; SUNRISE_END records the self-test and enters MORNING while the mesh is
    whole and a tile works, and FAULT otherwise; the LPDDR5X and bring-up time limits take their failure outcome;
    MORNING_END enters NOON once every port of FPMASK has settled. Each of these commands completes, exec answering
    a next state: DAWN_END, SUNRISE_END, MEM_TRAINING_TIMEOUT, MORNING_END, BOOT_STEP_TIMEOUT. -/
def Obligations.BootStages : Prop :=
  (∀ (i0 i1 : Image) (us : Nat) (s : State), s.boot.refclk = true → s.boot.stage = .dawn →
    Completes [.regs, .stage, .boot, .log] (.dawnEnd i0 i1 us) s fun t =>
      t.rn (rBootTime 1) = min us (2 ^ 32 - 1) ∧
      match romPick s.fuses i0 i1 with
      | (some (n, i), a, _) =>
        t.boot.stage = .sunrise ∧ t.boot.svn = imgSvn i ∧ t.boot.meas = sha384 (i.header.take 0x200) ∧
        t.rn (rBoot 5) = n % 2 ^ 64 ∧ t.boot.stCores = s.boot.stCores ∧
        (n = 1 → s.Posts t 13 0 (0 + 3 * 256) 0 (w64 a)) ∧ (n ≠ 1 → t.log = s.log)
      | (none, a, b) =>
        t.boot = { s.boot with stage := .fault } ∧ t.rn (rBoot 3) = 3 ∧
        s.Posts t 13 0 (0 + 3 * 256) 0 (w64 (a + b * 16))) ∧
  (∀ (r : Sunrise) (us : Nat) (s : State), s.boot.refclk = true → s.boot.stage = .sunrise → r.router = none →
    (List.range 70).all (s.selfTest r).tileBad = false →
    Completes [.regs, .stage, .boot, .ports, .log, .scrub] (.sunriseEnd r us) s fun t =>
      t.boot = { (s.selfTest r).boot with stage := .morning }) ∧
  (∀ (r : Sunrise) (n us : Nat) (s : State), s.boot.refclk = true → s.boot.stage = .sunrise → r.router = some n →
    Completes [.regs, .stage, .boot, .log] (.sunriseEnd r us) s fun t =>
      t.boot = { (s.selfTest r).boot with stage := .fault } ∧ t.rn (rBoot 3) = 6 ∧
      s.Posts t 13 0 (1 + 6 * 256) 0 (w64 (n % 128))) ∧
  (∀ s : State, s.boot.refclk = true → s.boot.stage = .sunrise →
    Completes [.regs] .memTrainingTimeout s fun t =>
      t.rn (rMem 1) = 2 ∧ ∀ k, k ≠ rMem 1 → t.rd k = s.rd k) ∧
  (∀ (us : Nat) (s : State), s.boot.refclk = true → s.boot.stage = .morning → s.morningDone = true →
    Completes [.regs, .stage, .boot] (.morningEnd us) s fun t =>
      t.boot = { s.boot with stage := .noon } ∧ t.rn (rBootTime 3) = min us (2 ^ 32 - 1)) ∧
  (∀ (aon core : Bool) (s : State), s.boot.stage = .dawn → (aon || core) = true →
    Completes [.regs, .stage, .boot, .log] (.bootStepTimeout (.supply aon core)) s fun t =>
      t.boot = { s.boot with stage := .fault } ∧ t.rn (rBoot 3) = 1 ∧
      s.Posts t 13 0 (0 + 1 * 256) 0 (w64 ((if aon then 1 else 0) + if core then 2 else 0))) ∧
  (∀ (w : Nat) (s : State), s.boot.stage = .dawn →
    Completes [.regs, .stage, .boot, .log] (.bootStepTimeout (.fuse w)) s fun t =>
      t.boot = { s.boot with stage := .fault } ∧ t.rn (rBoot 3) = 2 ∧ s.Posts t 13 0 (0 + 2 * 256) 0 (w64 (w % 2 ^ 16))) ∧
  (∀ s : State, s.boot.refclk = true → s.boot.stage = .dawn →
    Completes [.regs, .stage, .boot, .log] (.bootStepTimeout .image) s fun t =>
      t.boot = { s.boot with stage := .fault } ∧ t.rn (rBoot 3) = 3 ∧ s.Posts t 13 0 (0 + 3 * 256) 0 0) ∧
  (∀ (pc : BitVec 32) (s : State), s.boot.refclk = true → s.boot.stage = .dawn →
    Completes [.regs, .stage, .boot, .log] (.bootStepTimeout (.lockstep pc)) s fun t =>
      t.boot = { s.boot with stage := .fault } ∧ t.rn (rBoot 3) = 4 ∧
      s.Posts t 13 0 (0 + 4 * 256) 0 (w64 pc.toNat)) ∧
  (∀ (p : Nat) (s : State), p < 7 → s.boot.refclk = true → s.boot.stage = .morning → s.inMask p = true → s.portState p = 1 →
    Completes [.regs, .nodes, .ports, .chans, .log, .routes, .peers, .live] (.bootStepTimeout (.portTraining p)) s fun t =>
      t.portState p = 0 ∧ (t.port p).qual = qualBytes 3 (s.port p).windows (s.port p).swapped [] 0 ∧
      (t.port p).joined = false)

/-- Sending on the mesh and the fabric: PACKET_SEND at a node packs up to eight event or stream items of VC0, or one
    message of another virtual channel, for one destination into one packet under the next sequence number of the stream
    and keeps a copy; at a port it does the same with its credits, and a packet that is to be resent goes first; and
    ROUTER_FORWARD moves a flit one hop, out of a transmitter, over a router, or into the node at its destination, with
    its bits as the link left them. Each of these forms completes: exec answers a next state. -/
def Obligations.MeshSend : Prop :=
  (∀ (n v m : Nat) (s : State),
    let q := Tab.get [] (s.node n).out v
    let w := if v = 0 then 8 else 1
    let pk : Packet := { vc := v, seq := (s.nodeTx n m v).next, drain := false, sdev := s.dev, ddev := s.dev, items := q.take w }
    q ≠ [] → (∀ i ∈ q, s.routeHeld v i = false ∧ drainMark s.dev i = none ∧ i.isDrain = false ∧ s.itemDest n i = .node m) →
    ¬ (70 ≤ n ∧ n ≤ 76) → (n < 70 → v ≠ 1) → s.granted n v = true → (s.nodeTx n m v).skip = none →
    seqRoom (s.nodeTx n m v) 16 = true → (s.conns.all fun e => decide (e.2.state ≠ .closing)) = true →
    Completes [.regs, .nodes] (.packetSend (.node n) v) s fun t =>
      Tab.get [] (t.node n).out v = q.drop w ∧ Tab.get [] (t.node n).inj v = packetFlits m n pk ∧
      (t.nodeTx n m v).next = ((s.nodeTx n m v).next + 1) % 65536 ∧
      (t.nodeTx n m v).buf = (s.nodeTx n m v).buf ++ [{ pk := pk, attempts := 1 }] ∧
      ∀ k, k ≠ n → t.node k = s.node k) ∧
  (∀ (p v : Nat) (pk : Packet) (rest : List Item) (s : State), pickVc (s.portReady p) (s.port p).last1 = some v →
    s.portAgain p v = none → s.portPack p v = some (pk, rest) →
    Completes [.regs, .ports] (.packetSend (.port p) v) s fun t =>
      t.port p =
        { s.port p with
          out := Tab.set [] (s.port p).out v rest,
          taken := Tab.upd 0 (s.port p).taken v (· + (1 + pk.flits)),
          tx := Tab.upd TxStream.reset (s.port p).tx v fun x =>
            { x with next := (x.next + 1) % 4096, buf := x.buf ++ [{ pk := pk, attempts := 1 }] },
          line := (s.port p).line ++ [.packet pk],
          last1 := if v ≤ 1 then decide (v = 1) else (s.port p).last1 } ∧
      (∀ k, k ≠ p → t.port k = s.port k) ∧
      t.rn (pReg p 0x10) = min (s.rn (pReg p 0x10) + 1) (2 ^ 64 - 1) ∧
      t.rn (pReg p 0x12) = min (s.rn (pReg p 0x12) + pk.flits) (2 ^ 64 - 1)) ∧
  (∀ (p v : Nat) (pk : Packet) (s : State), pickVc (s.portReady p) (s.port p).last1 = some v →
    s.portAgain p v = some pk →
    Completes [.regs, .ports] (.packetSend (.port p) v) s fun t =>
      t.port p =
        { s.port p with
          again := Tab.upd [] (s.port p).again v (·.drop 1),
          taken := Tab.upd 0 (s.port p).taken v (· + (1 + pk.flits)),
          tx := Tab.upd TxStream.reset (s.port p).tx v fun x =>
            { x with buf := x.buf.map fun r => if r.pk.seq = pk.seq then { r with attempts := r.attempts + 1 } else r },
          line := (s.port p).line ++ [.packet pk],
          last1 := if v ≤ 1 then decide (v = 1) else (s.port p).last1 } ∧
      (∀ k, k ≠ p → t.port k = s.port k) ∧
      t.rn (pReg p 0x19) = min (s.rn (pReg p 0x19) + 1) (2 ^ 48 - 1)) ∧
  (∀ (n v r e : Nat) (f : MeshFlit) (rest : List MeshFlit) (flips : List Nat) (s : State), nodeAt n = (r, e) →
    Tab.get [] (s.node n).inj v = f :: rest → (Tab.get [] (s.rtr r).inb (4 * e + v)).length < 6 →
    let g := f.flip flips
    Completes [.regs, .nodes, .rtrs] (.routerForward (.inject n v) flips) s fun t =>
      Tab.get [] (t.node n).inj v = rest ∧
      Tab.get [] (t.rtr r).inb (4 * e + g.vc) = Tab.get [] (s.rtr r).inb (4 * e + g.vc) ++ [g.reseal] ∧
      (g.parOk = false → t.rn (rtrCtr r e 3) = min (s.rn (rtrCtr r e 3) + 1) (2 ^ 32 - 1)) ∧
      (∀ k, k ≠ r → t.rtr k = s.rtr k) ∧ ∀ k, k ≠ n → t.node k = s.node k) ∧
  (∀ (r q v : Nat) (f : MeshFlit) (rest : List MeshFlit) (flips : List Nat) (s : State),
    Tab.get [] (s.rtr r).inb (4 * q + v) = f :: rest → s.boot.deadRtrs.contains r = false →
    let o := hopPort r f.dnode
    let g := f.flip flips
    s.hopReady r o v q = true → pickVc (s.vcReady r o) (Tab.get false (s.rtr r).alt o) = some v →
    exitsAt r o f.dnode = true →
    Completes [.regs, .nodes, .rtrs] (.routerForward (.router r q v) flips) s fun t =>
      Tab.get [] (t.rtr r).inb (4 * q + v) = rest ∧
      Tab.get none (t.rtr r).lock (4 * o + v) = (if f.isLast then none else some q) ∧
      Tab.get [] (t.node f.dnode).rx g.vc = Tab.get [] (s.node f.dnode).rx g.vc ++ [g] ∧
      (∀ k, k ≠ r → t.rtr k = s.rtr k) ∧ ∀ k, k ≠ f.dnode → t.node k = s.node k) ∧
  (∀ (r q v : Nat) (f : MeshFlit) (rest : List MeshFlit) (flips : List Nat) (s : State),
    Tab.get [] (s.rtr r).inb (4 * q + v) = f :: rest → s.boot.deadRtrs.contains r = false →
    let o := hopPort r f.dnode
    let w := beyondPort r o
    let g := f.flip flips
    s.hopReady r o v q = true → pickVc (s.vcReady r o) (Tab.get false (s.rtr r).alt o) = some v →
    exitsAt r o f.dnode = false → w.1 ≠ r →
    Completes [.regs, .rtrs] (.routerForward (.router r q v) flips) s fun t =>
      Tab.get [] (t.rtr r).inb (4 * q + v) = rest ∧
      Tab.get none (t.rtr r).lock (4 * o + v) = (if f.isLast then none else some q) ∧
      Tab.get [] (t.rtr w.1).inb (4 * w.2 + g.vc) = Tab.get [] (s.rtr w.1).inb (4 * w.2 + g.vc) ++ [g.reseal] ∧
      ∀ k, k ≠ r → k ≠ w.1 → t.rtr k = s.rtr k)

/-- Acknowledgement and retransmission of a segment, at a mesh node or at a port: ACK removes every packet up to its
    number; NAK and RETRANSMIT_TIMEOUT send the named packet and every later one again, up to the first that has had its
    eight attempts, and a first packet with eight attempts becomes the stream's SKIP; SKIP is answered HAVE for a packet
    already accepted and ABSENT otherwise; HAVE_ANS and ABSENT end the stream's SKIP; and CREDIT returns credits. A port
    queues the numbers to send again, a node sends at once. The clauses about a release are of a device with no route hold
    and no close in progress, which are settled by it. Each of these commands completes: exec answers a next state. -/
def Obligations.SegmentControl : Prop :=
  (∀ (e : LinkAt) (v m seq : Nat) (s u : State), s.takeCtl e 1 = (some (v, m, seq), u) → s.routes = [] →
    (s.conns.all fun e => decide (e.2.state ≠ .closing)) = true →
    Completes [.regs, .nodes, .ports, .live] (.ack e) s fun t =>
      t.segTx (LinkAt.seg e) m v =
        { u.segTx (LinkAt.seg e) m v with
          buf := (u.segTx (LinkAt.seg e) m v).buf.filter fun r =>
            !(decide (r.pk.seq = seq) || seqBefore (segBits (LinkAt.seg e)) r.pk.seq seq) }) ∧
  (∀ (e : LinkAt) (v m seq : Nat) (r : Rtx) (rest : List Rtx) (s u : State), s.takeCtl e 2 = (some (v, m, seq), u) →
    let g := LinkAt.seg e
    let x := u.segTx g m v
    x.skip = none → (x.buf.filter fun q => !seqBefore (segBits g) q.pk.seq seq) = r :: rest → r.attempts < 8 →
    let l := (r :: rest).takeWhile fun q => decide (q.attempts < 8)
    Completes [.regs, .nodes, .ports] (.nak e) s fun t =>
      match g with
      | .node _ =>
        t.segTx g m v =
          { x with buf := x.buf.map fun q =>
              if (l.any fun r => decide (r.pk.seq = q.pk.seq)) then { q with attempts := q.attempts + 1 } else q }
      | .port p => t.segTx g m v = x ∧ Tab.get [] (t.port p).again v = l.map fun r => r.pk.seq) ∧
  (∀ (g : Seg) (v m : Nat) (r : Rtx) (rest : List Rtx) (s : State),
    let x := s.segTx g m v
    x.skip = none → x.buf = r :: rest → (x.buf.filter fun q => !seqBefore (segBits g) q.pk.seq r.pk.seq) = x.buf →
    r.attempts < 8 →
    let l := (r :: rest).takeWhile fun q => decide (q.attempts < 8)
    Completes [.regs, .nodes, .ports] (.retransmitTimeout g m v) s fun t =>
      match g with
      | .node _ =>
        t.segTx g m v =
          { x with buf := x.buf.map fun q =>
              if (l.any fun r => decide (r.pk.seq = q.pk.seq)) then { q with attempts := q.attempts + 1 } else q }
      | .port p => t.segTx g m v = x ∧ Tab.get [] (t.port p).again v = l.map fun r => r.pk.seq) ∧
  (∀ (g : Seg) (v m : Nat) (r : Rtx) (rest : List Rtx) (s : State),
    let x := s.segTx g m v
    x.skip = none → x.buf = r :: rest → (x.buf.filter fun q => !seqBefore (segBits g) q.pk.seq r.pk.seq) = x.buf →
    8 ≤ r.attempts →
    Completes [.regs, .nodes, .ports, .log] (.retransmitTimeout g m v) s fun t =>
      (t.segTx g m v).skip = some r.pk.seq ∧ (t.segTx g m v).next = x.next ∧
      (t.segTx g m v).buf.map Rtx.pk = x.buf.map Rtx.pk ∧ t.log.seq = s.log.seq + 1) ∧
  (∀ (e : LinkAt) (v m seq : Nat) (s u : State), s.takeCtl e 3 = (some (v, m, seq), u) →
    seqBefore (segBits (LinkAt.seg e)) seq (u.rxExp e m v) = true →
    Completes [.regs, .nodes, .ports] (.skip e) s fun t => t = u.answerSeg e m v 4 seq) ∧
  (∀ (e : LinkAt) (v m seq : Nat) (s u : State), s.takeCtl e 3 = (some (v, m, seq), u) →
    seqBefore (segBits (LinkAt.seg e)) seq (u.rxExp e m v) = false →
    Completes [.regs, .nodes, .ports] (.skip e) s fun t =>
      t = (u.setRxExp e m v (seq + 1)).answerSeg e m v 5 seq) ∧
  (∀ (e : LinkAt) (v m seq : Nat) (s u : State), s.takeCtl e 4 = (some (v, m, seq), u) → s.routes = [] →
    (s.conns.all fun e => decide (e.2.state ≠ .closing)) = true → (u.segTx (LinkAt.seg e) m v).skip = some seq →
    Completes [.regs, .nodes, .ports, .live] (.haveAns e) s fun t =>
      t.segTx (LinkAt.seg e) m v =
        { u.segTx (LinkAt.seg e) m v with skip := none, buf := (u.segTx (LinkAt.seg e) m v).buf.filter fun r => !decide (r.pk.seq = seq) }) ∧
  (∀ (e : LinkAt) (v m seq : Nat) (s u : State), s.takeCtl e 5 = (some (v, m, seq), u) → s.routes = [] →
    (s.conns.all fun e => decide (e.2.state ≠ .closing)) = true → (u.segTx (LinkAt.seg e) m v).skip = some seq →
    Completes [.regs, .nodes, .ports, .chans, .live] (.absent e) s fun t =>
      t.segTx (LinkAt.seg e) m v =
        { u.segTx (LinkAt.seg e) m v with skip := none, buf := (u.segTx (LinkAt.seg e) m v).buf.filter fun r => decide (r.pk.seq ≠ seq) }) ∧
  (∀ (p : Nat) (w : W64) (s : State), fld w 63 62 = 2 → fld w 61 58 = 6 → crc8Ok w = true →
    Completes [.ports] (.credit p w) s fun t =>
      t.port p = { s.port p with taken := Tab.upd 0 (s.port p).taken (fld w 57 56) (· - fld w 40 25) } ∧
      ∀ k, k ≠ p → t.port k = s.port k)

/-- PACKET_RECEIVE at a mesh node or a port (Table 8.7): the expected packet is taken and acknowledged, one already accepted
    is counted and acknowledged again, one beyond the expected is counted and answered by at most one NAK in an RTO, and one
    whose CRC fails, or that ends without a trailer, is counted and discarded; a port discards a word of TYPE 3. An event
    that reaches the NI of a tile that works becomes one copy for each core slot that its span names. Each of these forms
    completes: exec answers a next state. -/
def Obligations.PacketReceive : Prop :=
  (∀ (n v : Nat) (body rest : List MeshFlit) (f : MeshFlit) (s : State),
    Tab.get [] (s.node n).rx v = body ++ f :: rest → (∀ g ∈ body, g.isLast = false) → f.pos = 1 →
    packetOk n v body f = true → s.boot.deadNis.contains n = false → s.nodeHolds n v = false →
    let m := fld f.word 15 9
    let seq := fld f.word 31 16
    seq = s.rxExp (.node n) m v →
    let u := (s.updNode n fun q => { q with rx := Tab.set [] q.rx v rest }).setRxExp (.node n) m v (seq + 1)
    Completes rxParts (.packetReceive (.node n v)) s fun t =>
      t = (((payloadItems body).foldl (fun s i => s.arriveItem n v i) u).answerSeg (.node n) m v 1 seq).closeCheck) ∧
  (∀ (n v : Nat) (body rest : List MeshFlit) (f : MeshFlit) (s : State),
    Tab.get [] (s.node n).rx v = body ++ f :: rest → (∀ g ∈ body, g.isLast = false) → f.pos = 1 →
    packetOk n v body f = true → s.boot.deadNis.contains n = false → s.nodeHolds n v = false →
    (s.conns.all fun e => decide (e.2.state ≠ .closing)) = true →
    let m := fld f.word 15 9
    let exp := s.rxExp (.node n) m v
    fld f.word 31 16 ≠ exp → seqBefore 16 (fld f.word 31 16) exp = true →
    Completes [.regs, .nodes] (.packetReceive (.node n v)) s fun t =>
      t.rn (niCtr n 3) = min (s.rn (niCtr n 3) + 1) (2 ^ 32 - 1) ∧ Tab.get [] (t.node n).rx v = rest ∧
      Tab.get [] (t.node n).inj 2 = Tab.get [] (s.node n).inj 2 ++
        [meshFlit 2 m 2 (.ctl (ctlFlit 1 v n m ((exp + 2 ^ 16 - 1) % 2 ^ 16) 0))]) ∧
  (∀ (n v : Nat) (body rest : List MeshFlit) (f : MeshFlit) (s : State),
    Tab.get [] (s.node n).rx v = body ++ f :: rest → (∀ g ∈ body, g.isLast = false) → f.pos = 1 →
    packetOk n v body f = true → s.boot.deadNis.contains n = false → s.nodeHolds n v = false →
    (s.conns.all fun e => decide (e.2.state ≠ .closing)) = true →
    let m := fld f.word 15 9
    let exp := s.rxExp (.node n) m v
    fld f.word 31 16 ≠ exp → seqBefore 16 (fld f.word 31 16) exp = false →
    Completes [.regs, .nodes] (.packetReceive (.node n v)) s fun t =>
      t.rn (niCtr n 4) = min (s.rn (niCtr n 4) + 1) (2 ^ 32 - 1) ∧ Tab.get [] (t.node n).rx v = rest ∧
      Tab.get [] (t.node n).inj 2 = Tab.get [] (s.node n).inj 2 ++
        (if s.lastNak (.node n) m v = 0 ∨ s.lastNak (.node n) m v + 500 * s.rn (rk 0 0x2000 1) ≤ s.now + 1 then
          [meshFlit 2 m 2 (.ctl (ctlFlit 2 v n m exp 0))] else [])) ∧
  (∀ (n v : Nat) (body rest : List MeshFlit) (f : MeshFlit) (s : State),
    Tab.get [] (s.node n).rx v = body ++ f :: rest → (∀ g ∈ body, g.isLast = false) → f.isLast = true →
    (f.pos = 1 ∧ packetOk n v body f = false ∨ f.pos ≠ 1 ∧ body ≠ []) → s.boot.deadNis.contains n = false →
    s.nodeHolds n v = false → (s.conns.all fun e => decide (e.2.state ≠ .closing)) = true →
    Completes [.regs, .nodes] (.packetReceive (.node n v)) s fun t =>
      t.rn (niCtr n 2) = min (s.rn (niCtr n 2) + 1) (2 ^ 32 - 1) ∧
      Tab.get [] (t.node n).rx v = (if f.pos = 1 then rest else f :: rest) ∧ (t.node n).inj = (s.node n).inj) ∧
  (∀ (p : Nat) (head : W64) (flits : List W64) (what : List Item) (s : State),
    let pk := portPacket head flits what
    fld head 63 62 = 1 → s.portCarries p pk.vc = true → portCrc head flits = fld head 31 0 →
    fld head 59 57 + 1 = flits.length → pk.seq = s.rxExp (.port p 0) 0 pk.vc →
    Completes [.regs, .nodes, .ports] (.packetReceive (.port p head flits what)) s fun t =>
      t = ((s.setRxExp (.port p 0) 0 pk.vc (pk.seq + 1)).acceptPort p flits.length pk).answerSeg (.port p 0) 0 pk.vc 1
            pk.seq) ∧
  (∀ (p : Nat) (head : W64) (flits : List W64) (what : List Item) (s : State),
    let pk := portPacket head flits what
    fld head 63 62 = 1 → s.portCarries p pk.vc = true → portCrc head flits = fld head 31 0 →
    fld head 59 57 + 1 = flits.length → pk.seq ≠ s.rxExp (.port p 0) 0 pk.vc →
    seqBefore 12 pk.seq (s.rxExp (.port p 0) 0 pk.vc) = false → s.mayNak (.port p 0) 0 pk.vc = false →
    Completes [.regs, .ports] (.packetReceive (.port p head flits what)) s fun t =>
      t.rn (pReg p 0x18) = min (s.rn (pReg p 0x18) + 1) (2 ^ 32 - 1) ∧
      (t.port p).line = (s.port p).line ++ [.link (linkWord 6 pk.vc 0 0 (1 + flits.length) 0)]) ∧
  (∀ (p : Nat) (head : W64) (flits : List W64) (what : List Item) (s : State),
    let v := fld head 61 60
    fld head 63 62 = 1 → s.portCarries p v = true →
    (portCrc head flits ≠ fld head 31 0 ∨ fld head 59 57 + 1 ≠ flits.length) →
    Completes [.regs, .ports] (.packetReceive (.port p head flits what)) s fun t =>
      t.rn (pReg p 0x16) = min (s.rn (pReg p 0x16) + 1) (2 ^ 32 - 1) ∧
      (t.port p).line = (s.port p).line ++ [.link (linkWord 6 v 0 0 (1 + flits.length) 0)] ++
        (List.range 4).map fun v => .link (linkWord 2 v (s.rxExp (.port p 0) 0 v) 0 0 0)) ∧
  (∀ (p : Nat) (head : W64) (flits : List W64) (what : List Item) (s : State), fld head 63 62 = 3 →
    Completes [.regs] (.packetReceive (.port p head flits what)) s fun t =>
      t.rn (pReg p 0x1A) = min (s.rn (pReg p 0x1A) + 1) (2 ^ 32 - 1) ∧ ∀ k, k ≠ pReg p 0x1A → t.rd k = s.rd k) ∧
  (∀ (n id : Nat) (f : W64) (s : State), n < 70 → s.rn (rDomain n) = 1 → (s.tile n).copies = [] →
    (s.reconf.win ≠ none ∨ flCgen f = s.reconf.cgen) → s.deadlineMode = false → flTag f ≠ s.eng.tagRef.toNat →
    ∃ u : State, s.arrive n 0 (.event id 0 f) = u.pumpTile n ∧
      (u.tile n).copies = (((List.range (2 ^ flSpan f)).map fun k => flLcid f % 128 + k).filter fun sl => decide (sl < 128)).map
        fun sl => { id := id, flit := slotFlit f sl, slot := sl, flight := s.ids + 1,
                    delay := decide ((flTag f + 4 - s.eng.tagRef.toNat) % 4 ≠ 0), late := false, into := s.eng.tagRef,
                    spill := none })

/-- Fabric ports: LANE_FAILURE counts the corrections of its time window, and a lane with more symbol errors than
    LANE_LIMIT, or that has lost its lock, is announced by a LANE word, which moves the lane's place to the spare or retrains on four
    lanes and posts a LANE record; TRAIN starts training at full width and its end starts a qualification window; a window
    that passes brings the port UP, or DEGRADED at half width, and one that fails moves one lane's place to the spare,
    retrains at half width, or takes the port DOWN; a port that goes DOWN with packets unacknowledged waits for the peer's
    RX_NEXT or the timeout, which empties its retransmit buffer; and a LANE word naming lane 15 takes a port into
    RETENTION. Each of these commands completes: exec answers a next state. -/
def Obligations.FabricPorts : Prop :=
  (∀ (p n : Nat) (b : Bool) (errs corr uncorr : Nat) (s : State), 3 ≤ s.portState p → s.laneOn p n = true →
    s.domOn (70 + p) = true →
    Completes [.regs, .ports] (.laneFailure p n ⟨b, errs, corr, uncorr⟩) s fun t =>
      t.port p = (if b = true ∨ s.rn (pReg p 6) < errs then
        { s.port p with line := (s.port p).line ++ [.link (linkWord 7 0 0 0 0 n)], cause := some (n, b) }
      else s.port p) ∧
      t.rn (pReg p 0x1C) = min (s.rn (pReg p 0x1C) + corr) (2 ^ 64 - 1) ∧
      t.rn (pReg p 0x1D) = min (s.rn (pReg p 0x1D) + uncorr) (2 ^ 64 - 1)) ∧
  (∀ (p n m : Nat) (b : Bool) (w : W64) (s : State), p ≤ 6 → fld w 63 62 = 2 → fld w 61 58 = 7 → crc8Ok w = true →
    fld w 24 21 = n → n ≤ 8 → 3 ≤ s.portState p → s.laneOn p n = true → (s.port p).cause = some (n, b) →
    (s.port p).swapped = none → s.spare p = some m →
    Completes [.regs, .ports, .log] (.lane p w) s fun t =>
      t.port p = { s.port p with swapped := some n, cause := none } ∧
      t.rn (pReg p 5) = (((s.lanesOn p).filter (fun k => decide (k ≠ n)) ++ [m]).map (2 ^ ·)).sum % 2 ^ 64 ∧
      t.rn (pReg p 7) = min (s.rn (pReg p 7) + 1) (2 ^ 32 - 1) ∧ t.portState p = s.portState p ∧
      s.Posts t 6 0 (p * 2 ^ 20 + n * 2 ^ 16 + m * 2 ^ 12) 0 (w64 (if !b then 1 else 0))) ∧
  (∀ (p n : Nat) (b : Bool) (w : W64) (s : State), fld w 63 62 = 2 → fld w 61 58 = 7 → crc8Ok w = true →
    fld w 24 21 = n → n ≤ 8 → 3 ≤ s.portState p → s.laneOn p n = true → (s.port p).cause = some (n, b) →
    (s.port p).swapped ≠ none →
    Completes [.regs, .ports, .log] (.lane p w) s fun t =>
      t.portState p = 1 ∧ (t.port p).half = true ∧ (t.port p).windows = 0 ∧ (t.port p).cause = none) ∧
  (∀ (a : Path) (p : Nat) (s : State), s.serves a false (0x2010 + p) 3 = true → s.rn (rDomain (70 + p)) ≠ 0 →
    Completes [.regs, .ports, .log, .paths] (.portTrain a p) s fun t =>
      t.answered a .ok false [] ∧ t.portState p = 1 ∧ t.rn (pReg p 5) = 0xFF ∧ (t.port p).half = false ∧
      (t.port p).swapped = none ∧ (t.port p).windows = 0 ∧ (t.port p).joined = false) ∧
  (∀ (a : Path) (p : Nat) (s : State), s.serves a false (0x2010 + p) 3 = true → s.rn (rDomain (70 + p)) = 0 →
    Completes [.paths] (.portTrain a p) s fun t => t.answered a .state false []) ∧
  (∀ (p : Nat) (s : State), s.boot.refclk = true → s.portState p = 1 →
    Completes [.regs] (.portTrainingDone p) s fun t => t.portState p = 2 ∧ ∀ k, k ≠ pReg p 1 → t.rd k = s.rd k) ∧
  (∀ (p : Nat) (q : QualWindow) (s : State), s.boot.refclk = true → s.portState p = 2 →
    (∀ n ∈ s.lanesOn p, q.laneErr.getD n 0 ≤ 112000 ∧ n ∉ q.peerFail) → q.uncorr = 0 → q.peerPass = true →
    Completes [.regs, .ports] (.qualWindowEnd p q) s fun t =>
      t.portState p = (if (s.port p).half then 4 else 3) ∧ (t.port p).joined = false ∧
      (t.port p).windows = (s.port p).windows + 1 ∧
      (t.port p).qual = qualBytes (if (s.port p).half then 2 else 1) ((s.port p).windows + 1) (s.port p).swapped q.laneErr q.uncorr ∧
      t.rn (pReg p 0x1C) = min (s.rn (pReg p 0x1C) + q.corr) (2 ^ 64 - 1) ∧
      ∃ m : Msg3, m.mkind = 3 ∧ Tab.get [] (t.port p).out 3 = Tab.get [] (s.port p).out 3 ++ (Item.msg m).cut) ∧
  (∀ (p : Nat) (q : QualWindow) (s : State), p < 7 → s.boot.refclk = true → s.portState p = 2 → (s.port p).half = true →
    (q.uncorr ≠ 0 ∨ q.peerPass = false) →
    Completes [.regs, .nodes, .ports, .chans, .log, .routes, .peers, .live] (.qualWindowEnd p q) s fun t =>
      t.portState p = 0 ∧ (t.port p).joined = false ∧
      (t.port p).qual = qualBytes 3 ((s.port p).windows + 1) (s.port p).swapped q.laneErr q.uncorr) ∧
  (∀ (a : Path) (p : Nat) (s : State), p < 7 → s.serves a false (0x2010 + p) 3 = true → 3 ≤ s.portState p →
    Completes [.regs, .nodes, .ports, .chans, .log, .routes, .peers, .live, .paths] (.portDown a p) s fun t =>
      t.answered a .ok false [] ∧ t.portState p = 0 ∧ (t.port p).joined = false ∧
      (t.port p).recon = !(s.portBuf p).isEmpty) ∧
  (∀ (p : Nat) (rx : BitVec 48) (s : State), (s.port p).recon = true → s.routes = [] →
    (s.conns.all fun e => decide (e.2.state ≠ .closing)) = true →
    Completes [.regs, .nodes, .ports, .chans, .live] (.portRxNextReply p rx) s fun t =>
      (t.port p).recon = false ∧ ∀ v, (t.portTx p v).buf = []) ∧
  (∀ (p : Nat) (s : State), (s.port p).recon = true → s.routes = [] →
    (s.conns.all fun e => decide (e.2.state ≠ .closing)) = true → (s.dom (70 + p)).off = false →
    Completes [.regs, .nodes, .ports, .chans, .live] (.portDownReconcileTimeout p) s fun t =>
      (t.port p).recon = false ∧ (∀ v, (t.portTx p v).buf = []) ∧
      t.rn (pReg p 9) = min (s.rn (pReg p 9) + (s.portBuf p).length) (2 ^ 64 - 1)) ∧
  (∀ (p : Nat) (w : W64) (s : State), fld w 63 62 = 2 → fld w 61 58 = 7 → crc8Ok w = true → fld w 24 21 = 15 →
    s.domOn (70 + p) = true →
    Completes [.regs, .doms] (.portRetentionNotice p w) s fun t =>
      t.rn (rDomain (70 + p)) = 3 ∧ t.dom (70 + p) = Dom.reset ∧ ∀ k, k ≠ rDomain (70 + p) → t.rd k = s.rd k)

/-- The maps, routes and the join of the system: a MAP.TILE write that leaves no physical tile behind takes effect at once,
    one that does waits for a DRAIN of each of the 77 holders, and the last DRAIN ends it; a MAP.CORE and a SYS.ROUTE
    write set their entry, and DRAINED ends a route hold; a JOIN record with no disagreement stores what it says of its
    device and makes the port the direct port to it, and one of a leader that has stopped stops a follower; REJOIN sends a JOIN record on every port that is up; ADOPT_STEP takes
    the leader's step; DEFECT.CMD marks and unmarks a unit. Each of these commands completes: exec answers a next state. -/
def Obligations.SystemMaps : Prop :=
  (∀ (p : Path) (v : Nat) (x : BitVec 16) (s : State), s.serves p false (0x2200 + v) 0 = true →
    s.swap = none → (s.drains.any fun d => decide (d.v = v)) = false → s.tileKind v = 0 →
    fld (x.zeroExtend 64) 15 14 = 1 → fld (x.zeroExtend 64) 13 7 ≤ 69 → fld (x.zeroExtend 64) 6 0 = 0 →
    s.tileBad (fld (x.zeroExtend 64) 13 7) = false → s.tileTaken (fld (x.zeroExtend 64) 13 7) v = false →
    (s.residents.filter fun u => decide (u ≠ v)).length + s.comingIn < 64 →
    Completes [.regs, .paths] (.mapTileWrite p v x) s fun t =>
      t.answered p .ok false [] ∧ t.mapTile v = x.zeroExtend 64 ∧ ∀ k, k ≠ rk 0 (0x2200 + v) 0 → t.rd k = s.rd k) ∧
  (∀ (p : Path) (v : Nat) (s : State), s.serves p false (0x2200 + v) 0 = true →
    s.swap = none → (s.drains.any fun d => decide (d.v = v)) = false → s.tileKind v = 1 →
    s.boot.markTiles.contains (s.tilePt v) = false →
    Completes [.regs, .nodes, .drains, .paths] (.mapTileWrite p v 0) s fun t =>
      t.waits p (.mapDrain v) ∧ t.mapTile v = 0 ∧
      t.drains = s.drains ++ [{ v := v, old := s.tilePt v, wait := List.range 77, got := [] }]) ∧
  (∀ (h v : Nat) (d : MapDrain) (s : State), (s.drains.find? fun d => decide (d.v = v)) = some d → h ∈ d.wait →
    h ∈ d.got → (d.wait.filter fun k => decide (k ≠ h)) ≠ [] →
    Completes [.drains] (.drain h v) s fun t =>
      t.drains = (s.drains.filter fun q => decide (q.v ≠ v)) ++ [{ d with wait := d.wait.filter fun k => decide (k ≠ h) }]) ∧
  (∀ (p : Path) (h v : Nat) (d : MapDrain) (s : State), (s.drains.find? fun d => decide (d.v = v)) = some d → h ∈ d.wait →
    h ∈ d.got → (d.wait.filter fun k => decide (k ≠ h)) = [] → sender p ∈ senders →
    s.waits p (.mapDrain v) →
    Completes [.drains, .paths] (.drain h v) s fun t =>
      t.answered p .ok false [] ∧ t.drains = s.drains.filter fun q => decide (q.v ≠ v)) ∧
  (∀ (p : Path) (slot : Nat) (x : Byte) (s : State), s.serves p false 0x2401 slot = true →
    (match s.vtOf (s.rn (rTsel p)) with | some v => s.queuesBound (128 * v + slot) | none => false) = false →
    x.toNat ≤ 135 → s.coreBad (136 * s.rn (rTsel p) + x.toNat) = false →
    ((List.range 128).any fun k => decide (k ≠ slot) && decide (s.mapCore (s.rn (rTsel p)) k = x.toNat)) = false →
    Completes [.regs, .paths] (.mapCoreWrite p slot x) s fun t =>
      t.answered p .ok false [] ∧ t.mapCore (s.rn (rTsel p)) slot = x.toNat ∧
      ∀ k, k ≠ rk (16 + s.rn (rTsel p)) 0x2401 slot → t.rd k = s.rd k) ∧
  (∀ (p : Path) (e : Nat) (x : BitVec 16) (s : State), s.serves p false (0x4810 + e) 0 = true → s.routePort e = none →
    fld (x.zeroExtend 64) 15 14 ≤ 2 → fld (x.zeroExtend 64) 13 10 ≤ 7 → fld (x.zeroExtend 64) 9 0 = 0 →
    Completes [.regs, .paths] (.routeWrite p e x) s fun t =>
      t.answered p .ok false [] ∧ t.rd (rRoute e) = x.zeroExtend 64 ∧ ∀ k, k ≠ rRoute e → t.rd k = s.rd k) ∧
  (∀ (e p : Nat) (s : State), Tab.get none s.routes e = some (p, true) →
    Completes [.routes] (.drained e) s fun t =>
      Tab.get none t.routes e = none ∧ ∀ k, k ≠ e → Tab.get none t.routes k = Tab.get none s.routes k) ∧
  (∀ (p : Nat) (r : JoinRec) (s : State), p ≤ 6 → (s.portState p = 3 ∨ s.portState p = 4) → r.devnum < 8 →
    s.disagreements p r = [] → (s.follows = true → r.devnum = s.rn rLeader → r.running = true) →
    Completes [.regs, .ports, .paths, .peers] (.join p r) s fun t =>
      t.rn (pReg p 2) = r.devnum ∧ t.port p = { s.port p with facing := r.port, found := r.devnum, joined := true } ∧
      t.peer r.devnum =
        { hash := r.hash, agrees := r.agreed.getLsbD r.devnum, port := some p, stopped := !r.running } ∧
      t.rn (rPeerState r.devnum) = (if r.agreed.getLsbD r.devnum then 2 else 1) ∧ t.rn (rPeerReason r.devnum) = 0) ∧
  (∀ (p : Nat) (r : JoinRec) (s : State), p ≤ 6 → (s.portState p = 3 ∨ s.portState p = 4) → r.devnum < 8 →
    s.disagreements p r = [] → s.follows = true → r.devnum = s.rn rLeader → r.running = false → s.stopped = false →
    s.eng.round = none →
    Completes [.regs, .eng, .cores, .ports, .paths, .peers] (.join p r) s fun t =>
      t.eng.phase = .stopped ∧ t.eng.count = s.eng.count + 1 ∧ t.rn (pReg p 2) = r.devnum) ∧
  (∀ (p : Path) (s : State), s.serves p false 0x4800 6 = true →
    Completes [.ports, .paths] (.sysRejoin p) s fun t =>
      t.answered p .ok false [] ∧ ∀ k, k < 7 → 3 ≤ s.portState k →
        ∃ m : Msg3, m.mkind = 3 ∧ Tab.get [] (t.port k).out 3 = Tab.get [] (s.port k).out 3 ++ (Item.msg m).cut) ∧
  (∀ (p : Path) (j : W64) (s : State), s.serves p false 0x4800 6 = true → s.ringsHold = false → s.stopped = true →
    s.follows = true → s.reaches (s.rn rLeader) = true →
    Completes [.eng, .ports, .paths] (.sysAdoptStep p j) s fun t =>
      t.answered p .ok false [] ∧
      t.eng = { s.eng with count := j, settled := j, tagRef := BitVec.ofNat 2 j.toNat }) ∧
  (∀ (p : Path) (s : State), s.serves p false 0x0102 3 = true → s.argFailed (s.rn (rDefectArg p)) = false →
    Completes [.boot, .paths] (.defectMark p) s fun t =>
      t.answered p .ok false [] ∧
      t.boot = (if argWhole (s.rn (rDefectArg p)) then
          { s.boot with markTiles := addNew (argTile (s.rn (rDefectArg p))) s.boot.markTiles }
        else
          { s.boot with
            markCores := addNew (136 * argTile (s.rn (rDefectArg p)) + s.rn (rDefectArg p) % 256) s.boot.markCores })) ∧
  (∀ (p : Path) (s : State), s.serves p false 0x0102 3 = true → s.argFailed (s.rn (rDefectArg p)) = false →
    Completes [.boot, .paths] (.defectUnmark p) s fun t =>
      t.answered p .ok false [] ∧ t.boot.stTiles = s.boot.stTiles ∧ t.boot.stCores = s.boot.stCores ∧
      (argWhole (s.rn (rDefectArg p)) = true → argTile (s.rn (rDefectArg p)) ∉ t.boot.markTiles) ∧
      (argWhole (s.rn (rDefectArg p)) = false →
        136 * argTile (s.rn (rDefectArg p)) + s.rn (rDefectArg p) % 256 ∉ t.boot.markCores))

/-- Connections (07 R216 to R218, R241, R242; 11 R381): OPEN takes the lowest free context and binds what the record
    opens, a REMOTE half waits for its peer; CONFIRM answers CONN_ACK, which completes the OPEN; an OPEN without an
    answer ends TIMEOUT and frees the context; CLOSE of a half with other halves tells them and waits, a half that
    nothing holds is free at once under its next generation; a CLOSE message closes this device's half and is
    answered; a close that takes too long ends TIMEOUT and goes on. Each of these commands completes, exec answering
    a next state: CONN_OPEN, CONN_CONFIRM, CONN_ACK, CONN_OPEN_TIMEOUT, CONN_CLOSE, CONN_CLOSE_MESSAGE,
    CONN_CLOSE_TIMEOUT. -/
def Obligations.Connections : Prop :=
  (∀ (p : Path) (i : Nat) (s : State), s.serves p false 0x3800 1 = true → s.openRange (s.openRec p) = false →
    s.openState (s.openRec p) = false → ((s.openRec p).rsvd || s.listRsvd (s.openRec p)) = false →
    s.freeCtx = some i → fld (s.openRec p).recd.1 63 62 = 0 → (s.openRec p).dkind ≠ 4 →
    Completes [.regs, .tiles, .nodes, .conns, .combs, .lpddr, .paths] (.connOpen p) s fun t =>
      t.answered p .ok false [] ∧
      t.conn i = { Conn.reset with state := .opn, gen := (s.conn i).gen, recd := (s.openRec p).recd } ∧
      (∀ j, j ≠ i → t.conn j = s.conn j) ∧ t.rn (rConnHandle p) = ((s.conn i).handle i).toNat ∧
      ((s.openRec p).dkind = 2 → (t.comb (s.openRec p).combNo).bound = some i ∧
        (t.comb (s.openRec p).combNo).senders = (s.openRec p).senders ∧ (t.comb (s.openRec p).combNo).count = 0)) ∧
  (∀ (p : Path) (i : Nat) (s : State), s.serves p false 0x3800 1 = true → s.openRange (s.openRec p) = false →
    s.openState (s.openRec p) = false → ((s.openRec p).rsvd || s.listRsvd (s.openRec p)) = false →
    s.freeCtx = some i → fld (s.openRec p).recd.1 63 62 = 0 → (s.openRec p).dkind = 4 →
    Completes [.regs, .tiles, .nodes, .conns, .combs, .lpddr, .paths] (.connOpen p) s fun t =>
      t.waits p (.connOpen i) ∧
      t.conn i = { Conn.reset with
        state := .opn, gen := (s.conn i).gen, recd := (s.openRec p).recd, path := some (sender p) } ∧
      (∀ j, j ≠ i → t.conn j = s.conn j) ∧
      ∃ m : Msg3, m.mkind = 5 ∧ m.op = 1 ∧ m.ddev = (s.openRec p).rdev ∧ m.body = descBytes (s.openRec p).recd ∧
        Tab.get [] (t.node 85).out 3 = Tab.get [] (s.node 85).out 3 ++ (Item.msg m).cut) ∧
  (∀ (dev : Nat) (tag : Byte) (h : BitVec 16) (b : Bytes) (s : State), s.boot.refclk = true →
    Completes [.nodes, .conns] (.connConfirm dev tag h b) s fun t =>
      ∃ m : Msg3, m.mkind = 6 ∧ m.ddev = dev ∧ m.tag = tag ∧
        Tab.get [] (t.node 85).out 3 = Tab.get [] (s.node 85).out 3 ++ (Item.msg m).cut ∧
        match s.confirmed dev { Conn.reset with recd := descWords b } with
        | some i => m.op = 0 ∧ t.conn i =
            { s.conn i with peers := (dev, h) :: (s.conn i).peers.filter fun q => decide (q.1 ≠ dev) }
        | none => m.op = Status.noEntry.code ∧ ∀ j, t.conn j = s.conn j) ∧
  (∀ (dev i : Nat) (tag st : Byte) (dk : BitVec 3) (ln : BitVec 4) (s : State), s.boot.refclk = true →
    tag.toNat < 128 → (s.pathN tag.toNat).op = some (.waiting (.connOpen i)) → (s.conn i).rdev = dev →
    Completes [.regs, .tiles, .nodes, .conns, .combs, .lpddr, .paths] (.connAck dev tag st dk ln) s fun t =>
      (t.pathN tag.toNat).op = some (.answered (if st = 0 then .ok else Status.ofCode st.toNat) false []) ∧
      (st = 0 → t.conn i = { s.conn i with path := none, rdkind := dk, rlanes := ln } ∧
        t.rn (rHandleN tag.toNat) = ((s.conn i).handle i).toNat) ∧
      (st ≠ 0 → t.conn i = { Conn.reset with gen := (s.conn i).gen })) ∧
  (∀ (dev i : Nat) (tag st : Byte) (dk : BitVec 3) (ln : BitVec 4) (s : State), s.boot.refclk = true →
    128 ≤ tag.toNat → s.closeAcked dev tag = some i →
    ((s.conn i).unacked.filter fun q => decide (q.1 ≠ dev)) ≠ [] →
    Completes [.regs, .tiles, .nodes, .conns, .combs, .lpddr, .paths] (.connAck dev tag st dk ln) s fun t =>
      (t.conn i).state = (s.conn i).state ∧ (t.conn i).path = (s.conn i).path ∧
      (t.conn i).unacked ++ (t.conn i).untold =
        ((s.conn i).unacked.filter fun q => decide (q.1 ≠ dev)) ++ (s.conn i).untold) ∧
  (∀ (p : Path) (i : Nat) (s : State), s.boot.refclk = true → s.waits p (.connOpen i) →
    Completes [.conns, .paths] (.connOpenTimeout p) s fun t =>
      t.answered p .timeout false [] ∧ t.conn i = { Conn.reset with gen := (s.conn i).gen } ∧
      ∀ j, j ≠ i → t.conn j = s.conn j) ∧
  (∀ (p : Path) (i : Nat) (s : State), s.serves p false 0x3800 1 = true → s.connOf (s.rn (rConnHandle p)) = some i →
    (s.conn i).state ≠ .closing → (s.conn i).otherHalves ≠ [] →
    Completes [.regs, .cores, .tiles, .nodes, .conns, .combs, .hrings, .lpddr, .paths, .pcie, .doms, .live] (.connClose p) s
      fun t => t.waits p (.connClose i) ∧ (t.conn i).state = .closing ∧ 
        (t.conn i).unacked ++ (t.conn i).untold = (s.conn i).otherHalves ∧
        (t.conn i).path = some (sender p)) ∧
  (∀ (p : Path) (i : Nat) (s : State), s.serves p false 0x3800 1 = true → s.connOf (s.rn (rConnHandle p)) = some i →
    (s.conn i).state = .closing →
    Completes [.paths] (.connClose p) s fun t => t.answered p .busy false []) ∧
  (∀ (dev i : Nat) (h : BitVec 16) (s : State), s.boot.refclk = true → s.connOf h.toNat = some i →
    (s.conn i).state ≠ .closing → ((s.conn i).otherHalves.filter fun q => decide (some dev ≠ some q.1)) ≠ [] →
    Completes [.regs, .cores, .tiles, .nodes, .conns, .combs, .hrings, .lpddr, .paths, .pcie, .doms, .live]
      (.connCloseMessage dev h) s fun t =>
        (t.conn i).state = .closing ∧ (t.conn i).ackTo = some dev ∧
        (t.conn i).unacked ++ (t.conn i).untold =
          (s.conn i).otherHalves.filter fun q => decide (some dev ≠ some q.1)) ∧
  (∀ (dev : Nat) (h : BitVec 16) (s : State), s.boot.refclk = true → s.connOf h.toNat = none →
    Completes [.nodes] (.connCloseMessage dev h) s fun t =>
      ∃ m : Msg3, m.mkind = 6 ∧ m.ddev = dev ∧ m.op = Status.noEntry.code ∧ m.tag = closeTag h ∧
        Tab.get [] (t.node 85).out 3 = Tab.get [] (s.node 85).out 3 ++ (Item.msg m).cut) ∧
  (∀ (p : Path) (i : Nat) (s : State), s.boot.refclk = true → s.waits p (.connClose i) → (s.conn i).state = .closing →
    (s.conn i).path = some (sender p) →
    Completes [.conns, .paths] (.connCloseTimeout i false) s fun t =>
      t.answered p .timeout false [] ∧ t.conn i = { s.conn i with path := none } ∧ ∀ j, j ≠ i → t.conn j = s.conn j) ∧
  (∀ (p : Path) (i : Nat) (s : State), s.boot.refclk = true → s.waits p (.connClose i) → (s.conn i).state = .closing →
    (s.conn i).path = some (sender p) →
    Completes [.regs, .tiles, .nodes, .conns, .combs, .lpddr, .paths] (.connCloseTimeout i true) s fun t =>
      t.answered p .timeout false [] ∧ (t.conn i).path = none ∧ (t.conn i).untold = [] ∧ (t.conn i).unacked = [])

/-- Queues, records and combining queues at an NI, and what comes once per interval from the leader and the HKC
    (07 R222, R223, R229 to R231, R239; 08 R273, R280): a descriptor takes the slot after those its queue holds; a credit
    goes back to its source half; a record travels on its connection or is dropped and counted; a contribution is added
    lane by lane with saturation, and the last sender's completes the round; a completed bank goes to each entry of the
    broadcast list, and the other bank follows; a COMBINE whose contribution another device's bank accepted ends; TICK
    carries the leader's timebase; a follower trims or steps its own; once per second FAB.LOSS_RATE follows. Each of these
    commands completes: exec answers a next state. -/
def Obligations.QueueTraffic : Prop :=
  (∀ (t i k : Nat) (d : DescMsg) (rest : List Item) (s : State), s.domUp t = true → (s.tile t).vc1 = .desc d :: rest →
    s.connOf d.dst.toNat = some i → (s.conn i).state ≠ .closing → (s.conn i).acceptsFrom s.dev d.dev = true →
    s.coreOf t ((s.conn i).dest % 128) = some k → (s.queue t ((s.conn i).dest % 128) (s.conn i).q).held < 32 →
    (s.core k).pass = .run →
    Completes [.regs, .cores, .tiles, .nodes, .conns, .combs, .hrings, .lpddr, .paths, .pcie, .log, .doms, .live]
      (.queueDeliver t) s fun u =>
        (let x := s.queue t ((s.conn i).dest % 128) (s.conn i).q
         u.queue t ((s.conn i).dest % 128) (s.conn i).q = { x with held := x.held + 1 } ∧
         u.conn i = { s.conn i with qhwm := max (s.conn i).qhwm (x.held + 1) } ∧
         (rest = [] → (u.tile t).vc1 = [] ∧
           u.core k = (s.core k).wrDesc (aQslot (s.conn i).q (x.head + x.held)) d.words))) ∧
  (∀ (i : Nat) (s : State), s.creditDue i = true → (s.conn i).tokens = 0 →
    (s.cores.any fun e => match e.2.pass with | .blocked _ _ _ _ => true | _ => false) = false →
    Completes [.cores, .nodes, .conns, .live, .ids] (.queueCreditReturn i) s fun u =>
      u.conn i = { s.conn i with taken := (s.conn i).taken - 1, creditsBack := (s.conn i).creditsBack - 1 } ∧
      ∀ j, j ≠ i → u.conn j = s.conn j) ∧
  (∀ (t i : Nat) (r : Record) (rest : List Record) (s : State), (s.tile t).recs = r :: rest →
    s.connOf r.handle.toNat = some i → s.carries i r = true → (s.conn i).dkind ≠ 4 →
    Completes [.regs, .tiles, .nodes, .conns, .live] (.recordHandoff t) s fun u =>
      (u.tile t).recs = rest ∧ u.conn i = { s.conn i with sent := w64 (satAdd 64 (s.conn i).sent.toNat 1) } ∧
      Tab.get [] (u.node t).out 0 = Tab.get [] (s.node t).out 0 ++ [.record { r with ddev := s.dev }]) ∧
  (∀ (t : Nat) (r : Record) (rest : List Record) (s : State), (s.tile t).recs = r :: rest →
    s.connOf r.handle.toNat = none →
    Completes [.regs, .tiles, .nodes, .conns, .live] (.recordHandoff t) s fun u =>
      (u.tile t).recs = rest ∧ u.rn (rk 0 0x3802 2) = min (s.rn (rk 0 0x3802 2) + 1) (2 ^ 64 - 1) ∧
      (∀ j, u.conn j = s.conn j)) ∧
  (∀ (t i : Nat) (c : Contrib) (rest : List Item) (s : State), s.domUp t = true →
    (s.tile t).vc1 = .contrib c :: rest → s.combOf c = some i → (s.conn i).state ≠ .closing →
    (s.conn i).acceptsFrom s.dev c.sdev = true → (s.comb (s.conn i).combNo).full = false → (s.conns.all fun e => decide (e.2.state ≠ .closing)) = true →
    Completes [.regs, .cores, .tiles, .nodes, .conns, .combs, .lpddr, .paths, .live] (.combContribute (.tile t)) s fun u =>
      (let q := (s.conn i).combNo
       let b := s.comb q
       let sum := fun j => (b.acc.getD j 0).toInt + (c.lanes.getD j 0).toInt
       let acc := (List.range b.lanes).map fun j => w32 (sat32 (sum j))
       (b.count + 1 < b.senders → (u.comb q).count = b.count + 1 ∧ (u.comb q).acc = acc ∧
         (u.comb q).deliver = b.deliver ∧ (u.comb q).round = b.round) ∧
       (b.senders ≤ b.count + 1 → b.deliver = none → (u.comb q).deliver = some (b.round + 1, acc) ∧
         (u.comb q).count = 0 ∧ (u.comb q).acc = List.replicate b.lanes 0 ∧
         (u.comb q).round = b.round + 1))) ∧
  (∀ (k n id : Nat) (h : BitVec 16) (i : Nat) (s : State), (s.core k).pass = .blocked 0x7 h n id →
    s.connOf h.toNat = some i → (s.conn i).dkind = 4 → s.contribHere id = false →
    Completes [.cores, .live] (.combContribute (.far k)) s fun u =>
      (let c := s.core k
       u.core k = (if bit c.word 27 then c.clearLanes c.opFirst (fld c.word 47 44 + 1) else c).opEnd n .ok none) ∧
      ∀ l, l ≠ k → u.core l = s.core l) ∧
  (∀ (n t : Nat) (j : W64) (vs : List W32) (s : State), (s.comb n).deliver = some (j, vs) →
    s.resident (n / 16) = some t → s.domUp t = true → (s.comb n).count < (s.comb n).senders →
    (s.conns.all fun e => decide (e.2.state ≠ .closing)) = true →
    Completes [.regs, .tiles, .nodes, .conns, .combs, .lpddr, .paths] (.combDeliver n) s fun u =>
      u.comb n = { s.comb n with deliver := none, last := vs } ∧
      Tab.get [] (u.node t).out 1 = Tab.get [] (s.node t).out 1 ++
        ((List.range (s.comb n).bllen).filterMap fun k =>
          let w := s.bcast t (s.comb n).blbase k
          if bcastRsvd w then none
          else if bit w 63 then some (.sum n s.dev (fld w 59 56) j (fld w 55 50) (fld w 49 42) vs)
          else some (.lanes n (fld w 59 56) (BitVec.ofNat 16 (fld w 55 40)) (fld w 39 28) vs)).flatMap Item.cut) ∧
  (∀ (s : State), s.boot.refclk = true → s.leads = true → s.isMember s.dev = true →
    Completes [.nodes] .tickSend s fun u =>
      Tab.get [] (u.node 89).out 2 = Tab.get [] (s.node 89).out 2 ++
        ((List.range 7).filter fun p =>
            s.portUp p && decide (s.rn (pReg p 2) < 8) && decide ((s.peer (s.rn (pReg p 2))).port = some p)).map fun p =>
          .vc2 (s.rn (pReg p 2)) [vc2Flit 8 (s.dev * 2 ^ 56 + s.rn rTB % 2 ^ 56)]) ∧
  (∀ (p dev : Nat) (tb : BitVec 56) (s : State), s.boot.refclk = true → s.follows = true → dev = s.rn rLeader →
    (s.peer dev).port = some p → s.portUp p = true →
    Completes [.regs, .slew] (.tick p dev tb) s fun u =>
      (let off : Int := 2 * sx 56 (tb.toNat + 2 ^ 56 - s.rn rTB % 2 ^ 56) + (s.rn (rk 0 (0x4820 + s.rn (pReg p 2)) 8) : Int)
       u.rd rTbOffset = w64 (enc 32 (sat32 off)) ∧
       ((-1000 < off ∧ off < 1000) → u.rn rTbSteps = s.rn rTbSteps ∧ u.rd rTB = s.rd rTB ∧
         u.slew = if 2 ≤ off then some true else if off ≤ -2 then some false else none) ∧
       (¬(-1000 < off ∧ off < 1000) → u.rn rTbSteps = min (s.rn rTbSteps + 1) (2 ^ 32 - 1) ∧
         u.rd rTB = w64 (enc 64 ((s.rn rTB : Int) + off / 2))))) ∧
  (∀ (s : State), s.boot.refclk = true → s.hkcUp = true → s.rn rSentAll - s.lossSnap.2 ≠ 0 →
    Completes [.regs, .lossSnap] .lossRateUpdate s fun u =>
      u.lossSnap = (s.rn rLostAll, s.rn rSentAll) ∧
      u.rd (rk 0 0x2000 2) =
        w64 (rneDiv ((s.rn rLostAll - s.lossSnap.1) * 1000000000000) (s.rn rSentAll - s.lossSnap.2)))

/-- Host rings (07 R232 to R238, R243): the island writes the oldest staged message of an enabled output ring with its
    header frame in front at the producer position, or a PAD over a tail too short for it, or drops a late record by
    policy; HOLDOFF raises the ring's vector and counts afresh; a CONS write within what is written moves CONS; ENABLE
    starts a ring empty; DISABLE of a ring that nothing names disables it, of one that a connection names is BUSY;
    FORCE_DISABLE disables at once and discards what was staged; descriptor rings do the same, PROD announces entries, and
    the island fetches an entry for a credit or turns it away with a DESC record. Each of these commands completes: exec
    answers a next state. -/
def Obligations.HostRings : Prop :=
  (∀ (r : Nat) (m : HMsg) (rest : List HMsg) (s : State), s.boot.refclk = true → s.hringOn r = true → s.hostOk = true →
    s.domUp 77 = true → (s.hring r).staged = m :: rest → s.hBlocked r = false → s.lateMsg m = false →
    m.kind ≠ 4 → (m.kind = 3 ∨ m.group = 0) → m.len ≤ s.hFrames r - s.hPos r →
    s.pcie.wait = [] → (s.conns.all fun e => decide (e.2.state ≠ .closing)) = true →
    Completes [.regs, .nodes, .hrings, .hostMem, .pcie, .live] (.hringWrite r) s fun t =>
      (let a := s.rn (hReg r 1) + 16 * s.hPos r
       let w1 := headerWord1 (s.hring r).seq.toNat m.dev m.lcid.toNat m.neuron.toNat m.kind
         (lapPhase (s.rn (hReg r 8)) (s.hFrames r)) false false m.len
       t.hostMem.rdBytes a 16 = leBytes 8 (m.value.toNat * 2 ^ 32 + m.step.toNat) ++ leBytes 8 w1.toNat ∧
       (m.kind = 3 → m.frames.length = 4 →
         t.hostMem.rdBytes (a + 16) 32 = (m.frames.map fun w => leBytes 8 w.toNat).flatten) ∧
       (∀ x, x < a ∨ a + 16 + (if m.kind = 3 then 8 * m.frames.length else 0) ≤ x → t.hostMem.rd x = s.hostMem.rd x) ∧
       t.rn (hReg r 8) = (s.rn (hReg r 8) + m.len) % 2 ^ 32 ∧ (t.hring r).staged = rest ∧
       (t.hring r).seq = (s.hring r).seq + 1)) ∧
  (∀ (r : Nat) (m : HMsg) (rest : List HMsg) (s : State), s.boot.refclk = true → s.hringOn r = true → s.hostOk = true →
    s.domUp 77 = true → (s.hring r).staged = m :: rest → s.hBlocked r = false → s.lateMsg m = false →
    s.hFrames r - s.hPos r < m.len → s.pcie.wait = [] → (s.conns.all fun e => decide (e.2.state ≠ .closing)) = true →
    Completes [.regs, .hrings, .hostMem] (.hringWrite r) s fun t =>
      (let a := s.rn (hReg r 1) + 16 * s.hPos r
       let tail := s.hFrames r - s.hPos r
       t.hostMem.rdBytes a 16 = leBytes 8 (tail * 2 ^ 32) ++ leBytes 8 (headerWord1 (s.hring r).seq.toNat 0 0 0 0
         (lapPhase (s.rn (hReg r 8)) (s.hFrames r)) false false 1).toNat ∧
       (∀ x, x < a ∨ a + 16 ≤ x → t.hostMem.rd x = s.hostMem.rd x) ∧
       t.rn (hReg r 8) = (s.rn (hReg r 8) + tail) % 2 ^ 32 ∧ (t.hring r).staged = (s.hring r).staged ∧
       (t.hring r).seq = (s.hring r).seq + 1)) ∧
  (∀ (r : Nat) (m : HMsg) (rest : List HMsg) (s : State), s.boot.refclk = true → s.hringOn r = true → s.hostOk = true →
    s.domUp 77 = true → (s.hring r).staged = m :: rest → s.hBlocked r = false → s.lateMsg m = true →
    s.rn rLateAction = 1 → s.pcie.wait = [] → (s.conns.all fun e => decide (e.2.state ≠ .closing)) = true →
    Completes [.regs, .nodes, .hrings, .live] (.hringWrite r) s fun t =>
      (t.hring r).staged = rest ∧ t.rn (rStep 5) = min (s.rn (rStep 5) + 1) (2 ^ 64 - 1)) ∧
  (∀ (r : Nat) (s : State), s.boot.refclk = true → 0 < (s.hring r).since →
    Completes [.hrings, .pcie] (.hringHoldoffExpire r) s fun t =>
      t.hring r = { s.hring r with since := 0 } ∧ t.pcie = (s.raise (s.rn (hReg r 3))).pcie) ∧
  (∀ (p : Path) (r : Nat) (v : W32) (s : State), s.serves p false (0x3810 + r) 9 = true →
    (v.toNat + 2 ^ 32 - s.rn (hReg r 9)) % 2 ^ 32 ≤ s.hUsed r →
    Completes [.regs, .paths] (.hringConsWrite p r v) s fun t =>
      t.answered p .ok false [] ∧ t.rn (hReg r 9) = v.toNat ∧ ∀ k, k ≠ hReg r 9 → t.rd k = s.rd k) ∧
  (∀ (p : Path) (r : Nat) (s : State), s.serves p false (0x3810 + r) 6 = true → s.hringOn r = false →
    s.ringRange (hReg r 1) (hReg r 2) = false →
    Completes [.regs, .hrings, .paths] (.hringEnable p r) s fun t =>
      t.answered p .ok false [] ∧ t.hringOn r = true ∧ t.rn (hReg r 8) = 0 ∧ t.rn (hReg r 9) = 0 ∧
      t.hring r = { seq := 0, staged := [], since := 0, forced := false }) ∧
  (∀ (p : Path) (r : Nat) (s : State), s.serves p false (0x3810 + r) 6 = true → s.hringOn r = true →
    s.hringNamed r = false → (s.hring r).staged = [] → (s.pcie.wait.any fun q => decide (q.1 = r)) = false →
    Completes [.regs, .hrings, .paths] (.hringDisable p r) s fun t =>
      t.answered p .ok false [] ∧ t.hringOn r = false ∧ t.hring r = { s.hring r with forced := false } ∧ ∀ k, k ≠ hReg r 7 → t.rd k = s.rd k) ∧
  (∀ (p : Path) (r : Nat) (s : State), s.serves p false (0x3810 + r) 6 = true → s.hringOn r = true →
    s.hringNamed r = true → Completes [.paths] (.hringDisable p r) s fun t => t.answered p .busy false []) ∧
  (∀ (p : Path) (r : Nat) (s : State), s.serves p false (0x3810 + r) 6 = true → s.hringOn r = true →
    s.pcie.wait = [] → (s.conns.all fun e => decide (e.2.state ≠ .closing)) = true →
    Completes [.regs, .nodes, .hrings, .paths, .live] (.hringForceDisable p r) s fun t =>
      t.answered p .ok false [] ∧ t.hringOn r = false ∧ (t.hring r).staged = [] ∧ (t.hring r).forced = true) ∧
  (∀ (p : Path) (r : Nat) (s : State), s.serves p false (0x3850 + r) 3 = true → s.rn (dReg r 4) ≠ 1 →
    s.ringRange (dReg r 1) (dReg r 2) = false →
    Completes [.regs, .paths] (.dringEnable p r) s fun t =>
      t.answered p .ok false [] ∧ t.rn (dReg r 4) = 1 ∧ t.rn (dReg r 5) = 0 ∧ t.rn (dReg r 6) = 0) ∧
  (∀ (p : Path) (r : Nat) (s : State), s.serves p false (0x3850 + r) 3 = true → s.rn (dReg r 4) ≠ 0 →
    s.rn (dReg r 7) = 0xFFFF →
    Completes [.regs, .paths] (.dringDisable p r) s fun t =>
      t.answered p .ok false [] ∧ t.rn (dReg r 4) = 0 ∧ ∀ k, k ≠ dReg r 4 → t.rd k = s.rd k) ∧
  (∀ (p : Path) (r : Nat) (v : W32) (s : State), s.serves p false (0x3850 + r) 5 = true →
    (v.toNat + 2 ^ 32 - s.rn (dReg r 6)) % 2 ^ 32 ≤ s.dEntries r →
    s.dringLeft r ≤ (v.toNat + 2 ^ 32 - s.rn (dReg r 6)) % 2 ^ 32 →
    Completes [.regs, .paths] (.dringProdWrite p r v) s fun t =>
      t.answered p .ok false [] ∧ t.rn (dReg r 5) = v.toNat ∧ ∀ k, k ≠ dReg r 5 → t.rd k = s.rd k) ∧
  (∀ (r i : Nat) (d : Bytes) (s : State), s.boot.refclk = true → s.dringReady r = some i →
    Completes [.regs, .nodes, .conns, .log, .live, .ids] (.dringFetch r d) s fun t =>
      t.rn (dReg r 6) = (s.rn (dReg r 6) + 1) % 2 ^ 32 ∧
      (descCheck (descWords d) = .ok → ∃ m : DescMsg, m.words = descWords d ∧
        Tab.get [] (t.node 88).out 1 = Tab.get [] (s.node 88).out 1 ++ [.desc m] ∧
        t.conn i = { s.conn i with
          taken := if (s.conn i).edkind = 0 then (s.conn i).taken + 1 else (s.conn i).taken,
          sent := w64 (satAdd 64 (s.conn i).sent.toNat 1) }) ∧
      (descCheck (descWords d) ≠ .ok → t.conns = s.conns ∧ t.nodes = s.nodes ∧
        s.Posts t 8 (descCheck (descWords d)).code 0 (w64 (((s.conn i).handle i).toNat % 65536 + r % 64 * 2 ^ 16))
          (w64 (s.rn (dReg r 6)))))

/-- The DMA engine, no channel held by a sleeping tile or controller (09 R294 to R304): OPEN takes the lowest free channel, STOPPED and empty; START runs it, STOP ends it at
    its descriptor boundary, CLOSE of a STOPPED channel frees it under its next generation; PROD announces descriptors;
    a fetched descriptor that checks out starts, one that does not is refused with a record and stops the channel; a read
    beat stages the bytes, a write beat sends the oldest staged ones to host memory or to a peer; a descriptor whose writes
    are all acknowledged completes, and one that meets a fault stops the channel. Each of these commands completes: exec
    answers a next state. -/
def Obligations.DmaEngine : Prop :=
  (∀ (p : Path) (c : Nat) (s : State), s.serves p false 0x3400 1 = true →
    (let w := descWords (s.blob (sender p) 0x3400 2 32)
     7 ≤ fld w.1 57 53 ∧ fld w.1 57 53 ≤ 16 ∧ 1 ≤ fld w.1 52 46 ∧ fld w.1 52 46 ≤ 64 ∧ w.2.1.toNat % 4096 = 0 ∧
     (bit w.1 58 = false → fld w.2.1 63 44 = 0 ∧
       (granules w.2.1.toNat (32 * 2 ^ fld w.1 57 53)).all s.ringPlaceOk = true) ∧
     fld w.1 45 0 = 0 ∧ fld w.2.2.1 31 0 = 0 ∧ w.2.2.2 = 0 ∧ fld w.1 63 62 = 0 ∧ s.stageUsed + fld w.1 52 46 ≤ 448) →
    s.freeChan = some c →
    Completes [.regs, .chans, .paths] (.dmaOpen p) s fun t =>
      (let w := descWords (s.blob (sender p) 0x3400 2 32)
       t.answered p .ok false [] ∧
       t.chan c = { s.chan c with
         state := .stopped, prio := fld w.1 61 59, host := bit w.1 58, rsize := fld w.1 57 53, quota := fld w.1 52 46,
         rbase := w.2.1.toNat, descs := [] } ∧
       t.rn (rDmaHandle p) = (s.chan c).handle c ∧ ∀ j, j ≠ c → t.chan j = s.chan j)) ∧
  (∀ (p : Path) (c : Nat) (s : State), s.serves p false 0x3400 1 = true → s.chanOf (s.rn (rDmaHandle p)) = some c →
    (s.chan c).state ≠ .stopping →
    Completes [.regs, .chans, .doms, .paths] (.dmaStart p) s fun t =>
      t.answered p .ok false [] ∧
      t.chan c = { s.chan c with state := if (s.chan c).state = .stopped then .running else (s.chan c).state }) ∧
  (∀ (p : Path) (c : Nat) (s : State), s.serves p false 0x3400 1 = true → s.chanOf (s.rn (rDmaHandle p)) = some c →
    (s.chan c).state = .running →
    Completes [.chans, .paths] (.dmaStop p) s fun t =>
      t.answered p .ok false [] ∧
      t.chan c = { s.chan c with state := if (s.chan c).descs = [] then .stopped else .stopping }) ∧
  (∀ (p : Path) (c : Nat) (s : State), s.serves p false 0x3400 1 = true → s.chanOf (s.rn (rDmaHandle p)) = some c →
    (s.chan c).state = .stopped →
    Completes [.chans, .paths] (.dmaClose p) s fun t =>
      t.answered p .ok false [] ∧ t.chan c = { Chan.reset with gen := nextChanGen c (s.chan c).gen } ∧
      ∀ j, j ≠ c → t.chan j = s.chan j) ∧
  (∀ (p : Path) (c : Nat) (s : State), s.serves p false 0x3400 1 = true → s.chanOf (s.rn (rDmaHandle p)) = some c →
    (s.chan c).state ≠ .stopped → Completes [.paths] (.dmaClose p) s fun t => t.answered p .busy false []) ∧
  (∀ (p : Path) (c : Nat) (v : W32) (s : State), s.serves p false (0x3410 + c) 2 = true →
    (s.rn (ch c 2) + 2 ^ 32 - s.rn (ch c 3)) % 2 ^ 32 ≤ (v.toNat + 2 ^ 32 - s.rn (ch c 3)) % 2 ^ 32 →
    (v.toNat + 2 ^ 32 - s.rn (ch c 3)) % 2 ^ 32 ≤ 2 ^ (s.chan c).rsize →
    Completes [.regs, .paths] (.dmaProdWrite p c v) s fun t =>
      t.answered p .ok false [] ∧ t.rn (ch c 2) = v.toNat ∧ ∀ k, k ≠ ch c 2 → t.rd k = s.rd k) ∧
  (∀ (c k : Nat) (b : Bytes) (e : Ecc) (s : State), s.boot.refclk = true → s.nextDesc c = some k → (s.chan c).host = true →
    s.hostOk = true → s.dmaCheck (descWords b) = .ok → (bit (descWords b).1 55 = false ∨ (s.chan c).descs = []) →
    Completes [.chans, .ids] (.dmaDescFetch c ⟨b, e⟩) s fun t =>
      t.chan c = { s.chan c with
        descs := (s.chan c).descs ++ [startDesc (s.ids + 1) (descWords b)],
        state := if bit (descWords b).1 48 then .stopping else (s.chan c).state } ∧
      ∀ j, j ≠ c → t.chan j = s.chan j) ∧
  (∀ (c k : Nat) (b : Bytes) (e : Ecc) (s : State), s.boot.refclk = true → s.nextDesc c = some k → (s.chan c).host = false →
    holds (s.placesRd ((s.chan c).entry k) 32) = false →
    (let r := s.readEcc ((s.chan c).entry k) 32 e
     r.1.2 = false ∧ r.2.dmaCheck (descWords r.1.1) = .ok ∧ (bit (descWords r.1.1).1 55 = false ∨ (s.chan c).descs = [])) →
    Completes [.regs, .chans, .log, .ids] (.dmaDescFetch c ⟨b, e⟩) s fun t =>
      (let w := descWords (s.readEcc ((s.chan c).entry k) 32 e).1.1
       t.chan c = { s.chan c with
         descs := (s.chan c).descs ++ [startDesc (s.ids + 1) w],
         state := if bit w.1 48 then .stopping else (s.chan c).state } ∧
       ∀ j, j ≠ c → t.chan j = s.chan j)) ∧
  (∀ (c k : Nat) (b : Bytes) (e : Ecc) (s : State), s.boot.refclk = true → s.nextDesc c = some k → (s.chan c).host = true →
    s.hostOk = true → s.dmaCheck (descWords b) ≠ .ok → (s.chan c).descs = [] →
    Completes [.regs, .chans, .log] (.dmaDescFetch c ⟨b, e⟩) s fun t =>
      (t.chan c).state = .stopped ∧ (t.chan c).descs = [] ∧ t.rn (ch c 4) = (s.dmaCheck (descWords b)).code ∧
      s.Posts t 7 (s.dmaCheck (descWords b)).code 0 (w64 ((s.chan c).handle c)) (w64 (s.rn (ch c 3)))) ∧
  (∀ (c : Nat) (d : DDesc) (b : Bytes) (e : Ecc) (s : State), s.boot.refclk = true → s.domUp 86 = true →
    s.wakeFor State.readPlaces Chan.reading = s →
    s.pickChan (readyChans s.canRead ++ if s.swapReads then [64] else []) s.turnR = some c → c < 64 →
    (s.chan c).reading = some d →
    (d.zero = true ∨ (e ≠ .bad ∧ ((d.sspace = 1 ∧ s.hostOk = true) ∨ d.sspace = 2))) →
    Completes [.regs, .chans, .turnR] (.dmaReadBeat b e) s fun t =>
      t.turnR = s.turnAfter s.turnR c ∧
      t.chan c = { s.chan c with
        descs := updFirst (fun d => decide (d.rd < d.len) && d.failed.isNone)
          (fun d => { d with
            staged := d.staged ++ [(d.rd, if d.zero then List.replicate d.chunk 0 else b.take d.chunk)],
            rd := d.rd + d.chunk }) (s.chan c).descs } ∧
      ∀ j, j ≠ c → t.chan j = s.chan j) ∧
  (∀ (c : Nat) (d : DDesc) (b : Bytes) (e : Ecc) (s : State), s.boot.refclk = true → s.domUp 86 = true →
    s.wakeFor State.readPlaces Chan.reading = s →
    s.pickChan (readyChans s.canRead ++ if s.swapReads then [64] else []) s.turnR = some c → c < 64 →
    (s.chan c).reading = some d → d.zero = false → d.sspace = 0 →
    Completes [.regs, .chans, .turnR, .log] (.dmaReadBeat b e) s fun t =>
      (let u := { s.preempt (readyChans s.canRead ++ if s.swapReads then [64] else []) c with
         turnR := s.turnAfter s.turnR c }
       let r := u.readEcc (d.saddr + d.rd) d.chunk e
       t.turnR = s.turnAfter s.turnR c ∧
       t.chan c = { s.chan c with
         descs := updFirst (fun d => decide (d.rd < d.len) && d.failed.isNone)
           (if offRange (u.placesRd (d.saddr + d.rd) d.chunk) then failDesc .state else if r.1.2 then failDesc .fault
            else fun d => { d with staged := d.staged ++ [(d.rd, r.1.1)], rd := d.rd + d.chunk }) (s.chan c).descs } ∧
       ∀ j, j ≠ c → t.chan j = s.chan j)) ∧
  (∀ (c off : Nat) (d : DDesc) (b : Bytes) (rest : List (Nat × Bytes)) (s : State), s.boot.refclk = true →
    s.domUp 86 = true → s.wakeFor State.writePlaces Chan.writing = s →
    s.pickChan (readyChans s.canWrite ++ if s.swapWrites then [64] else []) s.turnW = some c → c < 64 →
    (s.chan c).writing = some d → d.staged = (off, b) :: rest → ((d.dspace = 1 ∧ s.hostOk = true) ∨ d.dspace = 2) →
    Completes [.regs, .nodes, .hostMem, .chans, .turnW] .dmaWriteBeat s fun t =>
      t.turnW = s.turnAfter s.turnW c ∧ (∀ j, j ≠ c → t.chan j = s.chan j) ∧
      (t.chan c).descs = updFirst (fun d => !d.staged.isEmpty && d.failed.isNone)
        (fun d => { d with staged := rest, wr := d.wr + b.length }) (s.chan c).descs ∧
      (d.dspace = 1 → t.nodes = s.nodes ∧ t.hostMem.rdBytes (d.daddr + off) b.length = b ∧
        ∀ x, x < d.daddr + off ∨ d.daddr + off + b.length ≤ x → t.hostMem.rd x = s.hostMem.rd x) ∧
      (d.dspace = 2 → t.hostMem = s.hostMem ∧ Tab.get [] (t.node 87).out 1 =
        Tab.get [] (s.node 87).out 1 ++ (Item.data d.id ((d.daddr + off) / 2 ^ 44) ((d.daddr + off) % 2 ^ 44) b).cut)) ∧
  (∀ (c off : Nat) (d : DDesc) (b : Bytes) (rest : List (Nat × Bytes)) (s : State), s.boot.refclk = true →
    s.domUp 86 = true → s.wakeFor State.writePlaces Chan.writing = s →
    s.pickChan (readyChans s.canWrite ++ if s.swapWrites then [64] else []) s.turnW = some c → c < 64 →
    (s.chan c).writing = some d → d.staged = (off, b) :: rest → d.dspace = 0 →
    Completes [.regs, .eng, .reconf, .cores, .tiles, .lpddr, .chans, .turnW] .dmaWriteBeat s fun t =>
      (let u := { s.preempt (readyChans s.canWrite ++ if s.swapWrites then [64] else []) c with
         turnW := s.turnAfter s.turnW c }
       t.turnW = s.turnAfter s.turnW c ∧ (∀ j, j ≠ c → t.chan j = s.chan j) ∧
       (t.chan c).descs = updFirst (fun d => !d.staged.isEmpty && d.failed.isNone)
         (if offRange (u.places (d.daddr + off) b.length) then failDesc .state
          else fun d => { d with staged := rest, wr := d.wr + b.length }) (s.chan c).descs ∧
       ∃ x : State, x.chan c = t.chan c ∧ x.lpddr = s.lpddr ∧ x.tiles = s.tiles ∧ t = x.writeSpace (d.daddr + off) b)) ∧
  (∀ (c : Nat) (d : DDesc) (rest : List DDesc) (s : State), s.boot.refclk = true → (s.chan c).descs = d :: rest →
    s.domUp 86 = true → s.descDone d = true →
    Completes [.regs, .eng, .nodes, .conns, .chans, .capOld, .sdio, .pcie, .doms, .live, .ids] (.dmaDescComplete c) s fun t =>
      t.chan c = { s.chan c with
        descs := rest, state := if (s.chan c).state = .stopping ∧ rest = [] then .stopped else (s.chan c).state } ∧
      (d.lineEn = false → t.rn (ch c 3) = (s.rn (ch c 3) + 1) % 2 ^ 32 ∧ t.rn (ch c 4) = 0 ∧
        t.rn (ch c 6) = min (s.rn (ch c 6) + 1) (2 ^ 64 - 1) ∧
        t.rn (ch c 7) = min (s.rn (ch c 7) + d.len) (2 ^ 64 - 1))) ∧
  (∀ (c : Nat) (d : DDesc) (rest : List DDesc) (s : State), s.boot.refclk = true → (s.chan c).descs = d :: rest →
    s.domUp 86 = true → d.faulty = true →
    Completes [.regs, .chans, .log] (.dmaDescFault c) s fun t =>
      (t.chan c).state = .stopped ∧ (t.chan c).descs = [] ∧ t.rn (ch c 4) = (d.failed.getD .fault).code ∧
      s.Posts t 7 (d.failed.getD .fault).code 0 (w64 ((s.chan c).handle c)) (w64 (s.rn (ch c 3))))

/-- Mailboxes (11 R382 to R391): MSG stages a message, LOCK is taken by a read and freed by its owner's write of its own
    number, SEND writes the staged message behind PROD with its header and the timebase or waits for units, a SEND
    that waits too long ends TIMEOUT and keeps its staging, DOORBELL counts and interrupts the receiver, CONS frees
    units, RESET empties the mailbox and counts what was unread, RECEIVER changes while the mailbox is idle, and a
    notice sets bits that a read returns and clears. Each of these commands completes, exec answering a next state:
    NOTICE, MB_NOTICE_READ, MB_SEND, MB_SEND_TIMEOUT, MB_DOORBELL, MB_LOCK_READ, MB_LOCK_WRITE, MB_MSG_WRITE,
    MB_CONS_WRITE, MB_RESET, MB_RECEIVER_WRITE. -/
def Obligations.Mailboxes : Prop :=
  (∀ (dev : Nat) (m : BitVec 24) (s : State), s.boot.refclk = true →
    Completes [.regs, .pcie] (.notice dev m) s fun t =>
      t.rd (rNotice 1 dev) = w64 (Nat.lor (s.rn (rNotice 1 dev)) m.toNat) ∧ ∀ k, k ≠ rNotice 1 dev → t.rd k = s.rd k) ∧
  (∀ (p : Path) (d : Nat) (s : State), s.serves p false 0x3120 (d + 1) = true →
    Completes [.regs, .paths] (.mbNoticeRead p d) s fun t =>
      t.answered p .ok false (leBytes 4 (s.rn (rNotice (sender p) d))) ∧ t.rn (rNotice (sender p) d) = 0 ∧
      ∀ k, k ≠ rNotice (sender p) d → t.rd k = s.rd k) ∧
  (∀ (p : Path) (i : Nat) (b : Bytes) (s : State), s.serves p false (0x3100 + i) 4 = true → s.rn (mb i 8) = sender p →
    (s.mbox i).staged = some b →
    1 + (b.length + 15) / 16 ≤ 1024 - s.rn (mb i 5) % 1024 → 1 + (b.length + 15) / 16 ≤ 1024 - s.mbUsed i →
    Completes [.regs, .paths, .mboxes, .sdio, .pcie, .doms] (.mbSend p i) s fun t =>
      (let n := 1 + (b.length + 15) / 16
       let a := 16 * (s.rn (mb i 5) % 1024)
       t.answered p .ok false [] ∧ t.rn (mb i 5) = (s.rn (mb i 5) + n) % 2 ^ 32 ∧ (t.mbox i).staged = none ∧
       (t.mbox i).seq = (s.mbox i).seq + 1 ∧
       (t.mbox i).ring.rdBytes a 16 =
         leBytes 8 (mbWord0 (s.mbox i).seq.toNat (sender p) 1 (lapPhase (s.rn (mb i 5)) 1024) n b.length).toNat ++
           leBytes 8 (s.rn rTB) ∧
       (t.mbox i).ring.rdBytes (a + 16) b.length = b ∧
       t.rn (mb i 9) = min (s.rn (mb i 9) + 1) (2 ^ 64 - 1) ∧
       t.rn (mb i 0x0B) = min (s.rn (mb i 0x0B) + 1) (2 ^ 64 - 1))) ∧
  (∀ (p : Path) (i : Nat) (b : Bytes) (s : State), s.serves p false (0x3100 + i) 4 = true → s.rn (mb i 8) = sender p →
    (s.mbox i).staged = some b →
    1 + (b.length + 15) / 16 ≤ 1024 - s.rn (mb i 5) % 1024 → 1024 - s.mbUsed i < 1 + (b.length + 15) / 16 →
    Completes [.paths, .mboxes] (.mbSend p i) s fun t =>
      t.waits p (.mbSend i) ∧ t.mbox i = { s.mbox i with waiting := some (sender p) }) ∧
  (∀ (p : Path) (i : Nat) (s : State), s.serves p false (0x3100 + i) 4 = true → s.rn (mb i 8) ≠ sender p →
    (s.mbox i).staged ≠ none → Completes [.paths] (.mbSend p i) s fun t => t.answered p .access false []) ∧
  (∀ (i n : Nat) (s : State), s.boot.refclk = true → (s.mbox i).waiting = some n →
    (s.pathN n).op = some (.waiting (.mbSend i)) →
    Completes [.paths, .mboxes] (.mbSendTimeout i) s fun t =>
      (t.pathN n).op = some (.answered .timeout false []) ∧ t.mbox i = { s.mbox i with waiting := none }) ∧
  (∀ (p : Path) (i : Nat) (s : State), s.serves p false (0x3100 + i) 4 = true →
    Completes [.regs, .paths, .sdio, .pcie, .doms] (.mbDoorbell p i) s fun t =>
      t.answered p .ok false [] ∧ t.rn (mb i 0x0B) = min (s.rn (mb i 0x0B) + 1) (2 ^ 64 - 1) ∧
      (s.rn (mb i 1) = 2 → t.sdio = { s.sdio with intPend := s.sdio.intPend ||| 2 } ∧ t.pcie = s.pcie)) ∧
  (∀ (p : Path) (i : Nat) (s : State), s.serves p false (0x3100 + i) 2 = true → sender p ∈ senders →
    Completes [.regs, .paths] (.mbLockRead p i) s fun t =>
      t.answered p .ok false [BitVec.ofNat 8 (s.rn (mb i 8))] ∧
      t.rn (mb i 8) = (if s.rn (mb i 8) = 0 then sender p else s.rn (mb i 8)) ∧ ∀ k, k ≠ mb i 8 → t.rd k = s.rd k) ∧
  (∀ (p : Path) (i : Nat) (v : Byte) (s : State), s.serves p false (0x3100 + i) 2 = true →
    Completes [.regs, .paths] (.mbLockWrite p i v) s fun t =>
      t.answered p .ok false [] ∧
      (s.rn (mb i 8) = sender p ∧ v.toNat = sender p → t.rn (mb i 8) = 0 ∧ t.rn (mb i 0x0D) = s.rn (mb i 0x0D)) ∧
      (¬(s.rn (mb i 8) = sender p ∧ v.toNat = sender p) → t.rn (mb i 8) = s.rn (mb i 8) ∧
        t.rn (mb i 0x0D) = min (s.rn (mb i 0x0D) + 1) (2 ^ 32 - 1))) ∧
  (∀ (p : Path) (i : Nat) (d : Bytes) (s : State), s.serves p false (0x3100 + i) 3 = true → s.rn (mb i 8) = sender p →
    d.length ≠ 0 → d.length ≤ 4080 →
    Completes [.paths, .mboxes] (.mbMsgWrite p i d) s fun t =>
      t.answered p .ok false [] ∧ t.mbox i = { s.mbox i with staged := some d } ∧ ∀ j, j ≠ i → t.mbox j = s.mbox j) ∧
  (∀ (p : Path) (i : Nat) (v : W32) (s : State), s.serves p false (0x3100 + i) 6 = true → s.rn (mb i 1) = sender p →
    (v.toNat + 2 ^ 32 - s.rn (mb i 6)) % 2 ^ 32 ≤ s.mbUsed i → (s.mbox i).waiting = none →
    Completes [.regs, .paths, .mboxes] (.mbConsWrite p i v) s fun t =>
      t.answered p .ok false [] ∧ t.rn (mb i 6) = v.toNat ∧ (∀ k, k ≠ mb i 6 → t.rd k = s.rd k) ∧
      (t.mbox i).ring = (s.mbox i).ring ∧ (t.mbox i).staged = (s.mbox i).staged) ∧
  (∀ (p : Path) (i : Nat) (s : State), s.serves p false (0x3100 + i) 4 = true → i < 24 → s.rn (mb i 1) = sender p →
    (s.mbox i).waiting = none →
    Completes [.regs, .nodes, .paths, .mboxes, .sdio, .pcie] (.mbReset p i) s fun t =>
      t.answered p .ok false [] ∧ t.mbox i = { staged := none, ring := [], seq := 0, waiting := none, msgs := [] } ∧
      t.rn (mb i 5) = 0 ∧ t.rn (mb i 6) = 0 ∧ t.rn (mb i 8) = 0 ∧
      t.rn (mb i 0x0C) = min (s.rn (mb i 0x0C) + (s.mbUnread i).length) (2 ^ 64 - 1)) ∧
  (∀ (p : Path) (i : Nat) (v : Byte) (s : State), s.serves p false (0x3100 + i) 1 = true → s.mbUsed i = 0 →
    s.rn (mb i 8) = 0 → (s.mbox i).waiting = none → 1 ≤ v.toNat → v.toNat ≤ 3 →
    Completes [.regs, .paths] (.mbReceiverWrite p i v) s fun t =>
      t.answered p .ok false [] ∧ t.rn (mb i 1) = v.toNat ∧ ∀ k, k ≠ mb i 1 → t.rd k = s.rd k)

/-- Parking and swaps (09 R291, R310 to R316, R319): the parking writer stores a diverted flit or drops it, and stores a
    descriptor in the image; replay takes the oldest entry and starts its event; SWAP.CMD starts a swap when nothing
    refuses it; the swap freezes the tile, copies it out and leaves its cores UNCONFIGURED, copies a tile in and makes it
    RESIDENT, and ends; a swap that meets an uncorrectable word ends in FAULT with a record; a patrol pass counts. Each of
    these commands completes: exec answers a next state. -/
def Obligations.ParkingAndSwaps : Prop :=
  (∀ (id v : Nat) (f : W64) (w : W32) (rest : List Item) (s : State), s.boot.refclk = true → s.domUp 86 = true →
    takeFirst (fun i => match i with | Item.park _ _ _ _ => true | _ => false) s.parkq = some (.park id v f w, rest) →
    Completes [.regs, .eng, .reconf, .cores, .tiles, .lpddr, .parkq, .doms, .live] .parkWrite s fun t =>
      (s.rn (vtReg v 4) ≠ 0 ∧ holds (s.places (s.parkAddr v (s.parkHead v + s.rn (vtReg v 5))) 16) = false ∧
        s.rn (vtReg v 5) < 2 ^ s.rn (vtReg v 4) ∧ s.rn (vtReg v 4) ≤ 24 ∧ s.tileKind v ≠ 0 → t.parkq = rest ∧
        t.rn (vtReg v 5) = s.rn (vtReg v 5) + 1 ∧ t.rn (vtReg v 6) = max (s.rn (vtReg v 6)) (s.rn (vtReg v 5) + 1) ∧
        t.rn (vtReg v 7) = min (s.rn (vtReg v 7) + 1) (2 ^ 64 - 1)) ∧
      (s.rn (vtReg v 4) = 0 → t.parkq = rest ∧ t.rn (vtReg v 8) = min (s.rn (vtReg v 8) + 1) (2 ^ 64 - 1) ∧
        (∀ k, k ≠ vtReg v 8 → t.rd k = s.rd k) ∧ t.lpddr = s.lpddr)) ∧
  (∀ (v sl q i : Nat) (d : DescMsg) (rest : List Item) (s : State), s.boot.refclk = true → s.domUp 86 = true →
    takeFirst (fun i => match i with | Item.parkDesc _ _ _ _ => true | _ => false) s.parkq =
      some (.parkDesc v sl q d, rest) → s.tileKind v = 2 → s.swapFrom v = none → s.copying v = false →
    s.connOf d.dst.toNat = some i → (s.conn i).state ≠ .closing → (s.conn i).acceptsFrom s.dev d.dev = true →
    s.imageSlot v ≠ 0xFFFF → (s.savedQueue v sl q).held < 32 →
    holds (s.places (s.imageAddr v sl 0x1E000) 256 ++
      s.places (s.imageAddr v sl (aQslot q ((s.savedQueue v sl q).head + (s.savedQueue v sl q).held))) 32) = false →
    Completes [.regs, .eng, .reconf, .cores, .tiles, .lpddr, .conns, .live, .parkq] .descPark s fun t =>
      t.parkq = rest ∧ (t.conn i).qhwm = max (s.conn i).qhwm ((s.savedQueue v sl q).held + 1) ∧
      t.rn (vtReg v 0x0C) = min (s.rn (vtReg v 0x0C) + 1) (2 ^ 64 - 1)) ∧
  (∀ (v : Nat) (ecc : Ecc) (s : State), s.domUp 86 = true → s.rn (vtReg v 0x0B) ≠ 0 → s.rn (vtReg v 5) ≠ 0 →
    holds (s.places (s.parkAddr v (s.parkHead v)) 16) = false → s.boot.refclk = true →
    (s.readEcc (s.parkAddr v (s.parkHead v)) 16 ecc).1.2 = false →
    Completes [.regs, .nodes, .parks, .log] (.replay v ecc) s fun t =>
      (let e := (s.readEcc (s.parkAddr v (s.parkHead v)) 16 ecc).1
       t.rn (vtReg v 5) = s.rn (vtReg v 5) - 1 ∧ t.rn (vtReg v 0x0B) = s.rn (vtReg v 0x0B) - 1 ∧
       t.rn (vtReg v 9) = min (s.rn (vtReg v 9) + 1) (2 ^ 64 - 1) ∧
       let d := (leNat (e.1.drop 12) + 2 ^ 32 - s.eng.count.toNat % 2 ^ 32) % 2 ^ 32
       Tab.get [] (t.node 87).out 0 = Tab.get [] (s.node 87).out 0 ++ [.event 0 0 (putFld (w64 (leNat (e.1.take 8))) 61 60
         ((if 1 ≤ d ∧ d ≤ 3 then leNat (e.1.drop 12) else s.eng.count.toNat) % 4))])) ∧
  (∀ (p : Path) (s : State), s.serves p false 0x3502 1 = true →
    (s.outConds (s.rn (swapReg p 2))).all (fun c => !c.1) = true → s.slotBad (s.rn (swapReg p 2)) = false →
    Completes [.regs, .nodes, .swap, .paths, .doms] (.swapOut p) s fun t =>
      (let v := s.rn (swapReg p 2)
       t.answered p .ok false [] ∧
       t.swap = some {
         stage := .drain, vt := v, pt := s.tilePt v, next := none, wait := List.range 77, got := [],
         frozen := false, beatR := 0, beatW := 0 } ∧
       t.tileKind v = 2)) ∧
  (∀ (p : Path) (s : State), s.serves p false 0x3502 1 = true →
    (s.inConds (s.rn (swapReg p 2)) (s.rn (swapReg p 4)) false).all (fun c => !c.1) = true →
    Completes [.regs, .swap, .paths, .doms] (.swapIn p) s fun t =>
      t.answered p .ok false [] ∧
      t.swap = some {
        stage := .copyIn, vt := s.rn (swapReg p 2), pt := s.rn (swapReg p 4), next := none, wait := [],
        got := [], frozen := false, beatR := 0, beatW := 0 }) ∧
  (∀ (p : Path) (s : State), s.serves p false 0x3502 1 = true →
    (s.outConds (s.rn (swapReg p 2))).all (fun c => !c.1) = true → s.slotBad (s.rn (swapReg p 2)) = false →
    (s.inConds (s.rn (swapReg p 3)) (s.tilePt (s.rn (swapReg p 2))) true).all (fun c => !c.1) = true →
    Completes [.regs, .nodes, .swap, .paths, .doms] (.swapExchange p) s fun t =>
      (let v := s.rn (swapReg p 2)
       t.answered p .ok false [] ∧
       t.swap = some {
         stage := .drain, vt := v, pt := s.tilePt v, next := some (s.rn (swapReg p 3)), wait := List.range 77,
         got := [], frozen := false, beatR := 0, beatW := 0 } ∧
       t.tileKind v = 2)) ∧
  (∀ (w : Swap) (s : State), s.boot.refclk = true → s.swap = some w → w.stage = .freeze → w.frozen = false →
    s.domUp 86 = true → s.tileDone w.pt = true →
    Completes [.eng, .swap] .swapFreeze s fun t => t.swap = some { w with frozen := true }) ∧
  (∀ (w : Swap) (s : State), s.boot.refclk = true → s.swap = some w → w.stage = .freeze → w.frozen = true →
    s.domUp 86 = true → s.tileQuiet w.pt = true → s.descsOn w.vt = false →
    Completes [.swap] .swapCopyOut s fun t => t.swap = some { w with stage := .copyOut }) ∧
  (∀ (ue : Option Nat) (ticks : Nat) (w : Swap) (s u : State), s.boot.refclk = true → s.swap = some w →
    w.stage = .copyOut → s.domUp 86 = true → s.copyHeld w = [] → s.pcie.held = [] → s.pcie.heldRd = [] →
    u = (match ue.bind fun a => (s.coreOf w.pt (a / 0x20000)).map fun k => (k, a % 0x20000) with
      | some (k, off) => s.coreUe k off 0
      | none => s) →
    Completes [.regs, .boot, .eng, .reconf, .cores, .tiles, .nodes, .conns, .lpddr, .swap, .capOld, .paths, .sdio, .pcie,
      .log, .doms, .flights, .live, .ids, .free] (.swapCopyOutDone ue ticks) s fun t =>
      (u.tileUe w.pt = false → t.swap = w.next.map fun x =>
        {
          stage := .copyIn, vt := x, pt := w.pt, next := none, wait := [], got := [], frozen := false, beatR := 0,
          beatW := 0 }) ∧
      (u.tileUe w.pt = true → t.swap = none) ∧
      (31 < u.rn (rk 0 0x3502 7) →
        (∀ k, k / 136 = w.pt → (t.core k).state = .unconfigured) ∧
        (u.tileUe w.pt = false ∧ w.next = none → t.rn (rk 0 0x3502 6) = Status.ok.code ∧
          t.rn (rk 0 0x3502 9) = min (u.rn (rk 0 0x3502 9) + 1) (2 ^ 64 - 1) ∧ t.rn (rk 0 0x3502 0x0A) = min ticks (2 ^ 32 - 1)) ∧
        (u.tileUe w.pt = true → t.rn (rk 0 0x3502 6) = Status.fault.code ∧
          u.Posts t 4 Status.fault.code 0 (w64 (u.imageSlot w.vt * 2 ^ 24)) (w64 (2 * 2 ^ 60))))) ∧
  (∀ (ticks : Nat) (w : Swap) (s : State), s.boot.refclk = true → s.swap = some w → w.stage = .copyIn →
    s.domUp 86 = true → s.copyHeld w = [] → s.pcie.held = [] → s.pcie.heldRd = [] →
    (List.range 128).all (s.countCopy.readable.savedOk w.vt) = true → w.pt < 70 →
    Completes [.regs, .eng, .reconf, .cores, .tiles, .nodes, .conns, .lpddr, .swap, .capOld, .paths, .sdio, .pcie, .log,
      .doms, .live, .ids] (.swapCopyInDone none ticks) s fun t =>
      t.swap = some { w with stage := .map, wait := List.range 77, got := [] } ∧ t.tileKind w.vt = 1 ∧ t.tilePt w.vt = w.pt) ∧
  (∀ (ticks : Nat) (w : Swap) (s : State), s.boot.refclk = true → s.swap = some w → w.stage = .map → w.wait = [] →
    s.domUp 86 = true → (s.parkq.any fun i => match i with
      | .park _ u _ _ | .parkDesc u _ _ _ => decide (u = w.vt)
      | _ => false) = false →
    Completes [.regs, .eng, .swap, .nodes, .conns, .capOld, .sdio, .pcie, .doms, .live, .ids] (.swapMapDone ticks) s fun t =>
      t.swap = none ∧ (31 < s.rn (rk 0 0x3502 7) → t.rn (vtReg w.vt 0x0B) = s.rn (vtReg w.vt 5) ∧
        t.rn (rk 0 0x3502 6) = Status.ok.code ∧ t.rn (rk 0 0x3502 9) = min (s.rn (rk 0 0x3502 9) + 1) (2 ^ 64 - 1) ∧
        t.rn (rk 0 0x3502 0x0A) = min ticks (2 ^ 32 - 1))) ∧
  (∀ (ce : Nat) (s : State), s.boot.refclk = true → s.rn (rk 0 0x3500 4) = 1 → s.usable ≠ 0 →
    Completes [.regs, .log] (.memPatrolPass [] ce) s fun t =>
      t.rn (rk 0 0x3500 5) = min (s.rn (rk 0 0x3500 5) + ce) (2 ^ 64 - 1) ∧
      t.rn (rk 0 0x3500 9) = min (s.rn (rk 0 0x3500 9) + 1) (2 ^ 64 - 1) ∧
      (∀ k, k ≠ rk 0 0x3500 5 → k ≠ rk 0 0x3500 9 → t.rd k = s.rd k) ∧ t.log = s.log)

/-- The egress and ingress of the stream ports: a PAUSE frame is counted and holds the transmitter while PAUSE_EN is 1
    (PAUSE_FRAME_RECEIVE), until its time runs out (PAUSE_EXPIRE); an accepted frame of samples is counted, sets LAST_TS and
    the expected SEQ, and joins the ingress buffer (FRAME_RECEIVE); a bad FCS is counted and drops the frame; a converter
    takes one sample, by LEVEL, DELTA or THRESH, and sends its event (SAMPLE_CONVERT); a record that arrives in time joins
    the frame that its context builds (EGRESS_RECORD), which closes after HOLDOFF (EGRESS_HOLDOFF_EXPIRE) and is
    transmitted (EGRESS_FRAME_TRANSMIT). Each of these commands completes: exec answers a next state. -/
def Obligations.StreamTraffic : Prop :=
  (∀ (p : Nat) (q : BitVec 16) (s : State), s.boot.refclk = true → s.spUp p = true → s.rn (sp p 7) = 1 →
    Completes [.regs, .sports] (.pauseFrameReceive p q) s fun t =>
      t.rn (sp p 0x18) = min (s.rn (sp p 0x18) + 1) (2 ^ 64 - 1) ∧ (∀ k, k ≠ sp p 0x18 → t.rd k = s.rd k) ∧
      t.sport p = { s.sport p with hold := decide (q.toNat ≠ 0) }) ∧
  (∀ (p : Nat) (s : State), s.boot.refclk = true →
    Completes [.sports] (.pauseExpire p) s fun t => t.sport p = { s.sport p with hold := false }) ∧
  (∀ (p : Nat) (f : Bytes) (s : State), s.boot.refclk = true → s.spUp p = true →
    Completes [.regs] (.frameReceive p f false) s fun t =>
      t.rn (sp p 0x12) = min (s.rn (sp p 0x12) + 1) (2 ^ 64 - 1) ∧ ∀ k, k ≠ sp p 0x12 → t.rd k = s.rd k) ∧
  (∀ (p w : Nat) (f : Bytes) (s : State), p < 2 → s.boot.refclk = true → s.spUp p = true →
    (let tag := decide (beNat ((f.drop 12).take 2) = 0x8100)
     let pay := (f.drop (if tag then 18 else 14)).take (f.length - (if tag then 18 else 14) - 4)
     let n := beNat (pay.take 16)
     let x := n / 2 ^ 112 % 128
     let nch := n / 2 ^ 80 % 256
     let nset := n / 2 ^ 64 % 65536
     let l := samplesOf w (nset * nch) (pay.drop 16)
     beNat (f.take 6) = s.rn (sp p 3) → beNat ((f.drop (if tag then 16 else 12)).take 2) = 0x88B5 →
     64 ≤ f.length → f.length ≤ s.rn (sp p 6) → (s.sport p).bytes + f.length ≤ 0x40000 →
     s.rn (scx x 8) = 1 → s.sctxOut x = false → s.sctxPort x = p → stypeBytes (n / 2 ^ 92 % 16) = some w →
     16 ≤ (pay.take 16).length → n / 2 ^ 124 = 0 → n / 2 ^ 120 % 16 = 0 → nch = fld (s.sctxCfg x) 41 34 →
     nset * nch * w ≤ (pay.drop 16).length → s.stopped = false → l ≠ [] →
     Completes [.regs, .sports, .sctxs] (.frameReceive p f true) s fun t =>
       (t.sport p).frames = (s.sport p).frames ++ [{ ctx := x, bytes := f.length, samples := l, chan := 0 }] ∧
       (t.sctx x).expect = some (BitVec.ofNat 16 (n / 2 ^ 96) + 1) ∧ t.rn (scx x 9) = n % 2 ^ 64 ∧
       t.rn (sp p 0x10) = min (s.rn (sp p 0x10) + 1) (2 ^ 64 - 1))) ∧
  (∀ (p x : Nat) (f : InFrame) (v w : Int) (rest : List Int) (s : State), p < 2 → x < 128 → f.ctx = x →
    s.boot.refclk = true → s.domUp 87 = true → s.stopped = false → s.frameOf p x = some f → f.samples = v :: w :: rest →
    (s.converting p).contains x = true → s.convCredit p = true →
    (let cfg := s.sctxCfg x
     let i := fld cfg 33 21 + f.chan
     let r := convert cfg (s.schAt i) (s.rn (scx x 3)) (s.rn (scx x 4)) v
     let chan := if f.chan + 1 = fld cfg 41 34 then 0 else f.chan + 1
     r.out = false →
     Completes [.regs, .nodes, .sports, .sch] (.sampleConvert p x) s fun t =>
       t.schAt i = r.entry ∧ t.rn (scx x 0x11) = min (s.rn (scx x 0x11) + 1) (2 ^ 64 - 1) ∧
       t.frameOf p x = some { f with samples := w :: rest, chan := chan } ∧
       (r.ev = none → t.nodes = s.nodes) ∧
       (∀ e, r.ev = some e →
         t.rn (scx x 0x12) = min (s.rn (scx x 0x12) + 1) (2 ^ 64 - 1) ∧
         Tab.get [] (t.node (spNode p)).out 0 = Tab.get [] (s.node (spNode p)).out 0 ++ [.event 0 0 (s.convFlit x f.chan e)]))) ∧
  (∀ (p x i : Nat) (r : Record) (rest : List Record) (s : State), p < 2 → x < 128 → s.boot.refclk = true →
    (s.sport p).recs = r :: rest → s.connOf r.handle.toNat = some i → (s.conn i).stream = x → s.spUp p = true →
    s.streamHeld p = false → s.sctxOut x = true → s.rn (scx x 8) ≠ 0 → s.sctxPort x = p → s.lateRec r.step = false →
    (s.sctx x).build.length + 1 < s.rn (scx x 5) → s.rn (scx x 6) ≠ 0 →
    Completes [.sports, .sctxs] (.egressRecord p) s fun t =>
      t.sport p = { s.sport p with recs := rest } ∧
      t.sctx x = { s.sctx x with build := (s.sctx x).build ++ [(r, false)] }) ∧
  (∀ (x : Nat) (s : State), s.boot.refclk = true → s.domUp 87 = true → (s.sctx x).build ≠ [] →
    Completes [.sports, .sctxs] (.egressHoldoffExpire x) s fun t =>
      (let rs := (s.sctx x).build
       let p := s.sctxPort x
       t.sctx x = { s.sctx x with build := [], seq := (s.sctx x).seq + 1 } ∧
       t.sport p = { s.sport p with staged := (s.sport p).staged ++ [(x, rs.map Prod.fst, s.egressFrame x rs)] })) ∧
  (∀ (p x : Nat) (rs : List Record) (f : Bytes) (rest : List (Nat × List Record × Bytes)) (s : State), p < 2 → x < 128 →
    s.boot.refclk = true → s.spUp p = true → s.txHeld p = false → (s.sport p).staged = (x, rs, f) :: rest →
    Completes [.regs, .nodes, .sports, .paths, .live] (.egressFrameTransmit p) s fun t =>
      t.sport p = { s.sport p with staged := rest, sent := (s.sport p).sent ++ [f] } ∧
      t.rn (scx x 0x17) = min (s.rn (scx x 0x17) + rs.length) (2 ^ 64 - 1) ∧
      t.rn (sp p 0x11) = min (s.rn (sp p 0x11) + 1) (2 ^ 64 - 1))

/-- The commands of stream contexts and links: SCTX_ENABLE takes a legal configuration and starts its context anew;
    SCTX_DISABLE ends a context at once, with the frames it still has dropped, or waits for the frame in conversion;
    SCH_ENTRY_WRITE sets a channel entry that no running context owns; SP_UP starts the link, SP_DOWN takes it down and
    drops what waits for it, and SP_LINK_CHANGE brings it UP after its training or takes it down. Each of these commands
    completes: exec answers a next state. -/
def Obligations.StreamCommands : Prop :=
  (∀ (p : Path) (x : Nat) (s : State), s.serves p false (0x4080 + x) 7 = true → s.rn (scx x 8) = 0 →
    s.spUp (s.sctxPort x) = true → s.sctxRange x = false → s.sctxRsvd x = false → fld (s.sctxCfg x) 63 62 = 0 →
    Completes [.regs, .sctxs, .paths] (.sctxEnable p x) s fun t =>
      t.answered p .ok false [] ∧ t.rn (scx x 8) = 1 ∧ (∀ k, k ≠ scx x 8 → t.rd k = s.rd k) ∧
      t.sctx x = { expect := none, seq := 0, build := [] }) ∧
  (∀ (p : Path) (x : Nat) (s : State), s.serves p false (0x4080 + x) 7 = true → s.rn (scx x 8) = 0 →
    Completes [.paths] (.sctxDisable p x) s fun t => t.answered p .ok false []) ∧
  (∀ (p : Path) (x : Nat) (s : State), s.serves p false (0x4080 + x) 7 = true → s.rn (scx x 8) = 1 →
    s.sctxOut x = false → (s.converting (s.sctxPort x)).contains x = false →
    Completes [.regs, .sports, .paths] (.sctxDisable p x) s fun t =>
      t.answered p .ok false [] ∧ t.rn (scx x 8) = 0 ∧
      (t.sport (s.sctxPort x)).frames = keepFrames x 0 (s.sport (s.sctxPort x)).frames) ∧
  (∀ (p : Path) (x : Nat) (s : State), s.serves p false (0x4080 + x) 7 = true → s.rn (scx x 8) = 1 →
    s.sctxOut x = false → (s.converting (s.sctxPort x)).contains x = true →
    Completes [.regs, .sports, .paths] (.sctxDisable p x) s fun t =>
      t.waits p (.sctx x) ∧ t.rn (scx x 8) = 2 ∧
      (t.sport (s.sctxPort x)).frames = keepFrames x 1 (s.sport (s.sctxPort x)).frames) ∧
  (∀ (p : Path) (x : Nat) (s : State), s.serves p false (0x4080 + x) 7 = true → s.rn (scx x 8) ≠ 0 →
    s.sctxOut x = true → (s.anyConn fun c => decide (c.dkind = 3) && decide (c.stream = x)) = true →
    Completes [.paths] (.sctxDisable p x) s fun t => t.answered p .busy false []) ∧
  (∀ (p : Path) (v : W64) (s : State), s.serves p false 0x4010 2 = true → s.schOwned (s.rn (rSchSel p)) = false →
    fld v 29 0 = 0 →
    Completes [.sch, .paths] (.schEntryWrite p v) s fun t =>
      t.answered p .ok false [] ∧ t.schAt (s.rn (rSchSel p)) = v ∧
      ∀ i, i ≠ s.rn (rSchSel p) → t.schAt i = s.schAt i) ∧
  (∀ (p : Path) (l : Nat) (s : State), s.serves p false (0x4000 + l) 1 = true → s.rn (sp l 2) = 0 →
    Completes [.regs, .paths] (.spUp p l) s fun t =>
      t.answered p .ok false [] ∧ t.rn (sp l 2) = 1 ∧ ∀ k, k ≠ sp l 2 → t.rd k = s.rd k) ∧
  (∀ (p : Path) (l : Nat) (s : State), l < 2 → s.serves p false (0x4000 + l) 1 = true →
    Completes [.regs, .nodes, .sports, .sctxs, .paths, .live] (.spDown p l) s fun t =>
      t.rn (sp l 2) = 0 ∧ (t.sport l).staged = [] ∧ (t.sport l).hold = false ∧ (t.sport l).frames = (s.sport l).frames) ∧
  (∀ (l : Nat) (s : State), s.boot.refclk = true → s.domUp 87 = true → s.rn (sp l 2) = 1 →
    Completes [.regs] (.spLinkChange l true) s fun t =>
      t.rn (sp l 2) = 2 ∧ ∀ k, k ≠ sp l 2 → t.rd k = s.rd k) ∧
  (∀ (l : Nat) (s : State), l < 2 → s.boot.refclk = true → s.rn (sp l 2) ≠ 0 →
    Completes [.regs, .nodes, .sports, .sctxs, .paths, .live] (.spLinkChange l false) s fun t =>
      t.rn (sp l 2) = 0 ∧ (t.sport l).staged = [] ∧ (t.sport l).hold = false ∧ (t.sport l).frames = (s.sport l).frames)

/-- Timers: TIMER_WRAP starts the count again from 0 and counts a short RELOAD; TIMER_MATCH sets the flag of its compare and
    the level of the triggers that it sets; writes of COUNT, CMP, EN and FLAGS (TMR_COUNT_WRITE, TMR_CMP_WRITE,
    TMR_EN_WRITE, TMR_FLAGS_WRITE) set them, a compare or an enable beginning anew, and a flag set in the tick of the write
    stays; TRG_FORCE_WRITE sets a trigger's level and TRG_PULSE_END ends its pulse. Each of these commands completes: exec
    answers a next state. -/
def Obligations.Timers : Prop :=
  (∀ (n : Nat) (s : State), n < 32 → s.boot.refclk = true → s.rn (tmr n 1) ≠ 0 → s.rn (tmr n 2) = 0 →
    s.rn (tmr n 4) ≤ s.rn (tmr n 3) →
    Completes [.regs, .eng, .was, .hits, .pcie] (.timerWrap n) s fun t =>
      t.rn (tmr n 3) = 0 ∧
      t.rn (tmr n 0x0A) = (if s.rn (tmr n 4) < s.rn (tmr n 3) then min (s.rn (tmr n 0x0A) + 1) (2 ^ 32 - 1)
        else s.rn (tmr n 0x0A)) ∧
      (s.rn (tmr n 4) < s.rn (tmr n 3) → (t.rn (tmr n 9)).testBit 0 = true)) ∧
  (∀ (n k : Nat) (s : State), n < 32 → k < 2 → s.boot.refclk = true → s.rn (tmr n 1) ≠ 0 →
    Tab.get false s.was (2 * n + k) = false →
    (s.rn (tmr n 3) + 2 ^ 32 - s.rn (tmr n (5 + k))) % 2 ^ 32 < 2 ^ 31 →
    Completes [.regs, .eng, .was, .hits, .pcie] (.timerMatch n k) s fun t =>
      (t.rn (tmr n 9)).testBit (k + 1) = true ∧ Tab.get false t.was (2 * n + k) = true ∧
      (∀ j, t.rd (tmr j 3) = s.rd (tmr j 3)) ∧
      (∀ m, m < 8 → s.rn (trg m 1) = 2 * n + k → s.rn (trg m 2) ≠ 2 * n + k → t.rn (trg m 5) = 1) ∧
      (∀ m, m < 8 → s.rn (trg m 2) = 2 * n + k → t.rn (trg m 5) = 0)) ∧
  (∀ (p : Path) (n : Nat) (v : W32) (s : State), s.serves p false (0x3C10 + n) 3 = true →
    Completes [.regs, .paths] (.tmrCountWrite p n v) s fun t =>
      t.answered p .ok false [] ∧ t.rn (tmr n 3) = v.toNat ∧ ∀ k, k ≠ tmr n 3 → t.rd k = s.rd k) ∧
  (∀ (p : Path) (n k : Nat) (v : W32) (s : State), s.serves p false (0x3C10 + n) (5 + k) = true →
    Completes [.regs, .was, .paths] (.tmrCmpWrite p n k v) s fun t =>
      t.answered p .ok false [] ∧ t.rn (tmr n (5 + k)) = v.toNat ∧ (∀ j, j ≠ tmr n (5 + k) → t.rd j = s.rd j) ∧
      Tab.get false t.was (2 * n + k) = false ∧ ∀ j, j ≠ 2 * n + k → Tab.get false t.was j = Tab.get false s.was j) ∧
  (∀ (p : Path) (n : Nat) (v : Byte) (s : State), s.serves p false (0x3C10 + n) 1 = true → v.toNat ≤ 1 →
    Completes [.regs, .was, .paths] (.tmrEnWrite p n v) s fun t =>
      t.answered p .ok false [] ∧ t.rn (tmr n 1) = v.toNat ∧ (∀ j, j ≠ tmr n 1 → t.rd j = s.rd j) ∧
      (v.toNat = 1 → Tab.get false t.was (2 * n) = false ∧ Tab.get false t.was (2 * n + 1) = false) ∧
      (v.toNat = 0 → t.was = s.was)) ∧
  (∀ (p : Path) (n : Nat) (v : Byte) (s : State), s.serves p false (0x3C10 + n) 9 = true → v.toNat ≤ 7 →
    Completes [.regs, .paths] (.tmrFlagsWrite p n v) s fun t =>
      t.answered p .ok false [] ∧ (∀ j, j ≠ tmr n 9 → t.rd j = s.rd j) ∧
      t.rn (tmr n 9) = (Nat.lor (Nat.land (s.rn (tmr n 9)) v.toNat) (Nat.land (s.rn (tmr n 9)) (s.freshFlags n))) % 2 ^ 64) ∧
  (∀ (p : Path) (m : Nat) (v : Byte) (s : State), s.serves p false (0x3C50 + m) 4 = true → v.toNat ≤ 1 →
    Completes [.regs, .paths] (.trgForceWrite p m v) s fun t =>
      t.answered p .ok false [] ∧ t.rn (trg m 5) = v.toNat ∧ ∀ j, j ≠ trg m 5 → t.rd j = s.rd j) ∧
  (∀ (m : Nat) (s : State), s.boot.refclk = true → s.rn (trg m 0x20) ≠ 0 →
    Completes [.regs] (.trgPulseEnd m) s fun t =>
      t.rn (trg m 0x20) = 0 ∧ t.rn (trg m 5) = 0 ∧ ∀ j, j ≠ trg m 0x20 → j ≠ trg m 5 → t.rd j = s.rd j)

/-- Capture inputs: CAPTURE_FILTER_ACCEPT takes the new level, and a selected edge that passes the prescaler captures the
    count of every timer that names the input, one that does not is counted by it; CAPTURE_GLITCH is counted;
    CAPIN_CONFIG_WRITE sets EDGE or PRESCALE and starts the prescaler at zero; TMR_CAPT_READ returns the capture and
    clears its NEW and OVR, or, in the tick of a capture, returns what stood before it. Each of these commands completes:
    exec answers a next state. -/
def Obligations.Captures : Prop :=
  (∀ (k : Nat) (level : Bool) (s : State), k < 16 → s.boot.refclk = true → decide (s.rn (capin k 5) = 1) ≠ level →
    (s.rn (capin k 1) = 3 ∨ (s.rn (capin k 1) = 1 ∧ level = true) ∨ (s.rn (capin k 1) = 2 ∧ level = false)) →
    s.rn (capin k 4) ≤ Tab.get 0 s.capPre k + 1 →
    Completes [.regs, .eng, .capOld, .capPre] (.captureFilterAccept k level) s fun t =>
      t.rn (capin k 5) = (if level then 1 else 0) ∧ t.rn (capin k 6) = min (s.rn (capin k 6) + 1) (2 ^ 64 - 1) ∧
      Tab.get 0 t.capPre k = 0 ∧
      ∀ n, n < 32 → s.rn (tmr n 0x0B) = 0x10 + k → (Tab.get (0, 0) s.capOld n).1 ≠ s.now + 1 →
        s.rn (tmr n 3) < 2 ^ 32 →
        t.rn (tmr n 0x0C) = 2 ^ 34 + (if bit (s.rd (tmr n 0x0C)) 32 then 2 ^ 33 else 0) + 2 ^ 32 + s.rn (tmr n 3) ∧
        t.rn (tmr n 0x0D) = min (s.rn (tmr n 0x0D) + 1) (2 ^ 64 - 1) ∧
        t.rn (tmr n 0x0E) = (if bit (s.rd (tmr n 0x0C)) 32 then min (s.rn (tmr n 0x0E) + 1) (2 ^ 32 - 1)
          else s.rn (tmr n 0x0E))) ∧
  (∀ (k : Nat) (level : Bool) (s : State), s.boot.refclk = true → decide (s.rn (capin k 5) = 1) ≠ level →
    (s.rn (capin k 1) = 3 ∨ (s.rn (capin k 1) = 1 ∧ level = true) ∨ (s.rn (capin k 1) = 2 ∧ level = false)) →
    Tab.get 0 s.capPre k + 1 < s.rn (capin k 4) →
    Completes [.regs, .capPre] (.captureFilterAccept k level) s fun t =>
      t.rn (capin k 5) = (if level then 1 else 0) ∧ t.rn (capin k 6) = min (s.rn (capin k 6) + 1) (2 ^ 64 - 1) ∧
      Tab.get 0 t.capPre k = Tab.get 0 s.capPre k + 1) ∧
  (∀ (k : Nat) (level : Bool) (s : State), s.boot.refclk = true → decide (s.rn (capin k 5) = 1) ≠ level →
    ¬(s.rn (capin k 1) = 3 ∨ (s.rn (capin k 1) = 1 ∧ level = true) ∨ (s.rn (capin k 1) = 2 ∧ level = false)) →
    Completes [.regs] (.captureFilterAccept k level) s fun t =>
      t.rn (capin k 5) = (if level then 1 else 0) ∧ ∀ j, j ≠ capin k 5 → t.rd j = s.rd j) ∧
  (∀ (k : Nat) (s : State), s.boot.refclk = true →
    Completes [.regs] (.captureGlitch k) s fun t =>
      t.rn (capin k 7) = min (s.rn (capin k 7) + 1) (2 ^ 64 - 1) ∧ ∀ j, j ≠ capin k 7 → t.rd j = s.rd j) ∧
  (∀ (p : Path) (k : Nat) (v : BitVec 16) (s : State), s.serves p false (0x3C40 + k) 4 = true → v.toNat ≠ 0 →
    v.toNat ≤ 256 →
    Completes [.regs, .capPre, .paths] (.capinConfigWrite p k .prescale v) s fun t =>
      t.answered p .ok false [] ∧ t.rn (capin k 4) = v.toNat ∧ Tab.get 0 t.capPre k = 0 ∧
      ∀ j, j ≠ capin k 4 → t.rd j = s.rd j) ∧
  (∀ (p : Path) (k : Nat) (v : BitVec 16) (s : State), s.serves p false (0x3C40 + k) 1 = true → v.toNat ≤ 3 →
    Completes [.regs, .capPre, .paths] (.capinConfigWrite p k .edge v) s fun t =>
      t.answered p .ok false [] ∧ t.rn (capin k 1) = v.toNat ∧ Tab.get 0 t.capPre k = 0 ∧
      ∀ j, j ≠ capin k 1 → t.rd j = s.rd j) ∧
  (∀ (p : Path) (n : Nat) (s : State), s.serves p false (0x3C10 + n) 0x0C = true →
    (Tab.get (0, 0) s.capOld n).1 ≠ s.now + 1 →
    Completes [.regs, .paths] (.tmrCaptRead p n) s fun t =>
      t.answered p .ok false (leBytes 8 (s.rn (tmr n 0x0C))) ∧
      t.rd (tmr n 0x0C) = putFld (s.rd (tmr n 0x0C)) 33 32 0 ∧ ∀ j, j ≠ tmr n 0x0C → t.rd j = s.rd j) ∧
  (∀ (p : Path) (n : Nat) (s : State), s.serves p false (0x3C10 + n) 0x0C = true →
    (Tab.get (0, 0) s.capOld n).1 = s.now + 1 →
    Completes [.regs, .capOld, .paths] (.tmrCaptRead p n) s fun t =>
      t.answered p .ok false (leBytes 8 (Tab.get (0, 0) s.capOld n).2.toNat) ∧
      t.rd (tmr n 0x0C) = putFld (s.rd (tmr n 0x0C)) 33 33 0)

/-- The SEC island: SEC_ATTEST builds the report of Table 12.10 over the path's nonce and signs it; SEC_ADVANCE_ARB raises the
    anti-rollback fuses to the SVN of the running image; SEC_PROVISION blows the hash of a customer key into fuses that hold
    none. The last two are refused with ACCESS on every path but PCIe and SDIO. Each of these commands completes: exec
    answers a next state. -/
def Obligations.SecurityCommands : Prop :=
  (∀ (p : Path) (s : State), s.serves p true 0x0C02 3 = true →
    Completes [.paths] (.secAttest p) s fun t =>
      (let b := s.reportBody (s.blob (sender p) 0x0C02 1 32)
       t.answered p .ok true [] ∧ t.blob (sender p) 0x0C02 2 352 = b ++ fixLen 96 (Config.identitySign b) ∧
       (t.path p).attest = true)) ∧
  (∀ (p : Path) (s : State), s.serves p true 0x0C02 3 = true → blows p = true →
    Completes [.fuses, .paths] (.secAdvanceArb p) s fun t =>
      t.answered p .ok true [] ∧ t.fuses = { s.fuses with arb := max s.fuses.arb s.boot.svn }) ∧
  (∀ (p : Path) (s : State), s.serves p true 0x0C02 3 = true → blows p = true → s.signedMode = false →
    (ecKey (s.blob (sender p) 0x0C02 4 97)).isSome = true →
    Completes [.fuses, .paths] (.secProvision p) s fun t =>
      t.answered p .ok true [] ∧ t.fuses = { s.fuses with custHash := sha384 (s.blob (sender p) 0x0C02 4 97) }) ∧
  (∀ (p : Path) (s : State), s.serves p true 0x0C02 3 = true → blows p = false →
    Completes [.paths] (.secAdvanceArb p) s fun t => t.answered p .access true []) ∧
  (∀ (p : Path) (s : State), s.serves p true 0x0C02 3 = true → blows p = false → s.signedMode = false →
    (ecKey (s.blob (sender p) 0x0C02 4 97)).isSome = true →
    Completes [.paths] (.secProvision p) s fun t => t.answered p .access true [])

/-- The scrubber, the watchdogs, the HKC's lockstep and restart, and the fault ring (12 R417 to R420, R423, R424, R434):
    SCRUB_PASS and SCRUB_PASS_START start a pass, a word that the pass corrects counts, and SCRUB_PASS_END ends one;
    WATCHDOG_EXPIRE posts its record and fences the core, marks the node or the router, takes the port DOWN, or does no
    more; LOCKSTEP_MISMATCH puts the HKC into FAILED after three in a second and otherwise into RESTARTING, which
    HKC_RESTART_DONE ends; FAULT_RING_WRITE writes the oldest queued record; FAULT_RING_ENABLE and FAULT_RING_DISABLE
    are the ring's commands. Each of these commands completes: exec answers a next state. -/
def Obligations.FaultCommands : Prop :=
  (∀ (p : Path) (s : State), s.serves p false 0x0120 2 = true →
    Completes [.regs, .paths, .doms, .scrub] (.scrubPass p) s fun t =>
      t.answered p .ok false [] ∧ t.scrub = s.scrub + 1) ∧
  (∀ (hits : List ScrubHit) (s : State), s.rn (rScrub 1) = 1 →
    Completes [.regs, .boot, .cores, .tiles, .nodes, .paths, .log, .flights, .live, .scrub, .free] (.scrubPassStart hits) s
      fun t => t.scrub = s.scrub + 1 ∧
        (hits = [.corrected] → t.rn (rScrub 5) = min (s.rn (rScrub 5) + 1) (2 ^ 64 - 1)) ∧
        (∀ k off, hits = [.core k off false] → (s.core k).bad.contains (off / 8 * 8) = false →
          (s.core k).state ≠ .fenced → ∀ l, s.lcidOf k = some l →
          (t.core k).state = .fenced ∧ (t.core k).cause = 3 ∧
          s.Posts t 4 0 0 (w64 (windowAddr l (off / 8 * 8))) (w64 (2 ^ 56)))) ∧
  (∀ (ms : Nat) (s : State), s.scrub ≠ 0 → Completes [.regs, .scrub, .scrubbed] (.scrubPassEnd ms) s fun t =>
    t.scrub = s.scrub - 1 ∧ t.scrubbed = decide (ms ≤ 200) ∧
    t.rn (rScrub 3) = min (s.rn (rScrub 3) + 1) (2 ^ 64 - 1) ∧
    t.rn (rScrub 4) = if 200 < ms then min (s.rn (rScrub 4) + 1) (2 ^ 32 - 1) else s.rn (rScrub 4)) ∧
  (∀ (u : WdUnit) (stage : BitVec 16) (s : State),
    Completes [.regs, .boot, .cores, .tiles, .nodes, .ports, .chans, .paths, .log, .routes, .peers, .flights, .live, .free]
      (.watchdogExpire u stage) s fun t =>
        match u with
        | .core k => s.Posts t 3 0 0 (wdLoc 0 (k / 136) ((s.lcidOf k).getD 0)) (w64 stage.toNat) ∧
            (t.core k).state = .fenced ∧ ((s.core k).state ≠ .fenced → (t.core k).cause = 2) ∧
            t.rn (rk 0 0x0122 1) = min (s.rn (rk 0 0x0122 1) + 1) (2 ^ 32 - 1)
        | .ni n => s.Posts t 3 0 0 (wdLoc 1 n 0) (w64 stage.toNat) ∧ n ∈ t.boot.markTiles ∧ n ∈ t.boot.deadNis ∧
            (∀ c, c < 136 → (t.core (136 * n + c)).state = .fenced)
        | .router r => s.Posts t 3 0 0 (wdLoc 2 r 0) (w64 stage.toNat) ∧ r ∈ t.boot.markTiles ∧ r ∈ t.boot.deadRtrs
        | .portBridge p => (p < 7 → t.portState p = 0) ∧
            (s.portState p = 0 → s.Posts t 3 0 0 (wdLoc 3 (70 + p) 0) (w64 stage.toNat))
        | .bridge n => s.Posts t 3 0 0 (wdLoc 4 n 0) (w64 stage.toNat) ∧
            t.rn (rk 0 0x0122 1) = min (s.rn (rk 0 0x0122 1) + 1) (2 ^ 32 - 1)) ∧
  (∀ (pc : BitVec 32) (n : Nat) (s : State), s.boot.refclk = true → s.hkcUp = true →
    Completes [.regs, .stage, .boot, .nodes, .conns, .paths, .mboxes, .sdio, .pcie, .log, .mon] (.lockstepMismatch pc n) s
      fun t => t.mon.sinceT = [] ∧ t.mon.sinceV = [] ∧
        (s.boot.stage = .dawn ∨ s.boot.stage = .sunrise → t.rn rHkc = 2 ∧ t.boot.stage = .fault ∧ t.rn (rBoot 3) = 4) ∧
        (¬(s.boot.stage = .dawn ∨ s.boot.stage = .sunrise) → t.boot = s.boot ∧
          s.Posts t 12 0 0 (w64 pc.toNat) (w64 (n % 256)) ∧ t.rn rHkc = (if 3 ≤ n then 2 else 1) ∧
          (n < 3 → t.rn (rk 0 0x0121 2) = min (s.rn (rk 0 0x0121 2) + 1) (2 ^ 32 - 1) ∧
            (t.path .hkc).session = none))) ∧
  (∀ (i0 i1 : Image) (s : State), s.boot.refclk = true → s.domOn 88 = true → s.rn rHkc = 1 →
    (∀ m op idx sub d, m ∈ senders → (s.pathN m).op ≠ some (.waiting (.hkc op idx sub d))) →
    Completes regParts (.hkcRestartDone i0 i1) s fun t =>
      match romPick s.fuses i0 i1 with
      | (some (n, i), _, _) => t.rn rHkc = 0 ∧ t.boot.svn = imgSvn i ∧ t.rn (rBoot 5) = n
      | (none, a, b) => t.rn rHkc = 2 ∧
          (s.boot.stage = .morning → t.boot.stage = .fault ∧
            s.Posts t 13 0 (s.boot.stage.code + 3 * 256) 0 (w64 (a + b * 16))) ∧
          (s.boot.stage ≠ .morning → t.boot = s.boot ∧ t.log = s.log)) ∧
  (∀ (r : FRec) (rest : List FRec) (s : State), s.boot.refclk = true → s.log.queue = r :: rest → s.fState = 1 →
    s.hostOk = true → s.domUp 77 = true →
    Completes [.regs, .hostMem, .pcie, .log] .faultRingWrite s fun t =>
      t.log = { s.log with queue := rest } ∧ t.rn (fRing 6) = (s.rn (fRing 6) + 1) % 2 ^ 32 ∧
      t.hostMem = s.hostMem.wrBytes (s.rn (fRing 1) + 32 * (s.rn (fRing 6) % s.fSize))
        (recBytes r (lapPhase (s.rn (fRing 6)) s.fSize))) ∧
  (∀ (p : Path) (s : State), s.serves p false 0x0112 4 = true → s.rn (fRing 5) ≠ 1 →
    s.ringRange (fRing 1) (fRing 2) = false →
    Completes [.regs, .paths, .doms] (.faultRingEnable p) s fun t =>
      t.answered p .ok false [] ∧ t.rn (fRing 5) = 1 ∧ t.rn (fRing 6) = 0 ∧ t.rn (fRing 7) = 0) ∧
  (∀ (p : Path) (s : State), s.serves p false 0x0112 4 = true →
    Completes [.regs, .paths, .doms] (.faultRingDisable p) s fun t =>
      t.answered p .ok false [] ∧ t.rn (fRing 5) = 0 ∧ (∀ k, k ≠ fRing 5 → k / 256 ≠ 0x0111 → t.rd k = s.rd k))

/-- The power domains (13 R438 to R444, Tables 13.2 and 13.3): DOMAIN_ON wakes a domain in RETENTION or OFF;
    DOMAIN_RETENTION and DOMAIN_OFF begin an entry, or answer BUSY and count while the domain works, or wait for VWARN;
    DOMAIN_OFF_FORCE begins one and discards what the domain holds; DOMAIN_ENTRY_DONE ends an entry in RETENTION or OFF,
    DOMAIN_ENTRY_ABANDON returns a tile to ON; DOMAIN_WAKE moves a domain to WAKING and DOMAIN_WAKE_DONE to ON. Each of
    these commands completes: exec answers a next state. -/
def Obligations.PowerCommands : Prop :=
  (∀ (p : Path) (d : Nat) (s : State), s.serves p false (0x0400 + d) 2 = true →
    s.rn (rDomain d) = 2 ∨ (s.rn (rDomain d) = 0 ∧ s.mon.vwarn = false) →
    Completes meshParts (.domainOn p d) s fun t =>
      t.answered p .ok false [] ∧ t.rn (rDomain d) = 4 ∧ t.rn (pwr d 7) = 1 ∧
      t.rn (pwr d 8) = min (s.rn (pwr d 8) + 1) (2 ^ 64 - 1) ∧
      t.dom d = { Dom.reset with fromOff := decide (s.rn (rDomain d) = 0) }) ∧
  (∀ (p : Path) (d : Nat) (s : State), s.serves p false (0x0400 + d) 2 = true → s.rn (rDomain d) = 1 → d ≠ 89 →
    (s.opened p 2 (0x0400 + d) 2 [2]).retBusy d = false →
    Completes meshParts (.domainRetention p d) s fun t => t.answered p .ok false [] ∧
      (s.mon.vwarn = false → t.rn (rDomain d) = 3 ∧ t.dom d = Dom.reset) ∧
      (s.mon.vwarn = true → t.regs = s.regs ∧ t.dom d = { s.dom d with held := some (2, false) })) ∧
  (∀ (p : Path) (d : Nat) (s : State), s.serves p false (0x0400 + d) 2 = true → s.rn (rDomain d) = 1 → d ≠ 89 →
    (s.opened p 2 (0x0400 + d) 2 [3]).offBusy d = false →
    Completes meshParts (.domainOff p d) s fun t => t.answered p .ok false [] ∧
      (s.mon.vwarn = false → t.rn (rDomain d) = 3 ∧ t.dom d = { Dom.reset with off := true }) ∧
      (s.mon.vwarn = true → t.regs = s.regs ∧ t.dom d = { s.dom d with held := some (3, false) })) ∧
  (∀ (p : Path) (d : Nat) (s : State), s.serves p false (0x0400 + d) 2 = true → s.rn (rDomain d) = 1 → d ≠ 89 →
    (s.opened p 2 (0x0400 + d) 2 [2]).retBusy d = true →
    Completes meshParts (.domainRetention p d) s fun t => t.answered p .busy false [] ∧ t.rn (rDomain d) = 1 ∧
      t.rn (pwr d 0x0A) = min (s.rn (pwr d 0x0A) + 1) (2 ^ 32 - 1)) ∧
  (∀ (p : Path) (d : Nat) (s : State), s.serves p false (0x0400 + d) 2 = true → s.rn (rDomain d) = 1 → d ≠ 89 →
    (s.opened p 2 (0x0400 + d) 2 [3]).offBusy d = true →
    Completes meshParts (.domainOff p d) s fun t => t.answered p .busy false [] ∧ t.rn (rDomain d) = 1 ∧
      t.rn (pwr d 0x0A) = min (s.rn (pwr d 0x0A) + 1) (2 ^ 32 - 1)) ∧
  (∀ (p : Path) (d : Nat) (s : State), s.serves p false (0x0400 + d) 2 = true → s.rn (rDomain d) = 1 → d ≠ 89 →
    ¬(d = 86 ∧ s.swap.isSome = true) → s.mon.vwarn = false →
    Completes meshParts (.domainOffForce p d) s fun t => t.answered p .ok false [] ∧
      (d < 70 → (t.tile d).rings = [] ∧ (t.tile d).copies = [] ∧ (t.tile d).vc1 = []) ∧
      (70 ≤ d ∧ d < 77 → t.portState (d - 70) = 0) ∧
      (78 ≤ d ∧ d < 86 → t.rn (rDomain d) = 3 ∧ t.dom d = { Dom.reset with off := true } ∧
        t.rn (pwr d 9) =
          min (s.rn (pwr d 9) + ((List.range 512).map fun v => s.rn (vtReg v 5)).sum) (2 ^ 64 - 1))) ∧
  (∀ (d : Nat) (s : State), s.entryReady d = true →
    Completes [.regs, .cores, .tiles, .nodes, .conns, .combs, .hrings, .lpddr, .parkq, .sports, .sctxs, .sch, .paths,
      .pcie, .mon, .live, .doms, .free] (.domainEntryDone d) s fun t =>
      ((s.dom d).off = false → (s.dom d).wake = none → t.rn (rDomain d) = 2 ∧ t.dom d = Dom.reset) ∧
      ((s.dom d).off = false → (s.dom d).wake ≠ none → t.rn (rDomain d) = 4) ∧
      ((s.dom d).off = true → d < 70 → (∀ k, k / 136 = d → t.core k = Core.reset) ∧ (t.tile d).rings = [] ∧
        (t.tile d).queues = [] ∧ (t.tile d).tsm = []) ∧
      ((s.dom d).off = true → 78 ≤ d ∧ d < 86 → t.lpddr = memOf (Config.lpddrLost s.free)) ∧
      ((s.dom d).off = true → (s.dom d).wake = none → (70 ≤ d ∧ d < 77) ∨ (78 ≤ d ∧ d < 86) → t.rn (rDomain d) = 0)) ∧
  (∀ (d : Nat) (s : State), d < 70 → s.rn (rDomain d) = 3 → s.tileQuietFor d = false →
    Completes [.regs, .doms] (.domainEntryAbandon d) s fun t => t.rn (rDomain d) = 1 ∧ t.dom d = Dom.reset ∧
      t.rn (pwr d 0x0A) = min (s.rn (pwr d 0x0A) + 1) (2 ^ 32 - 1)) ∧
  (∀ (d src : Nat) (s : State), s.wakesRet d src = true → s.rn (rDomain d) = 2 ∨
    (s.rn (rDomain d) = 0 ∧ offWakes d src = true ∧ s.mon.vwarn = false) → src < 2 ^ 64 →
    Completes [.regs, .doms] (.domainWake d src) s fun t => t.rn (rDomain d) = 4 ∧ t.rn (pwr d 7) = src ∧
      t.rn (pwr d 8) = min (s.rn (pwr d 8) + 1) (2 ^ 64 - 1) ∧
      t.dom d = { Dom.reset with fromOff := decide (s.rn (rDomain d) = 0) }) ∧
  (∀ (d src : Nat) (s : State), s.wakesRet d src = true → s.rn (rDomain d) = 3 →
    Completes [.regs, .doms] (.domainWake d src) s fun t => t.regs = s.regs ∧
      (t.dom d).wake = some (match (s.dom d).wake with | some w => min w src | none => src)) ∧
  (∀ (d : Nat) (s : State), s.rn (rDomain d) = 4 →
    Completes dictParts (.domainWakeDone d) s fun t =>
      d = 77 ∨ d = 86 ∨ d = 87 ∨ d = 89 ∨ ((s.dom d).fromOff = false ∧ (d = 88 ∨ (70 ≤ d ∧ d < 77))) →
      (∀ m op idx sub x, m ∈ senders → (s.pathN m).op ≠ some (.waiting (.hkc op idx sub x))) →
      t.rn (rDomain d) = 1 ∧ t.dom d = Dom.reset)

/-- The monitors (13 R450 to R455, R458): TEMP_SAMPLE and VOLT_SAMPLE take the reading and its extreme, latch THERMTRIP_N
    at 115 °C, and post a record at a threshold or outside the rail's range; PROC_SAMPLE reads 0 in OFF; a write of 0 clears
    an extreme to the reading (MON_EXTREME_CLEAR) and any other value is refused with RANGE; VWARN_LATCH latches the dip and
    tracks its minimum; VWARN_CLEAR ends it, starts a scrub pass and, where nothing was held, posts the record of the dip.
    Each of these commands completes: exec answers a next state. -/
def Obligations.MonitorCommands : Prop :=
  (∀ (i : Nat) (v : Int) (s : State), s.boot.refclk = true → i < 96 →
    Completes [.regs, .log, .thermtrip, .mon] (.tempSample i v) s fun t =>
      t.rn (rk 0 0x0800 (i + 1)) = enc 32 v ∧
      t.rn (rk 0 0x0801 (i + 1)) =
        (if s.mon.firstT.contains i = false ∨ sx 32 (s.rn (rk 0 0x0801 (i + 1))) < v then enc 32 v
         else s.rn (rk 0 0x0801 (i + 1))) ∧
      i ∈ t.mon.firstT ∧ t.mon.thermtrip = (s.mon.thermtrip || decide (920 ≤ v)) ∧
      (841 ≤ v → v < 920 → i ∉ s.mon.hot → v < s.rn (rk 0 0x0802 1) * 8 →
        i ∈ t.mon.hot ∧ t.mon.tooHot = true ∧ s.Posts t 15 0 0 (w64 i) (w64 (enc 16 v)))) ∧
  (∀ (d : Nat) (rail : Rail) (mv : Nat) (s : State), s.boot.refclk = true → d < 90 → mv < 2 ^ 16 →
    Completes [.regs, .log, .mon, .free] (.voltSample d rail mv) s fun t =>
      t.rn (rk 0 0x0810 (d + 1)) = mv ∧
      t.rn (rk 0 0x0811 (d + 1)) =
        (if s.mon.firstV.contains d = false ∨ mv < s.rn (rk 0 0x0811 (d + 1)) then mv else s.rn (rk 0 0x0811 (d + 1))) ∧
      ((mv < (railRange rail).1 ∨ (railRange rail).2 < mv) ∧ s.rn (rDomain d) ≠ 0 → d ∈ t.mon.volt ∧
        s.Posts t 14 0 0 (w64 d) (w64 ((Config.voltDuration s.free).toNat * 2 ^ 32 + mv % 65536))) ∧
      (((railRange rail).1 ≤ mv ∧ mv ≤ (railRange rail).2) ∨ s.rn (rDomain d) = 0 → d ∉ t.mon.volt ∧ t.log = s.log)) ∧
  (∀ (n ps : Nat) (s : State), s.boot.refclk = true → Completes [.regs] (.procSample n ps) s fun t =>
    t.rn (rk 0 0x0820 (n + 1)) = (if s.rn (rDomain n) = 0 then 0 else ps % 65536) ∧
    ∀ k, k ≠ rk 0 0x0820 (n + 1) → t.rd k = s.rd k) ∧
  (∀ (p : Path) (volt : Bool) (i : Nat) (s : State),
    s.serves p false (if volt then 0x0811 else 0x0801) (i + 1) = true →
    Completes [.regs, .paths, .doms] (.monExtremeClear p volt i 0) s fun t => t.answered p .ok false [] ∧
      t.rn (rk 0 (if volt then 0x0811 else 0x0801) (i + 1)) = s.rn (rk 0 (if volt then 0x0810 else 0x0800) (i + 1))) ∧
  (∀ (p : Path) (volt : Bool) (i : Nat) (v : W32) (s : State),
    s.serves p false (if volt then 0x0811 else 0x0801) (i + 1) = true → v.toNat ≠ 0 →
    Completes [.paths] (.monExtremeClear p volt i v) s fun t => t.answered p .range false []) ∧
  (∀ (mv : Nat) (s : State), s.mon.vwarn = false → mv < 600 → Completes [.regs, .eng, .mon] (.vwarnLatch mv) s fun t =>
    t.mon = { s.mon with vwarn := true } ∧ t.rn (rDip 3) = mv ∧
    t.rn (rDip 2) = min (s.rn (rDip 2) + 1) (2 ^ 32 - 1)) ∧
  (∀ (mv : Nat) (s : State), s.mon.vwarn = true → Completes [.regs] (.vwarnLatch mv) s fun t =>
    t.rn (rDip 3) = min mv (s.rn (rDip 3)) ∧ ∀ k, k ≠ rDip 3 → t.rd k = s.rd k) ∧
  (∀ (mv us : Nat) (s : State), s.mon.vwarn = true → 620 < mv → 50 ≤ us →
    Completes warnParts (.vwarnClear mv us) s fun t => t.mon = { s.mon with vwarn := false } ∧ t.scrub = s.scrub + 1 ∧
      (s.doms = [] → s.eng.round = none → s.eng.phase = .stopped → s.eng.starting = false →
        t.rn (rDip 4) = min us (2 ^ 32 - 1) ∧
        s.Posts t 14 0 0 (w64 s.lowestDomain) (w64 (us % 2 ^ 32 * 2 ^ 32 + s.rn (rDip 3) % 65536))))

/-- The host's PCIe function (11 R356 to R366, R487, Table 11.3): a reset of the function or PERST# clears its
    configuration, its path and WINBASE; BUS_MASTER_ENABLE_CHANGE sets what the host controls and shows the link; WINBASE_WRITE
    takes an aligned base and refuses another; BAR0_READ completes with the register, or with zeros, counted;
    BAR2_READ and BAR2_WRITE act at WINBASE plus the offset, wait while a place is held, and before NOON read zero and drop;
    an UNSUPPORTED_REQUEST is one outside BAR0 and BAR2; MSIX_PENDING_SEND sends a pending vector. Each of these
    commands completes: exec answers a next state. -/
def Obligations.HostInterface : Prop :=
  (∀ (perst : Bool) (s : State), s.boot.refclk = true →
    Completes [.regs, .cores, .tiles, .nodes, .conns, .combs, .hrings, .lpddr, .chans, .paths, .mboxes, .sdio, .pcie, .doms,
      .live] (.pcieFlr perst) s fun t =>
      t.rn rWinbase = 0 ∧ t.pcie.d3 = false ∧ t.pcie.msixEn = false ∧ t.pcie.msixMask = false ∧ t.pcie.table = [] ∧
      t.pcie.heldRd = [] ∧ t.pcie.cfg = .reset ∧ (perst = true → t.pcie.perst = true ∧ t.pcie.link = false ∧
        t.pcie.training = false ∧ t.rn (rk 0 0x3001 2) = 0 ∧ t.rn (rk 0 0x3001 3) = 0) ∧
      (t.path .pcie).session = none ∧ (t.path .pcie).blobs = [] ∧ (t.path .pcie).attest = false) ∧
  (∀ (bme d3 link : Bool) (speed width : Byte) (s : State), s.boot.refclk = true →
    (bme = true ∧ d3 = false ∧ (link && !s.pcie.perst && s.domUp 77) = true) ∨
      (s.hrings = [] ∧ s.pcie.wait = [] ∧ (s.conns.all fun e => decide (e.2.state ≠ .closing)) = true) →
    Completes [.regs, .tiles, .nodes, .conns, .combs, .hrings, .lpddr, .paths, .pcie, .doms, .live]
      (.busMasterEnableChange bme d3 link speed width) s fun t =>
      (let up := link && !s.pcie.perst && s.domUp 77
       t.pcie = { s.pcie with bme := bme, d3 := d3, link := up, training := s.pcie.training && !up } ∧
       t.rn (rk 0 0x3001 2) = (if up then speed.toNat else 0) ∧ t.rn (rk 0 0x3001 3) = (if up then width.toNat else 0))) ∧
  (∀ (v : W64) (s : State), s.boot.refclk = true → Completes [.regs] (.winbaseWrite .bar0 v) s fun t =>
    (badWinbase v.toNat = false → t.rd rWinbase = v ∧ ∀ k, k ≠ rWinbase → t.rd k = s.rd k) ∧
    (badWinbase v.toNat = true → t.rn (rk 0 0x3002 1) = min (s.rn (rk 0 0x3002 1) + 1) (2 ^ 64 - 1) ∧
      ∀ k, k ≠ rk 0 0x3002 1 → t.rd k = s.rd k)) ∧
  (∀ (p : Path) (v : W64) (s : State), s.serves p false 0x3001 1 = true → badWinbase v.toNat = false →
    Completes [.regs, .paths] (.winbaseWrite (.dict p) v) s fun t => t.answered p .ok false [] ∧ t.rd rWinbase = v) ∧
  (∀ (p : Path) (v : W64) (s : State), s.serves p false 0x3001 1 = true → badWinbase v.toNat = true →
    Completes [.paths] (.winbaseWrite (.dict p) v) s fun t => t.answered p .range false []) ∧
  (∀ (off n : Nat) (s : State), s.boot.refclk = true → Completes [.regs, .pcie] (.bar0Read off n) s fun t =>
    match if bar0Aligned off n then s.bar0Value off n else none with
    | some d => t.regs = s.regs ∧ t.pcie = { s.pcie with cpl := d, poisoned := false }
    | none => t.pcie = { s.pcie with cpl := List.replicate n 0, poisoned := false } ∧
        t.rn (rk 0 0x3002 1) = min (s.rn (rk 0 0x3002 1) + 1) (2 ^ 64 - 1)) ∧
  (∀ (off n : Nat) (ecc : Ecc) (s : State), s.boot.refclk = true →
    Completes [.regs, .pcie, .log, .doms] (.bar2Read off n ecc) s fun t =>
      (let a := s.rn rWinbase + off
       (s.boot.stage ≠ .noon → t.pcie = { s.pcie with cpl := List.replicate n 0, poisoned := false } ∧
         t.rn rAddrMiss = min (s.rn rAddrMiss + 1) (2 ^ 64 - 1)) ∧
       (s.boot.stage = .noon → holds (s.placesRd a n) = true → t.pcie = { s.pcie with heldRd := s.pcie.heldRd ++ [(a, n, ecc)] }) ∧
       (s.boot.stage = .noon → holds (s.placesRd a n) = false → t.pcie.cpl = (s.readEcc a n ecc).1.1 ∧
         t.pcie.poisoned = (s.readEcc a n ecc).1.2))) ∧
  (∀ (off : Nat) (data : Bytes) (s : State), s.boot.refclk = true →
    Completes [.regs, .eng, .reconf, .cores, .tiles, .lpddr, .pcie, .doms, .ids] (.bar2Write off data) s fun t =>
      (let a := s.rn rWinbase + off
       (s.boot.stage ≠ .noon → t.rn rAddrMiss = min (s.rn rAddrMiss + 1) (2 ^ 64 - 1) ∧ t.lpddr = s.lpddr ∧
         t.cores = s.cores ∧ t.tiles = s.tiles ∧ t.pcie = s.pcie) ∧
       (s.boot.stage = .noon → holds (s.places a data.length) = true →
         t.pcie = { s.pcie with held := s.pcie.held ++ [(s.ids + 1, a, data)] } ∧ t.lpddr = s.lpddr ∧ t.cores = s.cores ∧
         t.tiles = s.tiles) ∧
       (∀ x y, s.boot.stage = .noon → data ≠ [] → a % 64 + data.length ≤ 64 → s.placeOf a = .lp x →
         s.placeOf (a / 64 * 64) = .lp y → t.lpddr = s.lpddr.wrBytes x data ∧ t.regs = s.regs ∧ t.cores = s.cores ∧
           t.tiles = s.tiles ∧ t.pcie = s.pcie))) ∧
  (∀ (bar : Nat) (s : State), Completes [.pcie] (.unsupportedRequest bar) s fun t =>
    t.pcie = if bar = 0 ∨ bar = 2 then s.pcie else { s.pcie with ur := true }) ∧
  (∀ (v : Nat) (s : State), s.boot.refclk = true → Completes [.pcie] (.msixPendingSend v) s fun t =>
    (Tab.get false s.pcie.pend v = false → t.pcie = s.pcie) ∧
    (Tab.get false s.pcie.pend v = true → v ≤ 255 → s.hostOk = true → s.domUp 77 = true → s.vecMasked v = false →
      Tab.get false t.pcie.pend v = false ∧ Tab.get 0 t.pcie.sent v = Tab.get 0 s.pcie.sent v + 1))

/-- The dictionary window and the paths (11 R369 to R376, R380, R389, R392 to R394): a READ, a WRITE or an INFO through the
    window (DW_READ, DW_WRITE, DW_INFO), a DREQ of a peer, and a REGISTER_WRITE of an entry leave the path's operation as
    the entry's reply has it; DICT_OP_COMPLETE completes an operation with STATUS and DATA; DICT_HKC_TIMEOUT and
    DICT_FORWARD_TIMEOUT end one that no unit answers, DRSP one that a peer answers; HOST_OPEN opens a session, HOST_CLOSE
    resets the path. Each of these commands completes: exec answers a next state. -/
def Obligations.DictionaryTraffic : Prop :=
  (∀ (p : Path) (addr ctl : W64) (s : State), addrDev addr = 15 ∨ addrDev addr = s.dev → ctlOp ctl = 1 →
    winRsvd addr ctl = false → s.serves p (hkcServed (fld addr 31 16) (fld addr 15 8)) (fld addr 31 16) (fld addr 15 8) = true →
    Completes dictParts (.dwRead p addr ctl) s fun t => t.replied p (hkcServed (fld addr 31 16) (fld addr 15 8))
      (dictAct p 1 (fld addr 31 16) (fld addr 15 8) [] (s.openWindow p addr ctl []))) ∧
  (∀ (p : Path) (addr ctl : W64) (data : Bytes) (s : State), addrDev addr = 15 ∨ addrDev addr = s.dev → ctlOp ctl = 2 →
    winRsvd addr ctl = false → s.serves p (hkcServed (fld addr 31 16) (fld addr 15 8)) (fld addr 31 16) (fld addr 15 8) = true →
    Completes dictParts (.dwWrite p addr ctl data) s fun t => t.replied p (hkcServed (fld addr 31 16) (fld addr 15 8))
      (dictAct p 2 (fld addr 31 16) (fld addr 15 8)
        (winValue ctl ((s.openWindow p addr ctl data).path p).data) (s.openWindow p addr ctl data))) ∧
  (∀ (p : Path) (addr ctl : W64) (s : State), addrDev addr = 15 ∨ addrDev addr = s.dev → ctlOp ctl = 3 →
    winRsvd addr ctl = false → s.serves p (hkcServed (fld addr 31 16) (fld addr 15 8)) (fld addr 31 16) (fld addr 15 8) = true →
    Completes dictParts (.dwInfo p addr ctl) s fun t => t.replied p (hkcServed (fld addr 31 16) (fld addr 15 8))
      (dictAct p 3 (fld addr 31 16) (fld addr 15 8) [] (s.openWindow p addr ctl []))) ∧
  (∀ (p : Path) (addr ctl : W64) (data : Bytes) (s : State), s.boot.refclk = true → (s.path p).op.isSome = true →
    Completes [.regs] (.dwWrite p addr ctl data) s fun t =>
      t.rn rWinOverrun = min (s.rn rWinOverrun + 1) (2 ^ 32 - 1) ∧ ∀ k, k ≠ rWinOverrun → t.rd k = s.rd k) ∧
  (∀ (p : Path) (st : Status) (hkc : Bool) (data : Bytes) (s : State), s.boot.refclk = true →
    (s.path p).op = some (.answered st hkc data) →
    Completes [.regs, .nodes, .paths, .sdio, .pcie] (.dictOpComplete p) s fun t =>
      (t.path p).op = none ∧ (t.path p).status = doneStatus (s.path p).ctl st data ∧
      (t.path p).data = data ++ (s.path p).data.drop data.length ∧
      t.rn (rDict (if hkc then 2 else 1)) = min (s.rn (rDict (if hkc then 2 else 1)) + 1) (2 ^ 64 - 1)) ∧
  (∀ (p : Path) (op idx sub : Nat) (d : Bytes) (s : State), s.boot.refclk = true →
    (s.path p).op = some (.waiting (.hkc op idx sub d)) → s.domOn 88 = true →
    Completes [.regs, .paths] (.dictHkcTimeout p) s fun t => t.answered p .timeout true [] ∧
      t.rn (rDict 3) = min (s.rn (rDict 3) + 1) (2 ^ 32 - 1)) ∧
  (∀ (dev : Nat) (tag : Byte) (op idx sub : Nat) (data : Bytes) (s : State), 1 ≤ op → op ≤ 3 → idx < 2 ^ 16 → sub < 2 ^ 8 →
    s.serves (.peer dev) (hkcServed idx sub) idx sub = true →
    Completes dictParts (.dreq dev tag op idx sub data) s fun t => t.replied (.peer dev) (hkcServed idx sub)
      (let u := s.openWindow (.peer dev) (addrOf idx sub) (ctlOf op tag.toNat data.length) data
       dictAct (.peer dev) op idx sub (winValue (ctlOf op tag.toNat data.length) (u.path (.peer dev)).data) u)) ∧
  (∀ (dev : Nat) (tag status : Byte) (b : Bool) (data : Bytes) (s : State), s.boot.refclk = true →
    (s.path .pcie).op = some (.waiting (.forward dev tag b)) →
    Completes [.paths] (.drsp dev tag status data) s fun t =>
      (t.path .pcie).op = some (.relayed (Status.ofCode status.toNat) data)) ∧
  (∀ (dev : Nat) (tag status : Byte) (data : Bytes) (s : State), s.boot.refclk = true →
    (∀ b, (s.path .pcie).op ≠ some (.waiting (.forward dev tag b))) →
    Completes [.regs] (.drsp dev tag status data) s fun t => t.rn (rDict 5) = min (s.rn (rDict 5) + 1) (2 ^ 32 - 1)) ∧
  (∀ (dev : Nat) (tag : Byte) (b : Bool) (s : State), s.boot.refclk = true →
    (s.path .pcie).op = some (.waiting (.forward dev tag b)) →
    Completes [.regs, .paths] .dictForwardTimeout s fun t => (t.path .pcie).op = some (.relayed .timeout []) ∧
      t.rn (rDict 3) = min (s.rn (rDict 3) + 1) (2 ^ 32 - 1)) ∧
  (∀ (p : Path) (s : State), s.serves p false 0x3000 2 = true → (s.path p).session = none →
    (let w := descWords (s.blob (sender p) 0x3000 1 32)
     fld w.2.1 63 32 < 4 ∧ fld w.1 37 0 = 0 ∧ fld w.2.1 31 0 = 0 ∧ w.2.2.2 = 0 ∧ fld w.1 63 62 = 0 ∧ fld w.1 61 58 ≤ 1 ∧
     1 ≤ fld w.1 57 54 ∧ fld w.1 53 46 ≤ 1 ∧ 1 ≤ fld w.1 45 38) →
    Completes [.regs, .paths] (.hostOpen p) s fun t => t.answered p .ok false [] ∧
      (let w := descWords (s.blob (sender p) 0x3000 1 32)
       (t.path p).session = some { gen := 1, features := BitVec.ofNat 32 (Nat.land (fld w.2.1 63 32) (s.offered p)),
                                   driver := w.2.2.1 })) ∧
  (∀ (p : Path) (s : State), s.serves p false 0x3000 2 = true → (s.path p).session.isSome = true →
    Completes [.regs, .nodes, .conns, .paths, .mboxes, .sdio, .pcie] (.hostClose p) s fun t => t.answered p .ok false [] ∧
      (t.path p).session = none ∧ (t.path p).blobs = [] ∧ (t.path p).attest = false ∧
      ∀ k, k < 0x1000000 → ¬(0x3100 ≤ k / 256 ∧ k / 256 ≤ 0x3120) → t.rd k = s.rd k) ∧
  (∀ (p : Path) (idx sub : Nat) (d : Bytes) (s : State), s.serves p (hkcServed idx sub) idx sub = true →
    Completes dictParts (.registerWrite (.entry p idx sub d)) s fun t =>
      t.replied p (hkcServed idx sub) (dictAct p 2 idx sub d (s.opened p 2 idx sub d))) ∧
  (∀ (on en mask : Bool) (r : CfgReg) (s : State), s.boot.refclk = true →
    Completes [.sdio] (.registerWrite (.ien1 on)) s (fun t => t.sdio = { s.sdio with ien1 := on }) ∧
    Completes [.pcie] (.registerWrite (.msixControl en mask)) s
      (fun t => t.pcie = { s.pcie with msixEn := en, msixMask := mask }) ∧
    Completes [.pcie] (.registerWrite (.config r)) s fun t => t.pcie = { s.pcie with cfg := s.pcie.cfg.put r }) ∧
  (∀ (off : Nat) (d : Bytes) (s : State), s.boot.refclk = true → bar0Aligned off d.length = true → 0x10000 ≤ off →
    off < 0x11000 → Completes [.pcie] (.registerWrite (.bar0 off d)) s fun t =>
      t.pcie = { s.pcie with table := msixPut s.pcie.table (off - 0x10000) d }) ∧
  (∀ (off : Nat) (d : Bytes) (s : State), s.boot.refclk = true → bar0Aligned off d.length = false →
    Completes [.regs] (.registerWrite (.bar0 off d)) s fun t =>
      t.rn rBar0Miss = min (s.rn rBar0Miss + 1) (2 ^ 64 - 1)) ∧
  (∀ (v : Byte) (s : State), s.boot.refclk = true →
    Completes [.sdio] (.registerWrite (.sdio 0x28 v)) s (fun t => t.sdio = { s.sdio with intEn := v }) ∧
    Completes [.sdio] (.registerWrite (.sdio 0x30 v)) s
      (fun t => t.sdio = { s.sdio with mbsel := if v.toNat < 24 then v else 0 }))

/-- The SDIO function (11 R377 to R379, R374, R375, Table 11.9): CMD5 answers S18A = 1, CMD11 leaves the signalling, CMD19
    tunes; CMD52 reads or writes one byte and CMD53 several of function 1, at rising addresses or all at one; a busy window
    drops what is written to it and counts the write once in WIN_OVERRUN; a write of byte 0 of CTL starts the operation;
    IO_ABORT ends the transfer only; SDIO_RES resets the path and the function's registers (in
    INT_PEND only what the path's own reset then reports can stand); INT_PEND_WRITE clears each bit
    written as 1. Each of these commands completes: exec answers a next state. -/
def Obligations.SdioFunction : Prop :=
  (∀ s : State, Completes [.sdio] .cmd5 s fun t => t.sdio = { s.sdio with resp := [1] }) ∧
  (∀ s : State, Completes [.sdio] .cmd11 s fun t => t.sdio = { s.sdio with resp := [] }) ∧
  (∀ s : State, Completes [.sdio] .cmd19 s fun t => t.sdio = { s.sdio with tuned := true }) ∧
  (∀ (a : Nat) (v : Byte) (s : State), s.boot.refclk = true → Completes dictParts (.cmd52 false a v) s fun t =>
    t.paths = s.paths ∧ t.mboxes = s.mboxes ∧ t.regs = s.regs ∧ ∃ b, t.sdio = { s.sdio with resp := [b] } ∧
      (a < 0x18 → b = ((s.path .sdio).regBytes.drop a).headD 0) ∧ (a = 0x20 → b = s.sdio.intPend) ∧
      (a = 0x28 → b = s.sdio.intEn) ∧ (a = 0x30 → b = s.sdio.mbsel) ∧
      (0x1000 ≤ a → a < 0x2000 → b = ((s.path .sdio).data.drop (a - 0x1000)).headD 0) ∧
      (0x10000 ≤ a → a < 0x14000 → b = (s.mbox s.sdio.mbsel.toNat).ring.rd (a - 0x10000)) ∧
      (0x18 ≤ a → a ≠ 0x20 → a ≠ 0x28 → a ≠ 0x30 → a < 0x1000 ∨ 0x2000 ≤ a → a < 0x10000 ∨ 0x14000 ≤ a → b = 0)) ∧
  (∀ (a : Nat) (v : Byte) (s : State), s.boot.refclk = true → Completes dictParts (.cmd52 true a v) s fun t =>
    (a = 0x20 → t.sdio = { s.sdio with intPend := s.sdio.intPend &&& ~~~v } ∧ t.paths = s.paths ∧ t.regs = s.regs) ∧
    (a = 0x28 → t.sdio = { s.sdio with intEn := v } ∧ t.paths = s.paths ∧ t.regs = s.regs) ∧
    (a = 0x30 → t.sdio = { s.sdio with mbsel := if v.toNat < 24 then v else 0 } ∧ t.paths = s.paths ∧ t.regs = s.regs) ∧
    ((a < 0x10 ∨ 0x1000 ≤ a ∧ a < 0x2000) → (s.path .sdio).op.isSome = true → t.paths = s.paths ∧ t.sdio = s.sdio ∧
      t.rn rWinOverrun = min (s.rn rWinOverrun + 1) (2 ^ 32 - 1)) ∧
    (a < 0x10 → a ≠ 8 → (s.path .sdio).op = none → t.path .sdio = (s.path .sdio).putReg a [v] ∧ t.sdio = s.sdio ∧
      t.regs = s.regs) ∧
    (a = 8 → (s.path .sdio).op = none → t = (s.updPath .sdio fun q => q.putReg 8 [v]).windowOp .sdio) ∧
    (0x1000 ≤ a → a < 0x2000 → (s.path .sdio).op = none →
      t.path .sdio = { s.path .sdio with data := putBytes (s.path .sdio).data (a - 0x1000) [v] } ∧ t.sdio = s.sdio ∧
      t.regs = s.regs)) ∧
  (∀ (a count : Nat) (incr : Bool) (d : Bytes) (s : State), s.boot.refclk = true →
    Completes dictParts (.cmd53 false a incr count d) s fun t => t.paths = s.paths ∧ t.mboxes = s.mboxes ∧ t.regs = s.regs ∧
      t.sdio.xfer = true ∧ t.sdio.resp.length = count ∧
      ∀ i, i < count → exec (.cmd52 false (if incr then a + i else a) 0) s =
        .next { s with sdio := { s.sdio with resp := [t.sdio.resp.getD i 0] } }) ∧
  (∀ (a count : Nat) (incr : Bool) (d : Bytes) (s : State), s.boot.refclk = true →
    Completes dictParts (.cmd53 true a incr count d) s fun t =>
      let l := ((List.range count).map fun i => if incr then a + i else a).zip d
      (l.any (fun e => sdioWindow e.1) = true → (s.path .sdio).op.isSome = true →
        t.rn rWinOverrun = min (s.rn rWinOverrun + 1) (2 ^ 32 - 1)) ∧
      ((s.path .sdio).op = none → l.any (fun e => decide (e.1 = 8)) = false →
        t = l.foldl (fun (s : State) e => s.sdioStore e.1 e.2) { s with sdio := { s.sdio with xfer := true } }) ∧
      ((s.path .sdio).op = none → l.any (fun e => decide (e.1 = 8)) = true →
        t = (l.foldl (fun (s : State) e => s.sdioStore e.1 e.2) { s with sdio := { s.sdio with xfer := true } }).windowOp .sdio)) ∧
  (∀ s : State, Completes [.sdio] .ioAbort s fun t => t.sdio = { s.sdio with xfer := false }) ∧
  (∀ s : State, s.boot.refclk = true → Completes [.regs, .nodes, .conns, .paths, .mboxes, .sdio, .pcie] .sdioRes s fun t =>
    (∃ v : Byte, t.sdio = { Sdio.reset with intPend := v } ∧ v &&& 0xF9#8 = 0) ∧ (t.path .sdio).session = none ∧ (t.path .sdio).blobs = [] ∧ (t.path .sdio).attest = false) ∧
  (∀ (v : Byte) (s : State), s.boot.refclk = true → Completes [.paths, .sdio] (.intPendWrite v) s fun t =>
    t.sdio = { s.sdio with intPend := s.sdio.intPend &&& ~~~v } ∧ t.paths = s.paths)

end
end

