-- ==== Sys2Proof/Laws/Only.lean ====
section
/-! SUPPORT. How `Only` composes: a chain of changes changes no part that none of them changes. -/

namespace Sys2Proof.Machine

theorem Fuses.Blown.refl (f : Fuses) : f.Blown f := ⟨rfl, Nat.le_refl _, fun _ => rfl⟩

theorem Fuses.Blown.trans {f g h : Fuses} (a : f.Blown g) (b : g.Blown h) : f.Blown h := by
  refine ⟨?_, Nat.le_trans a.arb b.arb, fun hc => ?_⟩
  · rw [b.rest, a.rest]
  · have e := a.cust hc
    rw [b.cust (by rw [e]; exact hc), e]

@[refl] theorem Only.refl (W : List Part) (s : State) : Only W s s := by
  refine ⟨fun p _ => ?_⟩
  cases p <;> first | rfl | exact Fuses.Blown.refl _ | exact id

theorem Only.trans {W : List Part} {s t u : State} (h : Only W s t) (g : Only W t u) : Only W s u := by
  refine ⟨fun p hp => ?_⟩
  have h1 := h.same p hp
  have h2 := g.same p hp
  cases p <;> first | exact Eq.trans h2 h1 | exact Fuses.Blown.trans h1 h2 | exact fun h => h2 (h1 h)

theorem Only.mono {A W : List Part} {s t : State} (h : Only A s t) (hs : (A.all fun p => W.contains p) = true) :
    Only W s t := by
  refine ⟨fun p hp => h.same p ?_⟩
  by_contra hc
  have hm : p ∈ A := by simpa using hc
  have := List.all_eq_true.mp hs p hm
  simp_all

/-- One more change, of parts in A. -/
theorem Only.chain {A W : List Part} {s t u : State} (g : Only A t u) (hs : (A.all fun p => W.contains p) = true)
    (h : Only W s t) : Only W s u := h.trans (g.mono hs)

theorem Only.ite {W : List Part} {s t u : State} {c : Prop} [Decidable c] (h : Only W s t) (g : Only W s u) :
    Only W s (if c then t else u) := by
  split
  · exact h
  · exact g

theorem Only.cut {W : List Part} {s u : State} (t : State) (h : Only W s t) (g : Only W s t → Only W s u) :
    Only W s u := g h

theorem Only.foldl {α : Type} {W : List Part} {s t : State} {f : State → α → State} {l : List α}
    (h : Only W s t) (g : ∀ u x, Only W s u → Only W s (f u x)) : Only W s (l.foldl f t) := by
  induction l generalizing t with
  | nil => exact h
  | cons a l ih => exact ih (g t a h)

/-! Changes of fields -/

def State.put_boot (s : State) (v_boot : Boot) : State := { s with boot := v_boot }

theorem State.mk_boot (s : State) (v_boot) : { s with boot := v_boot } = State.put_boot s v_boot := rfl

theorem Only.set_boot (s : State) (v_boot) : Only [.stage, .boot] s (State.put_boot s v_boot) := by
  refine ⟨fun p hp => ?_⟩
  cases p <;> first | rfl | exact Fuses.Blown.refl _ | exact id | exact absurd hp (by decide)

theorem Only.set_bootK (s : State) (v_boot) (h : v_boot.stage = s.boot.stage) : Only [.boot] s (State.put_boot s v_boot) := by
  refine ⟨fun p hp => ?_⟩
  cases p <;> first | rfl | exact Fuses.Blown.refl _ | exact id | exact h | exact absurd hp (by decide)

def State.put_capOld (s : State) (v_capOld : Tab (Nat × W64)) : State := { s with capOld := v_capOld }

theorem State.mk_capOld (s : State) (v_capOld) : { s with capOld := v_capOld } = State.put_capOld s v_capOld := rfl

theorem Only.set_capOld (s : State) (v_capOld) : Only [.capOld] s (State.put_capOld s v_capOld) := by
  refine ⟨fun p hp => ?_⟩
  cases p <;> first | rfl | exact Fuses.Blown.refl _ | exact id | exact absurd hp (by decide)

def State.put_capPre (s : State) (v_capPre : Tab Nat) : State := { s with capPre := v_capPre }

theorem State.mk_capPre (s : State) (v_capPre) : { s with capPre := v_capPre } = State.put_capPre s v_capPre := rfl

theorem Only.set_capPre (s : State) (v_capPre) : Only [.capPre] s (State.put_capPre s v_capPre) := by
  refine ⟨fun p hp => ?_⟩
  cases p <;> first | rfl | exact Fuses.Blown.refl _ | exact id | exact absurd hp (by decide)

def State.put_chans (s : State) (v_chans : Tab Chan) : State := { s with chans := v_chans }

theorem State.mk_chans (s : State) (v_chans) : { s with chans := v_chans } = State.put_chans s v_chans := rfl

theorem Only.set_chans (s : State) (v_chans) : Only [.chans] s (State.put_chans s v_chans) := by
  refine ⟨fun p hp => ?_⟩
  cases p <;> first | rfl | exact Fuses.Blown.refl _ | exact id | exact absurd hp (by decide)

def State.put_combs (s : State) (v_combs : Tab Comb) : State := { s with combs := v_combs }

theorem State.mk_combs (s : State) (v_combs) : { s with combs := v_combs } = State.put_combs s v_combs := rfl

theorem Only.set_combs (s : State) (v_combs) : Only [.combs] s (State.put_combs s v_combs) := by
  refine ⟨fun p hp => ?_⟩
  cases p <;> first | rfl | exact Fuses.Blown.refl _ | exact id | exact absurd hp (by decide)

def State.put_conns (s : State) (v_conns : Tab Conn) : State := { s with conns := v_conns }

theorem State.mk_conns (s : State) (v_conns) : { s with conns := v_conns } = State.put_conns s v_conns := rfl

theorem Only.set_conns (s : State) (v_conns) : Only [.conns] s (State.put_conns s v_conns) := by
  refine ⟨fun p hp => ?_⟩
  cases p <;> first | rfl | exact Fuses.Blown.refl _ | exact id | exact absurd hp (by decide)

def State.put_cores (s : State) (v_cores : Tab Core) : State := { s with cores := v_cores }

theorem State.mk_cores (s : State) (v_cores) : { s with cores := v_cores } = State.put_cores s v_cores := rfl

theorem Only.set_cores (s : State) (v_cores) : Only [.cores] s (State.put_cores s v_cores) := by
  refine ⟨fun p hp => ?_⟩
  cases p <;> first | rfl | exact Fuses.Blown.refl _ | exact id | exact absurd hp (by decide)

def State.put_doms (s : State) (v_doms : Tab Dom) : State := { s with doms := v_doms }

theorem State.mk_doms (s : State) (v_doms) : { s with doms := v_doms } = State.put_doms s v_doms := rfl

theorem Only.set_doms (s : State) (v_doms) : Only [.doms] s (State.put_doms s v_doms) := by
  refine ⟨fun p hp => ?_⟩
  cases p <;> first | rfl | exact Fuses.Blown.refl _ | exact id | exact absurd hp (by decide)

def State.put_drains (s : State) (v_drains : List MapDrain) : State := { s with drains := v_drains }

theorem State.mk_drains (s : State) (v_drains) : { s with drains := v_drains } = State.put_drains s v_drains := rfl

theorem Only.set_drains (s : State) (v_drains) : Only [.drains] s (State.put_drains s v_drains) := by
  refine ⟨fun p hp => ?_⟩
  cases p <;> first | rfl | exact Fuses.Blown.refl _ | exact id | exact absurd hp (by decide)

def State.put_eng (s : State) (v_eng : Eng) : State := { s with eng := v_eng }

theorem State.mk_eng (s : State) (v_eng) : { s with eng := v_eng } = State.put_eng s v_eng := rfl

theorem Only.set_eng (s : State) (v_eng) : Only [.eng] s (State.put_eng s v_eng) := by
  refine ⟨fun p hp => ?_⟩
  cases p <;> first | rfl | exact Fuses.Blown.refl _ | exact id | exact absurd hp (by decide)

def State.put_flights (s : State) (v_flights : Tab (Nat × Nat × Nat)) : State := { s with flights := v_flights }

theorem State.mk_flights (s : State) (v_flights) : { s with flights := v_flights } = State.put_flights s v_flights := rfl

theorem Only.set_flights (s : State) (v_flights) : Only [.flights] s (State.put_flights s v_flights) := by
  refine ⟨fun p hp => ?_⟩
  cases p <;> first | rfl | exact Fuses.Blown.refl _ | exact id | exact absurd hp (by decide)

def State.put_free (s : State) (v_free : Nat) : State := { s with free := v_free }

theorem State.mk_free (s : State) (v_free) : { s with free := v_free } = State.put_free s v_free := rfl

theorem Only.set_free (s : State) (v_free) : Only [.free] s (State.put_free s v_free) := by
  refine ⟨fun p hp => ?_⟩
  cases p <;> first | rfl | exact Fuses.Blown.refl _ | exact id | exact absurd hp (by decide)

def State.put_fuses (s : State) (v_fuses : Fuses) : State := { s with fuses := v_fuses }

theorem State.mk_fuses (s : State) (v_fuses) : { s with fuses := v_fuses } = State.put_fuses s v_fuses := rfl

theorem Only.set_fuses (s : State) (v_fuses) (h : s.fuses.Blown v_fuses) : Only [.fuses] s (State.put_fuses s v_fuses) := by
  refine ⟨fun p hp => ?_⟩
  cases p <;> first | rfl | exact Fuses.Blown.refl _ | exact id | exact h | exact absurd hp (by decide)

def State.put_hits (s : State) (v_hits : Tab Nat) : State := { s with hits := v_hits }

theorem State.mk_hits (s : State) (v_hits) : { s with hits := v_hits } = State.put_hits s v_hits := rfl

theorem Only.set_hits (s : State) (v_hits) : Only [.hits] s (State.put_hits s v_hits) := by
  refine ⟨fun p hp => ?_⟩
  cases p <;> first | rfl | exact Fuses.Blown.refl _ | exact id | exact absurd hp (by decide)

def State.put_hostMem (s : State) (v_hostMem : Mem) : State := { s with hostMem := v_hostMem }

theorem State.mk_hostMem (s : State) (v_hostMem) : { s with hostMem := v_hostMem } = State.put_hostMem s v_hostMem := rfl

theorem Only.set_hostMem (s : State) (v_hostMem) (h : s.hostMem.wf → v_hostMem.wf) : Only [.hostMem] s (State.put_hostMem s v_hostMem) := by
  refine ⟨fun p hp => ?_⟩
  cases p <;> first | rfl | exact Fuses.Blown.refl _ | exact id | exact h | exact absurd hp (by decide)

def State.put_hrings (s : State) (v_hrings : Tab HRing) : State := { s with hrings := v_hrings }

theorem State.mk_hrings (s : State) (v_hrings) : { s with hrings := v_hrings } = State.put_hrings s v_hrings := rfl

theorem Only.set_hrings (s : State) (v_hrings) : Only [.hrings] s (State.put_hrings s v_hrings) := by
  refine ⟨fun p hp => ?_⟩
  cases p <;> first | rfl | exact Fuses.Blown.refl _ | exact id | exact absurd hp (by decide)

def State.put_ids (s : State) (v_ids : Nat) : State := { s with ids := v_ids }

theorem State.mk_ids (s : State) (v_ids) : { s with ids := v_ids } = State.put_ids s v_ids := rfl

theorem Only.set_ids (s : State) (v_ids) : Only [.ids] s (State.put_ids s v_ids) := by
  refine ⟨fun p hp => ?_⟩
  cases p <;> first | rfl | exact Fuses.Blown.refl _ | exact id | exact absurd hp (by decide)

def State.put_live (s : State) (v_live : List (Nat × Nat)) : State := { s with live := v_live }

theorem State.mk_live (s : State) (v_live) : { s with live := v_live } = State.put_live s v_live := rfl

theorem Only.set_live (s : State) (v_live) : Only [.live] s (State.put_live s v_live) := by
  refine ⟨fun p hp => ?_⟩
  cases p <;> first | rfl | exact Fuses.Blown.refl _ | exact id | exact absurd hp (by decide)

def State.put_log (s : State) (v_log : FLog) : State := { s with log := v_log }

theorem State.mk_log (s : State) (v_log) : { s with log := v_log } = State.put_log s v_log := rfl

theorem Only.set_log (s : State) (v_log) : Only [.log] s (State.put_log s v_log) := by
  refine ⟨fun p hp => ?_⟩
  cases p <;> first | rfl | exact Fuses.Blown.refl _ | exact id | exact absurd hp (by decide)

def State.put_lossSnap (s : State) (v_lossSnap : Nat × Nat) : State := { s with lossSnap := v_lossSnap }

theorem State.mk_lossSnap (s : State) (v_lossSnap) : { s with lossSnap := v_lossSnap } = State.put_lossSnap s v_lossSnap := rfl

theorem Only.set_lossSnap (s : State) (v_lossSnap) : Only [.lossSnap] s (State.put_lossSnap s v_lossSnap) := by
  refine ⟨fun p hp => ?_⟩
  cases p <;> first | rfl | exact Fuses.Blown.refl _ | exact id | exact absurd hp (by decide)

def State.put_lpddr (s : State) (v_lpddr : Mem) : State := { s with lpddr := v_lpddr }

theorem State.mk_lpddr (s : State) (v_lpddr) : { s with lpddr := v_lpddr } = State.put_lpddr s v_lpddr := rfl

theorem Only.set_lpddr (s : State) (v_lpddr) : Only [.lpddr] s (State.put_lpddr s v_lpddr) := by
  refine ⟨fun p hp => ?_⟩
  cases p <;> first | rfl | exact Fuses.Blown.refl _ | exact id | exact absurd hp (by decide)

def State.put_lrn (s : State) (v_lrn : Lrn) : State := { s with lrn := v_lrn }

theorem State.mk_lrn (s : State) (v_lrn) : { s with lrn := v_lrn } = State.put_lrn s v_lrn := rfl

theorem Only.set_lrn (s : State) (v_lrn) : Only [.lrn] s (State.put_lrn s v_lrn) := by
  refine ⟨fun p hp => ?_⟩
  cases p <;> first | rfl | exact Fuses.Blown.refl _ | exact id | exact absurd hp (by decide)

def State.put_mboxes (s : State) (v_mboxes : Tab Mbox) : State := { s with mboxes := v_mboxes }

theorem State.mk_mboxes (s : State) (v_mboxes) : { s with mboxes := v_mboxes } = State.put_mboxes s v_mboxes := rfl

theorem Only.set_mboxes (s : State) (v_mboxes) : Only [.mboxes] s (State.put_mboxes s v_mboxes) := by
  refine ⟨fun p hp => ?_⟩
  cases p <;> first | rfl | exact Fuses.Blown.refl _ | exact id | exact absurd hp (by decide)

def State.put_mon (s : State) (v_mon : Mon) : State := { s with mon := v_mon }

theorem State.mk_mon (s : State) (v_mon) : { s with mon := v_mon } = State.put_mon s v_mon := rfl

theorem Only.set_mon (s : State) (v_mon) : Only [.thermtrip, .mon] s (State.put_mon s v_mon) := by
  refine ⟨fun p hp => ?_⟩
  cases p <;> first | rfl | exact Fuses.Blown.refl _ | exact id | exact absurd hp (by decide)

theorem Only.set_monK (s : State) (v_mon) (h : v_mon.thermtrip = s.mon.thermtrip) : Only [.mon] s (State.put_mon s v_mon) := by
  refine ⟨fun p hp => ?_⟩
  cases p <;> first | rfl | exact Fuses.Blown.refl _ | exact id | exact h | exact absurd hp (by decide)

def State.put_nodes (s : State) (v_nodes : Tab Node) : State := { s with nodes := v_nodes }

theorem State.mk_nodes (s : State) (v_nodes) : { s with nodes := v_nodes } = State.put_nodes s v_nodes := rfl

theorem Only.set_nodes (s : State) (v_nodes) : Only [.nodes] s (State.put_nodes s v_nodes) := by
  refine ⟨fun p hp => ?_⟩
  cases p <;> first | rfl | exact Fuses.Blown.refl _ | exact id | exact absurd hp (by decide)

def State.put_now (s : State) (v_now : Nat) : State := { s with now := v_now }

theorem State.mk_now (s : State) (v_now) : { s with now := v_now } = State.put_now s v_now := rfl

theorem Only.set_now (s : State) (v_now) : Only [.now] s (State.put_now s v_now) := by
  refine ⟨fun p hp => ?_⟩
  cases p <;> first | rfl | exact Fuses.Blown.refl _ | exact id | exact absurd hp (by decide)

def State.put_parkq (s : State) (v_parkq : List Item) : State := { s with parkq := v_parkq }

theorem State.mk_parkq (s : State) (v_parkq) : { s with parkq := v_parkq } = State.put_parkq s v_parkq := rfl

theorem Only.set_parkq (s : State) (v_parkq) : Only [.parkq] s (State.put_parkq s v_parkq) := by
  refine ⟨fun p hp => ?_⟩
  cases p <;> first | rfl | exact Fuses.Blown.refl _ | exact id | exact absurd hp (by decide)

def State.put_parks (s : State) (v_parks : Tab Park) : State := { s with parks := v_parks }

theorem State.mk_parks (s : State) (v_parks) : { s with parks := v_parks } = State.put_parks s v_parks := rfl

theorem Only.set_parks (s : State) (v_parks) : Only [.parks] s (State.put_parks s v_parks) := by
  refine ⟨fun p hp => ?_⟩
  cases p <;> first | rfl | exact Fuses.Blown.refl _ | exact id | exact absurd hp (by decide)

def State.put_paths (s : State) (v_paths : Tab PathSt) : State := { s with paths := v_paths }

theorem State.mk_paths (s : State) (v_paths) : { s with paths := v_paths } = State.put_paths s v_paths := rfl

theorem Only.set_paths (s : State) (v_paths) : Only [.paths] s (State.put_paths s v_paths) := by
  refine ⟨fun p hp => ?_⟩
  cases p <;> first | rfl | exact Fuses.Blown.refl _ | exact id | exact absurd hp (by decide)

def State.put_pcie (s : State) (v_pcie : Pcie) : State := { s with pcie := v_pcie }

theorem State.mk_pcie (s : State) (v_pcie) : { s with pcie := v_pcie } = State.put_pcie s v_pcie := rfl

theorem Only.set_pcie (s : State) (v_pcie) : Only [.pcie] s (State.put_pcie s v_pcie) := by
  refine ⟨fun p hp => ?_⟩
  cases p <;> first | rfl | exact Fuses.Blown.refl _ | exact id | exact absurd hp (by decide)

def State.put_peers (s : State) (v_peers : Tab PeerInfo) : State := { s with peers := v_peers }

theorem State.mk_peers (s : State) (v_peers) : { s with peers := v_peers } = State.put_peers s v_peers := rfl

theorem Only.set_peers (s : State) (v_peers) : Only [.peers] s (State.put_peers s v_peers) := by
  refine ⟨fun p hp => ?_⟩
  cases p <;> first | rfl | exact Fuses.Blown.refl _ | exact id | exact absurd hp (by decide)

def State.put_pending (s : State) (v_pending : List Instr) : State := { s with pending := v_pending }

theorem State.mk_pending (s : State) (v_pending) : { s with pending := v_pending } = State.put_pending s v_pending := rfl

theorem Only.set_pending (s : State) (v_pending) : Only [.pending] s (State.put_pending s v_pending) := by
  refine ⟨fun p hp => ?_⟩
  cases p <;> first | rfl | exact Fuses.Blown.refl _ | exact id | exact absurd hp (by decide)

def State.put_ports (s : State) (v_ports : Tab Port) : State := { s with ports := v_ports }

theorem State.mk_ports (s : State) (v_ports) : { s with ports := v_ports } = State.put_ports s v_ports := rfl

theorem Only.set_ports (s : State) (v_ports) : Only [.ports] s (State.put_ports s v_ports) := by
  refine ⟨fun p hp => ?_⟩
  cases p <;> first | rfl | exact Fuses.Blown.refl _ | exact id | exact absurd hp (by decide)

def State.put_reconf (s : State) (v_reconf : Reconf) : State := { s with reconf := v_reconf }

theorem State.mk_reconf (s : State) (v_reconf) : { s with reconf := v_reconf } = State.put_reconf s v_reconf := rfl

theorem Only.set_reconf (s : State) (v_reconf) : Only [.reconf] s (State.put_reconf s v_reconf) := by
  refine ⟨fun p hp => ?_⟩
  cases p <;> first | rfl | exact Fuses.Blown.refl _ | exact id | exact absurd hp (by decide)

def State.put_regs (s : State) (v_regs : Tab W64) : State := { s with regs := v_regs }

theorem State.mk_regs (s : State) (v_regs) : { s with regs := v_regs } = State.put_regs s v_regs := rfl

theorem Only.set_regs (s : State) (v_regs) : Only [.regs] s (State.put_regs s v_regs) := by
  refine ⟨fun p hp => ?_⟩
  cases p <;> first | rfl | exact Fuses.Blown.refl _ | exact id | exact absurd hp (by decide)

def State.put_routes (s : State) (v_routes : Tab (Option (Nat × Bool))) : State := { s with routes := v_routes }

theorem State.mk_routes (s : State) (v_routes) : { s with routes := v_routes } = State.put_routes s v_routes := rfl

theorem Only.set_routes (s : State) (v_routes) : Only [.routes] s (State.put_routes s v_routes) := by
  refine ⟨fun p hp => ?_⟩
  cases p <;> first | rfl | exact Fuses.Blown.refl _ | exact id | exact absurd hp (by decide)

def State.put_rtrs (s : State) (v_rtrs : Tab Router) : State := { s with rtrs := v_rtrs }

theorem State.mk_rtrs (s : State) (v_rtrs) : { s with rtrs := v_rtrs } = State.put_rtrs s v_rtrs := rfl

theorem Only.set_rtrs (s : State) (v_rtrs) : Only [.rtrs] s (State.put_rtrs s v_rtrs) := by
  refine ⟨fun p hp => ?_⟩
  cases p <;> first | rfl | exact Fuses.Blown.refl _ | exact id | exact absurd hp (by decide)

def State.put_sch (s : State) (v_sch : Tab W64) : State := { s with sch := v_sch }

theorem State.mk_sch (s : State) (v_sch) : { s with sch := v_sch } = State.put_sch s v_sch := rfl

theorem Only.set_sch (s : State) (v_sch) : Only [.sch] s (State.put_sch s v_sch) := by
  refine ⟨fun p hp => ?_⟩
  cases p <;> first | rfl | exact Fuses.Blown.refl _ | exact id | exact absurd hp (by decide)

def State.put_scrub (s : State) (v_scrub : Nat) : State := { s with scrub := v_scrub }

theorem State.mk_scrub (s : State) (v_scrub) : { s with scrub := v_scrub } = State.put_scrub s v_scrub := rfl

theorem Only.set_scrub (s : State) (v_scrub) : Only [.scrub] s (State.put_scrub s v_scrub) := by
  refine ⟨fun p hp => ?_⟩
  cases p <;> first | rfl | exact Fuses.Blown.refl _ | exact id | exact absurd hp (by decide)

def State.put_sctxs (s : State) (v_sctxs : Tab SCtx) : State := { s with sctxs := v_sctxs }

theorem State.mk_sctxs (s : State) (v_sctxs) : { s with sctxs := v_sctxs } = State.put_sctxs s v_sctxs := rfl

theorem Only.set_sctxs (s : State) (v_sctxs) : Only [.sctxs] s (State.put_sctxs s v_sctxs) := by
  refine ⟨fun p hp => ?_⟩
  cases p <;> first | rfl | exact Fuses.Blown.refl _ | exact id | exact absurd hp (by decide)

def State.put_sdio (s : State) (v_sdio : Sdio) : State := { s with sdio := v_sdio }

theorem State.mk_sdio (s : State) (v_sdio) : { s with sdio := v_sdio } = State.put_sdio s v_sdio := rfl

theorem Only.set_sdio (s : State) (v_sdio) : Only [.sdio] s (State.put_sdio s v_sdio) := by
  refine ⟨fun p hp => ?_⟩
  cases p <;> first | rfl | exact Fuses.Blown.refl _ | exact id | exact absurd hp (by decide)

def State.put_slew (s : State) (v_slew : Option Bool) : State := { s with slew := v_slew }

theorem State.mk_slew (s : State) (v_slew) : { s with slew := v_slew } = State.put_slew s v_slew := rfl

theorem Only.set_slew (s : State) (v_slew) : Only [.slew] s (State.put_slew s v_slew) := by
  refine ⟨fun p hp => ?_⟩
  cases p <;> first | rfl | exact Fuses.Blown.refl _ | exact id | exact absurd hp (by decide)

def State.put_sports (s : State) (v_sports : Tab SPort) : State := { s with sports := v_sports }

theorem State.mk_sports (s : State) (v_sports) : { s with sports := v_sports } = State.put_sports s v_sports := rfl

theorem Only.set_sports (s : State) (v_sports) : Only [.sports] s (State.put_sports s v_sports) := by
  refine ⟨fun p hp => ?_⟩
  cases p <;> first | rfl | exact Fuses.Blown.refl _ | exact id | exact absurd hp (by decide)

def State.put_swap (s : State) (v_swap : Option Swap) : State := { s with swap := v_swap }

theorem State.mk_swap (s : State) (v_swap) : { s with swap := v_swap } = State.put_swap s v_swap := rfl

theorem Only.set_swap (s : State) (v_swap) : Only [.swap] s (State.put_swap s v_swap) := by
  refine ⟨fun p hp => ?_⟩
  cases p <;> first | rfl | exact Fuses.Blown.refl _ | exact id | exact absurd hp (by decide)

def State.put_tiles (s : State) (v_tiles : Tab Tile) : State := { s with tiles := v_tiles }

theorem State.mk_tiles (s : State) (v_tiles) : { s with tiles := v_tiles } = State.put_tiles s v_tiles := rfl

theorem Only.set_tiles (s : State) (v_tiles) : Only [.tiles] s (State.put_tiles s v_tiles) := by
  refine ⟨fun p hp => ?_⟩
  cases p <;> first | rfl | exact Fuses.Blown.refl _ | exact id | exact absurd hp (by decide)

def State.put_turnR (s : State) (v_turnR : Tab Nat) : State := { s with turnR := v_turnR }

theorem State.mk_turnR (s : State) (v_turnR) : { s with turnR := v_turnR } = State.put_turnR s v_turnR := rfl

theorem Only.set_turnR (s : State) (v_turnR) : Only [.turnR] s (State.put_turnR s v_turnR) := by
  refine ⟨fun p hp => ?_⟩
  cases p <;> first | rfl | exact Fuses.Blown.refl _ | exact id | exact absurd hp (by decide)

def State.put_turnW (s : State) (v_turnW : Tab Nat) : State := { s with turnW := v_turnW }

theorem State.mk_turnW (s : State) (v_turnW) : { s with turnW := v_turnW } = State.put_turnW s v_turnW := rfl

theorem Only.set_turnW (s : State) (v_turnW) : Only [.turnW] s (State.put_turnW s v_turnW) := by
  refine ⟨fun p hp => ?_⟩
  cases p <;> first | rfl | exact Fuses.Blown.refl _ | exact id | exact absurd hp (by decide)

def State.put_was (s : State) (v_was : Tab Bool) : State := { s with was := v_was }

theorem State.mk_was (s : State) (v_was) : { s with was := v_was } = State.put_was s v_was := rfl

theorem Only.set_was (s : State) (v_was) : Only [.was] s (State.put_was s v_was) := by
  refine ⟨fun p hp => ?_⟩
  cases p <;> first | rfl | exact Fuses.Blown.refl _ | exact id | exact absurd hp (by decide)

def State.put_eng_cores (s : State) (v_eng : Eng) (v_cores : Tab Core) : State := { s with eng := v_eng, cores := v_cores }

theorem State.mk_eng_cores (s : State) (v_eng v_cores) : { s with eng := v_eng, cores := v_cores } = State.put_eng_cores s v_eng v_cores := rfl

theorem Only.set_eng_cores (s : State) (v_eng v_cores) : Only [.eng, .cores] s (State.put_eng_cores s v_eng v_cores) := by
  refine ⟨fun p hp => ?_⟩
  cases p <;> first | rfl | exact Fuses.Blown.refl _ | exact id | exact absurd hp (by decide)

def State.put_eng_lrn (s : State) (v_eng : Eng) (v_lrn : Lrn) : State := { s with eng := v_eng, lrn := v_lrn }

theorem State.mk_eng_lrn (s : State) (v_eng v_lrn) : { s with eng := v_eng, lrn := v_lrn } = State.put_eng_lrn s v_eng v_lrn := rfl

theorem Only.set_eng_lrn (s : State) (v_eng v_lrn) : Only [.eng, .lrn] s (State.put_eng_lrn s v_eng v_lrn) := by
  refine ⟨fun p hp => ?_⟩
  cases p <;> first | rfl | exact Fuses.Blown.refl _ | exact id | exact absurd hp (by decide)

def State.put_flights_ids (s : State) (v_flights : Tab (Nat × Nat × Nat)) (v_ids : Nat) : State := { s with flights := v_flights, ids := v_ids }

theorem State.mk_flights_ids (s : State) (v_flights v_ids) : { s with flights := v_flights, ids := v_ids } = State.put_flights_ids s v_flights v_ids := rfl

theorem Only.set_flights_ids (s : State) (v_flights v_ids) : Only [.flights, .ids] s (State.put_flights_ids s v_flights v_ids) := by
  refine ⟨fun p hp => ?_⟩
  cases p <;> first | rfl | exact Fuses.Blown.refl _ | exact id | exact absurd hp (by decide)

def State.put_hrings_pcie (s : State) (v_hrings : Tab HRing) (v_pcie : Pcie) : State := { s with hrings := v_hrings, pcie := v_pcie }

theorem State.mk_hrings_pcie (s : State) (v_hrings v_pcie) : { s with hrings := v_hrings, pcie := v_pcie } = State.put_hrings_pcie s v_hrings v_pcie := rfl

theorem Only.set_hrings_pcie (s : State) (v_hrings v_pcie) : Only [.hrings, .pcie] s (State.put_hrings_pcie s v_hrings v_pcie) := by
  refine ⟨fun p hp => ?_⟩
  cases p <;> first | rfl | exact Fuses.Blown.refl _ | exact id | exact absurd hp (by decide)

def State.put_lpddr_free (s : State) (v_lpddr : Mem) (v_free : Nat) : State := { s with lpddr := v_lpddr, free := v_free }

theorem State.mk_lpddr_free (s : State) (v_lpddr v_free) : { s with lpddr := v_lpddr, free := v_free } = State.put_lpddr_free s v_lpddr v_free := rfl

theorem Only.set_lpddr_free (s : State) (v_lpddr v_free) : Only [.lpddr, .free] s (State.put_lpddr_free s v_lpddr v_free) := by
  refine ⟨fun p hp => ?_⟩
  cases p <;> first | rfl | exact Fuses.Blown.refl _ | exact id | exact absurd hp (by decide)

def State.put_pcie_ids (s : State) (v_pcie : Pcie) (v_ids : Nat) : State := { s with pcie := v_pcie, ids := v_ids }

theorem State.mk_pcie_ids (s : State) (v_pcie v_ids) : { s with pcie := v_pcie, ids := v_ids } = State.put_pcie_ids s v_pcie v_ids := rfl

theorem Only.set_pcie_ids (s : State) (v_pcie v_ids) : Only [.pcie, .ids] s (State.put_pcie_ids s v_pcie v_ids) := by
  refine ⟨fun p hp => ?_⟩
  cases p <;> first | rfl | exact Fuses.Blown.refl _ | exact id | exact absurd hp (by decide)

def State.put_pcie_mon (s : State) (v_pcie : Pcie) (v_mon : Mon) : State := { s with pcie := v_pcie, mon := v_mon }

theorem State.mk_pcie_mon (s : State) (v_pcie v_mon) : { s with pcie := v_pcie, mon := v_mon } = State.put_pcie_mon s v_pcie v_mon := rfl

theorem Only.set_pcie_mon (s : State) (v_pcie v_mon) : Only [.pcie, .thermtrip, .mon] s (State.put_pcie_mon s v_pcie v_mon) := by
  refine ⟨fun p hp => ?_⟩
  cases p <;> first | rfl | exact Fuses.Blown.refl _ | exact id | exact absurd hp (by decide)

def State.put_reconf_cores (s : State) (v_reconf : Reconf) (v_cores : Tab Core) : State := { s with reconf := v_reconf, cores := v_cores }

theorem State.mk_reconf_cores (s : State) (v_reconf v_cores) : { s with reconf := v_reconf, cores := v_cores } = State.put_reconf_cores s v_reconf v_cores := rfl

theorem Only.set_reconf_cores (s : State) (v_reconf v_cores) : Only [.reconf, .cores] s (State.put_reconf_cores s v_reconf v_cores) := by
  refine ⟨fun p hp => ?_⟩
  cases p <;> first | rfl | exact Fuses.Blown.refl _ | exact id | exact absurd hp (by decide)

def State.put_scrub_scrubbed (s : State) (v_scrub : Nat) (v_scrubbed : Bool) : State := { s with scrub := v_scrub, scrubbed := v_scrubbed }

theorem State.mk_scrub_scrubbed (s : State) (v_scrub v_scrubbed) : { s with scrub := v_scrub, scrubbed := v_scrubbed } = State.put_scrub_scrubbed s v_scrub v_scrubbed := rfl

theorem Only.set_scrub_scrubbed (s : State) (v_scrub v_scrubbed) : Only [.scrub, .scrubbed] s (State.put_scrub_scrubbed s v_scrub v_scrubbed) := by
  refine ⟨fun p hp => ?_⟩
  cases p <;> first | rfl | exact Fuses.Blown.refl _ | exact id | exact absurd hp (by decide)

def State.put_sctxs_sch (s : State) (v_sctxs : Tab SCtx) (v_sch : Tab W64) : State := { s with sctxs := v_sctxs, sch := v_sch }

theorem State.mk_sctxs_sch (s : State) (v_sctxs v_sch) : { s with sctxs := v_sctxs, sch := v_sch } = State.put_sctxs_sch s v_sctxs v_sch := rfl

theorem Only.set_sctxs_sch (s : State) (v_sctxs v_sch) : Only [.sctxs, .sch] s (State.put_sctxs_sch s v_sctxs v_sch) := by
  refine ⟨fun p hp => ?_⟩
  cases p <;> first | rfl | exact Fuses.Blown.refl _ | exact id | exact absurd hp (by decide)

def State.put_swap_drains (s : State) (v_swap : Option Swap) (v_drains : List MapDrain) : State := { s with swap := v_swap, drains := v_drains }

theorem State.mk_swap_drains (s : State) (v_swap v_drains) : { s with swap := v_swap, drains := v_drains } = State.put_swap_drains s v_swap v_drains := rfl

theorem Only.set_swap_drains (s : State) (v_swap v_drains) : Only [.swap, .drains] s (State.put_swap_drains s v_swap v_drains) := by
  refine ⟨fun p hp => ?_⟩
  cases p <;> first | rfl | exact Fuses.Blown.refl _ | exact id | exact absurd hp (by decide)

def State.put_eng_reconf_cores (s : State) (v_eng : Eng) (v_reconf : Reconf) (v_cores : Tab Core) : State := { s with eng := v_eng, reconf := v_reconf, cores := v_cores }

theorem State.mk_eng_reconf_cores (s : State) (v_eng v_reconf v_cores) : { s with eng := v_eng, reconf := v_reconf, cores := v_cores } = State.put_eng_reconf_cores s v_eng v_reconf v_cores := rfl

theorem Only.set_eng_reconf_cores (s : State) (v_eng v_reconf v_cores) : Only [.eng, .reconf, .cores] s (State.put_eng_reconf_cores s v_eng v_reconf v_cores) := by
  refine ⟨fun p hp => ?_⟩
  cases p <;> first | rfl | exact Fuses.Blown.refl _ | exact id | exact absurd hp (by decide)

/-- The parts that an item that arrives may change. -/
def arriveParts : List Part :=
  [.regs, .eng, .reconf, .cores, .tiles, .nodes, .ports, .conns, .hrings, .lpddr, .chans, .swap, .parkq,
   .sports, .pcie, .doms, .drains, .flights, .live, .ids]

/-- The parts that ending a hold may change. -/
def resumeParts : List Part :=
  [.regs, .eng, .reconf, .lrn, .cores, .tiles, .nodes, .ports, .conns, .combs, .hrings, .lpddr, .chans,
   .sports, .sctxs, .paths, .pcie, .log, .doms, .routes, .peers, .flights, .live]

/-! Results that hold a state -/

theorem Only.ofPair {α : Type} {W : List Part} {s t : State} {e : α × State} {a : α} (h : e = (a, t))
    (g : Only W s e.2) : Only W s t := by
  subst h
  exact g

theorem Only.ofPairL {α : Type} {W : List Part} {s t : State} {e : State × α} {a : α} (h : e = (t, a))
    (g : Only W s e.1) : Only W s t := by
  subst h
  exact g

theorem Only.foldlP {α β : Type} {W : List Part} {s : State} {t : State × β} {f : State × β → α → State × β} {l : List α}
    (h : Only W s t.1) (g : ∀ u x, Only W s u.1 → Only W s (f u x).1) : Only W s (l.foldl f t).1 := by
  induction l generalizing t with
  | nil => exact h
  | cons a l ih => exact ih (g t a h)

/-- The state of a pair has changed only parts of W. -/
structure Only.Fst {β : Type} (W : List Part) (s : State) (p : State × β) : Prop where
  only : Only W s p.1

/-- An optional next state has changed only parts of W. -/
inductive Only.Opt (W : List Part) (s : State) : Option State → Prop
  | none : Only.Opt W s none
  | some (t : State) (h : Only W s t) : Only.Opt W s (some t)

theorem Only.opt_none (W : List Part) (s : State) : Only.Opt W s none := .none

theorem Only.opt_some {W : List Part} {s t : State} (h : Only W s t) : Only.Opt W s (some t) :=
  .some t h

theorem Only.ofOpt {W : List Part} {s t : State} {o : Option State} (g : Only.Opt W s o) (h : o = some t) :
    Only W s t := by
  subst h
  cases g with
  | some _ g => exact g

/-- What an entry answers has changed only parts of W. -/
inductive Reply.Only (W : List Part) (s : State) : Reply → Prop
  | refuse (st : Status) : Reply.Only W s (.refuse st)
  | done (st : Status) (d : Bytes) (t : State) (h : Machine.Only W s t) : Reply.Only W s (.done st d t)
  | wait (w : Wait) (t : State) (h : Machine.Only W s t) : Reply.Only W s (.wait w t)

theorem Reply.only_chain {A W : List Part} {s t : State} {r : Reply} (g : Reply.Only A t r)
    (hs : (A.all fun p => W.contains p) = true) (h : Machine.Only W s t) : Reply.Only W s r := by
  cases g with
  | refuse st => exact .refuse st
  | done st d u g => exact .done st d u (Only.chain g hs h)
  | wait w u g => exact .wait w u (Only.chain g hs h)

theorem Reply.only_cut {W : List Part} {s : State} {r : Reply} (t : State) (h : Machine.Only W s t)
    (g : Machine.Only W s t → Reply.Only W s r) : Reply.Only W s r := g h

theorem Reply.only_refuse (W : List Part) (s : State) (st : Status) : Reply.Only W s (.refuse st) :=
  .refuse st

theorem Reply.only_done {W : List Part} {s t : State} (st : Status) (d : Bytes) (h : Machine.Only W s t) :
    Reply.Only W s (.done st d t) := .done st d t h

theorem Reply.only_wait {W : List Part} {s t : State} (w : Wait) (h : Machine.Only W s t) :
    Reply.Only W s (.wait w t) := .wait w t h

theorem Reply.only_okAct {W : List Part} {s t : State} (h : Machine.Only W s t) : Reply.Only W s (okAct t) :=
  .done .ok [] t h

theorem Reply.only_guardAct {W : List Part} {s t : State} (cs : List (Bool × Status)) {f : State → Reply}
    (h : Reply.Only W s (f t)) : Reply.Only W s (guardAct cs t f) := by
  unfold guardAct
  split
  · exact h
  · exact .refuse _

theorem Reply.only_ite {W : List Part} {s : State} {q r : Reply} {c : Prop} [Decidable c] (h : Reply.Only W s q)
    (g : Reply.Only W s r) : Reply.Only W s (if c then q else r) := by
  split
  · exact h
  · exact g

theorem only_clk {W : List Part} {s t : State} {f : State → State} (h : Only W s t) (g : Only W s (f t)) :
    Only W s (t.clk f) := by
  unfold State.clk
  split
  · exact g
  · exact h

/-- A command ends in a next state that differs from s in parts of W only. -/
def Answers (W : List Part) (s : State) (o : Out) : Prop := ∃ t, o = .next t ∧ Only W s t

theorem Answers.next {W : List Part} {s t : State} (h : Only W s t) : Answers W s (.next t) := ⟨t, rfl, h⟩

theorem Answers.ite {W : List Part} {s : State} {a b : Out} {c : Prop} [Decidable c] (h : Answers W s a)
    (g : Answers W s b) : Answers W s (if c then a else b) := by
  split
  · exact h
  · exact g

theorem Answers.mono {A W : List Part} {s : State} {o : Out} (h : Answers A s o)
    (hs : (A.all fun p => W.contains p) = true) : Answers W s o := by
  obtain ⟨t, e, g⟩ := h
  exact ⟨t, e, g.mono hs⟩

theorem Only.all (s t : State) : Only allParts s t := by
  refine ⟨fun p hp => ?_⟩
  exact absurd hp (by cases p <;> decide)

end Sys2Proof.Machine
end

