-- ==== Sys2Proof/Laws/OnlyOps.lean ====
section
/-! SUPPORT. What the operations of Machine/Ops.lean change: for each, the parts of the state beyond which it leaves
    everything as it was. -/

namespace Sys2Proof.Machine

theorem only_wr : ∀ s k v, Only [.regs] s (State.wr s k v) := by
  intro s k v
  unfold State.wr
  dsimp -zeta only [State.mk_regs]
  repeat' first
    | with_reducible exact Only.refl _ _
    | decide
    | (with_reducible apply Only.chain (Only.set_regs _ _))

theorem only_wn : ∀ s k v, Only [.regs] s (State.wn s k v) := by
  intro s k v
  unfold State.wn
  repeat' first
    | with_reducible exact Only.refl _ _
    | decide
    | (with_reducible apply Only.chain (only_wr _ _ _))

theorem only_bumpBy : ∀ s w k n, Only [.regs] s (State.bumpBy s w k n) := by
  intro s w k n
  unfold State.bumpBy
  repeat' first
    | with_reducible exact Only.refl _ _
    | decide
    | (with_reducible apply Only.chain (only_wn _ _ _))

theorem only_bump : ∀ s k, Only [.regs] s (State.bump s k) := by
  intro s k
  unfold State.bump
  repeat' first
    | with_reducible exact Only.refl _ _
    | decide
    | (with_reducible apply Only.chain (only_bumpBy _ _ _ _))

theorem only_bump32 : ∀ s k, Only [.regs] s (State.bump32 s k) := by
  intro s k
  unfold State.bump32
  repeat' first
    | with_reducible exact Only.refl _ _
    | decide
    | (with_reducible apply Only.chain (only_bumpBy _ _ _ _))

theorem only_hwm : ∀ s k v, Only [.regs] s (State.hwm s k v) := by
  intro s k v
  unfold State.hwm
  repeat' first
    | with_reducible exact Only.refl _ _
    | decide
    | (with_reducible apply Only.chain (only_wn _ _ _))
    | split

theorem only_setCore : ∀ s k c, Only [.cores] s (State.setCore s k c) := by
  intro s k c
  unfold State.setCore
  dsimp -zeta only [State.mk_cores]
  repeat' first
    | with_reducible exact Only.refl _ _
    | decide
    | (with_reducible apply Only.chain (Only.set_cores _ _))

theorem only_updCore : ∀ s k f, Only [.cores] s (State.updCore s k f) := by
  intro s k f
  unfold State.updCore
  repeat' first
    | with_reducible exact Only.refl _ _
    | decide
    | (with_reducible apply Only.chain (only_setCore _ _ _))

theorem only_updTile : ∀ s t f, Only [.tiles] s (State.updTile s t f) := by
  intro s t f
  unfold State.updTile
  dsimp -zeta only [State.mk_tiles]
  repeat' first
    | with_reducible exact Only.refl _ _
    | decide
    | (with_reducible apply Only.chain (Only.set_tiles _ _))

theorem only_updNode : ∀ s n f, Only [.nodes] s (State.updNode s n f) := by
  intro s n f
  unfold State.updNode
  dsimp -zeta only [State.mk_nodes]
  repeat' first
    | with_reducible exact Only.refl _ _
    | decide
    | (with_reducible apply Only.chain (Only.set_nodes _ _))

theorem only_updRtr : ∀ s r f, Only [.rtrs] s (State.updRtr s r f) := by
  intro s r f
  unfold State.updRtr
  dsimp -zeta only [State.mk_rtrs]
  repeat' first
    | with_reducible exact Only.refl _ _
    | decide
    | (with_reducible apply Only.chain (Only.set_rtrs _ _))

theorem only_updPort : ∀ s p f, Only [.ports] s (State.updPort s p f) := by
  intro s p f
  unfold State.updPort
  dsimp -zeta only [State.mk_ports]
  repeat' first
    | with_reducible exact Only.refl _ _
    | decide
    | (with_reducible apply Only.chain (Only.set_ports _ _))

theorem only_updConn : ∀ s i f, Only [.conns] s (State.updConn s i f) := by
  intro s i f
  unfold State.updConn
  dsimp -zeta only [State.mk_conns]
  repeat' first
    | with_reducible exact Only.refl _ _
    | decide
    | (with_reducible apply Only.chain (Only.set_conns _ _))

theorem only_updComb : ∀ s q f, Only [.combs] s (State.updComb s q f) := by
  intro s q f
  unfold State.updComb
  dsimp -zeta only [State.mk_combs]
  repeat' first
    | with_reducible exact Only.refl _ _
    | decide
    | (with_reducible apply Only.chain (Only.set_combs _ _))

theorem only_updHring : ∀ s r f, Only [.hrings] s (State.updHring s r f) := by
  intro s r f
  unfold State.updHring
  dsimp -zeta only [State.mk_hrings]
  repeat' first
    | with_reducible exact Only.refl _ _
    | decide
    | (with_reducible apply Only.chain (Only.set_hrings _ _))

theorem only_updChan : ∀ s c f, Only [.chans] s (State.updChan s c f) := by
  intro s c f
  unfold State.updChan
  dsimp -zeta only [State.mk_chans]
  repeat' first
    | with_reducible exact Only.refl _ _
    | decide
    | (with_reducible apply Only.chain (Only.set_chans _ _))

theorem only_updSport : ∀ s p f, Only [.sports] s (State.updSport s p f) := by
  intro s p f
  unfold State.updSport
  dsimp -zeta only [State.mk_sports]
  repeat' first
    | with_reducible exact Only.refl _ _
    | decide
    | (with_reducible apply Only.chain (Only.set_sports _ _))

theorem only_updSctx : ∀ s x f, Only [.sctxs] s (State.updSctx s x f) := by
  intro s x f
  unfold State.updSctx
  dsimp -zeta only [State.mk_sctxs]
  repeat' first
    | with_reducible exact Only.refl _ _
    | decide
    | (with_reducible apply Only.chain (Only.set_sctxs _ _))

theorem only_updMbox : ∀ s i f, Only [.mboxes] s (State.updMbox s i f) := by
  intro s i f
  unfold State.updMbox
  dsimp -zeta only [State.mk_mboxes]
  repeat' first
    | with_reducible exact Only.refl _ _
    | decide
    | (with_reducible apply Only.chain (Only.set_mboxes _ _))

theorem only_updPeer : ∀ s e f, Only [.peers] s (State.updPeer s e f) := by
  intro s e f
  unfold State.updPeer
  dsimp -zeta only [State.mk_peers]
  repeat' first
    | with_reducible exact Only.refl _ _
    | decide
    | (with_reducible apply Only.chain (Only.set_peers _ _))

theorem only_updPathN : ∀ s n f, Only [.paths] s (State.updPathN s n f) := by
  intro s n f
  unfold State.updPathN
  dsimp -zeta only [State.mk_paths]
  repeat' first
    | with_reducible exact Only.refl _ _
    | decide
    | (with_reducible apply Only.chain (Only.set_paths _ _))

theorem only_updPath : ∀ s p f, Only [.paths] s (State.updPath s p f) := by
  intro s p f
  unfold State.updPath
  repeat' first
    | with_reducible exact Only.refl _ _
    | decide
    | (with_reducible apply Only.chain (only_updPathN _ _ _))

theorem only_fresh : ∀ s, Only [.ids] s (State.fresh s).2 := by
  intro s
  unfold State.fresh
  dsimp -zeta only [State.mk_ids]
  repeat' first
    | with_reducible exact Only.refl _ _
    | decide
    | (with_reducible apply Only.chain (Only.set_ids _ _))

theorem only_updDom : ∀ s d f, Only [.doms] s (State.updDom s d f) := by
  intro s d f
  unfold State.updDom
  dsimp -zeta only [State.mk_doms]
  repeat' first
    | with_reducible exact Only.refl _ _
    | decide
    | (with_reducible apply Only.chain (Only.set_doms _ _))

theorem only_startWake : ∀ s d src, Only [.regs, .doms] s (State.startWake s d src) := by
  intro s d src
  unfold State.startWake
  repeat' first
    | with_reducible exact Only.refl _ _
    | decide
    | (with_reducible apply Only.chain (only_bump _ _))
    | (with_reducible apply Only.chain (only_updDom _ _ _))
    | (with_reducible apply Only.chain (only_wn _ _ _))

theorem only_wake : ∀ s d src, Only [.regs, .doms] s (State.wake s d src) := by
  intro s d src
  unfold State.wake
  repeat' first
    | intro z
    | with_reducible exact Only.refl _ _
    | decide
    | (with_reducible apply Only.chain (only_startWake _ _ _))
    | (with_reducible apply Only.chain (only_updDom _ _ _))
    | (lift_lets; intro z)
    | split

theorem only_addSent : ∀ s k tag n, Only [.nodes] s (State.addSent s k tag n) := by
  intro s k tag n
  unfold State.addSent
  repeat' first
    | with_reducible exact Only.refl _ _
    | decide
    | (with_reducible apply Only.chain (only_updNode _ _ _))

theorem only_addAcc : ∀ s k tag n, Only [.nodes] s (State.addAcc s k tag n) := by
  intro s k tag n
  unfold State.addAcc
  repeat' first
    | with_reducible exact Only.refl _ _
    | decide
    | (with_reducible apply Only.chain (only_updNode _ _ _))

theorem only_raise : ∀ s v, Only [.pcie] s (State.raise s v) := by
  intro s v
  unfold State.raise
  dsimp -zeta only [State.mk_pcie]
  repeat' first
    | with_reducible exact Only.refl _ _
    | decide
    | (with_reducible apply Only.chain (Only.set_pcie _ _))
    | (lift_lets; intro z)
    | split

theorem only_setWhy : ∀ s v, Only [.regs] s (State.setWhy s v) := by
  intro s v
  unfold State.setWhy
  repeat' first
    | (intro z; refine Only.cut z ?_ ?_; (on_goal 2 => (intro hz; clear_value z)); (on_goal 1 => unfold z))
    | intro z
    | with_reducible exact Only.refl _ _
    | with_reducible assumption
    | decide
    | (with_reducible apply Only.chain (only_wn _ _ _))
    | (with_reducible apply Only.chain (only_bump32 _ _))
    | (lift_lets; intro z)
    | split

theorem only_whyBit : ∀ s n fails, Only [.regs] s (State.whyBit s n fails) := by
  intro s n fails
  unfold State.whyBit
  repeat' first
    | with_reducible exact Only.refl _ _
    | decide
    | (with_reducible apply Only.chain (only_setWhy _ _))

theorem only_whyRing : ∀ s, Only [.regs] s (State.whyRing s) := by
  intro s
  unfold State.whyRing
  repeat' first
    | with_reducible exact Only.refl _ _
    | decide
    | (with_reducible apply Only.chain (only_whyBit _ _ _))

theorem only_post : ∀ s kind status aux loc detail, Only [.regs, .log] s (State.post s kind status aux loc detail) := by
  intro s kind status aux loc detail
  unfold State.post
  dsimp -zeta only [State.mk_log]
  repeat' first
    | (intro z; refine Only.cut z ?_ ?_; (on_goal 2 => (intro hz; clear_value z)); (on_goal 1 => unfold z))
    | intro z
    | with_reducible exact Only.refl _ _
    | with_reducible assumption
    | decide
    | (with_reducible apply Only.chain (only_bump _ _))
    | (with_reducible apply Only.chain (only_whyRing _))
    | (with_reducible apply Only.chain (Only.set_log _ _))
    | (lift_lets; intro z)
    | split

theorem only_answer : ∀ s n st hkc data, Only [.paths] s (State.answer s n st hkc data) := by
  intro s n st hkc data
  unfold State.answer
  repeat' first
    | with_reducible exact Only.refl _ _
    | decide
    | (with_reducible apply Only.chain (only_updPathN _ _ _))

/-- Serving an access changes the path and what the entry's act changes. -/
theorem only_serve {A W : List Part} {s t : State} (p : Path) (hkc : Bool) (idx sub : Nat) {act : Act}
    (h : ∀ u, Reply.Only A u (act u)) (hp : W.contains .paths = true)
    (hs : (A.all fun p => W.contains p) = true) (g : Only W s t) : Only W s (serve p hkc idx sub act t) := by
  have hp' : (([.paths] : List Part).all fun p => W.contains p) = true := by simpa using hp
  have ha := h t
  unfold serve
  dsimp only
  split
  · exact Only.chain (only_answer ..) hp' g
  · rename_i e
    rw [e] at ha
    cases ha with
    | done _ _ _ ha =>
      split
      · exact Only.chain (only_answer ..) hp' (Only.chain ha hs g)
      · exact Only.chain (only_answer ..) hp' g
  · rename_i e
    rw [e] at ha
    cases ha with
    | wait _ _ ha =>
      split
      · exact Only.chain (only_updPath ..) hp' (Only.chain ha hs g)
      · exact Only.chain (only_answer ..) hp' g

theorem only_openWindow : ∀ s p addr ctl data, Only [.paths] s (State.openWindow s p addr ctl data) := by
  intro s p addr ctl data
  unfold State.openWindow
  repeat' first
    | with_reducible exact Only.refl _ _
    | decide
    | (with_reducible apply Only.chain (only_updPath _ _ _))

theorem only_serveOp {A W : List Part} {s t : State} (p : Path) (hkc : Bool) (op idx sub : Nat) (data : Bytes) {act : Act}
    (h : ∀ u, Reply.Only A u (act u)) (hp : (([.regs, .paths, .doms] : List Part).all fun p => W.contains p) = true)
    (hs : (A.all fun p => W.contains p) = true) (g : Only W s t) : Only W s (serveOp p hkc op idx sub data act t) := by
  have hp1 : (([.paths] : List Part).all fun p => W.contains p) = true := by simp_all
  have hp2 : (([.regs, .doms] : List Part).all fun p => W.contains p) = true := by simp_all
  unfold serveOp
  split
  · exact Only.chain (only_wake ..) hp2 (Only.chain (only_updPath ..) hp1 g)
  · exact only_serve p hkc idx sub h (by simp_all) hs g

/-- An operation of a path changes the path, DICT.WIN_OVERRUN or the waking HKC domain, and what the entry's act changes. -/
theorem only_operate {A W : List Part} {s t : State} (p : Path) (hkc : Bool) (op idx sub : Nat) (data : Bytes) {act : Act}
    (h : ∀ u, Reply.Only A u (act u)) (hp : (([.regs, .paths, .doms] : List Part).all fun p => W.contains p) = true)
    (hs : (A.all fun p => W.contains p) = true) (g : Only W s t) : Only W s (operate p hkc op idx sub data act t) := by
  unfold operate
  split
  · exact g
  · split
    · exact Only.chain (only_bump32 ..) (by simp_all) g
    · exact only_serveOp p hkc op idx sub data h hp hs (Only.chain (only_openWindow ..) (by simp_all) g)

theorem only_finish : ∀ s n w hkc st, Only [.paths] s (State.finish s n w hkc st) := by
  intro s n w hkc st
  unfold State.finish
  repeat' first
    | with_reducible exact Only.refl _ _
    | decide
    | (with_reducible apply Only.chain (only_answer _ _ _ _ _))
    | split

end Sys2Proof.Machine
end

