-- ==== Sys2Proof/Laws/OnlyCoreOps.lean ====
section
/-! SUPPORT. What the operations of Machine/CoreOps.lean change: for each, the parts of the state beyond which it leaves
    everything as it was. -/

namespace Sys2Proof.Machine

theorem only_inject : ∀ s n v i, Only [.nodes] s (State.inject s n v i) := by
  intro s n v i
  unfold State.inject
  repeat' first
    | with_reducible exact Only.refl _ _
    | decide
    | (with_reducible apply Only.chain (only_updNode _ _ _))

theorem only_itemEnd : ∀ s id, Only [.live] s (State.itemEnd s id) := by
  intro s id
  unfold State.itemEnd
  dsimp -zeta only [State.mk_live]
  repeat' first
    | with_reducible exact Only.refl _ _
    | decide
    | (with_reducible apply Only.chain (Only.set_live _ _))

theorem only_await : ∀ s id k, Only [.live] s (State.await s id k) := by
  intro s id k
  unfold State.await
  dsimp -zeta only [State.mk_live]
  repeat' first
    | with_reducible exact Only.refl _ _
    | decide
    | (with_reducible apply Only.chain (Only.set_live _ _))

theorem only_itemFork : ∀ s id, Only [.live] s (State.itemFork s id) := by
  intro s id
  unfold State.itemFork
  dsimp -zeta only [State.mk_live]
  repeat' first
    | with_reducible exact Only.refl _ _
    | decide
    | (with_reducible apply Only.chain (Only.set_live _ _))
    | split

theorem only_itemGone : ∀ s n i, Only [.nodes, .live] s (State.itemGone s n i) := by
  intro s n i
  unfold State.itemGone
  repeat' first
    | with_reducible exact Only.refl _ _
    | decide
    | (with_reducible apply Only.chain (only_itemEnd _ _))
    | (with_reducible apply Only.chain (only_addAcc _ _ _ _))
    | split

theorem only_flightEnd : ∀ s f k, Only [.nodes, .flights] s (State.flightEnd s f k) := by
  intro s f k
  unfold State.flightEnd
  dsimp -zeta only [State.mk_flights]
  repeat' first
    | with_reducible exact Only.refl _ _
    | with_reducible assumption
    | decide
    | (with_reducible apply Only.chain (only_addAcc _ _ _ _))
    | (with_reducible apply Only.chain (Only.set_flights _ _))
    | (lift_lets; intro z; refine Only.cut z ?_ ?_; (on_goal 2 => (intro hz; clear_value z)); (on_goal 1 => unfold z))
    | split

theorem only_flightMore : ∀ s f k, Only [.flights] s (State.flightMore s f k) := by
  intro s f k
  unfold State.flightMore
  dsimp -zeta only [State.mk_flights]
  repeat' first
    | with_reducible exact Only.refl _ _
    | decide
    | (with_reducible apply Only.chain (Only.set_flights _ _))
    | split

theorem only_flightSplit : ∀ s f n, Only [.nodes, .flights] s (State.flightSplit s f n) := by
  intro s f n
  unfold State.flightSplit
  repeat' first
    | with_reducible exact Only.refl _ _
    | decide
    | (with_reducible apply Only.chain (only_flightEnd _ _ _))
    | (with_reducible apply Only.chain (only_flightMore _ _ _))
    | split

theorem only_dropRings : ∀ s t sl, Only [.regs, .tiles] s (State.dropRings s t sl) := by
  intro s t sl
  unfold State.dropRings
  repeat' first
    | with_reducible exact Only.refl _ _
    | decide
    | (with_reducible apply Only.chain (only_bumpBy _ _ _ _))
    | (with_reducible apply Only.chain (only_updTile _ _ _))

theorem only_dropHeld : ∀ s t sl, Only [.regs, .tiles, .nodes, .flights, .live] s (State.dropHeld s t sl) := by
  intro s t sl
  unfold State.dropHeld
  repeat' first
    | with_reducible exact Only.refl _ _
    | with_reducible assumption
    | decide
    | (with_reducible apply Only.chain (only_itemEnd _ _))
    | (with_reducible apply Only.chain (only_bumpBy _ _ _ _))
    | (with_reducible apply Only.chain (only_flightEnd _ _ _))
    | (with_reducible apply Only.chain (only_updTile _ _ _))
    | (with_reducible apply Only.foldl; on_goal 2 => intro _ _ _)

theorem only_nightEnd : ∀ s ticks, Only [.regs, .paths] s (State.nightEnd s ticks) := by
  intro s ticks
  unfold State.nightEnd
  repeat' first
    | with_reducible exact Only.refl _ _
    | with_reducible assumption
    | decide
    | (with_reducible apply Only.chain (only_bumpBy _ _ _ _))
    | (with_reducible apply Only.chain (only_hwm _ _ _))
    | (with_reducible apply Only.chain (only_finish _ _ _ _ _))
    | (with_reducible apply Only.foldl; on_goal 2 => intro _ _ _)
    | (lift_lets; intro z; refine Only.cut z ?_ ?_; (on_goal 2 => (intro hz; clear_value z)); (on_goal 1 => unfold z))
    | split

theorem only_nightLeft : ∀ s was, Only [.regs, .paths, .free] s (State.nightLeft s was) := by
  intro s was
  unfold State.nightLeft
  dsimp -zeta only [State.mk_free]
  repeat' first
    | with_reducible exact Only.refl _ _
    | decide
    | (with_reducible apply Only.chain (only_nightEnd _ _))
    | (with_reducible apply Only.chain (Only.set_free _ _))
    | split

theorem only_fenceCore : ∀ s k cause,
    Only [.regs, .boot, .cores, .tiles, .nodes, .paths, .flights, .live, .free] s (State.fenceCore s k cause) := by
  intro s k cause
  unfold State.fenceCore
  dsimp -zeta only [State.mk_boot]
  repeat' first
    | (intro z; refine Only.cut z ?_ ?_; (on_goal 2 => (intro hz; clear_value z)); (on_goal 1 => unfold z))
    | intro z
    | with_reducible exact Only.refl _ _
    | with_reducible assumption
    | decide
    | with_reducible rfl
    | (with_reducible apply Only.chain (only_bumpBy _ _ _ _))
    | (with_reducible apply Only.chain (only_flightEnd _ _ _))
    | (with_reducible apply Only.chain (only_nightLeft _ _))
    | (with_reducible apply Only.chain (only_dropRings _ _ _))
    | (with_reducible apply Only.chain (only_setCore _ _ _))
    | (with_reducible apply Only.chain (only_dropHeld _ _ _))
    | (with_reducible apply Only.chain (Only.set_bootK _ _ ?_))
    | (with_reducible apply Only.foldl; on_goal 2 => intro _ _ _)
    | (lift_lets; intro z)
    | split

theorem only_residue : ∀ s k mode,
    Only [.regs, .boot, .cores, .tiles, .nodes, .paths, .log, .flights, .live, .free] s (State.residue s k mode) := by
  intro s k mode
  unfold State.residue
  repeat' first
    | with_reducible exact Only.refl _ _
    | decide
    | (with_reducible apply Only.chain (only_post _ _ _ _ _ _))
    | (with_reducible apply Only.chain (only_updCore _ _ _))
    | (with_reducible apply Only.chain (only_fenceCore _ _ _))

end Sys2Proof.Machine
end

