-- ==== Sys2Proof/Laws/OnlyConns.lean ====
section
/-! SUPPORT. What the operations of Machine/Conns.lean change: for each, the parts of the state beyond which it leaves
    everything as it was. -/

namespace Sys2Proof.Machine

theorem only_setQueue : ∀ s t sl q v, Only [.tiles] s (State.setQueue s t sl q v) := by
  intro s t sl q v
  unfold State.setQueue
  repeat' first
    | with_reducible exact Only.refl _ _
    | decide
    | (with_reducible apply Only.chain (only_updTile _ _ _))

theorem only_creditBack : ∀ s i, Only [.conns] s (State.creditBack s i) := by
  intro s i
  unfold State.creditBack
  repeat' first
    | with_reducible exact Only.refl _ _
    | decide
    | (with_reducible apply Only.chain (only_updConn _ _ _))

theorem only_postDesc : ∀ s st handle ring entry, Only [.regs, .log] s (State.postDesc s st handle ring entry) := by
  intro s st handle ring entry
  unfold State.postDesc
  repeat' first
    | with_reducible exact Only.refl _ _
    | decide
    | (with_reducible apply Only.chain (only_post _ _ _ _ _ _))

theorem only_takeDesc : ∀ s i n core lcid await w,
    Only [.nodes, .conns, .live, .ids] s (State.takeDesc s i n core lcid await w) := by
  intro s i n core lcid await w
  unfold State.takeDesc
  dsimp -zeta only [State.mk_ids]
  repeat' first
    | with_reducible exact Only.refl _ _
    | decide
    | (with_reducible apply Only.chain (only_inject _ _ _ _))
    | (with_reducible apply Only.chain (only_updConn _ _ _))
    | (with_reducible apply Only.chain (only_await _ _ _))
    | (with_reducible apply Only.chain (Only.set_ids _ _))
    | split

theorem only_send : ∀ s k h n, Only [.cores, .nodes, .conns, .live, .ids] s (State.send s k h n) := by
  intro s k h n
  unfold State.send
  repeat' first
    | intro z
    | with_reducible exact Only.refl _ _
    | decide
    | (with_reducible apply Only.chain (only_takeDesc _ _ _ _ _ _ _))
    | (with_reducible apply Only.chain (only_setCore _ _ _))
    | (lift_lets; intro z)
    | split

theorem only_retrySend : ∀ s k, Only [.cores, .nodes, .conns, .live, .ids] s (State.retrySend s k) := by
  intro s k
  unfold State.retrySend
  repeat' first
    | with_reducible exact Only.refl _ _
    | decide
    | (with_reducible apply Only.chain (only_send _ _ _ _))
    | split

theorem only_resumeSends : ∀ s t, Only [.cores, .nodes, .conns, .live, .ids] s (State.resumeSends s t) := by
  intro s t
  unfold State.resumeSends
  repeat' first
    | with_reducible exact Only.refl _ _
    | with_reducible assumption
    | decide
    | (with_reducible apply Only.chain (only_retrySend _ _))
    | (with_reducible apply Only.foldl; on_goal 2 => intro _ _ _)
    | split

theorem only_recv : ∀ s k h n, Only [.regs, .cores, .tiles, .conns, .log] s (State.recv s k h n) := by
  intro s k h n
  unfold State.recv
  repeat' first
    | (intro z; refine Only.cut z ?_ ?_; (on_goal 2 => (intro hz; clear_value z)); (on_goal 1 => unfold z))
    | intro z
    | with_reducible exact Only.refl _ _
    | with_reducible assumption
    | decide
    | (with_reducible apply Only.chain (only_creditBack _ _))
    | (with_reducible apply Only.chain (only_bump _ _))
    | (with_reducible apply Only.chain (only_setQueue _ _ _ _ _))
    | (with_reducible apply Only.chain (only_postDesc _ _ _ _ _))
    | (with_reducible apply Only.chain (only_setCore _ _ _))
    | (lift_lets; intro z)
    | split

theorem only_combine : ∀ s k first w, Only [.cores, .nodes, .conns, .live, .ids] s (State.combine s k first w) := by
  intro s k first w
  unfold State.combine
  dsimp -zeta only [State.mk_ids]
  repeat' first
    | (intro z; refine Only.cut z ?_ ?_; (on_goal 2 => (intro hz; clear_value z)); (on_goal 1 => unfold z))
    | intro z
    | with_reducible exact Only.refl _ _
    | with_reducible assumption
    | decide
    | (with_reducible apply Only.chain (only_inject _ _ _ _))
    | (with_reducible apply Only.chain (only_setCore _ _ _))
    | (with_reducible apply Only.chain (only_updConn _ _ _))
    | (with_reducible apply Only.chain (only_await _ _ _))
    | (with_reducible apply Only.chain (Only.set_ids _ _))
    | (lift_lets; intro z)
    | split

theorem only_combineDone : ∀ s k id, Only [.cores] s (State.combineDone s k id) := by
  intro s k id
  unfold State.combineDone
  repeat' first
    | intro z
    | with_reducible exact Only.refl _ _
    | decide
    | (with_reducible apply Only.chain (only_setCore _ _ _))
    | (lift_lets; intro z)
    | split

end Sys2Proof.Machine
end

