-- ==== Sys2Proof/Laws/OnlyPass.lean ====
section
/-! SUPPORT. What the operations of Machine/Pass.lean change: for each, the parts of the state beyond which it leaves
    everything as it was. -/

namespace Sys2Proof.Machine

theorem only_execNop : ∀ k s, Answers [.cores] s (execNop k s) := by
  intro k s
  unfold execNop
  repeat' first
    | with_reducible exact Only.refl _ _
    | decide
    | (with_reducible apply Answers.next)
    | (with_reducible apply Only.chain (only_updCore _ _ _))
    | split

theorem only_execFire : ∀ k s, Answers [.cores] s (execFire k s) := by
  intro k s
  unfold execFire
  repeat' first
    | with_reducible exact Only.refl _ _
    | decide
    | (with_reducible apply Answers.next)
    | (with_reducible apply Only.chain (only_updCore _ _ _))
    | split

theorem only_execLeak : ∀ k s, Answers [.cores] s (execLeak k s) := by
  intro k s
  unfold execLeak
  repeat' first
    | with_reducible exact Only.refl _ _
    | decide
    | (with_reducible apply Answers.next)
    | (with_reducible apply Only.chain (only_updCore _ _ _))
    | split

theorem only_execTrace : ∀ k s, Answers [.cores] s (execTrace k s) := by
  intro k s
  unfold execTrace
  repeat' first
    | with_reducible exact Only.refl _ _
    | decide
    | (with_reducible apply Answers.next)
    | (with_reducible apply Only.chain (only_updCore _ _ _))
    | split

theorem only_denseEntry : ∀ s k beats bad,
    Only [.regs, .boot, .cores, .tiles, .nodes, .paths, .log, .flights, .live, .free] s (State.denseEntry s k beats bad) := by
  intro s k beats bad
  unfold State.denseEntry
  repeat' first
    | (intro z; refine Only.cut z ?_ ?_; (on_goal 2 => (intro hz; clear_value z)); (on_goal 1 => unfold z))
    | intro z
    | with_reducible exact Only.refl _ _
    | with_reducible assumption
    | decide
    | (with_reducible apply Only.chain (only_residue _ _ _))
    | (with_reducible apply Only.chain (only_updCore _ _ _))
    | (with_reducible apply Only.chain (only_updTile _ _ _))
    | (with_reducible apply Only.chain (only_setCore _ _ _))
    | (with_reducible apply Only.chain (only_fenceCore _ _ _))
    | (lift_lets; intro z)
    | split

theorem only_execDense : ∀ k w s,
    Answers [.regs, .boot, .cores, .tiles, .nodes, .paths, .log, .flights, .live, .free] s (execDense k w s) := by
  intro k w s
  unfold execDense
  repeat' first
    | with_reducible exact Only.refl _ _
    | decide
    | (with_reducible apply Answers.next)
    | (with_reducible apply Only.chain (only_denseEntry _ _ _ _))
    | split

theorem only_execSend : ∀ k s, Answers [.cores, .nodes, .conns, .live, .ids] s (execSend k s) := by
  intro k s
  unfold execSend
  repeat' first
    | with_reducible exact Only.refl _ _
    | decide
    | (with_reducible apply Answers.next)
    | (with_reducible apply Only.chain (only_send _ _ _ _))
    | split

theorem only_execRecv : ∀ k s, Answers [.regs, .cores, .tiles, .conns, .log] s (execRecv k s) := by
  intro k s
  unfold execRecv
  repeat' first
    | with_reducible exact Only.refl _ _
    | decide
    | (with_reducible apply Answers.next)
    | (with_reducible apply Only.chain (only_recv _ _ _ _))
    | split

theorem only_combineEntry : ∀ s k, Only [.cores, .nodes, .conns, .live, .ids] s (State.combineEntry s k) := by
  intro s k
  unfold State.combineEntry
  repeat' first
    | with_reducible exact Only.refl _ _
    | decide
    | (with_reducible apply Only.chain (only_combine _ _ _ _))
    | (with_reducible apply Only.chain (only_updCore _ _ _))

theorem only_execCombine : ∀ k s, Answers [.cores, .nodes, .conns, .live, .ids] s (execCombine k s) := by
  intro k s
  unfold execCombine
  repeat' first
    | with_reducible exact Only.refl _ _
    | decide
    | (with_reducible apply Answers.next)
    | (with_reducible apply Only.chain (only_combineEntry _ _))
    | split

theorem only_execFence : ∀ k s, Answers [.cores] s (execFence k s) := by
  intro k s
  unfold execFence
  repeat' first
    | with_reducible exact Only.refl _ _
    | decide
    | (with_reducible apply Answers.next)
    | (with_reducible apply Only.chain (only_updCore _ _ _))
    | split

theorem only_execFenceDone : ∀ k s, Answers [.cores] s (execFenceDone k s) := by
  intro k s
  unfold execFenceDone
  repeat' first
    | with_reducible exact Only.refl _ _
    | decide
    | (with_reducible apply Answers.next)
    | (with_reducible apply Only.chain (only_updCore _ _ _))
    | split

theorem only_execRepeatOp : ∀ k s, Answers [.cores] s (execRepeatOp k s) := by
  intro k s
  unfold execRepeatOp
  repeat' first
    | with_reducible exact Only.refl _ _
    | decide
    | (with_reducible apply Answers.next)
    | (with_reducible apply Only.chain (only_updCore _ _ _))
    | split

theorem only_execWaitstep : ∀ k s, Answers [.cores] s (execWaitstep k s) := by
  intro k s
  unfold execWaitstep
  repeat' first
    | with_reducible exact Only.refl _ _
    | decide
    | (with_reducible apply Answers.next)
    | (with_reducible apply Only.chain (only_updCore _ _ _))
    | split

theorem only_stallLimit : ∀ s k, Only [.regs, .cores, .log] s (State.stallLimit s k) := by
  intro s k
  unfold State.stallLimit
  repeat' first
    | with_reducible exact Only.refl _ _
    | decide
    | (with_reducible apply Only.chain (only_post _ _ _ _ _ _))
    | (with_reducible apply Only.chain (only_setCore _ _ _))

theorem only_execStallLimitReached : ∀ k s, Answers [.regs, .cores, .log] s (execStallLimitReached k s) := by
  intro k s
  unfold execStallLimitReached
  repeat' first
    | with_reducible exact Only.refl _ _
    | decide
    | (with_reducible apply Answers.next)
    | (with_reducible apply Only.chain (only_stallLimit _ _))
    | split

end Sys2Proof.Machine
end

