-- ==== Sys2Proof/Laws/OnlyCoreCmds.lean ====
section
/-! SUPPORT. What the operations of Machine/CoreCmds.lean change: for each, the parts of the state beyond which it leaves
    everything as it was. -/

namespace Sys2Proof.Machine

theorem only_ringPut : ∀ s t q, Only [.regs, .tiles, .nodes, .flights] s (State.ringPut s t q) := by
  intro s t q
  unfold State.ringPut
  repeat' first
    | with_reducible exact Only.refl _ _
    | decide
    | (with_reducible apply Only.chain (only_flightEnd _ _ _))
    | (with_reducible apply Only.chain (only_hwm _ _ _))
    | (with_reducible apply Only.chain (only_updTile _ _ _))

theorem only_ringTake : ∀ s t sl g, Only [.tiles] s (State.ringTake s t sl g).2 := by
  intro s t sl g
  unfold State.ringTake
  repeat' first
    | with_reducible exact Only.refl _ _
    | decide
    | (with_reducible apply Only.chain (only_updTile _ _ _))

theorem only_fenceDrop : ∀ s t, Only [.regs] s (State.fenceDrop s t) := by
  intro s t
  unfold State.fenceDrop
  repeat' first
    | with_reducible exact Only.refl _ _
    | decide
    | (with_reducible apply Only.chain (only_bumpBy _ _ _ _))

theorem only_spillFlit : ∀ s t at' f, Only [.tiles] s (State.spillFlit s t at' f) := by
  intro s t at' f
  unfold State.spillFlit
  repeat' first
    | with_reducible exact Only.refl _ _
    | decide
    | (with_reducible apply Only.chain (only_updTile _ _ _))
    | split

theorem only_handCopy : ∀ s t q, Only.Opt [.regs, .cores, .tiles, .nodes, .flights, .live] s (State.handCopy s t q) := by
  intro s t q
  unfold State.handCopy
  repeat' first
    | with_reducible exact Only.refl _ _
    | decide
    | (with_reducible exact Only.opt_none _ _)
    | (with_reducible apply Only.opt_some)
    | (with_reducible apply Only.chain (only_bump _ _))
    | (with_reducible apply Only.chain (only_spillFlit _ _ _ _))
    | (with_reducible apply Only.chain (only_inject _ _ _ _))
    | (with_reducible apply Only.chain (only_bumpBy _ _ _ _))
    | (with_reducible apply Only.chain (only_fenceDrop _ _))
    | (with_reducible apply Only.chain (only_flightEnd _ _ _))
    | (with_reducible apply Only.chain (only_itemFork _ _))
    | (with_reducible apply Only.chain (only_setCore _ _ _))
    | (with_reducible apply Only.chain (only_ringPut _ _ _))
    | (lift_lets; intro z)
    | split

theorem only_pump : ∀ t x1 x2, Only [.regs, .cores, .tiles, .nodes, .flights, .live] x2 (State.pump t x1 x2) := by
  intro t x1
  induction x1 with
  | nil => intro x2; exact Only.chain (only_updTile _ _ _) (by decide) (Only.refl _ _)
  | cons q rest ih =>
    intro x2
    unfold State.pump
    split
    · have h := (Only.ofOpt (only_handCopy _ _ _) ‹_›).mono (W := [.regs, .cores, .tiles, .nodes, .flights, .live]) (by decide)
      split
      · exact h.trans (ih _)
      · exact (h.trans ((only_itemEnd _ _).mono (by decide))).trans (ih _)
    · exact Only.chain (only_updTile _ _ _) (by decide) (Only.refl _ _)

theorem only_pumpTile : ∀ s t, Only [.regs, .cores, .tiles, .nodes, .flights, .live] s (State.pumpTile s t) := by
  intro s t
  unfold State.pumpTile
  repeat' first
    | with_reducible exact Only.refl _ _
    | decide
    | (with_reducible apply Only.chain (only_pump _ _ _))

theorem only_execDelayRingPlace : ∀ t s,
    Answers [.regs, .cores, .tiles, .nodes, .flights, .live] s (execDelayRingPlace t s) := by
  intro t s
  unfold execDelayRingPlace
  repeat' first
    | with_reducible exact Only.refl _ _
    | decide
    | (with_reducible apply Answers.next)
    | (with_reducible apply Only.chain (only_pumpTile _ _))
    | split

theorem only_applied : ∀ s k fl r,
    Only [.regs, .boot, .cores, .tiles, .nodes, .paths, .log, .flights, .live, .free] s (State.applied s k fl r) := by
  intro s k fl r
  unfold State.applied
  repeat' first
    | (intro z; refine Only.cut z ?_ ?_; (on_goal 2 => (intro hz; clear_value z)); (on_goal 1 => unfold z))
    | with_reducible exact Only.refl _ _
    | with_reducible assumption
    | decide
    | (with_reducible apply Only.chain (only_residue _ _ _))
    | (with_reducible apply Only.chain (only_fenceDrop _ _))
    | (with_reducible apply Only.chain (only_flightSplit _ _ _))
    | (with_reducible apply Only.chain (only_setCore _ _ _))
    | (lift_lets; intro z)
    | split

theorem only_applyOn : ∀ s k f fl x bad,
    Only [.regs, .boot, .cores, .tiles, .nodes, .paths, .log, .flights, .live, .free] s (State.applyOn s k f fl x bad) := by
  intro s k f fl x bad
  unfold State.applyOn
  repeat' first
    | with_reducible exact Only.refl _ _
    | decide
    | (with_reducible apply Only.chain (only_applied _ _ _ _))

theorem only_applyBeside : ∀ s k q bad,
    Only [.regs, .boot, .cores, .tiles, .nodes, .paths, .log, .flights, .live, .free] s (State.applyBeside s k q bad) := by
  intro s k q bad
  unfold State.applyBeside
  repeat' first
    | with_reducible exact Only.refl _ _
    | decide
    | (with_reducible apply Only.chain (only_applied _ _ _ _))
    | (with_reducible apply Only.chain (only_updTile _ _ _))

theorem only_refill : ∀ s k,
    Only [.regs, .boot, .cores, .tiles, .nodes, .paths, .flights, .live, .free] s (State.refill s k) := by
  intro s k
  unfold State.refill
  repeat' first
    | with_reducible exact Only.refl _ _
    | decide
    | (with_reducible apply Only.chain (only_updCore _ _ _))
    | (with_reducible apply Only.chain (only_fenceCore _ _ _))
    | split

theorem only_accumulate : ∀ s k bad,
    Only [.regs, .boot, .cores, .tiles, .nodes, .paths, .log, .flights, .live, .free] s (State.accumulate s k bad) := by
  intro s k bad
  unfold State.accumulate
  repeat' first
    | intro z
    | with_reducible exact Only.refl _ _
    | with_reducible assumption
    | decide
    | (with_reducible apply Only.chain (only_applyOn _ _ _ _ _ _))
    | (with_reducible apply Only.chain (only_pumpTile _ _))
    | (with_reducible apply Only.chain (only_refill _ _))
    | (with_reducible apply Only.chain (only_setCore _ _ _))
    | (with_reducible apply Only.chain (only_fenceCore _ _ _))
    | (with_reducible apply Only.chain (only_ringTake _ _ _ _))
    | (with_reducible apply Only.chain (only_applyBeside _ _ _ _))
    | (lift_lets; intro z; refine Only.cut z ?_ ?_; (on_goal 2 => (intro hz; clear_value z)); (on_goal 1 => unfold z))
    | (lift_lets; intro z)
    | split

theorem only_execEventAccumulate : ∀ k bad s,
    Answers [.regs, .boot, .cores, .tiles, .nodes, .paths, .log, .flights, .live, .free] s (execEventAccumulate k bad s) := by
  intro k bad s
  unfold execEventAccumulate
  repeat' first
    | with_reducible exact Only.refl _ _
    | decide
    | (with_reducible apply Answers.next)
    | (with_reducible apply Only.chain (only_accumulate _ _ _))
    | split

theorem only_handRecord : ∀ s k j handle readout value,
    Only [.tiles, .nodes, .live, .ids] s (State.handRecord s k j handle readout value) := by
  intro s k j handle readout value
  unfold State.handRecord
  dsimp -zeta only [State.mk_ids]
  repeat' first
    | with_reducible exact Only.refl _ _
    | decide
    | (with_reducible apply Only.chain (only_addSent _ _ _ _))
    | (with_reducible apply Only.chain (only_updTile _ _ _))
    | (with_reducible apply Only.chain (only_await _ _ _))
    | (with_reducible apply Only.chain (Only.set_ids _ _))

theorem only_handEvent : ∀ s k f, Only [.nodes, .live, .ids] s (State.handEvent s k f) := by
  intro s k f
  unfold State.handEvent
  dsimp -zeta only [State.mk_ids]
  repeat' first
    | with_reducible exact Only.refl _ _
    | decide
    | (with_reducible apply Only.chain (only_inject _ _ _ _))
    | (with_reducible apply Only.chain (only_addSent _ _ _ _))
    | (with_reducible apply Only.chain (only_await _ _ _))
    | (with_reducible apply Only.chain (Only.set_ids _ _))

theorem only_emitOne : ∀ s k j rest, Only [.cores, .tiles, .nodes, .live, .ids] s (State.emitOne s k j rest) := by
  intro s k j rest
  unfold State.emitOne
  repeat' first
    | (intro z; refine Only.cut z ?_ ?_; (on_goal 2 => (intro hz; clear_value z)); (on_goal 1 => unfold z))
    | intro z
    | with_reducible exact Only.refl _ _
    | with_reducible assumption
    | decide
    | (with_reducible apply Only.chain (only_handRecord _ _ _ _ _ _))
    | (with_reducible apply Only.chain (only_setCore _ _ _))
    | (with_reducible apply Only.chain (only_handEvent _ _ _))
    | (lift_lets; intro z)
    | split

theorem only_emitEnd : ∀ s k j n, Only [.cores, .nodes, .flights] s (State.emitEnd s k j n) := by
  intro s k j n
  unfold State.emitEnd
  repeat' first
    | with_reducible exact Only.refl _ _
    | decide
    | (with_reducible apply Only.chain (only_flightEnd _ _ _))
    | (with_reducible apply Only.chain (only_setCore _ _ _))
    | split

theorem only_emit : ∀ s k credit, Only [.cores, .tiles, .nodes, .flights, .live, .ids] s (State.emit s k credit) := by
  intro s k credit
  unfold State.emit
  repeat' first
    | with_reducible exact Only.refl _ _
    | decide
    | (with_reducible apply Only.chain (only_emitOne _ _ _ _))
    | (with_reducible apply Only.chain (only_setCore _ _ _))
    | (with_reducible apply Only.chain (only_emitEnd _ _ _ _))
    | (lift_lets; intro z)
    | split

theorem only_execEmit : ∀ k credit s, Answers [.cores, .tiles, .nodes, .flights, .live, .ids] s (execEmit k credit s) := by
  intro k credit s
  unfold execEmit
  repeat' first
    | with_reducible exact Only.refl _ _
    | decide
    | (with_reducible apply Answers.next)
    | (with_reducible apply Only.chain (only_emit _ _ _))
    | split

theorem only_takeBack : ∀ s, Only [.eng, .reconf, .cores] s (State.takeBack s) := by
  intro s
  unfold State.takeBack
  dsimp -zeta only [State.mk_eng_reconf_cores]
  repeat' first
    | intro z
    | with_reducible exact Only.refl _ _
    | decide
    | (with_reducible apply Only.chain (Only.set_eng_reconf_cores _ _ _ _))
    | (lift_lets; intro z)
    | split

theorem only_shadowWrite : ∀ s, Only [.eng, .reconf, .cores] s (State.shadowWrite s) := by
  intro s
  unfold State.shadowWrite
  dsimp -zeta only [State.mk_reconf]
  repeat' first
    | (intro z; refine Only.cut z ?_ ?_; (on_goal 2 => (intro hz; clear_value z)); (on_goal 1 => unfold z))
    | with_reducible exact Only.refl _ _
    | with_reducible assumption
    | decide
    | (with_reducible apply Only.chain (only_takeBack _))
    | (with_reducible apply Only.chain (Only.set_reconf _ _))
    | (lift_lets; intro z)
    | split

theorem only_windowWrite : ∀ s k off data, Only [.eng, .reconf, .cores] s (State.windowWrite s k off data) := by
  intro s k off data
  unfold State.windowWrite
  repeat' first
    | (intro z; refine Only.cut z ?_ ?_; (on_goal 2 => (intro hz; clear_value z)); (on_goal 1 => unfold z))
    | intro z
    | with_reducible exact Only.refl _ _
    | with_reducible assumption
    | decide
    | (with_reducible apply Only.chain (only_shadowWrite _))
    | (with_reducible apply Only.chain (only_updCore _ _ _))
    | (with_reducible apply Only.chain (only_setCore _ _ _))
    | (with_reducible apply Only.foldlP; on_goal 2 => intro _ _ _)
    | (lift_lets; intro z)
    | split

end Sys2Proof.Machine
end

