-- ==== Sys2Proof/Laws/OnlyRoute.lean ====
section
/-! SUPPORT. What the operations of Machine/Route.lean change: for each, the parts of the state beyond which it leaves
    everything as it was. -/

namespace Sys2Proof.Machine

theorem only_sendMsg : ∀ s m, Only [.nodes] s (State.sendMsg s m) := by
  intro s m
  unfold State.sendMsg
  repeat' first
    | with_reducible exact Only.refl _ _
    | decide
    | (with_reducible apply Only.chain (only_inject _ _ _ _))

theorem only_portMsg : ∀ s p m, Only [.ports] s (State.portMsg s p m) := by
  intro s p m
  unfold State.portMsg
  repeat' first
    | with_reducible exact Only.refl _ _
    | decide
    | (with_reducible apply Only.chain (only_updPort _ _ _))

theorem only_loseData : ∀ s id, Only [.chans] s (State.loseData s id) := by
  intro s id
  unfold State.loseData
  dsimp -zeta only [State.mk_chans]
  repeat' first
    | with_reducible exact Only.refl _ _
    | decide
    | (with_reducible apply Only.chain (Only.set_chans _ _))

theorem only_lostItem : ∀ s i, Only [.chans] s (State.lostItem s i) := by
  intro s i
  unfold State.lostItem
  repeat' first
    | with_reducible exact Only.refl _ _
    | decide
    | (with_reducible apply Only.chain (only_loseData _ _))
    | split

theorem only_toPort : ∀ s p v i, Only [.regs, .nodes, .ports, .chans, .doms, .live] s (State.toPort s p v i) := by
  intro s p v i
  unfold State.toPort
  repeat' first
    | with_reducible exact Only.refl _ _
    | decide
    | (with_reducible apply Only.chain (only_itemGone _ _ _))
    | (with_reducible apply Only.chain (only_bumpBy _ _ _ _))
    | (with_reducible apply Only.chain (only_wake _ _ _))
    | (with_reducible apply Only.chain (only_lostItem _ _))
    | (with_reducible apply Only.chain (only_updPort _ _ _))
    | (lift_lets; intro z)
    | split

theorem only_sendVc2 : ∀ s e ws, Only [.nodes] s (State.sendVc2 s e ws) := by
  intro s e ws
  unfold State.sendVc2
  repeat' first
    | with_reducible exact Only.refl _ _
    | decide
    | (with_reducible apply Only.chain (only_inject _ _ _ _))
    | split

theorem only_broadcast : ∀ s ws, Only [.nodes] s (State.broadcast s ws) := by
  intro s ws
  unfold State.broadcast
  repeat' first
    | with_reducible exact Only.refl _ _
    | with_reducible assumption
    | decide
    | (with_reducible apply Only.chain (only_sendVc2 _ _ _))
    | (with_reducible apply Only.foldl; on_goal 2 => intro _ _ _)

theorem only_sendJoin : ∀ s p, Only [.ports] s (State.sendJoin s p) := by
  intro s p
  unfold State.sendJoin
  repeat' first
    | with_reducible exact Only.refl _ _
    | decide
    | (with_reducible apply Only.chain (only_portMsg _ _ _))

theorem only_sendJoins : ∀ s, Only [.ports] s (State.sendJoins s) := by
  intro s
  unfold State.sendJoins
  repeat' first
    | with_reducible exact Only.refl _ _
    | with_reducible assumption
    | decide
    | (with_reducible apply Only.chain (only_sendJoin _ _))
    | (with_reducible apply Only.foldl; on_goal 2 => intro _ _ _)
    | split

end Sys2Proof.Machine
end

