-- ==== Sys2Proof/Laws/OnlyCommit.lean ====
section
/-! SUPPORT. What the operations of Machine/Commit.lean change: for each, the parts of the state beyond which it leaves
    everything as it was. -/

namespace Sys2Proof.Machine

theorem only_applyDue : ∀ s k, Only [.cores] s (State.applyDue s k) := by
  intro s k
  unfold State.applyDue
  repeat' first
    | with_reducible exact Only.refl _ _
    | decide
    | (with_reducible apply Only.chain (only_setCore _ _ _))
    | (lift_lets; intro z)
    | split

theorem only_commitCore : ∀ s k, Only [.cores] s (State.commitCore s k) := by
  intro s k
  unfold State.commitCore
  repeat' first
    | with_reducible exact Only.refl _ _
    | decide
    | (with_reducible apply Only.chain (only_applyDue _ _))
    | (with_reducible apply Only.chain (only_updCore _ _ _))

theorem only_setDelayMax : ∀ s, Only [.regs] s (State.setDelayMax s) := by
  intro s
  unfold State.setDelayMax
  repeat' first
    | with_reducible exact Only.refl _ _
    | decide
    | (with_reducible apply Only.chain (only_wn _ _ _))

end Sys2Proof.Machine
end

