-- ==== Sys2Proof/Laws/OnlySpace.lean ====
section
/-! SUPPORT. What the operations of Machine/Space.lean change: for each, the parts of the state beyond which it leaves
    everything as it was. -/

namespace Sys2Proof.Machine

theorem only_holdAccess : ∀ s ps, Only [.regs, .doms] s (State.holdAccess s ps) := by
  intro s ps
  unfold State.holdAccess
  repeat' first
    | with_reducible exact Only.refl _ _
    | with_reducible assumption
    | decide
    | (with_reducible apply Only.chain (only_bump _ _))
    | (with_reducible apply Only.chain (only_wake _ _ _))
    | (with_reducible apply Only.foldl; on_goal 2 => intro _ _ _)
    | split

theorem only_countRead : ∀ s ps, Only [.regs] s (State.countRead s ps) := by
  intro s ps
  unfold State.countRead
  repeat' first
    | with_reducible exact Only.refl _ _
    | with_reducible assumption
    | decide
    | (with_reducible apply Only.chain (only_bump _ _))
    | (lift_lets; intro z; refine Only.cut z ?_ ?_; (on_goal 2 => (intro hz; clear_value z)); (on_goal 1 => unfold z))
    | split

theorem only_countWrite : ∀ s ps, Only [.regs] s (State.countWrite s ps) := by
  intro s ps
  unfold State.countWrite
  repeat' first
    | (intro z; refine Only.cut z ?_ ?_; (on_goal 2 => (intro hz; clear_value z)); (on_goal 1 => unfold z))
    | with_reducible exact Only.refl _ _
    | with_reducible assumption
    | decide
    | (with_reducible apply Only.chain (only_bump _ _))
    | (lift_lets; intro z)
    | split

theorem only_readSpace : ∀ s a n, Only [.regs] s (State.readSpace s a n).2 := by
  intro s a n
  unfold State.readSpace
  repeat' first
    | with_reducible exact Only.refl _ _
    | decide
    | (with_reducible apply Only.chain (only_countRead _ _))

theorem only_pokeFlat : ∀ s a d, Only [.tiles, .lpddr] s (State.pokeFlat s a d) := by
  intro s a d
  unfold State.pokeFlat
  dsimp -zeta only [State.mk_lpddr]
  repeat' first
    | with_reducible exact Only.refl _ _
    | decide
    | (with_reducible apply Only.chain (only_updTile _ _ _))
    | (with_reducible apply Only.chain (Only.set_lpddr _ _))
    | split

theorem only_pokeGranules : ∀ x0 x1 x2 x3, Only [.tiles, .lpddr] x3 (State.pokeGranules x0 x1 x2 x3) := by
  intro x0
  induction x0 with
  | nil => intro _ _ _; exact Only.refl _ _
  | cons g gs ih => intro _ _ _; exact (only_pokeFlat _ _ _).trans (ih _ _ _)

theorem only_writeSpace : ∀ s a d, Only [.regs, .eng, .reconf, .cores, .tiles, .lpddr] s (State.writeSpace s a d) := by
  intro s a d
  unfold State.writeSpace
  repeat' first
    | with_reducible exact Only.refl _ _
    | with_reducible assumption
    | decide
    | (with_reducible apply Only.chain (only_windowWrite _ _ _ _))
    | (with_reducible apply Only.chain (only_countWrite _ _))
    | (with_reducible apply Only.chain (only_pokeGranules _ _ _ _))
    | (with_reducible apply Only.foldl; on_goal 2 => intro _ _ _)

theorem only_postWrite : ∀ s a d,
    Only [.regs, .eng, .reconf, .cores, .tiles, .lpddr, .pcie, .doms, .ids] s (State.postWrite s a d) := by
  intro s a d
  unfold State.postWrite
  dsimp -zeta only [State.mk_pcie_ids]
  repeat' first
    | (intro z; refine Only.cut z ?_ ?_; (on_goal 2 => (intro hz; clear_value z)); (on_goal 1 => unfold z))
    | with_reducible exact Only.refl _ _
    | with_reducible assumption
    | decide
    | (with_reducible apply Only.chain (only_holdAccess _ _))
    | (with_reducible apply Only.chain (only_writeSpace _ _ _))
    | (with_reducible apply Only.chain (Only.set_pcie_ids _ _ _))
    | (lift_lets; intro z)
    | split

theorem only_releaseWrites : ∀ s,
    Only [.regs, .eng, .reconf, .cores, .tiles, .lpddr, .paths, .pcie] s (State.releaseWrites s) := by
  intro s
  unfold State.releaseWrites
  dsimp -zeta only [State.mk_pcie]
  repeat' first
    | with_reducible exact Only.refl _ _
    | with_reducible assumption
    | decide
    | (with_reducible apply Only.chain (only_answer _ _ _ _ _))
    | (with_reducible apply Only.chain (only_writeSpace _ _ _))
    | (with_reducible apply Only.chain (Only.set_pcie _ _))
    | (with_reducible apply Only.foldl; on_goal 2 => intro _ _ _)
    | (lift_lets; intro z)
    | split

theorem only_complete : ∀ s d bad, Only [.regs, .pcie] s (State.complete s d bad) := by
  intro s d bad
  unfold State.complete
  dsimp -zeta only [State.mk_pcie]
  repeat' first
    | with_reducible exact Only.refl _ _
    | decide
    | (with_reducible apply Only.chain (only_bump _ _))
    | (with_reducible apply Only.chain (Only.set_pcie _ _))
    | split

theorem only_memUe : ∀ s a how, Only [.regs, .log] s (State.memUe s a how) := by
  intro s a how
  unfold State.memUe
  repeat' first
    | with_reducible exact Only.refl _ _
    | decide
    | (with_reducible apply Only.chain (only_post _ _ _ _ _ _))
    | (with_reducible apply Only.chain (only_bump _ _))
    | (with_reducible apply Only.chain (only_wn _ _ _))
    | split

theorem only_eccRead : ∀ s a n e, Only [.regs, .log] s (State.eccRead s a n e).2 := by
  intro s a n e
  unfold State.eccRead
  repeat' first
    | with_reducible exact Only.refl _ _
    | decide
    | (with_reducible apply Only.chain (only_bump _ _))
    | (with_reducible apply Only.chain (only_memUe _ _ _))
    | split

theorem only_readEcc : ∀ s a n e, Only [.regs, .log] s (State.readEcc s a n e).2 := by
  intro s a n e
  unfold State.readEcc
  repeat' first
    | with_reducible exact Only.refl _ _
    | decide
    | (with_reducible apply Only.chain (only_eccRead _ _ _ _))
    | (with_reducible apply Only.chain (only_readSpace _ _ _))

theorem only_releaseReads : ∀ s, Only [.regs, .pcie, .log] s (State.releaseReads s) := by
  intro s
  unfold State.releaseReads
  dsimp -zeta only [State.mk_pcie]
  repeat' first
    | intro z
    | with_reducible exact Only.refl _ _
    | with_reducible assumption
    | decide
    | (with_reducible apply Only.chain (only_readEcc _ _ _ _))
    | (with_reducible apply Only.chain (only_complete _ _ _))
    | (with_reducible apply Only.chain (Only.set_pcie _ _))
    | (with_reducible apply Only.foldl; on_goal 2 => intro _ _ _)
    | (lift_lets; intro z)
    | split

theorem only_release : ∀ s,
    Only [.regs, .eng, .reconf, .cores, .tiles, .lpddr, .paths, .pcie, .log] s (State.release s) := by
  intro s
  unfold State.release
  repeat' first
    | with_reducible exact Only.refl _ _
    | decide
    | (with_reducible apply Only.chain (only_releaseWrites _))
    | (with_reducible apply Only.chain (only_releaseReads _))

theorem only_execCoreWindowWrite : ∀ l off data s,
    Answers [.regs, .eng, .reconf, .cores, .tiles, .lpddr, .pcie, .doms, .ids] s (execCoreWindowWrite l off data s) := by
  intro l off data s
  unfold execCoreWindowWrite
  repeat' first
    | with_reducible exact Only.refl _ _
    | decide
    | (with_reducible apply Answers.next)
    | (with_reducible apply Only.chain (only_postWrite _ _ _))

end Sys2Proof.Machine
end

