-- ==== Sys2Proof/Laws/OnlyTrust.lean ====
section
/-! SUPPORT. What the operations of Machine/Trust.lean change: for each, the parts of the state beyond which it leaves
    everything as it was. -/

namespace Sys2Proof.Machine

theorem only_rehash : ∀ s, Only [.reconf, .ports] s (State.rehash s) := by
  intro s
  unfold State.rehash
  dsimp -zeta only [State.mk_reconf]
  repeat' first
    | with_reducible exact Only.refl _ _
    | decide
    | (with_reducible apply Only.chain (only_sendJoins _))
    | (with_reducible apply Only.chain (Only.set_reconf _ _))

theorem only_chainHash : ∀ s digest named, Only [.regs, .reconf, .ports] s (State.chainHash s digest named) := by
  intro s digest named
  unfold State.chainHash
  dsimp -zeta only [State.mk_reconf]
  repeat' first
    | with_reducible exact Only.refl _ _
    | decide
    | (with_reducible apply Only.chain (only_bump _ _))
    | (with_reducible apply Only.chain (only_rehash _))
    | (with_reducible apply Only.chain (Only.set_reconf _ _))
    | (lift_lets; intro z)
    | split

end Sys2Proof.Machine
end

