-- ==== Sys2Proof/Laws/OnlyEngine.lean ====
section
/-! SUPPORT. What the operations of Machine/Engine.lean change: for each, the parts of the state beyond which it leaves
    everything as it was. -/

namespace Sys2Proof.Machine

theorem only_updEng : ∀ s f, Only [.eng] s (State.updEng s f) := by
  intro s f
  unfold State.updEng
  dsimp -zeta only [State.mk_eng]
  repeat' first
    | with_reducible exact Only.refl _ _
    | decide
    | (with_reducible apply Only.chain (Only.set_eng _ _))

theorem only_phaseStep : ∀ s, Only [.eng] s (State.phaseStep s) := by
  intro s
  unfold State.phaseStep
  repeat' first
    | with_reducible exact Only.refl _ _
    | decide
    | (with_reducible apply Only.chain (only_updEng _ _))
    | split

theorem only_holdPhase : ∀ s, Only [.eng] s (State.holdPhase s) := by
  intro s
  unfold State.holdPhase
  repeat' first
    | with_reducible exact Only.refl _ _
    | decide
    | (with_reducible apply Only.chain (only_updEng _ _))
    | split

theorem only_stopSteps : ∀ s, Only [.eng, .cores, .ports] s (State.stopSteps s) := by
  intro s
  unfold State.stopSteps
  dsimp -zeta only [State.mk_eng_cores]
  repeat' first
    | with_reducible exact Only.refl _ _
    | decide
    | (with_reducible apply Only.chain (only_sendJoins _))
    | (with_reducible apply Only.chain (Only.set_eng_cores _ _ _))

theorem only_tryStop : ∀ s, Only [.eng, .cores, .ports] s (State.tryStop s) := by
  intro s
  unfold State.tryStop
  repeat' first
    | with_reducible exact Only.refl _ _
    | decide
    | (with_reducible apply Only.chain (only_stopSteps _))
    | (lift_lets; intro z)
    | split

theorem only_placeDeadline : ∀ s, Only [.eng] s (State.placeDeadline s) := by
  intro s
  unfold State.placeDeadline
  repeat' first
    | with_reducible exact Only.refl _ _
    | decide
    | (with_reducible apply Only.chain (only_holdPhase _))
    | (with_reducible apply Only.chain (only_updEng _ _))

theorem only_stepSource : ∀ s src, Only [.regs, .eng] s (State.stepSource s src) := by
  intro s src
  unfold State.stepSource
  repeat' first
    | with_reducible exact Only.refl _ _
    | decide
    | (with_reducible apply Only.chain (only_bump _ _))
    | (with_reducible apply Only.chain (only_placeDeadline _))
    | split

theorem only_updRound : ∀ s f, Only [.eng] s (State.updRound s f) := by
  intro s f
  unfold State.updRound
  repeat' first
    | with_reducible exact Only.refl _ _
    | decide
    | (with_reducible apply Only.chain (only_updEng _ _))

theorem only_startMidnight : ∀ s k gap, Only [.eng, .cores] s (State.startMidnight s k gap) := by
  intro s k gap
  unfold State.startMidnight
  repeat' first
    | with_reducible exact Only.refl _ _
    | decide
    | (with_reducible apply Only.chain (only_updCore _ _ _))
    | (with_reducible apply Only.chain (only_updRound _ _))

theorem only_latchCore : ∀ s k, Only [.eng, .cores] s (State.latchCore s k) := by
  intro s k
  unfold State.latchCore
  repeat' first
    | with_reducible exact Only.refl _ _
    | with_reducible assumption
    | decide
    | (with_reducible apply Only.chain (only_updCore _ _ _))
    | (with_reducible apply Only.chain (only_updRound _ _))
    | (lift_lets; intro z; refine Only.cut z ?_ ?_; (on_goal 2 => (intro hz; clear_value z)); (on_goal 1 => unfold z))
    | split

theorem only_coreBoundary : ∀ s k, Only [.eng, .cores] s (State.coreBoundary s k) := by
  intro s k
  unfold State.coreBoundary
  repeat' first
    | with_reducible exact Only.refl _ _
    | with_reducible assumption
    | decide
    | (with_reducible apply Only.chain (only_applyDue _ _))
    | (with_reducible apply Only.chain (only_startMidnight _ _ _))
    | (with_reducible apply Only.chain (only_latchCore _ _))
    | (lift_lets; intro z; refine Only.cut z ?_ ?_; (on_goal 2 => (intro hz; clear_value z)); (on_goal 1 => unfold z))
    | split

theorem only_ringKeep : ∀ s cg t sl g, Only [.regs, .tiles] s (State.ringKeep s cg t sl g) := by
  intro s cg t sl g
  unfold State.ringKeep
  repeat' first
    | (intro z; refine Only.cut z ?_ ?_; (on_goal 2 => (intro hz; clear_value z)); (on_goal 1 => unfold z))
    | intro z
    | with_reducible exact Only.refl _ _
    | with_reducible assumption
    | decide
    | (with_reducible apply Only.chain (only_bumpBy _ _ _ _))
    | (with_reducible apply Only.chain (only_updTile _ _ _))
    | (lift_lets; intro z)
    | split

theorem only_dropOldGen : ∀ s b, Only [.regs, .tiles] s (State.dropOldGen s b) := by
  intro s b
  unfold State.dropOldGen
  repeat' first
    | with_reducible exact Only.refl _ _
    | with_reducible assumption
    | decide
    | (with_reducible apply Only.chain (only_ringKeep _ _ _ _ _))
    | (with_reducible apply Only.foldl; on_goal 2 => intro _ _ _)
    | (lift_lets; intro z)
    | split

theorem only_switchGen : ∀ s gen b, Only [.regs, .reconf, .tiles] s (State.switchGen s gen b) := by
  intro s gen b
  unfold State.switchGen
  dsimp -zeta only [State.mk_reconf]
  repeat' first
    | with_reducible exact Only.refl _ _
    | decide
    | (with_reducible apply Only.chain (only_dropOldGen _ _))
    | (with_reducible apply Only.chain (Only.set_reconf _ _))
    | (lift_lets; intro z)
    | split

theorem only_concludeCommit : ∀ s gen b, Only [.regs, .reconf, .ports] s (State.concludeCommit s gen b) := by
  intro s gen b
  unfold State.concludeCommit
  dsimp -zeta only [State.mk_reconf]
  repeat' first
    | with_reducible exact Only.refl _ _
    | decide
    | (with_reducible apply Only.chain (only_wr _ _ _))
    | (with_reducible apply Only.chain (only_chainHash _ _ _))
    | (with_reducible apply Only.chain (Only.set_reconf _ _))

theorem only_applyDevice : ∀ s gen b, Only [.regs, .reconf, .tiles, .ports] s (State.applyDevice s gen b) := by
  intro s gen b
  unfold State.applyDevice
  repeat' first
    | with_reducible exact Only.refl _ _
    | decide
    | (with_reducible apply Only.chain (only_concludeCommit _ _ _))
    | (with_reducible apply Only.chain (only_switchGen _ _ _))

theorem only_commitCores : ∀ s, Only [.regs, .cores] s (State.commitCores s) := by
  intro s
  unfold State.commitCores
  repeat' first
    | with_reducible exact Only.refl _ _
    | with_reducible assumption
    | decide
    | (with_reducible apply Only.chain (only_setDelayMax _))
    | (with_reducible apply Only.chain (only_commitCore _ _))
    | (with_reducible apply Only.foldl; on_goal 2 => intro _ _ _)

theorem only_takeCovered : ∀ s, Only [.cores] s (State.takeCovered s) := by
  intro s
  unfold State.takeCovered
  repeat' first
    | with_reducible exact Only.refl _ _
    | with_reducible assumption
    | decide
    | (with_reducible apply Only.chain (only_updCore _ _ _))
    | (with_reducible apply Only.foldl; on_goal 2 => intro _ _ _)

theorem only_lateCommit : ∀ s r gen,
    Only [.regs, .eng, .reconf, .lrn, .cores, .tiles, .ports] s (State.lateCommit s r gen) := by
  intro s r gen
  unfold State.lateCommit
  dsimp -zeta only [State.mk_lrn]
  repeat' first
    | with_reducible exact Only.refl _ _
    | with_reducible assumption
    | decide
    | (with_reducible apply Only.chain (only_applyDue _ _))
    | (with_reducible apply Only.chain (only_takeCovered _))
    | (with_reducible apply Only.chain (only_setDelayMax _))
    | (with_reducible apply Only.chain (only_updRound _ _))
    | (with_reducible apply Only.chain (only_startMidnight _ _ _))
    | (with_reducible apply Only.chain (only_concludeCommit _ _ _))
    | (with_reducible apply Only.chain (only_switchGen _ _ _))
    | (with_reducible apply Only.chain (Only.set_lrn _ _))
    | (with_reducible apply Only.foldl; on_goal 2 => intro _ _ _)
    | (lift_lets; intro z)
    | split

theorem only_finishTile : ∀ s t, Only [.eng, .cores] s (State.finishTile s t) := by
  intro s t
  unfold State.finishTile
  repeat' first
    | with_reducible exact Only.refl _ _
    | with_reducible assumption
    | decide
    | (with_reducible apply Only.chain (only_applyDue _ _))
    | (with_reducible apply Only.chain (only_latchCore _ _))
    | (with_reducible apply Only.foldl; on_goal 2 => intro _ _ _)
    | (lift_lets; intro z; refine Only.cut z ?_ ?_; (on_goal 2 => (intro hz; clear_value z)); (on_goal 1 => unfold z))
    | split

theorem only_holdRound : ∀ s, Only [.regs, .eng, .log] s (State.holdRound s) := by
  intro s
  unfold State.holdRound
  repeat' first
    | (intro z; refine Only.cut z ?_ ?_; (on_goal 2 => (intro hz; clear_value z)); (on_goal 1 => unfold z))
    | with_reducible exact Only.refl _ _
    | with_reducible assumption
    | decide
    | (with_reducible apply Only.chain (only_post _ _ _ _ _ _))
    | (with_reducible apply Only.chain (only_updEng _ _))
    | (lift_lets; intro z; refine Only.cut z ?_ ?_; (on_goal 2 => (intro hz; clear_value z)); (on_goal 1 => unfold z))
    | (lift_lets; intro z)
    | split

theorem only_sendSack : ∀ s, Only [.eng, .nodes] s (State.sendSack s) := by
  intro s
  unfold State.sendSack
  repeat' first
    | with_reducible exact Only.refl _ _
    | decide
    | (with_reducible apply Only.chain (only_sendVc2 _ _ _))
    | (with_reducible apply Only.chain (only_updRound _ _))
    | (with_reducible apply Only.chain (only_updEng _ _))
    | (lift_lets; intro z)
    | split

theorem only_commitAct : ∀ p gen s0,
    Reply.Only [.regs, .eng, .reconf, .lrn, .cores, .tiles, .ports] s0 (commitAct p gen s0) := by
  intro p gen s0
  unfold commitAct
  dsimp -zeta only [State.mk_reconf]
  repeat' first
    | (intro z; refine Reply.only_cut z ?_ ?_; (on_goal 2 => (intro hz; clear_value z)); (on_goal 1 => unfold z))
    | intro z
    | with_reducible exact Only.refl _ _
    | with_reducible assumption
    | decide
    | (with_reducible exact Reply.only_refuse _ _ _)
    | (with_reducible apply Reply.only_okAct)
    | (with_reducible apply Reply.only_done)
    | (with_reducible apply Only.chain (only_lateCommit _ _ _))
    | (with_reducible apply Only.chain (only_commitCores _))
    | (with_reducible apply Only.chain (only_bump32 _ _))
    | (with_reducible apply Only.chain (only_applyDevice _ _ _))
    | (with_reducible apply Only.chain (Only.set_reconf _ _))
    | (lift_lets; intro z)
    | split

theorem only_execReconfCommitBoundary : ∀ p s,
    Answers [.regs, .eng, .reconf, .lrn, .cores, .tiles, .ports, .paths, .doms] s (execReconfCommitBoundary p s) := by
  intro p s
  unfold execReconfCommitBoundary
  repeat' first
    | with_reducible exact Only.refl _ _
    | decide
    | (with_reducible apply Answers.next)
    | (with_reducible refine only_operate (A := [.regs, .eng, .reconf, .lrn, .cores, .tiles, .ports, .paths, .doms]) _ _ _ _ _ _ (fun _ => ?_) (by decide) (by decide) ?_)
    | (with_reducible apply Reply.only_chain (only_commitAct _ _ _))

theorem only_execReconfCommitGeneration : ∀ p s,
    Answers [.regs, .eng, .reconf, .lrn, .cores, .tiles, .ports, .paths, .doms] s (execReconfCommitGeneration p s) := by
  intro p s
  unfold execReconfCommitGeneration
  repeat' first
    | with_reducible exact Only.refl _ _
    | decide
    | (with_reducible apply Answers.next)
    | (with_reducible refine only_operate (A := [.regs, .eng, .reconf, .lrn, .cores, .tiles, .ports, .paths, .doms]) _ _ _ _ _ _ (fun _ => ?_) (by decide) (by decide) ?_)
    | (with_reducible apply Reply.only_chain (only_commitAct _ _ _))

theorem only_cancel : ∀ s, Only [.eng, .reconf, .cores] s (State.cancel s) := by
  intro s
  unfold State.cancel
  dsimp -zeta only [State.mk_reconf_cores]
  repeat' first
    | with_reducible exact Only.refl _ _
    | decide
    | (with_reducible apply Only.chain (only_takeBack _))
    | (with_reducible apply Only.chain (Only.set_reconf_cores _ _ _))
    | split

theorem only_cancelAct : ∀ s0, Reply.Only [.eng, .reconf, .cores] s0 (cancelAct s0) := by
  intro s0
  unfold cancelAct
  repeat' first
    | with_reducible exact Only.refl _ _
    | decide
    | (with_reducible apply Reply.only_okAct)
    | (with_reducible apply Reply.only_guardAct)
    | (with_reducible apply Only.chain (only_cancel _))

theorem only_execReconfCancel : ∀ p s, Answers [.regs, .eng, .reconf, .cores, .paths, .doms] s (execReconfCancel p s) := by
  intro p s
  unfold execReconfCancel
  repeat' first
    | with_reducible exact Only.refl _ _
    | decide
    | (with_reducible apply Answers.next)
    | (with_reducible refine only_operate (A := [.regs, .eng, .reconf, .cores, .paths, .doms]) _ _ _ _ _ _ (fun _ => ?_) (by decide) (by decide) ?_)
    | (with_reducible apply Reply.only_chain (only_cancelAct _))

theorem only_boundaryWork : ∀ s j r,
    Only [.regs, .eng, .reconf, .lrn, .cores, .tiles, .ports] s (State.boundaryWork s j r) := by
  intro s j r
  unfold State.boundaryWork
  dsimp -zeta only [State.mk_eng_lrn, State.mk_reconf]
  repeat' first
    | (intro z; refine Only.cut z ?_ ?_; (on_goal 2 => (intro hz; clear_value z)); (on_goal 1 => unfold z))
    | intro z
    | with_reducible exact Only.refl _ _
    | with_reducible assumption
    | decide
    | (with_reducible apply Only.chain (only_bump _ _))
    | (with_reducible apply Only.chain (only_coreBoundary _ _))
    | (with_reducible apply Only.chain (only_takeCovered _))
    | (with_reducible apply Only.chain (only_setDelayMax _))
    | (with_reducible apply Only.chain (only_concludeCommit _ _ _))
    | (with_reducible apply Only.chain (only_switchGen _ _ _))
    | (with_reducible apply Only.chain (Only.set_eng_lrn _ _ _))
    | (with_reducible apply Only.chain (Only.set_reconf _ _))
    | (with_reducible apply Only.foldl; on_goal 2 => intro _ _ _)
    | (lift_lets; intro z)
    | split

theorem only_settleTo : ∀ s j,
    Only [.regs, .eng, .reconf, .lrn, .cores, .tiles, .nodes, .ports] s (State.settleTo s j) := by
  intro s j
  unfold State.settleTo
  repeat' first
    | (intro z; refine Only.cut z ?_ ?_; (on_goal 2 => (intro hz; clear_value z)); (on_goal 1 => unfold z))
    | intro z
    | with_reducible exact Only.refl _ _
    | with_reducible assumption
    | decide
    | (with_reducible apply Only.chain (only_bump _ _))
    | (with_reducible apply Only.chain (only_broadcast _ _))
    | (with_reducible apply Only.chain (only_bumpBy _ _ _ _))
    | (with_reducible apply Only.chain (only_boundaryWork _ _ _))
    | (with_reducible apply Only.chain (only_updEng _ _))
    | (lift_lets; intro z)
    | split

theorem only_execSettle : ∀ lead s,
    Answers [.regs, .eng, .reconf, .lrn, .cores, .tiles, .nodes, .ports] s (execSettle lead s) := by
  intro lead s
  unfold execSettle
  repeat' first
    | with_reducible exact Only.refl _ _
    | decide
    | (with_reducible apply Answers.next)
    | (with_reducible apply Only.chain (only_holdPhase _))
    | (with_reducible apply Only.chain (only_sendJoins _))
    | (with_reducible apply Only.chain (only_settleTo _ _))
    | (with_reducible apply only_clk)
    | split

theorem only_takeSack : ∀ s u, Only [.regs, .eng, .cores, .nodes, .log] s (State.takeSack s u) := by
  intro s u
  unfold State.takeSack
  repeat' first
    | with_reducible exact Only.refl _ _
    | decide
    | (with_reducible apply Only.chain (only_sendSack _))
    | (with_reducible apply Only.chain (only_holdRound _))
    | (with_reducible apply Only.chain (only_finishTile _ _))
    | (with_reducible apply Only.chain (only_updRound _ _))
    | (with_reducible apply Only.chain (only_updEng _ _))
    | split

theorem only_execSack : ∀ u s, Answers [.regs, .eng, .cores, .nodes, .log] s (execSack u s) := by
  intro u s
  unfold execSack
  repeat' first
    | with_reducible exact Only.refl _ _
    | decide
    | (with_reducible apply Answers.next)
    | (with_reducible apply Only.chain (only_takeSack _ _))
    | (with_reducible apply only_clk)

theorem only_openTo : ∀ s j r, Only [.regs, .eng, .reconf, .cores, .nodes, .ports] s (State.openTo s j r) := by
  intro s j r
  unfold State.openTo
  dsimp -zeta only [State.mk_eng_cores]
  repeat' first
    | with_reducible exact Only.refl _ _
    | decide
    | (with_reducible apply Only.chain (only_phaseStep _))
    | (with_reducible apply Only.chain (only_bump _ _))
    | (with_reducible apply Only.chain (only_broadcast _ _))
    | (with_reducible apply Only.chain (only_bumpBy _ _ _ _))
    | (with_reducible apply Only.chain (only_setDelayMax _))
    | (with_reducible apply Only.chain (only_concludeCommit _ _ _))
    | (with_reducible apply Only.chain (Only.set_eng_cores _ _ _))
    | split

theorem only_checkDiverge : ∀ s j, Only [.regs, .eng, .log] s (State.checkDiverge s j) := by
  intro s j
  unfold State.checkDiverge
  repeat' first
    | with_reducible exact Only.refl _ _
    | decide
    | (with_reducible apply Only.chain (only_post _ _ _ _ _ _))
    | (with_reducible apply Only.chain (only_updEng _ _))
    | split

theorem only_execOpenStep : ∀ lead s,
    Answers [.regs, .eng, .reconf, .cores, .nodes, .ports, .log] s (execOpenStep lead s) := by
  intro lead s
  unfold execOpenStep
  repeat' first
    | with_reducible exact Only.refl _ _
    | decide
    | (with_reducible apply Answers.next)
    | (with_reducible apply Only.chain (only_openTo _ _ _))
    | (with_reducible apply Only.chain (only_checkDiverge _ _))
    | (with_reducible apply only_clk)
    | split

theorem only_runAct : ∀ s0, Reply.Only [.regs, .eng, .reconf, .lrn, .cores, .tiles, .nodes, .ports] s0 (runAct s0) := by
  intro s0
  unfold runAct
  repeat' first
    | with_reducible exact Only.refl _ _
    | decide
    | (with_reducible apply Reply.only_okAct)
    | (with_reducible apply Reply.only_guardAct)
    | (with_reducible apply Only.chain (only_holdPhase _))
    | (with_reducible apply Only.chain (only_updEng _ _))
    | (with_reducible apply Only.chain (only_sendJoins _))
    | (with_reducible apply Only.chain (only_settleTo _ _))
    | split

theorem only_execStepRun : ∀ p s,
    Answers [.regs, .eng, .reconf, .lrn, .cores, .tiles, .nodes, .ports, .paths, .doms] s (execStepRun p s) := by
  intro p s
  unfold execStepRun
  repeat' first
    | with_reducible exact Only.refl _ _
    | decide
    | (with_reducible apply Answers.next)
    | (with_reducible refine only_operate (A := [.regs, .eng, .reconf, .lrn, .cores, .tiles, .nodes, .ports, .paths, .doms]) _ _ _ _ _ _ (fun _ => ?_) (by decide) (by decide) ?_)
    | (with_reducible apply Reply.only_chain (only_runAct _))

theorem only_stopAct : ∀ s0, Reply.Only [.eng, .cores, .ports] s0 (stopAct s0) := by
  intro s0
  unfold stopAct
  repeat' first
    | with_reducible exact Only.refl _ _
    | decide
    | (with_reducible apply Reply.only_okAct)
    | (with_reducible apply Only.chain (only_tryStop _))
    | (with_reducible apply Only.chain (only_updEng _ _))
    | (with_reducible apply Only.chain (only_sendJoins _))
    | split

theorem only_execStepStop : ∀ p s, Answers [.regs, .eng, .cores, .ports, .paths, .doms] s (execStepStop p s) := by
  intro p s
  unfold execStepStop
  repeat' first
    | with_reducible exact Only.refl _ _
    | decide
    | (with_reducible apply Answers.next)
    | (with_reducible refine only_operate (A := [.regs, .eng, .cores, .ports, .paths, .doms]) _ _ _ _ _ _ (fun _ => ?_) (by decide) (by decide) ?_)
    | (with_reducible apply Reply.only_chain (only_stopAct _))

theorem only_fenceAct : ∀ s0, Reply.Only [] s0 (fenceAct s0) := by
  intro s0
  unfold fenceAct
  repeat' first
    | with_reducible exact Only.refl _ _
    | (with_reducible apply Reply.only_okAct)
    | (with_reducible apply Reply.only_wait)
    | split

theorem only_execStepFence : ∀ p s, Answers [.regs, .paths, .doms] s (execStepFence p s) := by
  intro p s
  unfold execStepFence
  repeat' first
    | with_reducible exact Only.refl _ _
    | decide
    | (with_reducible apply Answers.next)
    | (with_reducible refine only_operate (A := [.regs, .paths, .doms]) _ _ _ _ _ _ (fun _ => ?_) (by decide) (by decide) ?_)
    | (with_reducible apply Reply.only_chain (only_fenceAct _))

theorem only_execStepFenceTimeout : ∀ p s, Answers [.paths] s (execStepFenceTimeout p s) := by
  intro p s
  unfold execStepFenceTimeout
  repeat' first
    | with_reducible exact Only.refl _ _
    | decide
    | (with_reducible apply Answers.next)
    | (with_reducible apply Only.chain (only_answer _ _ _ _ _))
    | (with_reducible apply only_clk)
    | split

theorem only_periodAct : ∀ v s0, Reply.Only [.regs, .reconf, .ports] s0 (periodAct v s0) := by
  intro v s0
  unfold periodAct
  repeat' first
    | with_reducible exact Only.refl _ _
    | decide
    | (with_reducible apply Reply.only_okAct)
    | (with_reducible apply Reply.only_guardAct)
    | (with_reducible apply Only.chain (only_bump _ _))
    | (with_reducible apply Only.chain (only_rehash _))
    | (with_reducible apply Only.chain (only_wn _ _ _))
    | split

theorem only_execStepPeriodWrite : ∀ p v s,
    Answers [.regs, .reconf, .ports, .paths, .doms] s (execStepPeriodWrite p v s) := by
  intro p v s
  unfold execStepPeriodWrite
  repeat' first
    | with_reducible exact Only.refl _ _
    | decide
    | (with_reducible apply Answers.next)
    | (with_reducible refine only_operate (A := [.regs, .reconf, .ports, .paths, .doms]) _ _ _ _ _ _ (fun _ => ?_) (by decide) (by decide) ?_)
    | (with_reducible apply Reply.only_chain (only_periodAct _ _))

theorem only_execStepDeadline : ∀ s, Answers [.eng] s (execStepDeadline s) := by
  intro s
  unfold execStepDeadline
  repeat' first
    | with_reducible exact Only.refl _ _
    | decide
    | (with_reducible apply Answers.next)
    | (with_reducible apply Only.chain (only_placeDeadline _))
    | (with_reducible apply Only.chain (only_updEng _ _))
    | (with_reducible apply only_clk)
    | split

theorem only_execStepSourceEvent : ∀ src s, Answers [.regs, .eng] s (execStepSourceEvent src s) := by
  intro src s
  unfold execStepSourceEvent
  repeat' first
    | with_reducible exact Only.refl _ _
    | decide
    | (with_reducible apply Answers.next)
    | (with_reducible apply Only.chain (only_stepSource _ _))
    | (with_reducible apply only_clk)

theorem only_closeCur : ∀ s, Only [.eng, .cores, .ports] s (State.closeCur s) := by
  intro s
  unfold State.closeCur
  repeat' first
    | with_reducible exact Only.refl _ _
    | decide
    | (with_reducible apply Only.chain (only_holdPhase _))
    | (with_reducible apply Only.chain (only_tryStop _))
    | (with_reducible apply Only.chain (only_updEng _ _))

theorem only_runWave : ∀ s cur ps, Only [.regs, .eng, .cores, .nodes, .ports] s (State.runWave s cur ps) := by
  intro s cur ps
  unfold State.runWave
  repeat' first
    | (intro z; refine Only.cut z ?_ ?_; (on_goal 2 => (intro hz; clear_value z)); (on_goal 1 => unfold z))
    | intro z
    | with_reducible exact Only.refl _ _
    | with_reducible assumption
    | decide
    | (with_reducible apply Only.chain (only_phaseStep _))
    | (with_reducible apply Only.chain (only_bump _ _))
    | (with_reducible apply Only.chain (only_sendVc2 _ _ _))
    | (with_reducible apply Only.chain (only_holdPhase _))
    | (with_reducible apply Only.chain (only_closeCur _))
    | (with_reducible apply Only.chain (only_tryStop _))
    | (with_reducible apply Only.chain (only_updEng _ _))
    | (lift_lets; intro z)
    | split

theorem only_execWave : ∀ ps s, Answers [.regs, .eng, .cores, .nodes, .ports] s (execWave ps s) := by
  intro ps s
  unfold execWave
  repeat' first
    | intro z
    | with_reducible exact Only.refl _ _
    | decide
    | (with_reducible apply Answers.next)
    | (with_reducible apply Only.chain (only_runWave _ _ _))
    | (with_reducible apply only_clk)
    | (lift_lets; intro z)
    | split

theorem only_execPassDone : ∀ k s, Answers [.eng, .cores] s (execPassDone k s) := by
  intro k s
  unfold execPassDone
  repeat' first
    | with_reducible exact Only.refl _ _
    | with_reducible assumption
    | decide
    | (with_reducible apply Answers.next)
    | (with_reducible apply Only.chain (only_phaseStep _))
    | (with_reducible apply Only.chain (only_coreBoundary _ _))
    | (with_reducible apply Only.chain (only_updCore _ _ _))
    | (lift_lets; intro z; refine Only.cut z ?_ ?_; (on_goal 2 => (intro hz; clear_value z)); (on_goal 1 => unfold z))
    | split

theorem only_nightDone : ∀ s k ticks,
    Only [.regs, .cores, .tiles, .nodes, .paths, .flights, .live] s (State.nightDone s k ticks) := by
  intro s k ticks
  unfold State.nightDone
  repeat' first
    | with_reducible exact Only.refl _ _
    | decide
    | (with_reducible apply Only.chain (only_applyDue _ _))
    | (with_reducible apply Only.chain (only_pumpTile _ _))
    | (with_reducible apply Only.chain (only_updCore _ _ _))
    | (with_reducible apply Only.chain (only_nightEnd _ _))

theorem only_runMidnight : ∀ s k rows bad ticks,
    Only [.regs, .boot, .cores, .tiles, .nodes, .paths, .log, .flights, .live, .free] s (State.runMidnight s k rows bad ticks) := by
  intro s k rows bad ticks
  unfold State.runMidnight
  repeat' first
    | with_reducible exact Only.refl _ _
    | with_reducible assumption
    | decide
    | (with_reducible apply Only.chain (only_residue _ _ _))
    | (with_reducible apply Only.chain (only_updCore _ _ _))
    | (with_reducible apply Only.chain (only_nightDone _ _ _))
    | (lift_lets; intro z; refine Only.cut z ?_ ?_; (on_goal 2 => (intro hz; clear_value z)); (on_goal 1 => unfold z))
    | split

theorem only_execMidnight : ∀ k w ticks s,
    Answers [.regs, .boot, .cores, .tiles, .nodes, .paths, .log, .flights, .live, .free] s (execMidnight k w ticks s) := by
  intro k w ticks s
  unfold execMidnight
  repeat' first
    | with_reducible exact Only.refl _ _
    | decide
    | (with_reducible apply Answers.next)
    | (with_reducible apply Only.chain (only_runMidnight _ _ _ _ _))
    | split

theorem only_nightNow : ∀ s, Only [.eng, .lrn, .cores] s (State.nightNow s) := by
  intro s
  unfold State.nightNow
  dsimp -zeta only [State.mk_lrn]
  repeat' first
    | with_reducible exact Only.refl _ _
    | with_reducible assumption
    | decide
    | (with_reducible apply Only.chain (only_startMidnight _ _ _))
    | (with_reducible apply Only.chain (Only.set_lrn _ _))
    | (with_reducible apply Only.foldl; on_goal 2 => intro _ _ _)

theorem only_nightStart : ∀ s w ticks,
    Only [.regs, .boot, .eng, .lrn, .cores, .tiles, .nodes, .paths, .log, .flights, .live, .free] s
      (State.nightStart s w ticks) := by
  intro s w ticks
  unfold State.nightStart
  repeat' first
    | with_reducible exact Only.refl _ _
    | with_reducible assumption
    | decide
    | (with_reducible apply Only.chain (only_nightNow _))
    | (with_reducible apply Only.chain (only_runMidnight _ _ _ _ _))
    | (with_reducible apply Only.foldl; on_goal 2 => intro _ _ _)
    | split

theorem only_lrnMidnightAct : ∀ w ticks s0,
    Reply.Only [.regs, .boot, .eng, .lrn, .cores, .tiles, .nodes, .paths, .log, .flights, .live, .free] s0
      (lrnMidnightAct w ticks s0) := by
  intro w ticks s0
  unfold lrnMidnightAct
  dsimp -zeta only [State.mk_lrn]
  repeat' first
    | with_reducible exact Only.refl _ _
    | decide
    | (with_reducible apply Reply.only_okAct)
    | (with_reducible apply Reply.only_guardAct)
    | (with_reducible apply Reply.only_wait)
    | (with_reducible apply Only.chain (only_nightStart _ _ _))
    | (with_reducible apply Only.chain (Only.set_lrn _ _))
    | (lift_lets; intro z)
    | split

theorem only_lrnResume : ∀ s, Only [.eng, .lrn, .cores, .paths] s (State.lrnResume s) := by
  intro s
  unfold State.lrnResume
  dsimp -zeta only [State.mk_lrn]
  repeat' first
    | intro z
    | with_reducible exact Only.refl _ _
    | with_reducible assumption
    | decide
    | (with_reducible apply Only.chain (only_finish _ _ _ _ _))
    | (with_reducible apply Only.chain (only_updPathN _ _ _))
    | (with_reducible apply Only.chain (only_nightNow _))
    | (with_reducible apply Only.chain (Only.set_lrn _ _))
    | (with_reducible apply Only.foldl; on_goal 2 => intro _ _ _)
    | (lift_lets; intro z)
    | split

theorem only_execLrnCmdMidnight : ∀ p w ticks s,
    Answers [.regs, .boot, .eng, .lrn, .cores, .tiles, .nodes, .paths, .log, .doms, .flights, .live, .free] s
      (execLrnCmdMidnight p w ticks s) := by
  intro p w ticks s
  unfold execLrnCmdMidnight
  repeat' first
    | with_reducible exact Only.refl _ _
    | decide
    | (with_reducible apply Answers.next)
    | (with_reducible refine only_operate (A := [.regs, .boot, .eng, .lrn, .cores, .tiles, .nodes, .paths, .log, .doms, .flights,
        .live, .free]) _ _ _ _ _ _ (fun _ => ?_) (by decide) (by decide) ?_)
    | (with_reducible apply Reply.only_chain (only_lrnMidnightAct _ _ _))

theorem only_lrnClearAct : ∀ s0, Reply.Only [.cores] s0 (lrnClearAct s0) := by
  intro s0
  unfold lrnClearAct
  dsimp -zeta only [State.mk_cores]
  repeat' first
    | with_reducible exact Only.refl _ _
    | decide
    | (with_reducible apply Reply.only_okAct)
    | (with_reducible apply Reply.only_guardAct)
    | (with_reducible apply Only.chain (Only.set_cores _ _))

theorem only_execLrnCmdClear : ∀ p s, Answers [.regs, .cores, .paths, .doms] s (execLrnCmdClear p s) := by
  intro p s
  unfold execLrnCmdClear
  repeat' first
    | with_reducible exact Only.refl _ _
    | decide
    | (with_reducible apply Answers.next)
    | (with_reducible refine only_operate (A := [.regs, .cores, .paths, .doms]) _ _ _ _ _ _ (fun _ => ?_) (by decide) (by decide) ?_)
    | (with_reducible apply Reply.only_chain (only_lrnClearAct _))

theorem only_coreFenceAct : ∀ p s0,
    Reply.Only [.regs, .boot, .eng, .cores, .tiles, .nodes, .paths, .flights, .live, .free] s0 (coreFenceAct p s0) := by
  intro p s0
  unfold coreFenceAct
  repeat' first
    | with_reducible exact Only.refl _ _
    | decide
    | (with_reducible exact Reply.only_refuse _ _ _)
    | (with_reducible apply Reply.only_okAct)
    | (with_reducible apply Only.chain (only_phaseStep _))
    | (with_reducible apply Only.chain (only_fenceCore _ _ _))
    | split

theorem only_execCoreFence : ∀ p s,
    Answers [.regs, .boot, .eng, .cores, .tiles, .nodes, .paths, .doms, .flights, .live, .free] s (execCoreFence p s) := by
  intro p s
  unfold execCoreFence
  repeat' first
    | with_reducible exact Only.refl _ _
    | decide
    | (with_reducible apply Answers.next)
    | (with_reducible refine only_operate (A := [.regs, .boot, .eng, .cores, .tiles, .nodes, .paths, .doms, .flights, .live, .free]) _ _ _ _ _ _ (fun _ => ?_) (by decide) (by decide) ?_)
    | (with_reducible apply Reply.only_chain (only_coreFenceAct _ _))

theorem only_coreReleaseAct : ∀ p s0, Reply.Only [.cores] s0 (coreReleaseAct p s0) := by
  intro p s0
  unfold coreReleaseAct
  repeat' first
    | with_reducible exact Only.refl _ _
    | decide
    | (with_reducible exact Reply.only_refuse _ _ _)
    | (with_reducible apply Reply.only_okAct)
    | (with_reducible apply Reply.only_guardAct)
    | (with_reducible apply Only.chain (only_updCore _ _ _))
    | split

theorem only_execCoreRelease : ∀ p s, Answers [.regs, .cores, .paths, .doms] s (execCoreRelease p s) := by
  intro p s
  unfold execCoreRelease
  repeat' first
    | with_reducible exact Only.refl _ _
    | decide
    | (with_reducible apply Answers.next)
    | (with_reducible refine only_operate (A := [.regs, .cores, .paths, .doms]) _ _ _ _ _ _ (fun _ => ?_) (by decide) (by decide) ?_)
    | (with_reducible apply Reply.only_chain (only_coreReleaseAct _ _))

end Sys2Proof.Machine
end

