-- ==== Sys2Proof/Laws/OnlyRoad.lean ====
section
/-! SUPPORT. What the operations of Machine/Road.lean change: for each, the parts of the state beyond which it leaves
    everything as it was. -/

namespace Sys2Proof.Machine

theorem only_dropAt : ∀ s n sub k, Only [.regs] s (State.dropAt s n sub k) := by
  intro s n sub k
  unfold State.dropAt
  repeat' first
    | with_reducible exact Only.refl _ _
    | decide
    | (with_reducible apply Only.chain (only_bumpBy _ _ _ _))

theorem only_dropSide : ∀ s i, Only [.regs, .conns, .log] s (State.dropSide s i) := by
  intro s i
  unfold State.dropSide
  repeat' first
    | with_reducible exact Only.refl _ _
    | decide
    | (with_reducible apply Only.chain (only_creditBack _ _))
    | (with_reducible apply Only.chain (only_bumpBy _ _ _ _))
    | (with_reducible apply Only.chain (only_postDesc _ _ _ _ _))
    | split

theorem only_recDrop : ∀ s n i, Only [.regs, .nodes, .live] s (State.recDrop s n i) := by
  intro s n i
  unfold State.recDrop
  repeat' first
    | with_reducible exact Only.refl _ _
    | decide
    | (with_reducible apply Only.chain (only_itemGone _ _ _))
    | (with_reducible apply Only.chain (only_bump _ _))

theorem only_offRoad : ∀ s n i x3, Only [.regs, .nodes, .conns, .chans, .log, .live] s (State.offRoad s n i x3) := by
  intro s n i x3
  unfold State.offRoad
  repeat' first
    | with_reducible exact Only.refl _ _
    | decide
    | (with_reducible apply Only.chain (only_itemGone _ _ _))
    | (with_reducible apply Only.chain (only_inject _ _ _ _))
    | (with_reducible apply Only.chain (only_bumpBy _ _ _ _))
    | (with_reducible apply Only.chain (only_recDrop _ _ _))
    | (with_reducible apply Only.chain (only_dropSide _ _))
    | (with_reducible apply Only.chain (only_lostItem _ _))
    | (with_reducible apply Only.chain (only_dropAt _ _ _ _))
    | (with_reducible apply Only.chain (only_addAcc _ _ _ _))
    | split

theorem only_dropCopy : ∀ s t q, Only [.regs, .nodes, .flights] s (State.dropCopy s t q) := by
  intro s t q
  unfold State.dropCopy
  repeat' first
    | with_reducible exact Only.refl _ _
    | decide
    | (with_reducible apply Only.chain (only_bumpBy _ _ _ _))
    | (with_reducible apply Only.chain (only_fenceDrop _ _))
    | (with_reducible apply Only.chain (only_flightEnd _ _ _))
    | (with_reducible apply Only.chain (only_dropAt _ _ _ _))
    | (lift_lets; intro z)
    | split

theorem only_arriveEvent : ∀ s t id f,
    Only [.regs, .cores, .tiles, .nodes, .doms, .flights, .live, .ids] s (State.arriveEvent s t id f) := by
  intro s t id f
  unfold State.arriveEvent
  dsimp -zeta only [State.mk_flights_ids]
  repeat' first
    | (intro z; refine Only.cut z ?_ ?_; (on_goal 2 => (intro hz; clear_value z)); (on_goal 1 => unfold z))
    | intro z
    | with_reducible exact Only.refl _ _
    | with_reducible assumption
    | decide
    | (with_reducible apply Only.chain (only_itemGone _ _ _))
    | (with_reducible apply Only.chain (only_bump _ _))
    | (with_reducible apply Only.chain (only_itemEnd _ _))
    | (with_reducible apply Only.chain (only_pumpTile _ _))
    | (with_reducible apply Only.chain (only_wake _ _ _))
    | (with_reducible apply Only.chain (only_updTile _ _ _))
    | (with_reducible apply Only.chain (only_dropCopy _ _ _))
    | (with_reducible apply Only.chain (Only.set_flights_ids _ _ _))
    | (with_reducible apply Only.foldl; on_goal 2 => intro _ _ _)
    | (lift_lets; intro z)
    | split

theorem only_writeLanes : ∀ s t slot first vals, Only [.regs, .cores] s (State.writeLanes s t slot first vals) := by
  intro s t slot first vals
  unfold State.writeLanes
  repeat' first
    | with_reducible exact Only.refl _ _
    | with_reducible assumption
    | decide
    | (with_reducible apply Only.chain (only_bump _ _))
    | (with_reducible apply Only.chain (only_bumpBy _ _ _ _))
    | (with_reducible apply Only.chain (only_setCore _ _ _))
    | (with_reducible apply Only.foldl; on_goal 2 => intro _ _ _)
    | (lift_lets; intro z)
    | split

theorem only_pumpLanes : ∀ t x1 x2, Only [.regs, .cores, .tiles] x2 (State.pumpLanes t x1 x2) := by
  intro t x1
  induction x1 with
  | nil => intro x2; exact Only.refl _ _
  | cons i rest ih =>
    intro x2
    cases i with
    | lanes q d l first vs =>
      exact (((only_updTile _ _ _).mono (by decide)).trans ((only_writeLanes _ _ _ _ _).mono (by decide))).trans (ih _)
    | _ => exact Only.refl _ _

theorem only_rouse : ∀ s t src, Only [.regs, .doms] s (State.rouse s t src) := by
  intro s t src
  unfold State.rouse
  repeat' first
    | with_reducible exact Only.refl _ _
    | decide
    | (with_reducible apply Only.chain (only_wake _ _ _))
    | split

theorem only_pumpVc1 : ∀ s t, Only [.regs, .cores, .tiles] s (State.pumpVc1 s t) := by
  intro s t
  unfold State.pumpVc1
  repeat' first
    | with_reducible exact Only.refl _ _
    | decide
    | (with_reducible apply Only.chain (only_pumpLanes _ _ _))
    | split

theorem only_arriveVc1 : ∀ s t i, Only [.regs, .cores, .tiles, .doms] s (State.arriveVc1 s t i) := by
  intro s t i
  unfold State.arriveVc1
  repeat' first
    | with_reducible exact Only.refl _ _
    | decide
    | (with_reducible apply Only.chain (only_pumpVc1 _ _))
    | (with_reducible apply Only.chain (only_bumpBy _ _ _ _))
    | (with_reducible apply Only.chain (only_rouse _ _ _))
    | (with_reducible apply Only.chain (only_updTile _ _ _))
    | split

theorem only_hringDrop : ∀ s r m, Only [.regs, .nodes, .live] s (State.hringDrop s r m) := by
  intro s r m
  unfold State.hringDrop
  repeat' first
    | with_reducible exact Only.refl _ _
    | with_reducible assumption
    | decide
    | (with_reducible apply Only.chain (only_bump _ _))
    | (with_reducible apply Only.chain (only_itemEnd _ _))
    | (with_reducible apply Only.chain (only_addAcc _ _ _ _))
    | (lift_lets; intro z; refine Only.cut z ?_ ?_; (on_goal 2 => (intro hz; clear_value z)); (on_goal 1 => unfold z))
    | split

theorem only_stage : ∀ s r m, Only [.regs, .nodes, .hrings, .pcie, .doms, .live] s (State.stage s r m) := by
  intro s r m
  unfold State.stage
  dsimp -zeta only [State.mk_pcie]
  repeat' first
    | with_reducible exact Only.refl _ _
    | with_reducible assumption
    | decide
    | (with_reducible apply Only.chain (only_bump _ _))
    | (with_reducible apply Only.chain (only_wake _ _ _))
    | (with_reducible apply Only.chain (only_updHring _ _ _))
    | (with_reducible apply Only.chain (only_hringDrop _ _ _))
    | (with_reducible apply Only.chain (Only.set_pcie _ _))
    | (lift_lets; intro z; refine Only.cut z ?_ ?_; (on_goal 2 => (intro hz; clear_value z)); (on_goal 1 => unfold z))
    | split

theorem only_stageWait : ∀ l s, Only [.regs, .nodes, .hrings, .pcie, .doms, .live] s (State.stageWait l s) := by
  intro l
  induction l with
  | nil => intro s; exact (Only.set_pcie s _).mono (by decide)
  | cons x rest ih =>
    intro s
    obtain ⟨r, m⟩ := x
    unfold State.stageWait
    split
    · exact (Only.set_pcie s _).mono (by decide)
    · exact (((Only.set_pcie s _).mono (by decide)).trans ((only_stage _ r m).mono (by decide))).trans (ih _)

theorem only_stageNext : ∀ s, Only [.regs, .nodes, .hrings, .pcie, .doms, .live] s (State.stageNext s) := by
  intro s
  unfold State.stageNext
  repeat' first
    | with_reducible exact Only.refl _ _
    | decide
    | (with_reducible apply Only.chain (only_stageWait _ _))

theorem only_arrivePcie : ∀ s i, Only [.regs, .nodes, .conns, .hrings, .pcie, .doms, .live] s (State.arrivePcie s i) := by
  intro s i
  unfold State.arrivePcie
  repeat' first
    | (intro z; refine Only.cut z ?_ ?_; (on_goal 2 => (intro hz; clear_value z)); (on_goal 1 => unfold z))
    | with_reducible exact Only.refl _ _
    | with_reducible assumption
    | decide
    | (with_reducible apply Only.chain (only_itemGone _ _ _))
    | (with_reducible apply Only.chain (only_bump _ _))
    | (with_reducible apply Only.chain (only_itemEnd _ _))
    | (with_reducible apply Only.chain (only_stage _ _ _))
    | (with_reducible apply Only.chain (only_recDrop _ _ _))
    | (with_reducible apply Only.chain (only_updConn _ _ _))
    | (lift_lets; intro z)
    | split

theorem only_arriveStream : ∀ s p n r, Only [.regs, .nodes, .sports, .live] s (State.arriveStream s p n r) := by
  intro s p n r
  unfold State.arriveStream
  repeat' first
    | with_reducible exact Only.refl _ _
    | decide
    | (with_reducible apply Only.chain (only_recDrop _ _ _))
    | (with_reducible apply Only.chain (only_updSport _ _ _))
    | split

theorem only_noteMark : ∀ s v h, Only [.swap, .drains] s (State.noteMark s v h) := by
  intro s v h
  unfold State.noteMark
  dsimp -zeta only [State.mk_swap_drains]
  repeat' first
    | with_reducible exact Only.refl _ _
    | decide
    | (with_reducible apply Only.chain (Only.set_swap_drains _ _ _))

theorem only_arrive : ∀ s n v i, Only arriveParts s (State.arrive s n v i) := by
  intro s n v i
  unfold State.arrive
  dsimp -zeta only [State.mk_parkq]
  repeat' first
    | with_reducible exact Only.refl _ _
    | decide
    | (with_reducible apply Only.chain (only_itemGone _ _ _))
    | (with_reducible apply Only.chain (only_bump _ _))
    | (with_reducible apply Only.chain (only_itemEnd _ _))
    | (with_reducible apply Only.chain (only_noteMark _ _ _))
    | (with_reducible apply Only.chain (only_wake _ _ _))
    | (with_reducible apply Only.chain (only_arriveVc1 _ _ _))
    | (with_reducible apply Only.chain (only_toPort _ _ _ _))
    | (with_reducible apply Only.chain (only_arriveEvent _ _ _ _))
    | (with_reducible apply Only.chain (only_arriveStream _ _ _ _))
    | (with_reducible apply Only.chain (only_postWrite _ _ _))
    | (with_reducible apply Only.chain (only_arrivePcie _ _))
    | (with_reducible apply Only.chain (Only.set_parkq _ _))
    | split

theorem only_handoff : ∀ s t r, Only [.regs, .nodes, .conns, .live] s (State.handoff s t r) := by
  intro s t r
  unfold State.handoff
  repeat' first
    | with_reducible exact Only.refl _ _
    | decide
    | (with_reducible apply Only.chain (only_inject _ _ _ _))
    | (with_reducible apply Only.chain (only_recDrop _ _ _))
    | (with_reducible apply Only.chain (only_updConn _ _ _))
    | split

theorem only_execRecordHandoff : ∀ t s, Answers [.regs, .tiles, .nodes, .conns, .live] s (execRecordHandoff t s) := by
  intro t s
  unfold execRecordHandoff
  repeat' first
    | with_reducible exact Only.refl _ _
    | decide
    | (with_reducible apply Answers.next)
    | (with_reducible apply Only.chain (only_updTile _ _ _))
    | (with_reducible apply Only.chain (only_handoff _ _ _))
    | split

end Sys2Proof.Machine
end

