-- ==== Sys2Proof/Laws/OnlyClose.lean ====
section
/-! SUPPORT. What the operations of Machine/Close.lean change: for each, the parts of the state beyond which it leaves
    everything as it was. -/

namespace Sys2Proof.Machine

theorem only_setSavedQueue : ∀ s v sl q x, Only [.lpddr] s (State.setSavedQueue s v sl q x) := by
  intro s v sl q x
  unfold State.setSavedQueue
  dsimp -zeta only [State.mk_lpddr]
  repeat' first
    | with_reducible exact Only.refl _ _
    | decide
    | (with_reducible apply Only.chain (Only.set_lpddr _ _))

theorem only_setQueueAt : ∀ s l q x, Only [.tiles, .lpddr] s (State.setQueueAt s l q x) := by
  intro s l q x
  unfold State.setQueueAt
  repeat' first
    | with_reducible exact Only.refl _ _
    | decide
    | (with_reducible apply Only.chain (only_setQueue _ _ _ _ _))
    | (with_reducible apply Only.chain (only_setSavedQueue _ _ _ _ _))
    | split

theorem only_abortItems : ∀ s i n, Only [.regs, .conns] s (State.abortItems s i n) := by
  intro s i n
  unfold State.abortItems
  repeat' first
    | with_reducible exact Only.refl _ _
    | decide
    | (with_reducible apply Only.chain (only_bumpBy _ _ _ _))
    | (with_reducible apply Only.chain (only_updConn _ _ _))

theorem only_abortDesc : ∀ s i dev lcid w back,
    Only [.regs, .nodes, .conns, .hrings, .pcie, .doms, .live] s (State.abortDesc s i dev lcid w back) := by
  intro s i dev lcid w back
  unfold State.abortDesc
  repeat' first
    | (intro z; refine Only.cut z ?_ ?_; (on_goal 2 => (intro hz; clear_value z)); (on_goal 1 => unfold z))
    | with_reducible exact Only.refl _ _
    | with_reducible assumption
    | decide
    | (with_reducible apply Only.chain (only_stage _ _ _))
    | (with_reducible apply Only.chain (only_abortItems _ _ _))
    | (lift_lets; intro z)
    | split

theorem only_abortQueue : ∀ s i back,
    Only [.regs, .tiles, .nodes, .conns, .hrings, .lpddr, .pcie, .doms, .live] s (State.abortQueue s i back) := by
  intro s i back
  unfold State.abortQueue
  repeat' first
    | (intro z; refine Only.cut z ?_ ?_; (on_goal 2 => (intro hz; clear_value z)); (on_goal 1 => unfold z))
    | intro z
    | with_reducible exact Only.refl _ _
    | with_reducible assumption
    | decide
    | (with_reducible apply Only.chain (only_abortDesc _ _ _ _ _ _))
    | (with_reducible apply Only.chain (only_setQueueAt _ _ _ _))
    | (with_reducible apply Only.foldl; on_goal 2 => intro _ _ _)
    | (lift_lets; intro z)
    | split

theorem only_abortSource : ∀ s i, Only [.regs, .conns] s (State.abortSource s i) := by
  intro s i
  unfold State.abortSource
  repeat' first
    | with_reducible exact Only.refl _ _
    | decide
    | (with_reducible apply Only.chain (only_updConn _ _ _))
    | (with_reducible apply Only.chain (only_wn _ _ _))
    | (with_reducible apply Only.chain (only_abortItems _ _ _))
    | split

theorem only_abortBank : ∀ s i, Only [.combs] s (State.abortBank s i) := by
  intro s i
  unfold State.abortBank
  repeat' first
    | with_reducible exact Only.refl _ _
    | decide
    | (with_reducible apply Only.chain (only_updComb _ _ _))
    | (lift_lets; intro z)
    | split

theorem only_closeBlocked : ∀ s h, Only [.cores] s (State.closeBlocked s h) := by
  intro s h
  unfold State.closeBlocked
  repeat' first
    | with_reducible exact Only.refl _ _
    | with_reducible assumption
    | decide
    | (with_reducible apply Only.chain (only_setCore _ _ _))
    | (with_reducible apply Only.foldl; on_goal 2 => intro _ _ _)
    | split

theorem only_tellClose : ∀ s q, Only [.nodes] s (State.tellClose s q) := by
  intro s q
  unfold State.tellClose
  repeat' first
    | with_reducible exact Only.refl _ _
    | decide
    | (with_reducible apply Only.chain (only_sendMsg _ _))

theorem only_ackClose : ∀ s dev h st, Only [.nodes] s (State.ackClose s dev h st) := by
  intro s dev h st
  unfold State.ackClose
  repeat' first
    | with_reducible exact Only.refl _ _
    | decide
    | (with_reducible apply Only.chain (only_sendMsg _ _))

theorem only_tellReady : ∀ s i, Only [.nodes, .conns] s (State.tellReady s i) := by
  intro s i
  unfold State.tellReady
  repeat' first
    | with_reducible exact Only.refl _ _
    | with_reducible assumption
    | decide
    | (with_reducible apply Only.chain (only_tellClose _ _))
    | (with_reducible apply Only.chain (only_updConn _ _ _))
    | (with_reducible apply Only.foldl; on_goal 2 => intro _ _ _)
    | (lift_lets; intro z)
    | split

theorem only_freeConn : ∀ s i, Only [.regs, .tiles, .conns, .combs, .lpddr] s (State.freeConn s i) := by
  intro s i
  unfold State.freeConn
  repeat' first
    | (intro z; refine Only.cut z ?_ ?_; (on_goal 2 => (intro hz; clear_value z)); (on_goal 1 => unfold z))
    | intro z
    | with_reducible exact Only.refl _ _
    | with_reducible assumption
    | decide
    | (with_reducible apply Only.chain (only_updComb _ _ _))
    | (with_reducible apply Only.chain (only_updConn _ _ _))
    | (with_reducible apply Only.chain (only_setQueueAt _ _ _ _))
    | (with_reducible apply Only.chain (only_wn _ _ _))
    | (lift_lets; intro z)
    | split

theorem only_endClose : ∀ s i, Only [.regs, .tiles, .nodes, .conns, .combs, .lpddr, .paths] s (State.endClose s i) := by
  intro s i
  unfold State.endClose
  repeat' first
    | (intro z; refine Only.cut z ?_ ?_; (on_goal 2 => (intro hz; clear_value z)); (on_goal 1 => unfold z))
    | with_reducible exact Only.refl _ _
    | with_reducible assumption
    | decide
    | (with_reducible apply Only.chain (only_answer _ _ _ _ _))
    | (with_reducible apply Only.chain (only_freeConn _ _))
    | (with_reducible apply Only.chain (only_ackClose _ _ _ _))
    | (with_reducible apply Only.chain (only_wn _ _ _))
    | (lift_lets; intro z)
    | split

theorem only_closeCheck : ∀ s, Only [.regs, .tiles, .nodes, .conns, .combs, .lpddr, .paths] s (State.closeCheck s) := by
  intro s
  unfold State.closeCheck
  repeat' first
    | with_reducible exact Only.refl _ _
    | with_reducible assumption
    | decide
    | (with_reducible apply Only.chain (only_endClose _ _))
    | (with_reducible apply Only.chain (only_tellReady _ _))
    | (with_reducible apply Only.foldl; on_goal 2 => intro _ _ _)
    | (lift_lets; intro z; refine Only.cut z ?_ ?_; (on_goal 2 => (intro hz; clear_value z)); (on_goal 1 => unfold z))
    | split

theorem only_startClose : ∀ s i path ackTo back,
    Only [.regs, .cores, .tiles, .nodes, .conns, .combs, .hrings, .lpddr, .paths, .pcie, .doms, .live] s (State.startClose s i path ackTo back) := by
  intro s i path ackTo back
  unfold State.startClose
  repeat' first
    | with_reducible exact Only.refl _ _
    | decide
    | (with_reducible apply Only.chain (only_closeBlocked _ _))
    | (with_reducible apply Only.chain (only_closeCheck _))
    | (with_reducible apply Only.chain (only_updConn _ _ _))
    | (with_reducible apply Only.chain (only_abortBank _ _))
    | (with_reducible apply Only.chain (only_abortQueue _ _ _))
    | (with_reducible apply Only.chain (only_abortSource _ _))

end Sys2Proof.Machine
end

