-- ==== Sys2Proof/Laws/OnlyMesh.lean ====
section
/-! SUPPORT. What the operations of Machine/Mesh.lean change: for each, the parts of the state beyond which it leaves
    everything as it was. -/

namespace Sys2Proof.Machine

theorem only_sendCtl : ∀ s n d kind vc seq nfl, Only [.nodes] s (State.sendCtl s n d kind vc seq nfl) := by
  intro s n d kind vc seq nfl
  unfold State.sendCtl
  repeat' first
    | with_reducible exact Only.refl _ _
    | decide
    | (with_reducible apply Only.chain (only_updNode _ _ _))

theorem only_putLine : ∀ s p l, Only [.ports] s (State.putLine s p l) := by
  intro s p l
  unfold State.putLine
  repeat' first
    | with_reducible exact Only.refl _ _
    | decide
    | (with_reducible apply Only.chain (only_updPort _ _ _))

theorem only_putLink : ∀ s p kind vc seq nfl credits ln,
    Only [.ports] s (State.putLink s p kind vc seq nfl credits ln) := by
  intro s p kind vc seq nfl credits ln
  unfold State.putLink
  repeat' first
    | with_reducible exact Only.refl _ _
    | decide
    | (with_reducible apply Only.chain (only_putLine _ _ _))

theorem only_putCredit : ∀ s p v n, Only [.ports] s (State.putCredit s p v n) := by
  intro s p v n
  unfold State.putCredit
  repeat' first
    | with_reducible exact Only.refl _ _
    | decide
    | (with_reducible apply Only.chain (only_putLink _ _ _ _ _ _ _ _))
    | split

theorem only_updNodeTx : ∀ s n m v f, Only [.nodes] s (State.updNodeTx s n m v f) := by
  intro s n m v f
  unfold State.updNodeTx
  repeat' first
    | with_reducible exact Only.refl _ _
    | decide
    | (with_reducible apply Only.chain (only_updNode _ _ _))

theorem only_updPortTx : ∀ s p v f, Only [.ports] s (State.updPortTx s p v f) := by
  intro s p v f
  unfold State.updPortTx
  repeat' first
    | with_reducible exact Only.refl _ _
    | decide
    | (with_reducible apply Only.chain (only_updPort _ _ _))

theorem only_transmit : ∀ s n m pk, Only [.nodes] s (State.transmit s n m pk) := by
  intro s n m pk
  unfold State.transmit
  repeat' first
    | with_reducible exact Only.refl _ _
    | decide
    | (with_reducible apply Only.chain (only_updNode _ _ _))

theorem only_sweep : ∀ s n v, Only [.regs, .nodes, .ports, .conns, .chans, .log, .live] s (State.sweep s n v) := by
  intro s n v
  unfold State.sweep
  repeat' first
    | (intro z; refine Only.cut z ?_ ?_; (on_goal 2 => (intro hz; clear_value z)); (on_goal 1 => unfold z))
    | intro z
    | with_reducible exact Only.refl _ _
    | with_reducible assumption
    | decide
    | (with_reducible apply Only.chain (only_updNode _ _ _))
    | (with_reducible apply Only.chain (only_putCredit _ _ _ _))
    | (with_reducible apply Only.chain (only_offRoad _ _ _ _))
    | (with_reducible apply Only.foldl; on_goal 2 => intro _ _ _)
    | (lift_lets; intro z)
    | split

theorem only_answerDrains : ∀ s p, Only [.nodes, .ports] s (State.answerDrains s p) := by
  intro s p
  unfold State.answerDrains
  repeat' first
    | with_reducible exact Only.refl _ _
    | with_reducible assumption
    | decide
    | (with_reducible apply Only.chain (only_inject _ _ _ _))
    | (with_reducible apply Only.chain (only_updPort _ _ _))
    | (with_reducible apply Only.foldl; on_goal 2 => intro _ _ _)

theorem only_takeMarks : ∀ s n v, Only [.nodes, .ports] s (State.takeMarks s n v) := by
  intro s n v
  unfold State.takeMarks
  repeat' first
    | with_reducible exact Only.refl _ _
    | with_reducible assumption
    | decide
    | (with_reducible apply Only.chain (only_updNode _ _ _))
    | (with_reducible apply Only.chain (only_answerDrains _ _))
    | (with_reducible apply Only.chain (only_updPort _ _ _))
    | (lift_lets; intro z; refine Only.cut z ?_ ?_; (on_goal 2 => (intro hz; clear_value z)); (on_goal 1 => unfold z))
    | split

theorem only_packNode : ∀ s n v, Only [.regs, .nodes, .ports] s (State.packNode s n v) := by
  intro s n v
  unfold State.packNode
  repeat' first
    | (intro z; refine Only.cut z ?_ ?_; (on_goal 2 => (intro hz; clear_value z)); (on_goal 1 => unfold z))
    | intro z
    | with_reducible exact Only.refl _ _
    | with_reducible assumption
    | decide
    | (with_reducible apply Only.chain (only_updNode _ _ _))
    | (with_reducible apply Only.chain (only_bumpBy _ _ _ _))
    | (with_reducible apply Only.chain (only_updNodeTx _ _ _ _ _))
    | (with_reducible apply Only.chain (only_hwm _ _ _))
    | (with_reducible apply Only.chain (only_transmit _ _ _ _))
    | (with_reducible apply Only.chain (only_putCredit _ _ _ _))
    | (lift_lets; intro z)
    | split

theorem only_sendNode : ∀ s n v,
    Only [.regs, .cores, .nodes, .ports, .conns, .chans, .log, .live, .ids] s (State.sendNode s n v) := by
  intro s n v
  unfold State.sendNode
  repeat' first
    | with_reducible exact Only.refl _ _
    | with_reducible assumption
    | decide
    | (with_reducible apply Only.chain (only_packNode _ _ _))
    | (with_reducible apply Only.chain (only_resumeSends _ _))
    | (with_reducible apply Only.chain (only_sweep _ _ _))
    | (with_reducible apply Only.chain (only_takeMarks _ _ _))
    | (lift_lets; intro z; refine Only.cut z ?_ ?_; (on_goal 2 => (intro hz; clear_value z)); (on_goal 1 => unfold z))
    | split

theorem only_linePacket : ∀ s p v pk, Only [.ports] s (State.linePacket s p v pk) := by
  intro s p v pk
  unfold State.linePacket
  repeat' first
    | with_reducible exact Only.refl _ _
    | decide
    | (with_reducible apply Only.chain (only_updPort _ _ _))

theorem only_portRetry : ∀ s p v pk, Only [.regs, .ports] s (State.portRetry s p v pk) := by
  intro s p v pk
  unfold State.portRetry
  repeat' first
    | with_reducible exact Only.refl _ _
    | decide
    | (with_reducible apply Only.chain (only_bumpBy _ _ _ _))
    | (with_reducible apply Only.chain (only_linePacket _ _ _ _))
    | (with_reducible apply Only.chain (only_updPort _ _ _))

theorem only_portNew : ∀ s p v, Only [.regs, .ports] s (State.portNew s p v) := by
  intro s p v
  unfold State.portNew
  repeat' first
    | with_reducible exact Only.refl _ _
    | decide
    | (with_reducible apply Only.chain (only_bump _ _))
    | (with_reducible apply Only.chain (only_bumpBy _ _ _ _))
    | (with_reducible apply Only.chain (only_linePacket _ _ _ _))
    | (with_reducible apply Only.chain (only_updPort _ _ _))
    | split

theorem only_sendPort : ∀ s p v, Only [.regs, .ports] s (State.sendPort s p v) := by
  intro s p v
  unfold State.sendPort
  repeat' first
    | with_reducible exact Only.refl _ _
    | decide
    | (with_reducible apply Only.chain (only_portRetry _ _ _ _))
    | (with_reducible apply Only.chain (only_portNew _ _ _))
    | split

theorem only_execPacketSend : ∀ g v s,
    Answers [.regs, .cores, .tiles, .nodes, .ports, .conns, .combs, .lpddr, .chans, .paths, .log, .live, .ids] s (execPacketSend g v s) := by
  intro g v s
  unfold execPacketSend
  repeat' first
    | with_reducible exact Only.refl _ _
    | decide
    | (with_reducible apply Answers.next)
    | (with_reducible apply Only.chain (only_sendNode _ _ _))
    | (with_reducible apply Only.chain (only_sendPort _ _ _))
    | (with_reducible apply Only.chain (only_closeCheck _))
    | split

theorem only_intoRouter : ∀ s r q f, Only [.regs, .rtrs] s (State.intoRouter s r q f) := by
  intro s r q f
  unfold State.intoRouter
  repeat' first
    | with_reducible exact Only.refl _ _
    | decide
    | (with_reducible apply Only.chain (only_bumpBy _ _ _ _))
    | (with_reducible apply Only.chain (only_hwm _ _ _))
    | (with_reducible apply Only.chain (only_updRtr _ _ _))
    | split

theorem only_hopFrom : ∀ s n v l, Only [.regs, .nodes, .rtrs] s (State.hopFrom s n v l) := by
  intro s n v l
  unfold State.hopFrom
  repeat' first
    | with_reducible exact Only.refl _ _
    | decide
    | (with_reducible apply Only.chain (only_updNode _ _ _))
    | (with_reducible apply Only.chain (only_intoRouter _ _ _ _))
    | split

theorem only_hopOver : ∀ s r q v l, Only [.regs, .nodes, .rtrs] s (State.hopOver s r q v l) := by
  intro s r q v l
  unfold State.hopOver
  repeat' first
    | (intro z; refine Only.cut z ?_ ?_; (on_goal 2 => (intro hz; clear_value z)); (on_goal 1 => unfold z))
    | with_reducible exact Only.refl _ _
    | with_reducible assumption
    | decide
    | (with_reducible apply Only.chain (only_updNode _ _ _))
    | (with_reducible apply Only.chain (only_bump _ _))
    | (with_reducible apply Only.chain (only_updRtr _ _ _))
    | (with_reducible apply Only.chain (only_intoRouter _ _ _ _))
    | (lift_lets; intro z)
    | split

theorem only_execRouterForward : ∀ h flips s, Answers [.regs, .nodes, .rtrs] s (execRouterForward h flips s) := by
  intro h flips s
  unfold execRouterForward
  repeat' first
    | with_reducible exact Only.refl _ _
    | decide
    | (with_reducible apply Answers.next)
    | (with_reducible apply Only.chain (only_hopOver _ _ _ _ _))
    | (with_reducible apply Only.chain (only_hopFrom _ _ _ _))
    | split

end Sys2Proof.Machine
end

