-- ==== Sys2Proof/Laws/OnlySegment.lean ====
section
/-! SUPPORT. What the operations of Machine/Segment.lean change: for each, the parts of the state beyond which it leaves
    everything as it was. -/

namespace Sys2Proof.Machine

theorem only_routeCheck : ∀ s, Only [.ports, .routes] s (State.routeCheck s) := by
  intro s
  unfold State.routeCheck
  dsimp -zeta only [State.mk_routes]
  repeat' first
    | with_reducible exact Only.refl _ _
    | with_reducible assumption
    | decide
    | (with_reducible apply Only.chain (only_updPort _ _ _))
    | (with_reducible apply Only.chain (Only.set_routes _ _))
    | (with_reducible apply Only.foldl; on_goal 2 => intro _ _ _)
    | (lift_lets; intro z; refine Only.cut z ?_ ?_; (on_goal 2 => (intro hz; clear_value z)); (on_goal 1 => unfold z))
    | split

theorem only_updSegTx : ∀ s g m v f, Only [.nodes, .ports] s (State.updSegTx s g m v f) := by
  intro s g m v f
  unfold State.updSegTx
  repeat' first
    | with_reducible exact Only.refl _ _
    | decide
    | (with_reducible apply Only.chain (only_updNodeTx _ _ _ _ _))
    | (with_reducible apply Only.chain (only_updPortTx _ _ _ _))
    | split

theorem only_resend : ∀ s g m v l, Only [.regs, .nodes, .ports] s (State.resend s g m v l) := by
  intro s g m v l
  unfold State.resend
  repeat' first
    | with_reducible exact Only.refl _ _
    | with_reducible assumption
    | decide
    | (with_reducible apply Only.chain (only_bumpBy _ _ _ _))
    | (with_reducible apply Only.chain (only_updNodeTx _ _ _ _ _))
    | (with_reducible apply Only.chain (only_transmit _ _ _ _))
    | (with_reducible apply Only.chain (only_updPort _ _ _))
    | (with_reducible apply Only.foldl; on_goal 2 => intro _ _ _)
    | split

theorem only_sendSkip : ∀ s g m v seq, Only [.nodes, .ports] s (State.sendSkip s g m v seq) := by
  intro s g m v seq
  unfold State.sendSkip
  repeat' first
    | with_reducible exact Only.refl _ _
    | decide
    | (with_reducible apply Only.chain (only_sendCtl _ _ _ _ _ _ _))
    | (with_reducible apply Only.chain (only_putLink _ _ _ _ _ _ _ _))
    | (lift_lets; intro z)
    | split

theorem only_postPath : ∀ s g m v seq, Only [.regs, .log] s (State.postPath s g m v seq) := by
  intro s g m v seq
  unfold State.postPath
  repeat' first
    | with_reducible exact Only.refl _ _
    | decide
    | (with_reducible apply Only.chain (only_post _ _ _ _ _ _))

theorem only_retryFrom : ∀ s g m v seq, Only [.regs, .nodes, .ports, .log] s (State.retryFrom s g m v seq) := by
  intro s g m v seq
  unfold State.retryFrom
  repeat' first
    | with_reducible exact Only.refl _ _
    | decide
    | (with_reducible apply Only.chain (only_updSegTx _ _ _ _ _))
    | (with_reducible apply Only.chain (only_postPath _ _ _ _ _))
    | (with_reducible apply Only.chain (only_sendSkip _ _ _ _ _))
    | (with_reducible apply Only.chain (only_resend _ _ _ _ _))
    | (lift_lets; intro z)
    | split
    | (clear_value *; split)

theorem only_leftPort : ∀ s pk, Only [.live] s (State.leftPort s pk) := by
  intro s pk
  unfold State.leftPort
  repeat' first
    | with_reducible exact Only.refl _ _
    | with_reducible assumption
    | decide
    | (with_reducible apply Only.chain (only_itemEnd _ _))
    | (with_reducible apply Only.foldl; on_goal 2 => intro _ _ _)

theorem only_keepAgain : ∀ s g v, Only [.ports] s (State.keepAgain s g v) := by
  intro s g v
  unfold State.keepAgain
  repeat' first
    | with_reducible exact Only.refl _ _
    | decide
    | (with_reducible apply Only.chain (only_updPort _ _ _))
    | split

theorem only_releasePk : ∀ s g m v f, Only [.nodes, .ports, .routes, .live] s (State.releasePk s g m v f) := by
  intro s g m v f
  unfold State.releasePk
  repeat' first
    | (intro z; refine Only.cut z ?_ ?_; (on_goal 2 => (intro hz; clear_value z)); (on_goal 1 => unfold z))
    | with_reducible exact Only.refl _ _
    | with_reducible assumption
    | decide
    | (with_reducible apply Only.chain (only_updSegTx _ _ _ _ _))
    | (with_reducible apply Only.chain (only_routeCheck _))
    | (with_reducible apply Only.chain (only_leftPort _ _))
    | (with_reducible apply Only.chain (only_keepAgain _ _ _))
    | (with_reducible apply Only.chain (only_answerDrains _ _))
    | (with_reducible apply Only.foldl; on_goal 2 => intro _ _ _)
    | (lift_lets; intro z)
    | split

theorem only_losePk : ∀ s g pk, Only [.regs, .nodes, .chans, .live] s (State.losePk s g pk) := by
  intro s g pk
  unfold State.losePk
  repeat' first
    | with_reducible exact Only.refl _ _
    | with_reducible assumption
    | decide
    | (with_reducible apply Only.chain (only_itemGone _ _ _))
    | (with_reducible apply Only.chain (only_bumpBy _ _ _ _))
    | (with_reducible apply Only.chain (only_lostItem _ _))
    | (with_reducible apply Only.foldl; on_goal 2 => intro _ _ _)
    | split

theorem only_takeCtl : ∀ s e kind, Only [.regs, .nodes] s (State.takeCtl s e kind).2 := by
  intro s e kind
  unfold State.takeCtl
  repeat' first
    | (intro z; refine Only.cut z ?_ ?_; (on_goal 2 => (intro hz; clear_value z)); (on_goal 1 => unfold z))
    | with_reducible exact Only.refl _ _
    | with_reducible assumption
    | decide
    | (with_reducible apply Only.chain (only_updNode _ _ _))
    | (with_reducible apply Only.chain (only_bumpBy _ _ _ _))
    | (lift_lets; intro z)
    | split

theorem only_execAck : ∀ e s,
    Answers [.regs, .tiles, .nodes, .ports, .conns, .combs, .lpddr, .paths, .routes, .live] s (execAck e s) := by
  intro e s
  unfold execAck
  repeat' first
    | with_reducible exact Only.refl _ _
    | decide
    | (with_reducible apply Answers.next)
    | (with_reducible apply Only.chain (only_releasePk _ _ _ _ _))
    | (with_reducible apply Only.chain (only_closeCheck _))
    | (with_reducible apply Only.chain (only_takeCtl _ _ _))
    | (lift_lets; intro z)
    | split
    | (refine Only.ofPair ‹_› ?_)

theorem only_execNak : ∀ e s, Answers [.regs, .nodes, .ports, .log] s (execNak e s) := by
  intro e s
  unfold execNak
  repeat' first
    | with_reducible exact Only.refl _ _
    | decide
    | (with_reducible apply Answers.next)
    | (with_reducible apply Only.chain (only_takeCtl _ _ _))
    | (with_reducible apply Only.chain (only_retryFrom _ _ _ _ _))
    | (lift_lets; intro z)
    | split
    | (refine Only.ofPair ‹_› ?_)

theorem only_execRetransmitTimeout : ∀ g m v s,
    Answers [.regs, .nodes, .ports, .log] s (execRetransmitTimeout g m v s) := by
  intro g m v s
  unfold execRetransmitTimeout
  repeat' first
    | with_reducible exact Only.refl _ _
    | decide
    | (with_reducible apply Answers.next)
    | (with_reducible apply Only.chain (only_sendSkip _ _ _ _ _))
    | (with_reducible apply Only.chain (only_retryFrom _ _ _ _ _))
    | split

theorem only_setRxExp : ∀ s e m v seq, Only [.nodes, .ports] s (State.setRxExp s e m v seq) := by
  intro s e m v seq
  unfold State.setRxExp
  repeat' first
    | with_reducible exact Only.refl _ _
    | decide
    | (with_reducible apply Only.chain (only_updNode _ _ _))
    | (with_reducible apply Only.chain (only_updPort _ _ _))
    | split

theorem only_noteNak : ∀ s e m v, Only [.nodes, .ports] s (State.noteNak s e m v) := by
  intro s e m v
  unfold State.noteNak
  repeat' first
    | with_reducible exact Only.refl _ _
    | decide
    | (with_reducible apply Only.chain (only_updNode _ _ _))
    | (with_reducible apply Only.chain (only_updPort _ _ _))
    | split

theorem only_answerSeg : ∀ s e m v kind seq, Only [.nodes, .ports] s (State.answerSeg s e m v kind seq) := by
  intro s e m v kind seq
  unfold State.answerSeg
  repeat' first
    | with_reducible exact Only.refl _ _
    | decide
    | (with_reducible apply Only.chain (only_sendCtl _ _ _ _ _ _ _))
    | (with_reducible apply Only.chain (only_putLink _ _ _ _ _ _ _ _))
    | split

theorem only_execSkip : ∀ e s, Answers [.regs, .nodes, .ports] s (execSkip e s) := by
  intro e s
  unfold execSkip
  repeat' first
    | with_reducible exact Only.refl _ _
    | decide
    | (with_reducible apply Answers.next)
    | (with_reducible apply Only.chain (only_answerSeg _ _ _ _ _ _))
    | (with_reducible apply Only.chain (only_takeCtl _ _ _))
    | (with_reducible apply Only.chain (only_setRxExp _ _ _ _ _))
    | split
    | (refine Only.ofPair ‹_› ?_)

theorem only_execHave : ∀ e s,
    Answers [.regs, .tiles, .nodes, .ports, .conns, .combs, .lpddr, .paths, .routes, .live] s (execHave e s) := by
  intro e s
  unfold execHave
  repeat' first
    | with_reducible exact Only.refl _ _
    | decide
    | (with_reducible apply Answers.next)
    | (with_reducible apply Only.chain (only_releasePk _ _ _ _ _))
    | (with_reducible apply Only.chain (only_updSegTx _ _ _ _ _))
    | (with_reducible apply Only.chain (only_closeCheck _))
    | (with_reducible apply Only.chain (only_takeCtl _ _ _))
    | (lift_lets; intro z)
    | split
    | (refine Only.ofPair ‹_› ?_)

theorem only_execAbsent : ∀ e s,
    Answers [.regs, .tiles, .nodes, .ports, .conns, .combs, .lpddr, .chans, .paths, .routes, .live] s (execAbsent e s) := by
  intro e s
  unfold execAbsent
  repeat' first
    | (intro z; refine Only.cut z ?_ ?_; (on_goal 2 => (intro hz; clear_value z)); (on_goal 1 => unfold z))
    | with_reducible exact Only.refl _ _
    | with_reducible assumption
    | decide
    | (with_reducible apply Answers.next)
    | (with_reducible apply Only.chain (only_updSegTx _ _ _ _ _))
    | (with_reducible apply Only.chain (only_routeCheck _))
    | (with_reducible apply Only.chain (only_closeCheck _))
    | (with_reducible apply Only.chain (only_answerDrains _ _))
    | (with_reducible apply Only.chain (only_losePk _ _ _))
    | (with_reducible apply Only.chain (only_takeCtl _ _ _))
    | (with_reducible apply Only.foldl; on_goal 2 => intro _ _ _)
    | (lift_lets; intro z)
    | split
    | (refine Only.ofPair ‹_› ?_)
    | (clear_value *; split)

theorem only_execCredit : ∀ p w s, Answers [.regs, .nodes, .ports] s (execCredit p w s) := by
  intro p w s
  unfold execCredit
  repeat' first
    | with_reducible exact Only.refl _ _
    | decide
    | (with_reducible apply Answers.next)
    | (with_reducible apply Only.chain (only_takeCtl _ _ _))
    | (with_reducible apply Only.chain (only_updPort _ _ _))
    | split
    | (refine Only.ofPair ‹_› ?_)

theorem only_receive {W : List Part} {s t : State} (e : LinkAt) (m v seq c : Nat) {accept : State → State}
    (hW : (([.regs, .nodes, .ports] : List Part).all fun p => W.contains p) = true) (h : Only W s t)
    (ha : ∀ u, Only W s u → Only W s (accept u)) : Only W s (t.receive e m v seq c accept) := by
  have k : ∀ u, Only [.regs, .nodes, .ports] t u → Only W s u := fun u hu => h.trans (hu.mono hW)
  have ans : ∀ u a b d f g, Only W s u → Only W s (State.answerSeg u a b d f g) := fun u a b d f g hu =>
    hu.trans ((only_answerSeg _ _ _ _ _ _).mono (by simp_all))
  unfold State.receive
  dsimp only
  split
  · exact ans _ _ _ _ _ _ (ha _ (k _ ((only_setRxExp _ _ _ _ _).mono (by decide))))
  · split
    · exact ans _ _ _ _ _ _ (k _ ((only_bumpBy _ _ _ _).mono (by decide)))
    · have hb : ∀ u, Only [.regs, .nodes, .ports] (t.bumpBy 32 (c + 1) 1) u → Only W s u := fun u hu =>
        k u (((only_bumpBy _ _ _ _).mono (by decide)).trans hu)
      split
      · exact ans _ _ _ _ _ _ (hb _ ((only_noteNak _ _ _ _).mono (by decide)))
      · exact hb _ (Only.refl _ _)

theorem only_joinParts : ∀ s n v i k last, Only [.regs, .nodes] s (State.joinParts s n v i k last).1 := by
  intro s n v i k last
  unfold State.joinParts
  repeat' first
    | (intro z; refine Only.cut z ?_ ?_; (on_goal 2 => (intro hz; clear_value z)); (on_goal 1 => unfold z))
    | intro z
    | with_reducible exact Only.refl _ _
    | with_reducible assumption
    | decide
    | (with_reducible apply Only.chain (only_updNode _ _ _))
    | (with_reducible apply Only.chain (only_bumpBy _ _ _ _))
    | (lift_lets; intro z)
    | split

theorem only_arriveItem : ∀ s n v i, Only arriveParts s (State.arriveItem s n v i) := by
  intro s n v i
  unfold State.arriveItem
  repeat' first
    | with_reducible exact Only.refl _ _
    | decide
    | (with_reducible apply Only.chain (only_joinParts _ _ _ _ _ _))
    | (with_reducible apply Only.chain (only_arrive _ _ _ _))
    | split
    | (refine Only.ofPairL ‹_› ?_)

theorem only_takePacket : ∀ s n v body f rest, Only arriveParts s (State.takePacket s n v body f rest) := by
  intro s n v body f rest
  unfold State.takePacket
  repeat' first
    | with_reducible exact Only.refl _ _
    | with_reducible assumption
    | decide
    | (with_reducible apply Only.chain (only_updNode _ _ _))
    | (with_reducible apply Only.chain (only_arriveItem _ _ _ _))
    | (with_reducible apply Only.chain (only_bumpBy _ _ _ _))
    | (with_reducible apply Only.foldl; on_goal 2 => intro _ _ _)
    | (with_reducible apply only_receive; on_goal 3 => intro _ _)
    | (lift_lets; intro z; refine Only.cut z ?_ ?_; (on_goal 2 => (intro hz; clear_value z)); (on_goal 1 => unfold z))
    | split

theorem only_receiveNode : ∀ s n v, Only arriveParts s (State.receiveNode s n v) := by
  intro s n v
  unfold State.receiveNode
  repeat' first
    | intro z
    | with_reducible exact Only.refl _ _
    | decide
    | (with_reducible apply Only.chain (only_updNode _ _ _))
    | (with_reducible apply Only.chain (only_takePacket _ _ _ _ _ _))
    | (lift_lets; intro z)
    | split

theorem only_acceptItem : ∀ s p pk j, Only [.regs, .nodes, .ports] s (State.acceptItem s p pk j) := by
  intro s p pk j
  unfold State.acceptItem
  repeat' first
    | with_reducible exact Only.refl _ _
    | decide
    | (with_reducible apply Only.chain (only_inject _ _ _ _))
    | (with_reducible apply Only.chain (only_bumpBy _ _ _ _))
    | (with_reducible apply Only.chain (only_putCredit _ _ _ _))
    | (lift_lets; intro z)
    | split
    | (clear_value *; split)

theorem only_acceptPort : ∀ s p n pk, Only [.regs, .nodes, .ports] s (State.acceptPort s p n pk) := by
  intro s p n pk
  unfold State.acceptPort
  repeat' first
    | with_reducible exact Only.refl _ _
    | with_reducible assumption
    | decide
    | (with_reducible apply Only.chain (only_bump _ _))
    | (with_reducible apply Only.chain (only_bumpBy _ _ _ _))
    | (with_reducible apply Only.chain (only_hwm _ _ _))
    | (with_reducible apply Only.chain (only_putCredit _ _ _ _))
    | (with_reducible apply Only.chain (only_acceptItem _ _ _ _))
    | (with_reducible apply Only.foldl; on_goal 2 => intro _ _ _)

theorem only_receivePort : ∀ s p head flits what,
    Only [.regs, .nodes, .ports] s (State.receivePort s p head flits what) := by
  intro s p head flits what
  unfold State.receivePort
  repeat' first
    | (intro z; refine Only.cut z ?_ ?_; (on_goal 2 => (intro hz; clear_value z)); (on_goal 1 => unfold z))
    | intro z
    | with_reducible exact Only.refl _ _
    | with_reducible assumption
    | decide
    | (with_reducible apply Only.chain (only_answerSeg _ _ _ _ _ _))
    | (with_reducible apply Only.chain (only_bumpBy _ _ _ _))
    | (with_reducible apply Only.chain (only_acceptPort _ _ _ _))
    | (with_reducible apply Only.chain (only_putCredit _ _ _ _))
    | (with_reducible apply Only.foldl; on_goal 2 => intro _ _ _)
    | (with_reducible apply only_receive; on_goal 3 => intro _ _)
    | (lift_lets; intro z)
    | split

theorem only_execPacketReceive : ∀ e s, Answers rxParts s (execPacketReceive e s) := by
  intro e s
  unfold execPacketReceive
  repeat' first
    | with_reducible exact Only.refl _ _
    | decide
    | (with_reducible apply Answers.next)
    | (with_reducible apply Only.chain (only_receivePort _ _ _ _ _))
    | (with_reducible apply Only.chain (only_receiveNode _ _ _))
    | (with_reducible apply Only.chain (only_closeCheck _))
    | split

end Sys2Proof.Machine
end

