-- ==== Sys2Proof/Laws/OnlyPorts.lean ====
section
/-! SUPPORT. What the operations of Machine/Ports.lean change: for each, the parts of the state beyond which it leaves
    everything as it was. -/

namespace Sys2Proof.Machine

theorem only_setPort : ∀ s p st, Only [.regs, .log] s (State.setPort s p st) := by
  intro s p st
  unfold State.setPort
  repeat' first
    | (intro z; refine Only.cut z ?_ ?_; (on_goal 2 => (intro hz; clear_value z)); (on_goal 1 => unfold z))
    | with_reducible exact Only.refl _ _
    | with_reducible assumption
    | decide
    | (with_reducible apply Only.chain (only_post _ _ _ _ _ _))
    | (with_reducible apply Only.chain (only_wn _ _ _))
    | (lift_lets; intro z)
    | split

theorem only_dropPortQueue : ∀ s p f, Only [.regs, .nodes, .ports, .chans, .live] s (State.dropPortQueue s p f) := by
  intro s p f
  unfold State.dropPortQueue
  repeat' first
    | (intro z; refine Only.cut z ?_ ?_; (on_goal 2 => (intro hz; clear_value z)); (on_goal 1 => unfold z))
    | with_reducible exact Only.refl _ _
    | with_reducible assumption
    | decide
    | (with_reducible apply Only.chain (only_itemGone _ _ _))
    | (with_reducible apply Only.chain (only_bumpBy _ _ _ _))
    | (with_reducible apply Only.chain (only_lostItem _ _))
    | (with_reducible apply Only.chain (only_updPort _ _ _))
    | (with_reducible apply Only.foldl; on_goal 2 => intro _ _ _)
    | (lift_lets; intro z)
    | split

theorem only_losePeer : ∀ s p, Only [.regs, .peers] s (State.losePeer s p) := by
  intro s p
  unfold State.losePeer
  repeat' first
    | (intro z; refine Only.cut z ?_ ?_; (on_goal 2 => (intro hz; clear_value z)); (on_goal 1 => unfold z))
    | with_reducible exact Only.refl _ _
    | with_reducible assumption
    | decide
    | (with_reducible apply Only.chain (only_updPeer _ _ _))
    | (with_reducible apply Only.chain (only_wn _ _ _))
    | (lift_lets; intro z)
    | split

theorem only_findPeer : ∀ s p e, Only [.regs, .peers] s (State.findPeer s p e) := by
  intro s p e
  unfold State.findPeer
  repeat' first
    | with_reducible exact Only.refl _ _
    | decide
    | (with_reducible apply Only.chain (only_updPeer _ _ _))
    | (with_reducible apply Only.chain (only_wn _ _ _))

theorem only_fencePort : ∀ s p r,
    Only [.regs, .nodes, .ports, .chans, .log, .routes, .peers, .live] s (State.fencePort s p r) := by
  intro s p r
  unfold State.fencePort
  repeat' first
    | with_reducible exact Only.refl _ _
    | decide
    | (with_reducible apply Only.chain (only_dropPortQueue _ _ _))
    | (with_reducible apply Only.chain (only_setPort _ _ _))
    | (with_reducible apply Only.chain (only_losePeer _ _))
    | (with_reducible apply Only.chain (only_routeCheck _))
    | (with_reducible apply Only.chain (only_updPort _ _ _))

theorem only_unfencePort : ∀ s p e, Only [.regs, .ports, .peers] s (State.unfencePort s p e) := by
  intro s p e
  unfold State.unfencePort
  repeat' first
    | with_reducible exact Only.refl _ _
    | decide
    | (with_reducible apply Only.chain (only_findPeer _ _ _))
    | (with_reducible apply Only.chain (only_sendJoin _ _))
    | (with_reducible apply Only.chain (only_wn _ _ _))
    | (with_reducible apply Only.chain (only_updPort _ _ _))

theorem only_releaseDup : ∀ s e was, Only [.regs, .ports, .peers] s (State.releaseDup s e was) := by
  intro s e was
  unfold State.releaseDup
  repeat' first
    | with_reducible exact Only.refl _ _
    | decide
    | (with_reducible apply Only.chain (only_unfencePort _ _ _))
    | (with_reducible apply Only.chain (only_wn _ _ _))
    | split

theorem only_askRxNext : ∀ s p e, Only [.ports] s (State.askRxNext s p e) := by
  intro s p e
  unfold State.askRxNext
  repeat' first
    | with_reducible exact Only.refl _ _
    | decide
    | (with_reducible apply Only.chain (only_portMsg _ _ _))
    | split

theorem only_downPort : ∀ s p,
    Only [.regs, .nodes, .ports, .chans, .log, .routes, .peers, .live] s (State.downPort s p) := by
  intro s p
  unfold State.downPort
  repeat' first
    | with_reducible exact Only.refl _ _
    | decide
    | (with_reducible apply Only.chain (only_dropPortQueue _ _ _))
    | (with_reducible apply Only.chain (only_setPort _ _ _))
    | (with_reducible apply Only.chain (only_losePeer _ _))
    | (with_reducible apply Only.chain (only_releaseDup _ _ _))
    | (with_reducible apply Only.chain (only_routeCheck _))
    | (with_reducible apply Only.chain (only_updPort _ _ _))
    | (with_reducible apply Only.chain (only_askRxNext _ _ _))
    | split

theorem only_reconcile : ∀ s p f,
    Only [.regs, .tiles, .nodes, .ports, .conns, .combs, .lpddr, .chans, .paths, .routes, .live] s (State.reconcile s p f) := by
  intro s p f
  unfold State.reconcile
  repeat' first
    | with_reducible exact Only.refl _ _
    | with_reducible assumption
    | decide
    | (with_reducible apply Only.chain (only_bumpBy _ _ _ _))
    | (with_reducible apply Only.chain (only_routeCheck _))
    | (with_reducible apply Only.chain (only_leftPort _ _))
    | (with_reducible apply Only.chain (only_closeCheck _))
    | (with_reducible apply Only.chain (only_losePk _ _ _))
    | (with_reducible apply Only.chain (only_updPort _ _ _))
    | (with_reducible apply Only.foldl; on_goal 2 => intro _ _ _)
    | split

theorem only_portDownAct : ∀ p s0,
    Reply.Only [.regs, .nodes, .ports, .chans, .log, .routes, .peers, .live] s0 (portDownAct p s0) := by
  intro p s0
  unfold portDownAct
  repeat' first
    | with_reducible exact Only.refl _ _
    | decide
    | (with_reducible apply Reply.only_okAct)
    | (with_reducible apply Reply.only_guardAct)
    | (with_reducible apply Only.chain (only_downPort _ _))

theorem only_execPortDown : ∀ a p s,
    Answers [.regs, .nodes, .ports, .chans, .paths, .log, .doms, .routes, .peers, .live] s (execPortDown a p s) := by
  intro a p s
  unfold execPortDown
  repeat' first
    | with_reducible exact Only.refl _ _
    | decide
    | (with_reducible apply Answers.next)
    | (with_reducible refine only_operate (A := [.regs, .nodes, .ports, .chans, .paths, .log, .doms, .routes, .peers, .live]) _ _ _ _ _ _ (fun _ => ?_) (by decide) (by decide) ?_)
    | (with_reducible apply Reply.only_chain (only_portDownAct _ _))

theorem only_execPortRxNextReply : ∀ p rx s,
    Answers [.regs, .tiles, .nodes, .ports, .conns, .combs, .lpddr, .chans, .paths, .routes, .live] s (execPortRxNextReply p rx s) := by
  intro p rx s
  unfold execPortRxNextReply
  repeat' first
    | with_reducible exact Only.refl _ _
    | decide
    | (with_reducible apply Answers.next)
    | (with_reducible apply Only.chain (only_reconcile _ _ _))
    | split

theorem only_execPortDownReconcileTimeout : ∀ p s,
    Answers [.regs, .tiles, .nodes, .ports, .conns, .combs, .lpddr, .chans, .paths, .routes, .live] s (execPortDownReconcileTimeout p s) := by
  intro p s
  unfold execPortDownReconcileTimeout
  repeat' first
    | with_reducible exact Only.refl _ _
    | decide
    | (with_reducible apply Answers.next)
    | (with_reducible apply Only.chain (only_bumpBy _ _ _ _))
    | (with_reducible apply Only.chain (only_reconcile _ _ _))
    | split

theorem only_setLanes : ∀ s p l, Only [.regs] s (State.setLanes s p l) := by
  intro s p l
  unfold State.setLanes
  repeat' first
    | with_reducible exact Only.refl _ _
    | decide
    | (with_reducible apply Only.chain (only_wn _ _ _))

theorem only_moveLane : ∀ s p n m, Only [.regs, .ports] s (State.moveLane s p n m) := by
  intro s p n m
  unfold State.moveLane
  repeat' first
    | with_reducible exact Only.refl _ _
    | decide
    | (with_reducible apply Only.chain (only_setLanes _ _ _))
    | (with_reducible apply Only.chain (only_bump32 _ _))
    | (with_reducible apply Only.chain (only_updPort _ _ _))

theorem only_train : ∀ s p four, Only [.regs, .ports, .log] s (State.train s p four) := by
  intro s p four
  unfold State.train
  repeat' first
    | with_reducible exact Only.refl _ _
    | with_reducible assumption
    | decide
    | (with_reducible apply Only.chain (only_setLanes _ _ _))
    | (with_reducible apply Only.chain (only_setPort _ _ _))
    | (with_reducible apply Only.chain (only_updPort _ _ _))
    | (lift_lets; intro z; refine Only.cut z ?_ ?_; (on_goal 2 => (intro hz; clear_value z)); (on_goal 1 => unfold z))
    | split

theorem only_portTrainAct : ∀ p s0, Reply.Only [.regs, .ports, .log] s0 (portTrainAct p s0) := by
  intro p s0
  unfold portTrainAct
  repeat' first
    | with_reducible exact Only.refl _ _
    | decide
    | (with_reducible apply Reply.only_okAct)
    | (with_reducible apply Reply.only_guardAct)
    | (with_reducible apply Only.chain (only_train _ _ _))
    | (with_reducible apply Only.chain (only_updPort _ _ _))

theorem only_execPortTrain : ∀ a p s, Answers [.regs, .ports, .paths, .log, .doms] s (execPortTrain a p s) := by
  intro a p s
  unfold execPortTrain
  repeat' first
    | with_reducible exact Only.refl _ _
    | decide
    | (with_reducible apply Answers.next)
    | (with_reducible refine only_operate (A := [.regs, .ports, .paths, .log, .doms]) _ _ _ _ _ _ (fun _ => ?_) (by decide) (by decide) ?_)
    | (with_reducible apply Reply.only_chain (only_portTrainAct _ _))

theorem only_execPortTrainingDone : ∀ p s, Answers [.regs] s (execPortTrainingDone p s) := by
  intro p s
  unfold execPortTrainingDone
  repeat' first
    | with_reducible exact Only.refl _ _
    | decide
    | (with_reducible apply Answers.next)
    | (with_reducible apply Only.chain (only_wn _ _ _))
    | (with_reducible apply only_clk)
    | split

theorem only_noteQual : ∀ s p outcome q, Only [.ports] s (State.noteQual s p outcome q) := by
  intro s p outcome q
  unfold State.noteQual
  repeat' first
    | with_reducible exact Only.refl _ _
    | decide
    | (with_reducible apply Only.chain (only_updPort _ _ _))

theorem only_comeUp : ∀ s p, Only [.regs, .ports] s (State.comeUp s p) := by
  intro s p
  unfold State.comeUp
  repeat' first
    | with_reducible exact Only.refl _ _
    | decide
    | (with_reducible apply Only.chain (only_sendJoin _ _))
    | (with_reducible apply Only.chain (only_wn _ _ _))
    | (with_reducible apply Only.chain (only_updPort _ _ _))

theorem only_verdict : ∀ s p q,
    Only [.regs, .nodes, .ports, .chans, .log, .routes, .peers, .live] s (State.verdict s p q) := by
  intro s p q
  unfold State.verdict
  repeat' first
    | (intro z; refine Only.cut z ?_ ?_; (on_goal 2 => (intro hz; clear_value z)); (on_goal 1 => unfold z))
    | intro z
    | with_reducible exact Only.refl _ _
    | with_reducible assumption
    | decide
    | (with_reducible apply Only.chain (only_moveLane _ _ _ _))
    | (with_reducible apply Only.chain (only_train _ _ _))
    | (with_reducible apply Only.chain (only_downPort _ _))
    | (with_reducible apply Only.chain (only_comeUp _ _))
    | (with_reducible apply Only.chain (only_noteQual _ _ _ _))
    | (with_reducible apply Only.chain (only_updPort _ _ _))
    | (lift_lets; intro z)
    | split

theorem only_countFec : ∀ s p corr uncorr, Only [.regs] s (State.countFec s p corr uncorr) := by
  intro s p corr uncorr
  unfold State.countFec
  repeat' first
    | with_reducible exact Only.refl _ _
    | decide
    | (with_reducible apply Only.chain (only_bumpBy _ _ _ _))

theorem only_execQualWindowEnd : ∀ p q s,
    Answers [.regs, .nodes, .ports, .chans, .log, .routes, .peers, .live] s (execQualWindowEnd p q s) := by
  intro p q s
  unfold execQualWindowEnd
  repeat' first
    | with_reducible exact Only.refl _ _
    | decide
    | (with_reducible apply Answers.next)
    | (with_reducible apply Only.chain (only_countFec _ _ _ _))
    | (with_reducible apply Only.chain (only_verdict _ _ _))
    | (with_reducible apply only_clk)
    | split

theorem only_execLaneFailure : ∀ p n w s, Answers [.regs, .ports] s (execLaneFailure p n w s) := by
  intro p n w s
  unfold execLaneFailure
  repeat' first
    | with_reducible exact Only.refl _ _
    | with_reducible assumption
    | decide
    | (with_reducible apply Answers.next)
    | (with_reducible apply Only.chain (only_countFec _ _ _ _))
    | (with_reducible apply Only.chain (only_updPort _ _ _))
    | (with_reducible apply Only.chain (only_putLink _ _ _ _ _ _ _ _))
    | (lift_lets; intro z; refine Only.cut z ?_ ?_; (on_goal 2 => (intro hz; clear_value z)); (on_goal 1 => unfold z))
    | split

theorem only_laneCause : ∀ s p n, Only [.ports, .free] s (State.laneCause s p n).2 := by
  intro s p n
  unfold State.laneCause
  dsimp -zeta only [State.mk_free]
  repeat' first
    | with_reducible exact Only.refl _ _
    | decide
    | (with_reducible apply Only.chain (only_updPort _ _ _))
    | (with_reducible apply Only.chain (Only.set_free _ _))
    | split

theorem only_laneWord : ∀ s p n, Only [.regs, .ports, .log, .free] s (State.laneWord s p n) := by
  intro s p n
  unfold State.laneWord
  repeat' first
    | with_reducible exact Only.refl _ _
    | decide
    | (with_reducible apply Only.chain (only_post _ _ _ _ _ _))
    | (with_reducible apply Only.chain (only_laneCause _ _ _))
    | (with_reducible apply Only.chain (only_moveLane _ _ _ _))
    | (with_reducible apply Only.chain (only_train _ _ _))
    | (with_reducible apply Only.chain (only_updPort _ _ _))
    | (lift_lets; intro z)
    | split

theorem only_execLane : ∀ p w s, Answers [.regs, .nodes, .ports, .log, .free] s (execLane p w s) := by
  intro p w s
  unfold execLane
  repeat' first
    | with_reducible exact Only.refl _ _
    | decide
    | (with_reducible apply Answers.next)
    | (with_reducible apply Only.chain (only_laneWord _ _ _))
    | (with_reducible apply Only.chain (only_takeCtl _ _ _))
    | (lift_lets; intro z)
    | split
    | (refine Only.ofPair ‹_› ?_)

theorem only_enterDomain : ∀ s d off, Only [.regs, .doms] s (State.enterDomain s d off) := by
  intro s d off
  unfold State.enterDomain
  repeat' first
    | with_reducible exact Only.refl _ _
    | decide
    | (with_reducible apply Only.chain (only_updDom _ _ _))
    | (with_reducible apply Only.chain (only_wn _ _ _))

theorem only_execPortRetentionNotice : ∀ p w s, Answers [.regs, .nodes, .doms] s (execPortRetentionNotice p w s) := by
  intro p w s
  unfold execPortRetentionNotice
  repeat' first
    | with_reducible exact Only.refl _ _
    | decide
    | (with_reducible apply Answers.next)
    | (with_reducible apply Only.chain (only_enterDomain _ _ _))
    | (with_reducible apply Only.chain (only_takeCtl _ _ _))
    | split
    | (refine Only.ofPair ‹_› ?_)

end Sys2Proof.Machine
end

