-- ==== Sys2Proof/Laws/OnlyMaps.lean ====
section
/-! SUPPORT. What the operations of Machine/Maps.lean change: for each, the parts of the state beyond which it leaves
    everything as it was. -/

namespace Sys2Proof.Machine

theorem only_dropPark : ∀ s v, Only [.regs, .parks] s (State.dropPark s v) := by
  intro s v
  unfold State.dropPark
  dsimp -zeta only [State.mk_parks]
  repeat' first
    | with_reducible exact Only.refl _ _
    | decide
    | (with_reducible apply Only.chain (only_bumpBy _ _ _ _))
    | (with_reducible apply Only.chain (only_wn _ _ _))
    | (with_reducible apply Only.chain (Only.set_parks _ _))

theorem only_sendMarks : ∀ s v dest vc, Only [.nodes] s (State.sendMarks s v dest vc) := by
  intro s v dest vc
  unfold State.sendMarks
  repeat' first
    | with_reducible exact Only.refl _ _
    | with_reducible assumption
    | decide
    | (with_reducible apply Only.chain (only_inject _ _ _ _))
    | (with_reducible apply Only.foldl; on_goal 2 => intro _ _ _)

theorem only_mapTileAct : ∀ v x s0, Reply.Only [.regs, .nodes, .parks, .drains] s0 (mapTileAct v x s0) := by
  intro v x s0
  unfold mapTileAct
  dsimp -zeta only [State.mk_drains]
  repeat' first
    | (intro z; refine Reply.only_cut z ?_ ?_; (on_goal 2 => (intro hz; clear_value z)); (on_goal 1 => unfold z))
    | with_reducible exact Only.refl _ _
    | with_reducible assumption
    | decide
    | (with_reducible apply Reply.only_okAct)
    | (with_reducible apply Reply.only_guardAct)
    | (with_reducible apply Reply.only_wait)
    | (with_reducible apply Only.chain (only_sendMarks _ _ _ _))
    | (with_reducible apply Only.chain (only_wr _ _ _))
    | (with_reducible apply Only.chain (only_dropPark _ _))
    | (with_reducible apply Only.chain (Only.set_drains _ _))
    | (lift_lets; intro z)
    | split

theorem only_execMapTileWrite : ∀ a v x s,
    Answers [.regs, .nodes, .parks, .paths, .doms, .drains] s (execMapTileWrite a v x s) := by
  intro a v x s
  unfold execMapTileWrite
  repeat' first
    | with_reducible exact Only.refl _ _
    | decide
    | (with_reducible apply Answers.next)
    | (with_reducible refine only_operate (A := [.regs, .nodes, .parks, .paths, .doms, .drains]) _ _ _ _ _ _ (fun _ => ?_) (by decide) (by decide) ?_)
    | (with_reducible apply Reply.only_chain (only_mapTileAct _ _ _))

theorem only_execDrain : ∀ h v s, Answers [.swap, .paths, .drains] s (execDrain h v s) := by
  intro h v s
  refine ⟨_, rfl, ?_⟩
  have hd : ∀ l, Only [.swap, .paths, .drains] s { s with drains := l } := fun l => (Only.set_drains s l).mono (by decide)
  have hw : ∀ l, Only [.swap, .paths, .drains] s { s with swap := l } := fun l => (Only.set_swap s l).mono (by decide)
  cases s.drains.find? fun d => decide (d.v = v) with
  | some d =>
    dsimp only
    refine Only.ite (Only.ite ?_ (hd _)) (Only.refl _ _)
    refine Only.foldl (hd _) (fun t n h => ?_)
    exact Only.chain (only_finish _ _ _ _ _) (by decide) h
  | none =>
    cases s.swap with
    | none => exact Only.refl _ _
    | some w =>
      dsimp only
      exact Only.ite (hw _) (Only.refl _ _)

theorem only_mapCoreAct : ∀ p slot c s0, Reply.Only [.regs] s0 (mapCoreAct p slot c s0) := by
  intro p slot c s0
  unfold mapCoreAct
  repeat' first
    | with_reducible exact Only.refl _ _
    | decide
    | (with_reducible apply Reply.only_okAct)
    | (with_reducible apply Reply.only_guardAct)
    | (with_reducible apply Only.chain (only_wn _ _ _))

theorem only_execMapCoreWrite : ∀ a slot x s, Answers [.regs, .paths, .doms] s (execMapCoreWrite a slot x s) := by
  intro a slot x s
  unfold execMapCoreWrite
  repeat' first
    | with_reducible exact Only.refl _ _
    | decide
    | (with_reducible apply Answers.next)
    | (with_reducible refine only_operate (A := [.regs, .paths, .doms]) _ _ _ _ _ _ (fun _ => ?_) (by decide) (by decide) ?_)
    | (with_reducible apply Reply.only_chain (only_mapCoreAct _ _ _ _))

theorem only_routeAct : ∀ e x s0, Reply.Only [.regs, .ports, .routes] s0 (routeAct e x s0) := by
  intro e x s0
  unfold routeAct
  dsimp -zeta only [State.mk_routes]
  repeat' first
    | with_reducible exact Only.refl _ _
    | decide
    | (with_reducible apply Reply.only_okAct)
    | (with_reducible apply Reply.only_guardAct)
    | (with_reducible apply Only.chain (only_wr _ _ _))
    | (with_reducible apply Only.chain (only_routeCheck _))
    | (with_reducible apply Only.chain (Only.set_routes _ _))
    | split

theorem only_execRouteWrite : ∀ a e x s, Answers [.regs, .ports, .paths, .doms, .routes] s (execRouteWrite a e x s) := by
  intro a e x s
  unfold execRouteWrite
  repeat' first
    | with_reducible exact Only.refl _ _
    | decide
    | (with_reducible apply Answers.next)
    | (with_reducible refine only_operate (A := [.regs, .ports, .paths, .doms, .routes]) _ _ _ _ _ _ (fun _ => ?_) (by decide) (by decide) ?_)
    | (with_reducible apply Reply.only_chain (only_routeAct _ _ _))

theorem only_execDrained : ∀ e s, Answers [.routes] s (execDrained e s) := by
  intro e s
  unfold execDrained
  dsimp -zeta only [State.mk_routes]
  repeat' first
    | with_reducible exact Only.refl _ _
    | decide
    | (with_reducible apply Answers.next)
    | (with_reducible apply Only.chain (Only.set_routes _ _))
    | split

theorem only_notePeer : ∀ s p r why, Only [.regs, .ports, .peers] s (State.notePeer s p r why) := by
  intro s p r why
  unfold State.notePeer
  repeat' first
    | with_reducible exact Only.refl _ _
    | with_reducible assumption
    | decide
    | (with_reducible apply Only.chain (only_wr _ _ _))
    | (with_reducible apply Only.chain (only_updPeer _ _ _))
    | (with_reducible apply Only.chain (only_wn _ _ _))
    | (with_reducible apply Only.chain (only_updPort _ _ _))
    | (with_reducible apply Only.foldl; on_goal 2 => intro _ _ _)

theorem only_openSession : ∀ s n features driver, Only [.regs, .paths] s (State.openSession s n features driver) := by
  intro s n features driver
  unfold State.openSession
  repeat' first
    | with_reducible exact Only.refl _ _
    | decide
    | (with_reducible apply Only.chain (only_bumpBy _ _ _ _))
    | (with_reducible apply Only.chain (only_updPathN _ _ _))

theorem only_openPeer : ∀ s e why, Only [.regs, .paths] s (State.openPeer s e why) := by
  intro s e why
  unfold State.openPeer
  repeat' first
    | with_reducible exact Only.refl _ _
    | decide
    | (with_reducible apply Only.chain (only_openSession _ _ _ _))
    | split

theorem only_stopWithLeader : ∀ s, Only [.eng, .cores, .ports] s (State.stopWithLeader s) := by
  intro s
  unfold State.stopWithLeader
  repeat' first
    | with_reducible exact Only.refl _ _
    | decide
    | (with_reducible apply Only.chain (only_stopSteps _))
    | split

theorem only_join : ∀ s p r,
    Only [.regs, .eng, .cores, .nodes, .ports, .chans, .paths, .log, .routes, .peers, .live] s (State.join s p r) := by
  intro s p r
  unfold State.join
  repeat' first
    | (intro z; refine Only.cut z ?_ ?_; (on_goal 2 => (intro hz; clear_value z)); (on_goal 1 => unfold z))
    | intro z
    | with_reducible exact Only.refl _ _
    | with_reducible assumption
    | decide
    | (with_reducible apply Only.chain (only_post _ _ _ _ _ _))
    | (with_reducible apply Only.chain (only_unfencePort _ _ _))
    | (with_reducible apply Only.chain (only_openPeer _ _ _))
    | (with_reducible apply Only.chain (only_findPeer _ _ _))
    | (with_reducible apply Only.chain (only_notePeer _ _ _ _))
    | (with_reducible apply Only.chain (only_stopWithLeader _))
    | (with_reducible apply Only.chain (only_fencePort _ _ _))
    | (with_reducible apply Only.chain (only_updPort _ _ _))
    | (with_reducible apply Only.foldl; on_goal 2 => intro _ _ _)
    | (lift_lets; intro z; refine Only.cut z ?_ ?_; (on_goal 2 => (intro hz; clear_value z)); (on_goal 1 => unfold z))
    | (lift_lets; intro z)
    | split

theorem only_execJoin : ∀ p r s,
    Answers [.regs, .eng, .cores, .nodes, .ports, .chans, .paths, .log, .routes, .peers, .live] s (execJoin p r s) := by
  intro p r s
  unfold execJoin
  repeat' first
    | with_reducible exact Only.refl _ _
    | decide
    | (with_reducible apply Answers.next)
    | (with_reducible apply Only.chain (only_join _ _ _))
    | split

theorem only_rejoinAct : ∀ s0, Reply.Only [.ports] s0 (rejoinAct s0) := by
  intro s0
  unfold rejoinAct
  repeat' first
    | with_reducible exact Only.refl _ _
    | decide
    | (with_reducible apply Reply.only_okAct)
    | (with_reducible apply Only.chain (only_sendJoins _))

theorem only_execSysRejoin : ∀ a s, Answers [.regs, .ports, .paths, .doms] s (execSysRejoin a s) := by
  intro a s
  unfold execSysRejoin
  repeat' first
    | with_reducible exact Only.refl _ _
    | decide
    | (with_reducible apply Answers.next)
    | (with_reducible refine only_operate (A := [.regs, .ports, .paths, .doms]) _ _ _ _ _ _ (fun _ => ?_) (by decide) (by decide) ?_)
    | (with_reducible apply Reply.only_chain (only_rejoinAct _))

theorem only_adoptAct : ∀ step s0, Reply.Only [.eng, .ports] s0 (adoptAct step s0) := by
  intro step s0
  unfold adoptAct
  repeat' first
    | with_reducible exact Only.refl _ _
    | decide
    | (with_reducible apply Reply.only_okAct)
    | (with_reducible apply Reply.only_guardAct)
    | (with_reducible apply Only.chain (only_updEng _ _))
    | (with_reducible apply Only.chain (only_sendJoins _))

theorem only_execSysAdoptStep : ∀ a step s, Answers [.regs, .eng, .ports, .paths, .doms] s (execSysAdoptStep a step s) := by
  intro a step s
  unfold execSysAdoptStep
  repeat' first
    | with_reducible exact Only.refl _ _
    | decide
    | (with_reducible apply Answers.next)
    | (with_reducible refine only_operate (A := [.regs, .eng, .ports, .paths, .doms]) _ _ _ _ _ _ (fun _ => ?_) (by decide) (by decide) ?_)
    | (with_reducible apply Reply.only_chain (only_adoptAct _ _))

theorem only_execTickSend : ∀ s, Answers [.nodes] s (execTickSend s) := by
  intro s
  refine ⟨_, rfl, only_clk (Only.refl _ _) (Only.ite ?_ (Only.refl _ _))⟩
  refine Only.foldl (Only.refl _ _) (fun t d h => ?_)
  dsimp only
  exact Only.ite (Only.chain (only_inject _ _ _ _) (by decide) h) h

theorem only_takeTick : ∀ s p tb, Only [.regs, .slew] s (State.takeTick s p tb) := by
  intro s p tb
  unfold State.takeTick
  dsimp -zeta only [State.mk_slew]
  repeat' first
    | (intro z; refine Only.cut z ?_ ?_; (on_goal 2 => (intro hz; clear_value z)); (on_goal 1 => unfold z))
    | intro z
    | with_reducible exact Only.refl _ _
    | with_reducible assumption
    | decide
    | (with_reducible apply Only.chain (only_wn _ _ _))
    | (with_reducible apply Only.chain (only_bump32 _ _))
    | (with_reducible apply Only.chain (Only.set_slew _ _))
    | (lift_lets; intro z)
    | split

theorem only_execTick : ∀ p dev tb s, Answers [.regs, .slew] s (execTick p dev tb s) := by
  intro p dev tb s
  unfold execTick
  repeat' first
    | with_reducible exact Only.refl _ _
    | decide
    | (with_reducible apply Answers.next)
    | (with_reducible apply Only.chain (only_takeTick _ _ _))
    | (with_reducible apply only_clk)
    | split

theorem only_execLossRateUpdate : ∀ s, Answers [.regs, .lossSnap, .free] s (execLossRateUpdate s) := by
  intro s
  unfold execLossRateUpdate
  dsimp -zeta only [State.mk_lossSnap, State.mk_free]
  repeat' first
    | (intro z; refine Only.cut z ?_ ?_; (on_goal 2 => (intro hz; clear_value z)); (on_goal 1 => unfold z))
    | intro z
    | with_reducible exact Only.refl _ _
    | with_reducible assumption
    | decide
    | (with_reducible apply Answers.next)
    | (with_reducible apply Only.chain (only_wr _ _ _))
    | (with_reducible apply Only.chain (only_wn _ _ _))
    | (with_reducible apply Only.chain (Only.set_lossSnap _ _))
    | (with_reducible apply Only.chain (Only.set_free _ _))
    | (with_reducible apply only_clk)
    | (lift_lets; intro z)
    | split

end Sys2Proof.Machine
end

