-- ==== Sys2Proof/Laws/OnlyQueues.lean ====
section
/-! SUPPORT. What the operations of Machine/Queues.lean change: for each, the parts of the state beyond which it leaves
    everything as it was. -/

namespace Sys2Proof.Machine

theorem only_bind : ∀ s i, Only [.regs, .tiles, .combs, .lpddr] s (State.bind s i) := by
  intro s i
  unfold State.bind
  repeat' first
    | (intro z; refine Only.cut z ?_ ?_; (on_goal 2 => (intro hz; clear_value z)); (on_goal 1 => unfold z))
    | with_reducible exact Only.refl _ _
    | with_reducible assumption
    | decide
    | (with_reducible apply Only.chain (only_updComb _ _ _))
    | (with_reducible apply Only.chain (only_setQueueAt _ _ _ _))
    | (with_reducible apply Only.chain (only_wn _ _ _))
    | (lift_lets; intro z)
    | split

theorem only_openAct : ∀ p s0, Reply.Only [.regs, .tiles, .nodes, .conns, .combs, .lpddr] s0 (openAct p s0) := by
  intro p s0
  unfold openAct
  repeat' first
    | with_reducible exact Only.refl _ _
    | with_reducible assumption
    | decide
    | (with_reducible exact Reply.only_refuse _ _ _)
    | (with_reducible apply Reply.only_okAct)
    | (with_reducible apply Reply.only_guardAct)
    | (with_reducible apply Reply.only_wait)
    | (with_reducible apply Only.chain (only_bind _ _))
    | (with_reducible apply Only.chain (only_updConn _ _ _))
    | (with_reducible apply Only.chain (only_sendMsg _ _))
    | (with_reducible apply Only.chain (only_wn _ _ _))
    | (lift_lets; intro z; refine Reply.only_cut z ?_ ?_; (on_goal 2 => (intro hz; clear_value z)); (on_goal 1 => unfold z))
    | (lift_lets; intro z)
    | split

theorem only_execConnOpen : ∀ a s,
    Answers [.regs, .tiles, .nodes, .conns, .combs, .lpddr, .paths, .doms] s (execConnOpen a s) := by
  intro a s
  unfold execConnOpen
  repeat' first
    | with_reducible exact Only.refl _ _
    | decide
    | (with_reducible apply Answers.next)
    | (with_reducible refine only_operate (A := [.regs, .tiles, .nodes, .conns, .combs, .lpddr, .paths, .doms]) _ _ _ _ _ _ (fun _ => ?_) (by decide) (by decide) ?_)
    | (with_reducible apply Reply.only_chain (only_openAct _ _))

theorem only_execConnConfirm : ∀ dev tag h rec' s, Answers [.nodes, .conns] s (execConnConfirm dev tag h rec' s) := by
  intro dev tag h rec' s
  unfold execConnConfirm
  repeat' first
    | intro z
    | with_reducible exact Only.refl _ _
    | decide
    | (with_reducible apply Answers.next)
    | (with_reducible apply Only.chain (only_updConn _ _ _))
    | (with_reducible apply Only.chain (only_sendMsg _ _))
    | (with_reducible apply only_clk)
    | (lift_lets; intro z)
    | split

theorem only_dropOpen : ∀ s i, Only [.conns] s (State.dropOpen s i) := by
  intro s i
  unfold State.dropOpen
  repeat' first
    | with_reducible exact Only.refl _ _
    | decide
    | (with_reducible apply Only.chain (only_updConn _ _ _))

theorem only_execConnAck : ∀ dev tag st dkind lanes s,
    Answers [.regs, .tiles, .nodes, .conns, .combs, .lpddr, .paths] s (execConnAck dev tag st dkind lanes s) := by
  intro dev tag st dkind lanes s
  unfold execConnAck
  repeat' first
    | with_reducible exact Only.refl _ _
    | with_reducible assumption
    | decide
    | (with_reducible apply Answers.next)
    | (with_reducible apply Only.chain (only_answer _ _ _ _ _))
    | (with_reducible apply Only.chain (only_bind _ _))
    | (with_reducible apply Only.chain (only_dropOpen _ _))
    | (with_reducible apply Only.chain (only_closeCheck _))
    | (with_reducible apply Only.chain (only_updConn _ _ _))
    | (with_reducible apply Only.chain (only_wn _ _ _))
    | (with_reducible apply only_clk)
    | (lift_lets; intro z; refine Only.cut z ?_ ?_; (on_goal 2 => (intro hz; clear_value z)); (on_goal 1 => unfold z))
    | split

theorem only_execConnOpenTimeout : ∀ a s, Answers [.conns, .paths] s (execConnOpenTimeout a s) := by
  intro a s
  unfold execConnOpenTimeout
  repeat' first
    | with_reducible exact Only.refl _ _
    | decide
    | (with_reducible apply Answers.next)
    | (with_reducible apply Only.chain (only_answer _ _ _ _ _))
    | (with_reducible apply Only.chain (only_dropOpen _ _))
    | (with_reducible apply only_clk)
    | split

theorem only_closeAct : ∀ p s0,
    Reply.Only [.regs, .cores, .tiles, .nodes, .conns, .combs, .hrings, .lpddr, .paths, .pcie, .doms, .live] s0 (closeAct p s0) := by
  intro p s0
  unfold closeAct
  repeat' first
    | with_reducible exact Only.refl _ _
    | with_reducible assumption
    | decide
    | (with_reducible exact Reply.only_refuse _ _ _)
    | (with_reducible apply Reply.only_okAct)
    | (with_reducible apply Reply.only_guardAct)
    | (with_reducible apply Reply.only_wait)
    | (with_reducible apply Only.chain (only_startClose _ _ _ _ _))
    | (with_reducible apply Only.chain (only_updConn _ _ _))
    | (with_reducible apply Only.chain (only_wn _ _ _))
    | (lift_lets; intro z; refine Reply.only_cut z ?_ ?_; (on_goal 2 => (intro hz; clear_value z)); (on_goal 1 => unfold z))
    | split

theorem only_execConnClose : ∀ a s,
    Answers [.regs, .cores, .tiles, .nodes, .conns, .combs, .hrings, .lpddr, .paths, .pcie, .doms, .live] s (execConnClose a s) := by
  intro a s
  unfold execConnClose
  repeat' first
    | with_reducible exact Only.refl _ _
    | decide
    | (with_reducible apply Answers.next)
    | (with_reducible refine only_operate (A := [.regs, .cores, .tiles, .nodes, .conns, .combs, .hrings, .lpddr, .paths, .pcie, .doms, .live]) _ _ _ _ _ _ (fun _ => ?_) (by decide) (by decide) ?_)
    | (with_reducible apply Reply.only_chain (only_closeAct _ _))

theorem only_execConnCloseMessage : ∀ dev h s,
    Answers [.regs, .cores, .tiles, .nodes, .conns, .combs, .hrings, .lpddr, .paths, .pcie, .doms, .live] s (execConnCloseMessage dev h s) := by
  intro dev h s
  unfold execConnCloseMessage
  repeat' first
    | with_reducible exact Only.refl _ _
    | decide
    | (with_reducible apply Answers.next)
    | (with_reducible apply Only.chain (only_startClose _ _ _ _ _))
    | (with_reducible apply Only.chain (only_ackClose _ _ _ _))
    | (with_reducible apply Only.chain (only_closeCheck _))
    | (with_reducible apply Only.chain (only_updConn _ _ _))
    | (with_reducible apply only_clk)
    | split

theorem only_execConnCloseTimeout : ∀ i silent s,
    Answers [.regs, .tiles, .nodes, .conns, .combs, .lpddr, .paths] s (execConnCloseTimeout i silent s) := by
  intro i silent s
  unfold execConnCloseTimeout
  repeat' first
    | with_reducible exact Only.refl _ _
    | with_reducible assumption
    | decide
    | (with_reducible apply Answers.next)
    | (with_reducible apply Only.chain (only_finish _ _ _ _ _))
    | (with_reducible apply Only.chain (only_closeCheck _))
    | (with_reducible apply Only.chain (only_updConn _ _ _))
    | (with_reducible apply only_clk)
    | (lift_lets; intro z; refine Only.cut z ?_ ?_; (on_goal 2 => (intro hz; clear_value z)); (on_goal 1 => unfold z))
    | split

theorem only_enqueue : ∀ s t k i d, Only [.regs, .cores, .tiles, .conns, .log, .live] s (State.enqueue s t k i d) := by
  intro s t k i d
  unfold State.enqueue
  repeat' first
    | (intro z; refine Only.cut z ?_ ?_; (on_goal 2 => (intro hz; clear_value z)); (on_goal 1 => unfold z))
    | intro z
    | with_reducible exact Only.refl _ _
    | with_reducible assumption
    | decide
    | (with_reducible apply Only.chain (only_setQueue _ _ _ _ _))
    | (with_reducible apply Only.chain (only_itemEnd _ _))
    | (with_reducible apply Only.chain (only_updCore _ _ _))
    | (with_reducible apply Only.chain (only_updConn _ _ _))
    | (with_reducible apply Only.chain (only_recv _ _ _ _))
    | (lift_lets; intro z)
    | split

theorem only_deliverDesc : ∀ s t d rest,
    Only [.regs, .cores, .tiles, .nodes, .conns, .combs, .hrings, .lpddr, .paths, .pcie, .log, .doms, .live] s (State.deliverDesc s t d rest) := by
  intro s t d rest
  unfold State.deliverDesc
  repeat' first
    | with_reducible exact Only.refl _ _
    | decide
    | (with_reducible apply Only.chain (only_creditBack _ _))
    | (with_reducible apply Only.chain (only_itemEnd _ _))
    | (with_reducible apply Only.chain (only_enqueue _ _ _ _ _))
    | (with_reducible apply Only.chain (only_abortDesc _ _ _ _ _ _))
    | (with_reducible apply Only.chain (only_postDesc _ _ _ _ _))
    | (with_reducible apply Only.chain (only_updTile _ _ _))
    | (with_reducible apply Only.chain (only_closeCheck _))
    | (with_reducible apply Only.chain (only_dropAt _ _ _ _))
    | (lift_lets; intro z)
    | split

theorem only_execQueueDeliver : ∀ t s,
    Answers [.regs, .cores, .tiles, .nodes, .conns, .combs, .hrings, .lpddr, .paths, .pcie, .log, .doms, .live] s (execQueueDeliver t s) := by
  intro t s
  unfold execQueueDeliver
  repeat' first
    | with_reducible exact Only.refl _ _
    | decide
    | (with_reducible apply Answers.next)
    | (with_reducible apply Only.chain (only_pumpVc1 _ _))
    | (with_reducible apply Only.chain (only_deliverDesc _ _ _ _))
    | split

theorem only_sendToken : ∀ s i, Only [.nodes, .conns, .live, .ids] s (State.sendToken s i) := by
  intro s i
  unfold State.sendToken
  repeat' first
    | with_reducible exact Only.refl _ _
    | decide
    | (with_reducible apply Only.chain (only_takeDesc _ _ _ _ _ _ _))
    | (with_reducible apply Only.chain (only_updConn _ _ _))
    | (lift_lets; intro z)
    | split

theorem only_pulseToken : ∀ s i, Only [.regs, .nodes, .conns, .live, .ids] s (State.pulseToken s i) := by
  intro s i
  unfold State.pulseToken
  repeat' first
    | with_reducible exact Only.refl _ _
    | decide
    | (with_reducible apply Only.chain (only_bump _ _))
    | (with_reducible apply Only.chain (only_sendToken _ _))
    | (with_reducible apply Only.chain (only_updConn _ _ _))
    | split

theorem only_creditHome : ∀ s i, Only [.cores, .nodes, .conns, .live, .ids] s (State.creditHome s i) := by
  intro s i
  unfold State.creditHome
  repeat' first
    | with_reducible exact Only.refl _ _
    | with_reducible assumption
    | decide
    | (with_reducible apply Only.chain (only_sendToken _ _))
    | (with_reducible apply Only.chain (only_updConn _ _ _))
    | (with_reducible apply Only.chain (only_send _ _ _ _))
    | (lift_lets; intro z; refine Only.cut z ?_ ?_; (on_goal 2 => (intro hz; clear_value z)); (on_goal 1 => unfold z))
    | split

theorem only_execQueueCreditReturn : ∀ i s,
    Answers [.cores, .nodes, .conns, .live, .ids] s (execQueueCreditReturn i s) := by
  intro i s
  unfold execQueueCreditReturn
  repeat' first
    | with_reducible exact Only.refl _ _
    | decide
    | (with_reducible apply Answers.next)
    | (with_reducible apply Only.chain (only_creditHome _ _))
    | split

theorem only_takeContrib : ∀ s t c rest,
    Only [.regs, .cores, .tiles, .nodes, .conns, .combs, .lpddr, .paths, .live] s (State.takeContrib s t c rest) := by
  intro s t c rest
  unfold State.takeContrib
  repeat' first
    | (intro z; refine Only.cut z ?_ ?_; (on_goal 2 => (intro hz; clear_value z)); (on_goal 1 => unfold z))
    | with_reducible exact Only.refl _ _
    | with_reducible assumption
    | decide
    | (with_reducible apply Only.chain (only_itemEnd _ _))
    | (with_reducible apply Only.chain (only_updComb _ _ _))
    | (with_reducible apply Only.chain (only_updTile _ _ _))
    | (with_reducible apply Only.chain (only_closeCheck _))
    | (with_reducible apply Only.chain (only_combineDone _ _ _))
    | (lift_lets; intro z; refine Only.cut z ?_ ?_; (on_goal 2 => (intro hz; clear_value z)); (on_goal 1 => unfold z))
    | (lift_lets; intro z)
    | split

theorem only_farContrib : ∀ s k, Only [.cores, .live] s (State.farContrib s k) := by
  intro s k
  unfold State.farContrib
  repeat' first
    | with_reducible exact Only.refl _ _
    | decide
    | (with_reducible apply Only.chain (only_itemEnd _ _))
    | (with_reducible apply Only.chain (only_combineDone _ _ _))
    | (lift_lets; intro z)
    | split

theorem only_execCombContribute : ∀ at' s,
    Answers [.regs, .cores, .tiles, .nodes, .conns, .combs, .lpddr, .paths, .live] s (execCombContribute at' s) := by
  intro at' s
  unfold execCombContribute
  repeat' first
    | with_reducible exact Only.refl _ _
    | decide
    | (with_reducible apply Answers.next)
    | (with_reducible apply Only.chain (only_pumpVc1 _ _))
    | (with_reducible apply Only.chain (only_takeContrib _ _ _ _))
    | (with_reducible apply Only.chain (only_farContrib _ _))
    | split

theorem only_deliverTo : ∀ s t q w round vs, Only [.regs, .nodes] s (State.deliverTo s t q w round vs) := by
  intro s t q w round vs
  unfold State.deliverTo
  repeat' first
    | with_reducible exact Only.refl _ _
    | decide
    | (with_reducible apply Only.chain (only_bump _ _))
    | (with_reducible apply Only.chain (only_inject _ _ _ _))
    | split

theorem only_deliverBank : ∀ s q,
    Only [.regs, .tiles, .nodes, .conns, .combs, .lpddr, .paths] s (State.deliverBank s q) := by
  intro s q
  unfold State.deliverBank
  repeat' first
    | with_reducible exact Only.refl _ _
    | with_reducible assumption
    | decide
    | (with_reducible apply Only.chain (only_deliverTo _ _ _ _ _ _))
    | (with_reducible apply Only.chain (only_updComb _ _ _))
    | (with_reducible apply Only.chain (only_closeCheck _))
    | (with_reducible apply Only.foldl; on_goal 2 => intro _ _ _)
    | (lift_lets; intro z; refine Only.cut z ?_ ?_; (on_goal 2 => (intro hz; clear_value z)); (on_goal 1 => unfold z))
    | (lift_lets; intro z)
    | split

theorem only_execCombDeliver : ∀ n s,
    Answers [.regs, .tiles, .nodes, .conns, .combs, .lpddr, .paths] s (execCombDeliver n s) := by
  intro n s
  unfold execCombDeliver
  repeat' first
    | with_reducible exact Only.refl _ _
    | decide
    | (with_reducible apply Answers.next)
    | (with_reducible apply Only.chain (only_deliverBank _ _))

end Sys2Proof.Machine
end

