-- ==== Sys2Proof/Laws/Tab.lean ====
section
/-! SUPPORT. What a sparse table holds after a change, and that every change keeps its canonical form. -/

namespace Sys2Proof.Machine

variable {α : Type}

@[simp] theorem Tab.get_nil (d : α) (k : Nat) : Tab.get d [] k = d := rfl

theorem Tab.get_put_same (d : α) (t : Tab α) (k : Nat) (v : α) : Tab.get d (Tab.put t k v) k = v := by
  induction t with
  | nil => simp [Tab.put, Tab.get]
  | cons e t ih =>
    obtain ⟨k', v'⟩ := e
    simp only [Tab.put]
    split
    · simp [Tab.get]
    · split
      · simp [Tab.get]
      · simp only [Tab.get]
        rw [if_neg (by assumption), ih]

theorem Tab.get_put_ne (d : α) (t : Tab α) {k j : Nat} (v : α) (h : j ≠ k) :
    Tab.get d (Tab.put t k v) j = Tab.get d t j := by
  induction t with
  | nil => simp [Tab.put, Tab.get, Ne.symm h]
  | cons e t ih =>
    obtain ⟨k', v'⟩ := e
    simp only [Tab.put]
    split
    · simp [Tab.get, Ne.symm h]
    · split
      · rename_i hk
        subst hk
        simp [Tab.get, Ne.symm h]
      · simp only [Tab.get, ih]

theorem Tab.get_erase_same (d : α) (t : Tab α) (k : Nat) : Tab.get d (Tab.erase t k) k = d := by
  induction t with
  | nil => rfl
  | cons e t ih =>
    obtain ⟨k', v'⟩ := e
    simp only [Tab.erase]
    split
    · exact ih
    · simp only [Tab.get]
      rw [if_neg (by assumption), ih]

theorem Tab.get_erase_ne (d : α) (t : Tab α) {k j : Nat} (h : j ≠ k) :
    Tab.get d (Tab.erase t k) j = Tab.get d t j := by
  induction t with
  | nil => rfl
  | cons e t ih =>
    obtain ⟨k', v'⟩ := e
    simp only [Tab.erase]
    split
    · rename_i hk
      subst hk
      simp [Tab.get, Ne.symm h, ih]
    · simp only [Tab.get, ih]

variable [DecidableEq α]

/-- Reading the key that was written. -/
@[simp] theorem Tab.get_set_same (d : α) (t : Tab α) (k : Nat) (v : α) : Tab.get d (Tab.set d t k v) k = v := by
  unfold Tab.set
  split
  · subst_vars
    exact Tab.get_erase_same _ _ _
  · exact Tab.get_put_same d t k v

/-- Reading another key. -/
theorem Tab.get_set_ne (d d' : α) (t : Tab α) {k j : Nat} (v : α) (h : j ≠ k) :
    Tab.get d' (Tab.set d t k v) j = Tab.get d' t j := by
  unfold Tab.set
  split
  · exact Tab.get_erase_ne d' t h
  · exact Tab.get_put_ne d' t v h

@[simp] theorem Tab.get_upd_same (d : α) (t : Tab α) (k : Nat) (f : α → α) :
    Tab.get d (Tab.upd d t k f) k = f (Tab.get d t k) := by
  simp [Tab.upd]

theorem Tab.get_upd_ne (d : α) (t : Tab α) {k j : Nat} (f : α → α) (h : j ≠ k) :
    Tab.get d (Tab.upd d t k f) j = Tab.get d t j := by
  simp [Tab.upd, Tab.get_set_ne, h]

/-! The canonical form -/

theorem Tab.wfFrom_mono (d : Nat → α) {lo lo' : Nat} (h : lo' ≤ lo) {t : Tab α} (ht : Tab.wfFrom d lo t = true) :
    Tab.wfFrom d lo' t = true := by
  cases t with
  | nil => rfl
  | cons e t =>
    obtain ⟨k, v⟩ := e
    simp only [Tab.wfFrom, Bool.and_eq_true, decide_eq_true_eq] at ht ⊢
    exact ⟨⟨by omega, ht.1.2⟩, ht.2⟩

theorem Tab.wfFrom_put (d : Nat → α) {lo k : Nat} {v : α} (hk : lo ≤ k) (hv : v ≠ d k) {t : Tab α}
    (ht : Tab.wfFrom d lo t = true) : Tab.wfFrom d lo (Tab.put t k v) = true := by
  induction t generalizing lo with
  | nil => simp [Tab.put, Tab.wfFrom, hk, hv]
  | cons e t ih =>
    obtain ⟨k', v'⟩ := e
    simp only [Tab.wfFrom, Bool.and_eq_true, decide_eq_true_eq] at ht
    simp only [Tab.put]
    split
    · simp only [Tab.wfFrom, Bool.and_eq_true, decide_eq_true_eq]
      exact ⟨⟨hk, hv⟩, ⟨by omega, ht.1.2⟩, ht.2⟩
    · split
      · simp only [Tab.wfFrom, Bool.and_eq_true, decide_eq_true_eq]
        subst_vars
        exact ⟨⟨hk, hv⟩, ht.2⟩
      · simp only [Tab.wfFrom, Bool.and_eq_true, decide_eq_true_eq]
        exact ⟨ht.1, ih (by omega) ht.2⟩

theorem Tab.wfFrom_erase (d : Nat → α) {lo : Nat} (k : Nat) {t : Tab α} (ht : Tab.wfFrom d lo t = true) :
    Tab.wfFrom d lo (Tab.erase t k) = true := by
  induction t generalizing lo with
  | nil => rfl
  | cons e t ih =>
    obtain ⟨k', v'⟩ := e
    simp only [Tab.wfFrom, Bool.and_eq_true, decide_eq_true_eq] at ht
    simp only [Tab.erase]
    split
    · exact Tab.wfFrom_mono d (by omega) (ih ht.2)
    · simp only [Tab.wfFrom, Bool.and_eq_true, decide_eq_true_eq]
      exact ⟨ht.1, ih ht.2⟩

/-- A write keeps the canonical form. -/
theorem Tab.wf_set (d : Nat → α) {k : Nat} {v : α} {t : Tab α} (ht : Tab.wf d t = true) :
    Tab.wf d (Tab.set (d k) t k v) = true := by
  unfold Tab.set
  split
  · exact Tab.wfFrom_erase d k ht
  · exact Tab.wfFrom_put d (Nat.zero_le k) (by assumption) ht

theorem Tab.wfFrom_keep (d : Nat → α) (p : Nat → Bool) {lo : Nat} {t : Tab α} (ht : Tab.wfFrom d lo t = true) :
    Tab.wfFrom d lo (Tab.keep p t) = true := by
  induction t generalizing lo with
  | nil => rfl
  | cons e t ih =>
    obtain ⟨k, v⟩ := e
    simp only [Tab.wfFrom, Bool.and_eq_true, decide_eq_true_eq] at ht
    have h := ih ht.2
    unfold Tab.keep at h ⊢
    by_cases hp : p k = true
    · rw [List.filter_cons_of_pos (by simpa using hp)]
      simp only [Tab.wfFrom, Bool.and_eq_true, decide_eq_true_eq]
      exact ⟨ht.1, h⟩
    · rw [List.filter_cons_of_neg (by simpa using hp)]
      exact Tab.wfFrom_mono d (by omega) h

/-- Keeping some of the entries keeps the canonical form. -/
theorem Tab.wf_keep (d : Nat → α) (p : Nat → Bool) {t : Tab α} (ht : Tab.wf d t = true) :
    Tab.wf d (Tab.keep p t) = true := Tab.wfFrom_keep d p ht

@[simp] theorem Mem.wf_nil : Mem.wf [] := rfl

theorem Mem.wf_wr {m : Mem} (h : m.wf) (a : Nat) (b : Byte) : (m.wr a b).wf := Tab.wf_set _ h

theorem Mem.wf_wrBytes {m : Mem} (h : m.wf) (a : Nat) (bs : Bytes) : (m.wrBytes a bs).wf := by
  induction bs generalizing m a with
  | nil => exact h
  | cons b t ih => exact ih (Mem.wf_wr h a b) (a + 1)

theorem Mem.wf_wr64 {m : Mem} (h : m.wf) (a : Nat) (v : W64) : (m.wr64 a v).wf := Mem.wf_wrBytes h _ _
theorem Mem.wf_wr32 {m : Mem} (h : m.wf) (a : Nat) (v : W32) : (m.wr32 a v).wf := Mem.wf_wrBytes h _ _
theorem Mem.wf_clear {m : Mem} (h : m.wf) (a n : Nat) : (m.clear a n).wf := Tab.wf_keep _ _ h

/-- Every key of the table lies in [lo, hi). -/
def Tab.within (lo hi : Nat) (t : Tab α) : Prop := ∀ e ∈ t, lo ≤ e.1 ∧ e.1 < hi

omit [DecidableEq α] in
theorem Tab.within_keep {lo hi : Nat} {p : Nat → Bool} (hp : ∀ k, p k = true → lo ≤ k ∧ k < hi) (t : Tab α) :
    Tab.within lo hi (Tab.keep p t) := by
  intro e he
  simp only [Tab.keep, List.mem_filter] at he
  exact hp _ he.2

theorem Tab.wfFrom_append (d : Nat → α) {lo m : Nat} {t u : Tab α} (ht : Tab.wfFrom d lo t = true)
    (hb : ∀ e ∈ t, e.1 < m) (hu : Tab.wfFrom d m u = true) (hm : lo ≤ m) : Tab.wfFrom d lo (t ++ u) = true := by
  induction t generalizing lo with
  | nil => exact Tab.wfFrom_mono d hm hu
  | cons e t ih =>
    obtain ⟨k, v⟩ := e
    simp only [Tab.wfFrom, Bool.and_eq_true, decide_eq_true_eq] at ht
    simp only [List.cons_append, Tab.wfFrom, Bool.and_eq_true, decide_eq_true_eq]
    have hk := hb (k, v) (by simp)
    exact ⟨ht.1, ih ht.2 (fun e he => hb e (by simp [he])) (by simp only at hk; omega)⟩

/-- A table whose keys all stand at or above lo is canonical from lo. -/
theorem Tab.wfFrom_of_within (d : Nat → α) {lo : Nat} {t : Tab α} (ht : Tab.wf d t = true) (h : ∀ e ∈ t, lo ≤ e.1) :
    Tab.wfFrom d lo t = true := by
  cases t with
  | nil => rfl
  | cons e t =>
    obtain ⟨k, v⟩ := e
    simp only [Tab.wf, Tab.wfFrom, Bool.and_eq_true, decide_eq_true_eq] at ht ⊢
    exact ⟨⟨h (k, v) (by simp), ht.1.2⟩, ht.2⟩

theorem Tab.wfFrom_shift (v0 : α) {lo b : Nat} (c : Nat) {t : Tab α} (hb : b ≤ lo)
    (ht : Tab.wfFrom (fun _ => v0) lo t = true) :
    Tab.wfFrom (fun _ => v0) (lo - b + c) (t.map fun e => (e.1 - b + c, e.2)) = true := by
  induction t generalizing lo with
  | nil => rfl
  | cons e t ih =>
    obtain ⟨k, v⟩ := e
    simp only [Tab.wfFrom, Bool.and_eq_true, decide_eq_true_eq] at ht
    simp only [List.map_cons, Tab.wfFrom, Bool.and_eq_true, decide_eq_true_eq]
    have h := ih (lo := k + 1) (by omega) ht.2
    exact ⟨⟨by omega, ht.1.2⟩, Tab.wfFrom_mono _ (by omega) h⟩

theorem Mem.wfFrom_slice {m : Mem} (h : m.wf) (lo n d : Nat) :
    Tab.wfFrom (fun _ => (0 : Byte)) d (Mem.slice m lo n d) = true := by
  have h1 : Tab.wfFrom (fun _ => (0 : Byte)) lo
      (Tab.keep (fun k => decide (lo ≤ k) && decide (k < lo + n)) m) = true :=
    Tab.wfFrom_of_within _ (Tab.wf_keep _ _ h) fun e he =>
      (Tab.within_keep (lo := lo) (hi := lo + n) (by simp) m e he).1
  simpa [Mem.slice] using Tab.wfFrom_shift (0 : Byte) d (le_refl lo) h1

theorem Mem.wf_slice {m : Mem} (h : m.wf) (lo n d : Nat) : (Mem.slice m lo n d).wf :=
  Tab.wfFrom_mono _ (Nat.zero_le d) (Mem.wfFrom_slice h lo n d)

theorem Mem.wf_copy {m src : Mem} (h : m.wf) (hs : src.wf) (lo n d : Nat) : (m.copy src lo n d).wf := by
  unfold Mem.copy Mem.wf Tab.wf
  have hk : Tab.wfFrom (fun _ => (0 : Byte)) (d + n) (Tab.keep (fun k => decide (d + n ≤ k)) m) = true :=
    Tab.wfFrom_of_within _ (Tab.wf_keep _ _ h) fun e he => by
      simp only [Tab.keep, List.mem_filter, decide_eq_true_eq] at he
      exact he.2
  have hsl := Mem.wfFrom_slice hs lo n d
  have hb : ∀ e ∈ Mem.slice src lo n d, e.1 < d + n := by
    intro e he
    simp only [Mem.slice, List.mem_map] at he
    obtain ⟨f, hf, rfl⟩ := he
    have := Tab.within_keep (lo := lo) (hi := lo + n) (p := fun k => decide (lo ≤ k) && decide (k < lo + n)) (by simp) src f hf
    simp only
    omega
  rw [List.append_assoc]
  refine Tab.wfFrom_append _ (m := d) (Tab.wf_keep _ _ h) (fun e he => ?_) ?_ (Nat.zero_le _)
  · simp only [Tab.keep, List.mem_filter, decide_eq_true_eq] at he
    exact he.2
  · exact Tab.wfFrom_append _ hsl hb hk (by omega)

/-! Reading back -/

@[simp] theorem Mem.rd_nil (a : Nat) : Mem.rd [] a = 0 := rfl

@[simp] theorem Mem.rd_wr_same (m : Mem) (a : Nat) (b : Byte) : (m.wr a b).rd a = b := Tab.get_set_same _ _ _ _

theorem Mem.rd_wr_ne (m : Mem) {a x : Nat} (b : Byte) (h : x ≠ a) : (m.wr a b).rd x = m.rd x :=
  Tab.get_set_ne _ _ _ _ h

/-- A write of bytes leaves every byte outside it. -/
theorem Mem.rd_wrBytes_out (m : Mem) (a : Nat) (bs : Bytes) {x : Nat} (h : x < a ∨ a + bs.length ≤ x) :
    (m.wrBytes a bs).rd x = m.rd x := by
  induction bs generalizing m a with
  | nil => rfl
  | cons b t ih =>
    simp only [List.length_cons] at h
    rw [Mem.wrBytes, ih _ _ (by omega), Mem.rd_wr_ne _ _ (by omega)]

/-- A write of bytes leaves its i-th byte at its i-th address. -/
theorem Mem.rd_wrBytes_in (m : Mem) (a : Nat) (bs : Bytes) {i : Nat} (h : i < bs.length) :
    (m.wrBytes a bs).rd (a + i) = bs[i] := by
  induction bs generalizing m a i with
  | nil => simp at h
  | cons b t ih =>
    rw [Mem.wrBytes]
    cases i with
    | zero =>
      rw [Nat.add_zero, Mem.rd_wrBytes_out _ _ _ (by omega)]
      simp
    | succ j =>
      have := ih (m.wr a b) (a + 1) (i := j) (by simpa using h)
      rw [show a + 1 + j = a + (j + 1) by omega] at this
      simpa using this

theorem leBytes_length (n v : Nat) : (leBytes n v).length = n := by
  induction n generalizing v with
  | zero => rfl
  | succ n ih => simp [leBytes, ih]

theorem leNat_leBytes (n v : Nat) : leNat (leBytes n v) = v % 256 ^ n := by
  induction n generalizing v with
  | zero => simp [leBytes, leNat, Nat.mod_one]
  | succ n ih =>
    simp only [leBytes, leNat, ih]
    have h : v % 256 ^ (n + 1) = v % 256 + 256 * (v / 256 % 256 ^ n) := by
      rw [Nat.pow_succ', Nat.mod_mul]
    rw [h, BitVec.toNat_ofNat]
    omega

theorem Mem.rdBytes_length (m : Mem) (a n : Nat) : (m.rdBytes a n).length = n := by
  induction n generalizing a with
  | zero => rfl
  | succ n ih => simp [Mem.rdBytes, ih]

theorem Mem.rdBytes_wrBytes_out (m : Mem) (a : Nat) (bs : Bytes) {x n : Nat} (h : x + n ≤ a ∨ a + bs.length ≤ x) :
    (m.wrBytes a bs).rdBytes x n = m.rdBytes x n := by
  induction n generalizing x with
  | zero => rfl
  | succ n ih =>
    rw [Mem.rdBytes, Mem.rdBytes, ih (by omega), Mem.rd_wrBytes_out _ _ _ (by omega)]

theorem Mem.rdBytes_wrBytes_same (m : Mem) (a : Nat) (bs : Bytes) :
    (m.wrBytes a bs).rdBytes a bs.length = bs := by
  induction bs generalizing m a with
  | nil => rfl
  | cons b t ih =>
    rw [List.length_cons, Mem.rdBytes, Mem.wrBytes, ih, Mem.rd_wrBytes_out _ _ _ (by omega)]
    simp

/-- Reading the 64-bit word that was written. -/
@[simp] theorem Mem.rd64_wr64_same (m : Mem) (a : Nat) (v : W64) : (m.wr64 a v).rd64 a = v := by
  have h := Mem.rdBytes_wrBytes_same m a (leBytes 8 v.toNat)
  rw [leBytes_length] at h
  simp only [Mem.rd64, Mem.rdN, Mem.wr64, h, leNat_leBytes]
  apply BitVec.eq_of_toNat_eq
  simp only [BitVec.toNat_ofNat]
  have := v.isLt
  omega

/-- Reading a 64-bit word that does not overlap the one written. -/
theorem Mem.rd64_wr64_ne (m : Mem) {a x : Nat} (v : W64) (h : x + 8 ≤ a ∨ a + 8 ≤ x) :
    (m.wr64 a v).rd64 x = m.rd64 x := by
  simp only [Mem.rd64, Mem.rdN, Mem.wr64]
  rw [Mem.rdBytes_wrBytes_out _ _ _ (by rw [leBytes_length]; exact h)]

end Sys2Proof.Machine
end

