-- ==== Sys2Proof/Laws/OnlyRings.lean ====
section
/-! SUPPORT. What the operations of Machine/Rings.lean change: for each, the parts of the state beyond which it leaves
    everything as it was. -/

namespace Sys2Proof.Machine

theorem only_scaled : ∀ s g v, Only [.regs] s (State.scaled s g v).2 := by
  intro s g v
  unfold State.scaled
  repeat' first
    | (intro z; refine Only.cut z ?_ ?_; (on_goal 2 => (intro hz; clear_value z)); (on_goal 1 => unfold z))
    | with_reducible exact Only.refl _ _
    | with_reducible assumption
    | decide
    | (with_reducible apply Only.chain (only_bump _ _))
    | (lift_lets; intro z)
    | split

theorem only_scaledAll : ∀ s g l, Only [.regs] s (State.scaledAll s g l).2 := by
  intro s g l
  induction l generalizing s with
  | nil => exact Only.refl _ _
  | cons v t ih => exact (only_scaled _ _ _).trans (ih _)

theorem only_toHost : ∀ s a b, Only [.hostMem] s (State.toHost s a b) := by
  intro s a b
  unfold State.toHost
  exact Only.set_hostMem _ _ fun h => Mem.wf_wrBytes h _ _

theorem only_hAdvance : ∀ s r n, Only [.regs, .hrings] s (State.hAdvance s r n) := by
  intro s r n
  unfold State.hAdvance
  repeat' first
    | with_reducible exact Only.refl _ _
    | decide
    | (with_reducible apply Only.chain (only_hwm _ _ _))
    | (with_reducible apply Only.chain (only_updHring _ _ _))
    | (with_reducible apply Only.chain (only_wn _ _ _))

theorem only_writePad : ∀ s r tail, Only [.regs, .hrings, .hostMem] s (State.writePad s r tail) := by
  intro s r tail
  unfold State.writePad
  repeat' first
    | with_reducible exact Only.refl _ _
    | decide
    | (with_reducible apply Only.chain (only_bump _ _))
    | (with_reducible apply Only.chain (only_hAdvance _ _ _))
    | (with_reducible apply Only.chain (only_toHost _ _ _))

theorem only_hRaise : ∀ s r, Only [.hrings, .pcie] s (State.hRaise s r) := by
  intro s r
  unfold State.hRaise
  repeat' first
    | with_reducible exact Only.refl _ _
    | decide
    | (with_reducible apply Only.chain (only_updHring _ _ _))
    | (with_reducible apply Only.chain (only_raise _ _))

theorem only_hCount : ∀ s r, Only [.hrings, .pcie] s (State.hCount s r) := by
  intro s r
  unfold State.hCount
  repeat' first
    | with_reducible exact Only.refl _ _
    | with_reducible assumption
    | decide
    | (with_reducible apply Only.chain (only_hRaise _ _))
    | (with_reducible apply Only.chain (only_updHring _ _ _))
    | (lift_lets; intro z; refine Only.cut z ?_ ?_; (on_goal 2 => (intro hz; clear_value z)); (on_goal 1 => unfold z))
    | split

theorem only_writeMsg : ∀ s r m, Only [.regs, .nodes, .hrings, .hostMem, .pcie, .live] s (State.writeMsg s r m) := by
  intro s r m
  unfold State.writeMsg
  repeat' first
    | (intro z; refine Only.cut z ?_ ?_; (on_goal 2 => (intro hz; clear_value z)); (on_goal 1 => unfold z))
    | intro z
    | with_reducible exact Only.refl _ _
    | with_reducible assumption
    | decide
    | (with_reducible apply Only.chain (only_bump _ _))
    | (with_reducible apply Only.chain (only_hAdvance _ _ _))
    | (with_reducible apply Only.chain (only_itemEnd _ _))
    | (with_reducible apply Only.chain (only_scaledAll _ _ _))
    | (with_reducible apply Only.chain (only_hCount _ _))
    | (with_reducible apply Only.chain (only_toHost _ _ _))
    | (with_reducible apply Only.chain (only_addAcc _ _ _ _))
    | (lift_lets; intro z)
    | split
    | (refine Only.ofPair ‹_› ?_)

theorem only_hringStep : ∀ s r, Only [.regs, .nodes, .hrings, .hostMem, .pcie, .live] s (State.hringStep s r) := by
  intro s r
  unfold State.hringStep
  repeat' first
    | with_reducible exact Only.refl _ _
    | with_reducible assumption
    | decide
    | (with_reducible apply Only.chain (only_bump _ _))
    | (with_reducible apply Only.chain (only_itemEnd _ _))
    | (with_reducible apply Only.chain (only_writeMsg _ _ _))
    | (with_reducible apply Only.chain (only_updHring _ _ _))
    | (with_reducible apply Only.chain (only_writePad _ _ _))
    | (with_reducible apply Only.chain (only_addAcc _ _ _ _))
    | (lift_lets; intro z; refine Only.cut z ?_ ?_; (on_goal 2 => (intro hz; clear_value z)); (on_goal 1 => unfold z))
    | (lift_lets; intro z)
    | split

theorem only_execHringWrite : ∀ r s,
    Answers [.regs, .tiles, .nodes, .conns, .combs, .hrings, .hostMem, .lpddr, .paths, .pcie, .doms, .live] s (execHringWrite r s) := by
  intro r s
  unfold execHringWrite
  repeat' first
    | with_reducible exact Only.refl _ _
    | decide
    | (with_reducible apply Answers.next)
    | (with_reducible apply Only.chain (only_hringStep _ _))
    | (with_reducible apply Only.chain (only_stageNext _))
    | (with_reducible apply Only.chain (only_closeCheck _))
    | (with_reducible apply only_clk)
    | split

theorem only_execHringHoldoffExpire : ∀ r s, Answers [.hrings, .pcie] s (execHringHoldoffExpire r s) := by
  intro r s
  unfold execHringHoldoffExpire
  repeat' first
    | with_reducible exact Only.refl _ _
    | decide
    | (with_reducible apply Answers.next)
    | (with_reducible apply Only.chain (only_hRaise _ _))
    | (with_reducible apply only_clk)
    | split

theorem only_hringConsAct : ∀ r v s0, Reply.Only [.regs] s0 (hringConsAct r v s0) := by
  intro r v s0
  unfold hringConsAct
  repeat' first
    | with_reducible exact Only.refl _ _
    | decide
    | (with_reducible apply Reply.only_okAct)
    | (with_reducible apply Reply.only_guardAct)
    | (with_reducible apply Only.chain (only_wn _ _ _))

theorem only_execHringConsWrite : ∀ a r v s, Answers [.regs, .paths, .doms] s (execHringConsWrite a r v s) := by
  intro a r v s
  unfold execHringConsWrite
  repeat' first
    | with_reducible exact Only.refl _ _
    | decide
    | (with_reducible apply Answers.next)
    | (with_reducible refine only_operate (A := [.regs, .paths, .doms]) _ _ _ _ _ _ (fun _ => ?_) (by decide) (by decide) ?_)
    | (with_reducible apply Reply.only_chain (only_hringConsAct _ _ _))

theorem only_hringEnableAct : ∀ r s0, Reply.Only [.regs, .hrings] s0 (hringEnableAct r s0) := by
  intro r s0
  unfold hringEnableAct
  repeat' first
    | with_reducible exact Only.refl _ _
    | decide
    | (with_reducible apply Reply.only_okAct)
    | (with_reducible apply Reply.only_guardAct)
    | (with_reducible apply Only.chain (only_updHring _ _ _))
    | (with_reducible apply Only.chain (only_wn _ _ _))

theorem only_execHringEnable : ∀ a r s, Answers [.regs, .hrings, .paths, .doms] s (execHringEnable a r s) := by
  intro a r s
  unfold execHringEnable
  repeat' first
    | with_reducible exact Only.refl _ _
    | decide
    | (with_reducible apply Answers.next)
    | (with_reducible refine only_operate (A := [.regs, .hrings, .paths, .doms]) _ _ _ _ _ _ (fun _ => ?_) (by decide) (by decide) ?_)
    | (with_reducible apply Reply.only_chain (only_hringEnableAct _ _))

theorem only_hringDisableAct : ∀ r s0, Reply.Only [.regs, .hrings] s0 (hringDisableAct r s0) := by
  intro r s0
  unfold hringDisableAct
  repeat' first
    | with_reducible exact Only.refl _ _
    | decide
    | (with_reducible apply Reply.only_okAct)
    | (with_reducible apply Reply.only_guardAct)
    | (with_reducible apply Only.chain (only_updHring _ _ _))
    | (with_reducible apply Only.chain (only_wn _ _ _))
    | (lift_lets; intro z)
    | split

theorem only_execHringDisable : ∀ a r s, Answers [.regs, .hrings, .paths, .doms] s (execHringDisable a r s) := by
  intro a r s
  unfold execHringDisable
  repeat' first
    | with_reducible exact Only.refl _ _
    | decide
    | (with_reducible apply Answers.next)
    | (with_reducible refine only_operate (A := [.regs, .hrings, .paths, .doms]) _ _ _ _ _ _ (fun _ => ?_) (by decide) (by decide) ?_)
    | (with_reducible apply Reply.only_chain (only_hringDisableAct _ _))

theorem only_hringForce : ∀ s r,
    Only [.regs, .tiles, .nodes, .conns, .combs, .hrings, .lpddr, .paths, .pcie, .doms, .live] s (State.hringForce s r) := by
  intro s r
  unfold State.hringForce
  repeat' first
    | with_reducible exact Only.refl _ _
    | with_reducible assumption
    | decide
    | (with_reducible apply Only.chain (only_updHring _ _ _))
    | (with_reducible apply Only.chain (only_stageNext _))
    | (with_reducible apply Only.chain (only_closeCheck _))
    | (with_reducible apply Only.chain (only_hringDrop _ _ _))
    | (with_reducible apply Only.chain (only_wn _ _ _))
    | (with_reducible apply Only.foldl; on_goal 2 => intro _ _ _)

theorem only_hringForceAct : ∀ r s0,
    Reply.Only [.regs, .tiles, .nodes, .conns, .combs, .hrings, .lpddr, .paths, .pcie, .doms, .live] s0 (hringForceAct r s0) := by
  intro r s0
  unfold hringForceAct
  repeat' first
    | with_reducible exact Only.refl _ _
    | decide
    | (with_reducible apply Reply.only_okAct)
    | (with_reducible apply Only.chain (only_hringForce _ _))
    | split

theorem only_execHringForceDisable : ∀ a r s,
    Answers [.regs, .tiles, .nodes, .conns, .combs, .hrings, .lpddr, .paths, .pcie, .doms, .live] s (execHringForceDisable a r s) := by
  intro a r s
  unfold execHringForceDisable
  repeat' first
    | with_reducible exact Only.refl _ _
    | decide
    | (with_reducible apply Answers.next)
    | (with_reducible refine only_operate (A := [.regs, .tiles, .nodes, .conns, .combs, .hrings, .lpddr, .paths, .pcie, .doms, .live]) _ _ _ _ _ _ (fun _ => ?_) (by decide) (by decide) ?_)
    | (with_reducible apply Reply.only_chain (only_hringForceAct _ _))

theorem only_dringEnableAct : ∀ r s0, Reply.Only [.regs] s0 (dringEnableAct r s0) := by
  intro r s0
  unfold dringEnableAct
  repeat' first
    | with_reducible exact Only.refl _ _
    | decide
    | (with_reducible apply Reply.only_okAct)
    | (with_reducible apply Reply.only_guardAct)
    | (with_reducible apply Only.chain (only_wn _ _ _))

theorem only_execDringEnable : ∀ a r s, Answers [.regs, .paths, .doms] s (execDringEnable a r s) := by
  intro a r s
  unfold execDringEnable
  repeat' first
    | with_reducible exact Only.refl _ _
    | decide
    | (with_reducible apply Answers.next)
    | (with_reducible refine only_operate (A := [.regs, .paths, .doms]) _ _ _ _ _ _ (fun _ => ?_) (by decide) (by decide) ?_)
    | (with_reducible apply Reply.only_chain (only_dringEnableAct _ _))

theorem only_dringDisableAct : ∀ r s0, Reply.Only [.regs] s0 (dringDisableAct r s0) := by
  intro r s0
  unfold dringDisableAct
  repeat' first
    | with_reducible exact Only.refl _ _
    | decide
    | (with_reducible apply Reply.only_okAct)
    | (with_reducible apply Reply.only_guardAct)
    | (with_reducible apply Only.chain (only_wn _ _ _))
    | split

theorem only_execDringDisable : ∀ a r s, Answers [.regs, .paths, .doms] s (execDringDisable a r s) := by
  intro a r s
  unfold execDringDisable
  repeat' first
    | with_reducible exact Only.refl _ _
    | decide
    | (with_reducible apply Answers.next)
    | (with_reducible refine only_operate (A := [.regs, .paths, .doms]) _ _ _ _ _ _ (fun _ => ?_) (by decide) (by decide) ?_)
    | (with_reducible apply Reply.only_chain (only_dringDisableAct _ _))

theorem only_dringProdAct : ∀ r v s0, Reply.Only [.regs] s0 (dringProdAct r v s0) := by
  intro r v s0
  unfold dringProdAct
  repeat' first
    | with_reducible exact Only.refl _ _
    | decide
    | (with_reducible apply Reply.only_okAct)
    | (with_reducible apply Reply.only_guardAct)
    | (with_reducible apply Only.chain (only_wn _ _ _))

theorem only_execDringProdWrite : ∀ a r v s, Answers [.regs, .paths, .doms] s (execDringProdWrite a r v s) := by
  intro a r v s
  unfold execDringProdWrite
  repeat' first
    | with_reducible exact Only.refl _ _
    | decide
    | (with_reducible apply Answers.next)
    | (with_reducible refine only_operate (A := [.regs, .paths, .doms]) _ _ _ _ _ _ (fun _ => ?_) (by decide) (by decide) ?_)
    | (with_reducible apply Reply.only_chain (only_dringProdAct _ _ _))

theorem only_execDringFetch : ∀ r d s, Answers [.regs, .nodes, .conns, .log, .live, .ids] s (execDringFetch r d s) := by
  intro r d s
  unfold execDringFetch
  repeat' first
    | (intro z; refine Only.cut z ?_ ?_; (on_goal 2 => (intro hz; clear_value z)); (on_goal 1 => unfold z))
    | intro z
    | with_reducible exact Only.refl _ _
    | with_reducible assumption
    | decide
    | (with_reducible apply Answers.next)
    | (with_reducible apply Only.chain (only_bump _ _))
    | (with_reducible apply Only.chain (only_postDesc _ _ _ _ _))
    | (with_reducible apply Only.chain (only_takeDesc _ _ _ _ _ _ _))
    | (with_reducible apply Only.chain (only_wn _ _ _))
    | (with_reducible apply only_clk)
    | (lift_lets; intro z)
    | split

end Sys2Proof.Machine
end

