-- ==== Sys2Proof/Laws/OnlyStreams.lean ====
section
/-! SUPPORT. What the operations of Machine/Streams.lean change: for each, the parts of the state beyond which it leaves
    everything as it was. -/

namespace Sys2Proof.Machine

theorem only_pauseCheck : ∀ s p, Only [.regs, .sports] s (State.pauseCheck s p) := by
  intro s p
  unfold State.pauseCheck
  repeat' first
    | intro z
    | with_reducible exact Only.refl _ _
    | decide
    | (with_reducible apply Only.chain (only_bump _ _))
    | (with_reducible apply Only.chain (only_updSport _ _ _))
    | (lift_lets; intro z)
    | split

theorem only_takePause : ∀ s p quanta, Only [.regs, .sports] s (State.takePause s p quanta) := by
  intro s p quanta
  unfold State.takePause
  repeat' first
    | with_reducible exact Only.refl _ _
    | with_reducible assumption
    | decide
    | (with_reducible apply Only.chain (only_bump _ _))
    | (with_reducible apply Only.chain (only_updSport _ _ _))
    | (lift_lets; intro z; refine Only.cut z ?_ ?_; (on_goal 2 => (intro hz; clear_value z)); (on_goal 1 => unfold z))
    | split

theorem only_execPauseFrameReceive : ∀ p quanta s, Answers [.regs, .sports] s (execPauseFrameReceive p quanta s) := by
  intro p quanta s
  unfold execPauseFrameReceive
  repeat' first
    | with_reducible exact Only.refl _ _
    | decide
    | (with_reducible apply Answers.next)
    | (with_reducible apply Only.chain (only_takePause _ _ _))
    | (with_reducible apply only_clk)
    | split

theorem only_execPauseExpire : ∀ p s, Answers [.sports] s (execPauseExpire p s) := by
  intro p s
  unfold execPauseExpire
  repeat' first
    | with_reducible exact Only.refl _ _
    | decide
    | (with_reducible apply Answers.next)
    | (with_reducible apply Only.chain (only_updSport _ _ _))
    | (with_reducible apply only_clk)

theorem only_checkSeq : ∀ s x seq, Only [.regs, .sctxs] s (State.checkSeq s x seq) := by
  intro s x seq
  unfold State.checkSeq
  repeat' first
    | with_reducible exact Only.refl _ _
    | with_reducible assumption
    | decide
    | (with_reducible apply Only.chain (only_bump _ _))
    | (with_reducible apply Only.chain (only_bumpBy _ _ _ _))
    | (with_reducible apply Only.chain (only_updSctx _ _ _))
    | (lift_lets; intro z; refine Only.cut z ?_ ?_; (on_goal 2 => (intro hz; clear_value z)); (on_goal 1 => unfold z))
    | (lift_lets; intro z)
    | split

theorem only_sctxOff : ∀ s x, Only [.regs, .paths] s (State.sctxOff s x) := by
  intro s x
  unfold State.sctxOff
  repeat' first
    | with_reducible exact Only.refl _ _
    | with_reducible assumption
    | decide
    | (with_reducible apply Only.chain (only_finish _ _ _ _ _))
    | (with_reducible apply Only.chain (only_wn _ _ _))
    | (with_reducible apply Only.foldl; on_goal 2 => intro _ _ _)

theorem only_frameEnd : ∀ s p x, Only [.regs, .sports, .paths] s (State.frameEnd s p x) := by
  intro s p x
  unfold State.frameEnd
  repeat' first
    | with_reducible exact Only.refl _ _
    | with_reducible assumption
    | decide
    | (with_reducible apply Only.chain (only_pauseCheck _ _))
    | (with_reducible apply Only.chain (only_sctxOff _ _))
    | (lift_lets; intro z; refine Only.cut z ?_ ?_; (on_goal 2 => (intro hz; clear_value z)); (on_goal 1 => unfold z))
    | split

theorem only_frameDone : ∀ s p x, Only [.regs, .sports, .paths] s (State.frameDone s p x) := by
  intro s p x
  unfold State.frameDone
  repeat' first
    | with_reducible exact Only.refl _ _
    | decide
    | (with_reducible apply Only.chain (only_bump _ _))
    | (with_reducible apply Only.chain (only_frameEnd _ _ _))

theorem only_takeFrame : ∀ s p h body len, Only [.regs, .sports, .sctxs, .paths] s (State.takeFrame s p h body len) := by
  intro s p h body len
  unfold State.takeFrame
  repeat' first
    | (intro z; refine Only.cut z ?_ ?_; (on_goal 2 => (intro hz; clear_value z)); (on_goal 1 => unfold z))
    | intro z
    | with_reducible exact Only.refl _ _
    | with_reducible assumption
    | decide
    | (with_reducible apply Only.chain (only_pauseCheck _ _))
    | (with_reducible apply Only.chain (only_bump _ _))
    | (with_reducible apply Only.chain (only_checkSeq _ _ _))
    | (with_reducible apply Only.chain (only_hwm _ _ _))
    | (with_reducible apply Only.chain (only_frameDone _ _ _))
    | (with_reducible apply Only.chain (only_wn _ _ _))
    | (with_reducible apply Only.chain (only_updSport _ _ _))
    | (lift_lets; intro z)
    | split

theorem only_frameIn : ∀ s p f ok, Only [.regs, .sports, .sctxs, .paths] s (State.frameIn s p f ok) := by
  intro s p f ok
  unfold State.frameIn
  repeat' first
    | intro z
    | with_reducible exact Only.refl _ _
    | decide
    | (with_reducible apply Only.chain (only_bump _ _))
    | (with_reducible apply Only.chain (only_takeFrame _ _ _ _ _))
    | (with_reducible apply Only.chain (only_takePause _ _ _))
    | (lift_lets; intro z)
    | split

theorem only_execFrameReceive : ∀ p f ok s, Answers [.regs, .sports, .sctxs, .paths] s (execFrameReceive p f ok s) := by
  intro p f ok s
  unfold execFrameReceive
  repeat' first
    | with_reducible exact Only.refl _ _
    | decide
    | (with_reducible apply Answers.next)
    | (with_reducible apply Only.chain (only_frameIn _ _ _ _))
    | (with_reducible apply only_clk)
    | split

theorem only_setSch : ∀ s i w, Only [.sch] s (State.setSch s i w) := by
  intro s i w
  unfold State.setSch
  dsimp -zeta only [State.mk_sch]
  repeat' first
    | with_reducible exact Only.refl _ _
    | decide
    | (with_reducible apply Only.chain (Only.set_sch _ _))

theorem only_convEmit : ∀ s p x c v, Only [.regs, .nodes] s (State.convEmit s p x c v) := by
  intro s p x c v
  unfold State.convEmit
  repeat' first
    | with_reducible exact Only.refl _ _
    | decide
    | (with_reducible apply Only.chain (only_bump _ _))
    | (with_reducible apply Only.chain (only_inject _ _ _ _))
    | (with_reducible apply Only.chain (only_addSent _ _ _ _))

theorem only_popFrame : ∀ s p x, Only [.sports] s (State.popFrame s p x) := by
  intro s p x
  unfold State.popFrame
  repeat' first
    | with_reducible exact Only.refl _ _
    | decide
    | (with_reducible apply Only.chain (only_updSport _ _ _))

theorem only_storeConv : ∀ s i r, Only [.sch, .free] s (State.storeConv s i r) := by
  intro s i r
  unfold State.storeConv
  dsimp -zeta only [State.mk_free]
  repeat' first
    | with_reducible exact Only.refl _ _
    | with_reducible assumption
    | decide
    | (with_reducible apply Only.chain (only_setSch _ _ _))
    | (with_reducible apply Only.chain (Only.set_free _ _))
    | (lift_lets; intro z; refine Only.cut z ?_ ?_; (on_goal 2 => (intro hz; clear_value z)); (on_goal 1 => unfold z))
    | split

theorem only_convertOne : ∀ s p f x rest,
    Only [.regs, .nodes, .sports, .sch, .paths, .free] s (State.convertOne s p f x rest) := by
  intro s p f x rest
  unfold State.convertOne
  repeat' first
    | (intro z; refine Only.cut z ?_ ?_; (on_goal 2 => (intro hz; clear_value z)); (on_goal 1 => unfold z))
    | intro z
    | with_reducible exact Only.refl _ _
    | with_reducible assumption
    | decide
    | (with_reducible apply Only.chain (only_bump _ _))
    | (with_reducible apply Only.chain (only_popFrame _ _ _))
    | (with_reducible apply Only.chain (only_convEmit _ _ _ _ _))
    | (with_reducible apply Only.chain (only_storeConv _ _ _))
    | (with_reducible apply Only.chain (only_frameDone _ _ _))
    | (with_reducible apply Only.chain (only_updSport _ _ _))
    | (lift_lets; intro z)
    | split

theorem only_execSampleConvert : ∀ p x s,
    Answers [.regs, .nodes, .sports, .sch, .paths, .free] s (execSampleConvert p x s) := by
  intro p x s
  unfold execSampleConvert
  repeat' first
    | with_reducible exact Only.refl _ _
    | decide
    | (with_reducible apply Answers.next)
    | (with_reducible apply Only.chain (only_convertOne _ _ _ _ _))
    | (with_reducible apply Only.chain (only_bump _ _))
    | (with_reducible apply Only.chain (only_popFrame _ _ _))
    | (with_reducible apply Only.chain (only_frameEnd _ _ _))
    | (with_reducible apply Only.chain (only_frameDone _ _ _))
    | (with_reducible apply only_clk)
    | split

theorem only_closeFrame : ∀ s x, Only [.sports, .sctxs] s (State.closeFrame s x) := by
  intro s x
  unfold State.closeFrame
  repeat' first
    | intro z
    | with_reducible exact Only.refl _ _
    | decide
    | (with_reducible apply Only.chain (only_updSctx _ _ _))
    | (with_reducible apply Only.chain (only_updSport _ _ _))
    | (lift_lets; intro z)
    | split

theorem only_recEnd : ∀ s p r, Only [.nodes, .live] s (State.recEnd s p r) := by
  intro s p r
  unfold State.recEnd
  repeat' first
    | with_reducible exact Only.refl _ _
    | decide
    | (with_reducible apply Only.chain (only_itemEnd _ _))
    | (with_reducible apply Only.chain (only_addAcc _ _ _ _))

theorem only_sctxRecDrop : ∀ s p x r, Only [.regs, .nodes, .live] s (State.sctxRecDrop s p x r) := by
  intro s p x r
  unfold State.sctxRecDrop
  repeat' first
    | with_reducible exact Only.refl _ _
    | decide
    | (with_reducible apply Only.chain (only_bump _ _))
    | (with_reducible apply Only.chain (only_recEnd _ _ _))

theorem only_egressTake : ∀ s p x r, Only [.regs, .nodes, .sports, .sctxs, .live] s (State.egressTake s p x r) := by
  intro s p x r
  unfold State.egressTake
  repeat' first
    | (intro z; refine Only.cut z ?_ ?_; (on_goal 2 => (intro hz; clear_value z)); (on_goal 1 => unfold z))
    | with_reducible exact Only.refl _ _
    | with_reducible assumption
    | decide
    | (with_reducible apply Only.chain (only_bump _ _))
    | (with_reducible apply Only.chain (only_recEnd _ _ _))
    | (with_reducible apply Only.chain (only_closeFrame _ _))
    | (with_reducible apply Only.chain (only_sctxRecDrop _ _ _ _))
    | (with_reducible apply Only.chain (only_updSctx _ _ _))
    | (lift_lets; intro z)
    | split

theorem only_execEgressRecord : ∀ p s, Answers [.regs, .nodes, .sports, .sctxs, .live] s (execEgressRecord p s) := by
  intro p s
  unfold execEgressRecord
  repeat' first
    | with_reducible exact Only.refl _ _
    | with_reducible assumption
    | decide
    | (with_reducible apply Answers.next)
    | (with_reducible apply Only.chain (only_bump _ _))
    | (with_reducible apply Only.chain (only_egressTake _ _ _ _))
    | (with_reducible apply Only.chain (only_recEnd _ _ _))
    | (with_reducible apply Only.chain (only_updSport _ _ _))
    | (with_reducible apply only_clk)
    | (lift_lets; intro z; refine Only.cut z ?_ ?_; (on_goal 2 => (intro hz; clear_value z)); (on_goal 1 => unfold z))
    | split

theorem only_execEgressHoldoffExpire : ∀ x s, Answers [.sports, .sctxs] s (execEgressHoldoffExpire x s) := by
  intro x s
  unfold execEgressHoldoffExpire
  repeat' first
    | with_reducible exact Only.refl _ _
    | decide
    | (with_reducible apply Answers.next)
    | (with_reducible apply Only.chain (only_closeFrame _ _))
    | (with_reducible apply only_clk)
    | split

theorem only_outDone : ∀ s x, Only [.regs, .paths] s (State.outDone s x) := by
  intro s x
  unfold State.outDone
  repeat' first
    | with_reducible exact Only.refl _ _
    | decide
    | (with_reducible apply Only.chain (only_sctxOff _ _))
    | split

theorem only_execEgressFrameTransmit : ∀ p s,
    Answers [.regs, .nodes, .sports, .paths, .live] s (execEgressFrameTransmit p s) := by
  intro p s
  unfold execEgressFrameTransmit
  repeat' first
    | with_reducible exact Only.refl _ _
    | with_reducible assumption
    | decide
    | (with_reducible apply Answers.next)
    | (with_reducible apply Only.chain (only_bump _ _))
    | (with_reducible apply Only.chain (only_bumpBy _ _ _ _))
    | (with_reducible apply Only.chain (only_recEnd _ _ _))
    | (with_reducible apply Only.chain (only_outDone _ _))
    | (with_reducible apply Only.chain (only_updSport _ _ _))
    | (with_reducible apply Only.foldl; on_goal 2 => intro _ _ _)
    | (with_reducible apply only_clk)
    | split

theorem only_sctxEnableAct : ∀ x s0, Reply.Only [.regs, .sctxs] s0 (sctxEnableAct x s0) := by
  intro x s0
  unfold sctxEnableAct
  repeat' first
    | with_reducible exact Only.refl _ _
    | decide
    | (with_reducible apply Reply.only_okAct)
    | (with_reducible apply Reply.only_guardAct)
    | (with_reducible apply Only.chain (only_updSctx _ _ _))
    | (with_reducible apply Only.chain (only_wn _ _ _))

theorem only_execSctxEnable : ∀ a x s, Answers [.regs, .sctxs, .paths, .doms] s (execSctxEnable a x s) := by
  intro a x s
  unfold execSctxEnable
  repeat' first
    | with_reducible exact Only.refl _ _
    | decide
    | (with_reducible apply Answers.next)
    | (with_reducible refine only_operate (A := [.regs, .sctxs, .paths, .doms]) _ _ _ _ _ _ (fun _ => ?_) (by decide) (by decide) ?_)
    | (with_reducible apply Reply.only_chain (only_sctxEnableAct _ _))

theorem only_dropFrames : ∀ s p x keep, Only [.regs, .sports] s (State.dropFrames s p x keep) := by
  intro s p x keep
  unfold State.dropFrames
  repeat' first
    | with_reducible exact Only.refl _ _
    | decide
    | (with_reducible apply Only.chain (only_pauseCheck _ _))
    | (with_reducible apply Only.chain (only_bumpBy _ _ _ _))
    | (with_reducible apply Only.chain (only_updSport _ _ _))

theorem only_sctxDisableAct : ∀ x s0, Reply.Only [.regs, .sports, .sctxs, .paths] s0 (sctxDisableAct x s0) := by
  intro x s0
  unfold sctxDisableAct
  repeat' first
    | with_reducible exact Only.refl _ _
    | with_reducible assumption
    | decide
    | (with_reducible apply Reply.only_okAct)
    | (with_reducible apply Reply.only_guardAct)
    | (with_reducible apply Reply.only_wait)
    | (with_reducible apply Only.chain (only_dropFrames _ _ _ _))
    | (with_reducible apply Only.chain (only_outDone _ _))
    | (with_reducible apply Only.chain (only_closeFrame _ _))
    | (with_reducible apply Only.chain (only_wn _ _ _))
    | (lift_lets; intro z; refine Reply.only_cut z ?_ ?_; (on_goal 2 => (intro hz; clear_value z)); (on_goal 1 => unfold z))
    | (lift_lets; intro z)
    | split

theorem only_execSctxDisable : ∀ a x s, Answers [.regs, .sports, .sctxs, .paths, .doms] s (execSctxDisable a x s) := by
  intro a x s
  unfold execSctxDisable
  repeat' first
    | with_reducible exact Only.refl _ _
    | decide
    | (with_reducible apply Answers.next)
    | (with_reducible refine only_operate (A := [.regs, .sports, .sctxs, .paths, .doms]) _ _ _ _ _ _ (fun _ => ?_) (by decide) (by decide) ?_)
    | (with_reducible apply Reply.only_chain (only_sctxDisableAct _ _))

theorem only_schEntryAct : ∀ p v s0, Reply.Only [.sch] s0 (schEntryAct p v s0) := by
  intro p v s0
  unfold schEntryAct
  repeat' first
    | with_reducible exact Only.refl _ _
    | decide
    | (with_reducible apply Reply.only_okAct)
    | (with_reducible apply Reply.only_guardAct)
    | (with_reducible apply Only.chain (only_setSch _ _ _))

theorem only_execSchEntryWrite : ∀ a v s, Answers [.regs, .sch, .paths, .doms] s (execSchEntryWrite a v s) := by
  intro a v s
  unfold execSchEntryWrite
  repeat' first
    | with_reducible exact Only.refl _ _
    | decide
    | (with_reducible apply Answers.next)
    | (with_reducible refine only_operate (A := [.regs, .sch, .paths, .doms]) _ _ _ _ _ _ (fun _ => ?_) (by decide) (by decide) ?_)
    | (with_reducible apply Reply.only_chain (only_schEntryAct _ _ _))

theorem only_spLost : ∀ s p, Only [.regs, .nodes, .sports, .sctxs, .paths, .live] s (State.spLost s p) := by
  intro s p
  unfold State.spLost
  repeat' first
    | (intro z; refine Only.cut z ?_ ?_; (on_goal 2 => (intro hz; clear_value z)); (on_goal 1 => unfold z))
    | with_reducible exact Only.refl _ _
    | with_reducible assumption
    | decide
    | (with_reducible apply Only.chain (only_outDone _ _))
    | (with_reducible apply Only.chain (only_sctxRecDrop _ _ _ _))
    | (with_reducible apply Only.chain (only_updSctx _ _ _))
    | (with_reducible apply Only.chain (only_updSport _ _ _))
    | (with_reducible apply Only.foldl; on_goal 2 => intro _ _ _)
    | (lift_lets; intro z)
    | split

theorem only_spUpAct : ∀ p s0, Reply.Only [.regs] s0 (spUpAct p s0) := by
  intro p s0
  unfold spUpAct
  repeat' first
    | with_reducible exact Only.refl _ _
    | decide
    | (with_reducible apply Reply.only_okAct)
    | (with_reducible apply Only.chain (only_wn _ _ _))
    | split

theorem only_execSpUp : ∀ a p s, Answers [.regs, .paths, .doms] s (execSpUp a p s) := by
  intro a p s
  unfold execSpUp
  repeat' first
    | with_reducible exact Only.refl _ _
    | decide
    | (with_reducible apply Answers.next)
    | (with_reducible refine only_operate (A := [.regs, .paths, .doms]) _ _ _ _ _ _ (fun _ => ?_) (by decide) (by decide) ?_)
    | (with_reducible apply Reply.only_chain (only_spUpAct _ _))

theorem only_spDownAct : ∀ p s0, Reply.Only [.regs, .nodes, .sports, .sctxs, .paths, .live] s0 (spDownAct p s0) := by
  intro p s0
  unfold spDownAct
  repeat' first
    | with_reducible exact Only.refl _ _
    | decide
    | (with_reducible apply Reply.only_okAct)
    | (with_reducible apply Only.chain (only_spLost _ _))
    | (with_reducible apply Only.chain (only_wn _ _ _))

theorem only_execSpDown : ∀ a p s, Answers [.regs, .nodes, .sports, .sctxs, .paths, .doms, .live] s (execSpDown a p s) := by
  intro a p s
  unfold execSpDown
  repeat' first
    | with_reducible exact Only.refl _ _
    | decide
    | (with_reducible apply Answers.next)
    | (with_reducible refine only_operate (A := [.regs, .nodes, .sports, .sctxs, .paths, .doms, .live]) _ _ _ _ _ _ (fun _ => ?_) (by decide) (by decide) ?_)
    | (with_reducible apply Reply.only_chain (only_spDownAct _ _))

theorem only_execSpLinkChange : ∀ p up s,
    Answers [.regs, .nodes, .sports, .sctxs, .paths, .live] s (execSpLinkChange p up s) := by
  intro p up s
  unfold execSpLinkChange
  repeat' first
    | with_reducible exact Only.refl _ _
    | decide
    | (with_reducible apply Answers.next)
    | (with_reducible apply Only.chain (only_spLost _ _))
    | (with_reducible apply Only.chain (only_wn _ _ _))
    | (with_reducible apply only_clk)
    | split

end Sys2Proof.Machine
end

