-- ==== Sys2Proof/Laws/OnlyTimers.lean ====
section
/-! SUPPORT. What the operations of Machine/Timers.lean change: for each, the parts of the state beyond which it leaves
    everything as it was. -/

namespace Sys2Proof.Machine

theorem only_trigger : ∀ s hits m, Only [.regs] s (State.trigger s hits m) := by
  intro s hits m
  unfold State.trigger
  repeat' first
    | intro z
    | with_reducible exact Only.refl _ _
    | decide
    | (with_reducible apply Only.chain (only_wn _ _ _))
    | (with_reducible apply Only.chain (only_bump32 _ _))
    | (lift_lets; intro z)
    | split

theorem only_triggers : ∀ s hits, Only [.regs] s (State.triggers s hits) := by
  intro s hits
  unfold State.triggers
  repeat' first
    | with_reducible exact Only.refl _ _
    | with_reducible assumption
    | decide
    | (with_reducible apply Only.chain (only_trigger _ _ _))
    | (with_reducible apply Only.foldl; on_goal 2 => intro _ _ _)

theorem only_setFlag : ∀ s n b, Only [.regs, .hits] s (State.setFlag s n b) := by
  intro s n b
  unfold State.setFlag
  dsimp -zeta only [State.mk_hits]
  repeat' first
    | with_reducible exact Only.refl _ _
    | decide
    | (with_reducible apply Only.chain (only_wn _ _ _))
    | (with_reducible apply Only.chain (Only.set_hits _ _))

theorem only_matched : ∀ s n k, Only [.regs, .eng, .hits, .pcie] s (State.matched s n k) := by
  intro s n k
  unfold State.matched
  repeat' first
    | with_reducible exact Only.refl _ _
    | with_reducible assumption
    | decide
    | (with_reducible apply Only.chain (only_stepSource _ _))
    | (with_reducible apply Only.chain (only_setFlag _ _ _))
    | (with_reducible apply Only.chain (only_raise _ _))
    | (lift_lets; intro z; refine Only.cut z ?_ ?_; (on_goal 2 => (intro hz; clear_value z)); (on_goal 1 => unfold z))
    | split

theorem only_compare : ∀ s n k wrapped hits, Only [.regs, .eng, .was, .hits, .pcie] s (State.compare s n k wrapped hits).1 := by
  intro s n k wrapped hits
  unfold State.compare
  generalize decide ((s.rn (tmr n 3) + 2 ^ 32 - s.rn (tmr n (5 + k))) % 2 ^ 32 < 2 ^ 31) = now
  extract_lets now' was t
  have ht : Only [.regs, .eng, .was, .hits, .pcie] s t := (Only.set_was s _).mono (by decide)
  split
  · exact ht.trans ((only_matched _ _ _).mono (by decide))
  · exact ht

theorem only_tickFrom_fst : ∀ f n s hits,
    Only.Fst [.regs, .eng, .was, .hits, .pcie] s (State.tickFrom f n s hits) := by
  intro f
  induction f with
  | zero =>
    intro n s hits
    rw [State.tickFrom]
    exact ⟨Only.refl _ _⟩
  | succ f ih =>
    intro n s hits
    rw [State.tickFrom]
    split
    · exact ⟨Only.refl _ _⟩
    · generalize s.rn (tmr n 3) = c0
      generalize s.rn (tmr n 4) = r0
      extract_lets count reload wrapped s1 s2 r1 r2
      have h1 : Only [.regs, .eng, .was, .hits, .pcie] s s1 := by
        unfold s1
        split
        · exact Only.chain (only_bump32 _ _) (by decide) (Only.chain (only_setFlag _ _ _) (by decide) (Only.refl _ _))
        · exact Only.refl _ _
      clear_value s1
      have h2 : Only [.regs, .eng, .was, .hits, .pcie] s s2 := Only.chain (only_wn s1 _ _) (by decide) h1
      clear_value s2
      have h3 : Only.Fst [.regs, .eng, .was, .hits, .pcie] s r1 := by
        unfold r1
        split
        · exact ⟨h2.trans (ih (n + 1) s2 hits).only⟩
        · exact ⟨h2⟩
      clear_value r1
      have h4 : Only [.regs, .eng, .was, .hits, .pcie] s r2.1 := h3.only.trans (only_compare r1.1 n 0 wrapped r1.2)
      clear_value r2
      exact ⟨h4.trans (only_compare r2.1 n 1 wrapped r2.2)⟩

theorem only_tickFrom : ∀ f n s hits,
    Only [.regs, .eng, .was, .hits, .pcie] s (State.tickFrom f n s hits).1 :=
  fun f n s hits => (only_tickFrom_fst f n s hits).only

theorem only_tickTimer : ∀ s n, Only [.regs, .eng, .was, .hits, .pcie] s (State.tickTimer s n) := by
  intro s n
  unfold State.tickTimer
  repeat' first
    | with_reducible exact Only.refl _ _
    | decide
    | (with_reducible apply Only.chain (only_tickFrom _ _ _ _))
    | (with_reducible apply Only.chain (only_triggers _ _))

theorem only_tickTimers : ∀ s, Only [.regs, .eng, .was, .hits, .pcie] s (State.tickTimers s) := by
  intro s
  unfold State.tickTimers
  repeat' first
    | with_reducible exact Only.refl _ _
    | with_reducible assumption
    | decide
    | (with_reducible apply Only.chain (only_tickFrom _ _ _ _))
    | (with_reducible apply Only.chain (only_wn _ _ _))
    | (with_reducible apply Only.chain (only_triggers _ _))
    | (with_reducible apply Only.foldl; on_goal 2 => intro _ _ _)
    | (with_reducible apply Only.foldlP; on_goal 2 => intro _ _ _)
    | (lift_lets; intro z)
    | split

theorem only_execTimerWrap : ∀ n s, Answers [.regs, .eng, .was, .hits, .pcie] s (execTimerWrap n s) := by
  intro n s
  unfold execTimerWrap
  repeat' first
    | with_reducible exact Only.refl _ _
    | decide
    | (with_reducible apply Answers.next)
    | (with_reducible apply Only.chain (only_tickTimer _ _))
    | (with_reducible apply only_clk)
    | split

theorem only_execTimerMatch : ∀ n k s, Answers [.regs, .eng, .was, .hits, .pcie] s (execTimerMatch n k s) := by
  intro n k s
  refine ⟨_, rfl, only_clk (Only.refl _ _) ?_⟩
  split
  · exact Only.refl _ _
  · have h := only_compare s n k false []
    generalize s.compare n k false [] = r at h
    exact Only.chain (only_triggers _ _) (by decide) (h.mono (by decide))

theorem only_tmrCountAct : ∀ n v s0, Reply.Only [.regs] s0 (tmrCountAct n v s0) := by
  intro n v s0
  unfold tmrCountAct
  repeat' first
    | with_reducible exact Only.refl _ _
    | decide
    | (with_reducible apply Reply.only_okAct)
    | (with_reducible apply Only.chain (only_wn _ _ _))

theorem only_execTmrCountWrite : ∀ a n v s, Answers [.regs, .paths, .doms] s (execTmrCountWrite a n v s) := by
  intro a n v s
  unfold execTmrCountWrite
  repeat' first
    | with_reducible exact Only.refl _ _
    | decide
    | (with_reducible apply Answers.next)
    | (with_reducible refine only_operate (A := [.regs, .paths, .doms]) _ _ _ _ _ _ (fun _ => ?_) (by decide) (by decide) ?_)
    | (with_reducible apply Reply.only_chain (only_tmrCountAct _ _ _))

theorem only_tmrCmpAct : ∀ n k v s0, Reply.Only [.regs, .was] s0 (tmrCmpAct n k v s0) := by
  intro n k v s0
  unfold tmrCmpAct
  dsimp -zeta only [State.mk_was]
  repeat' first
    | with_reducible exact Only.refl _ _
    | decide
    | (with_reducible apply Reply.only_okAct)
    | (with_reducible apply Only.chain (only_wn _ _ _))
    | (with_reducible apply Only.chain (Only.set_was _ _))

theorem only_execTmrCmpWrite : ∀ a n k v s, Answers [.regs, .was, .paths, .doms] s (execTmrCmpWrite a n k v s) := by
  intro a n k v s
  unfold execTmrCmpWrite
  repeat' first
    | with_reducible exact Only.refl _ _
    | decide
    | (with_reducible apply Answers.next)
    | (with_reducible refine only_operate (A := [.regs, .was, .paths, .doms]) _ _ _ _ _ _ (fun _ => ?_) (by decide) (by decide) ?_)
    | (with_reducible apply Reply.only_chain (only_tmrCmpAct _ _ _ _))

theorem only_tmrEnAct : ∀ n v s0, Reply.Only [.regs, .was] s0 (tmrEnAct n v s0) := by
  intro n v s0
  unfold tmrEnAct
  dsimp -zeta only [State.mk_was]
  repeat' first
    | with_reducible exact Only.refl _ _
    | decide
    | (with_reducible apply Reply.only_okAct)
    | (with_reducible apply Reply.only_guardAct)
    | (with_reducible apply Only.chain (only_wn _ _ _))
    | (with_reducible apply Only.chain (Only.set_was _ _))
    | split

theorem only_execTmrEnWrite : ∀ a n v s, Answers [.regs, .was, .paths, .doms] s (execTmrEnWrite a n v s) := by
  intro a n v s
  unfold execTmrEnWrite
  repeat' first
    | with_reducible exact Only.refl _ _
    | decide
    | (with_reducible apply Answers.next)
    | (with_reducible refine only_operate (A := [.regs, .was, .paths, .doms]) _ _ _ _ _ _ (fun _ => ?_) (by decide) (by decide) ?_)
    | (with_reducible apply Reply.only_chain (only_tmrEnAct _ _ _))

theorem only_tmrFlagsAct : ∀ n v s0, Reply.Only [.regs] s0 (tmrFlagsAct n v s0) := by
  intro n v s0
  unfold tmrFlagsAct
  repeat' first
    | with_reducible exact Only.refl _ _
    | decide
    | (with_reducible apply Reply.only_okAct)
    | (with_reducible apply Reply.only_guardAct)
    | (with_reducible apply Only.chain (only_wn _ _ _))

theorem only_execTmrFlagsWrite : ∀ a n v s, Answers [.regs, .paths, .doms] s (execTmrFlagsWrite a n v s) := by
  intro a n v s
  unfold execTmrFlagsWrite
  repeat' first
    | with_reducible exact Only.refl _ _
    | decide
    | (with_reducible apply Answers.next)
    | (with_reducible refine only_operate (A := [.regs, .paths, .doms]) _ _ _ _ _ _ (fun _ => ?_) (by decide) (by decide) ?_)
    | (with_reducible apply Reply.only_chain (only_tmrFlagsAct _ _ _))

theorem only_trgForceAct : ∀ m v s0, Reply.Only [.regs] s0 (trgForceAct m v s0) := by
  intro m v s0
  unfold trgForceAct
  repeat' first
    | with_reducible exact Only.refl _ _
    | decide
    | (with_reducible apply Reply.only_okAct)
    | (with_reducible apply Reply.only_guardAct)
    | (with_reducible apply Only.chain (only_wn _ _ _))

theorem only_execTrgForceWrite : ∀ a m v s, Answers [.regs, .paths, .doms] s (execTrgForceWrite a m v s) := by
  intro a m v s
  unfold execTrgForceWrite
  repeat' first
    | with_reducible exact Only.refl _ _
    | decide
    | (with_reducible apply Answers.next)
    | (with_reducible refine only_operate (A := [.regs, .paths, .doms]) _ _ _ _ _ _ (fun _ => ?_) (by decide) (by decide) ?_)
    | (with_reducible apply Reply.only_chain (only_trgForceAct _ _ _))

theorem only_execTrgPulseEnd : ∀ m s, Answers [.regs] s (execTrgPulseEnd m s) := by
  intro m s
  unfold execTrgPulseEnd
  repeat' first
    | with_reducible exact Only.refl _ _
    | decide
    | (with_reducible apply Answers.next)
    | (with_reducible apply Only.chain (only_wn _ _ _))
    | (with_reducible apply only_clk)
    | split

theorem only_capture : ∀ s n src, Only [.regs, .capOld] s (State.capture s n src) := by
  intro s n src
  unfold State.capture
  dsimp -zeta only [State.mk_capOld]
  repeat' first
    | (intro z; refine Only.cut z ?_ ?_; (on_goal 2 => (intro hz; clear_value z)); (on_goal 1 => unfold z))
    | intro z
    | with_reducible exact Only.refl _ _
    | with_reducible assumption
    | decide
    | (with_reducible apply Only.chain (only_bump _ _))
    | (with_reducible apply Only.chain (only_wr _ _ _))
    | (with_reducible apply Only.chain (only_wn _ _ _))
    | (with_reducible apply Only.chain (only_bump32 _ _))
    | (with_reducible apply Only.chain (Only.set_capOld _ _))
    | (lift_lets; intro z)
    | split

theorem only_captureInput : ∀ s k, Only [.regs, .eng, .capOld] s (State.captureInput s k) := by
  intro s k
  unfold State.captureInput
  repeat' first
    | with_reducible exact Only.refl _ _
    | with_reducible assumption
    | decide
    | (with_reducible apply Only.chain (only_stepSource _ _))
    | (with_reducible apply Only.chain (only_capture _ _ _))
    | (with_reducible apply Only.foldl; on_goal 2 => intro _ _ _)
    | split

theorem only_selectEdge : ∀ s k, Only [.regs, .eng, .capOld, .capPre] s (State.selectEdge s k) := by
  intro s k
  unfold State.selectEdge
  dsimp -zeta only [State.mk_capPre]
  repeat' first
    | with_reducible exact Only.refl _ _
    | with_reducible assumption
    | decide
    | (with_reducible apply Only.chain (only_bump _ _))
    | (with_reducible apply Only.chain (only_captureInput _ _))
    | (with_reducible apply Only.chain (Only.set_capPre _ _))
    | (lift_lets; intro z; refine Only.cut z ?_ ?_; (on_goal 2 => (intro hz; clear_value z)); (on_goal 1 => unfold z))
    | split

theorem only_execCaptureFilterAccept : ∀ k level s,
    Answers [.regs, .eng, .capOld, .capPre] s (execCaptureFilterAccept k level s) := by
  intro k level s
  unfold execCaptureFilterAccept
  repeat' first
    | (intro z; refine Only.cut z ?_ ?_; (on_goal 2 => (intro hz; clear_value z)); (on_goal 1 => unfold z))
    | with_reducible exact Only.refl _ _
    | with_reducible assumption
    | decide
    | (with_reducible apply Answers.next)
    | (with_reducible apply Only.chain (only_selectEdge _ _))
    | (with_reducible apply Only.chain (only_wn _ _ _))
    | (with_reducible apply only_clk)
    | (lift_lets; intro z)
    | split

theorem only_execCaptureGlitch : ∀ k s, Answers [.regs] s (execCaptureGlitch k s) := by
  intro k s
  unfold execCaptureGlitch
  repeat' first
    | with_reducible exact Only.refl _ _
    | decide
    | (with_reducible apply Answers.next)
    | (with_reducible apply Only.chain (only_bump _ _))
    | (with_reducible apply only_clk)

theorem only_capinAct : ∀ k f v s0, Reply.Only [.regs, .capPre] s0 (capinAct k f v s0) := by
  intro k f v s0
  unfold capinAct
  dsimp -zeta only [State.mk_capPre]
  repeat' first
    | with_reducible exact Only.refl _ _
    | decide
    | (with_reducible apply Reply.only_okAct)
    | (with_reducible apply Reply.only_guardAct)
    | (with_reducible apply Only.chain (only_wn _ _ _))
    | (with_reducible apply Only.chain (Only.set_capPre _ _))

theorem only_execCapinConfigWrite : ∀ a k f v s,
    Answers [.regs, .capPre, .paths, .doms] s (execCapinConfigWrite a k f v s) := by
  intro a k f v s
  unfold execCapinConfigWrite
  repeat' first
    | with_reducible exact Only.refl _ _
    | decide
    | (with_reducible apply Answers.next)
    | (with_reducible refine only_operate (A := [.regs, .capPre, .paths, .doms]) _ _ _ _ _ _ (fun _ => ?_) (by decide) (by decide) ?_)
    | (with_reducible apply Reply.only_chain (only_capinAct _ _ _ _))

theorem only_readBefore : ∀ s n old, Only [.regs, .capOld] s (State.readBefore s n old) := by
  intro s n old
  unfold State.readBefore
  dsimp -zeta only [State.mk_capOld]
  extract_lets s1 s2 lost
  have h1 : Only [.regs, .capOld] s s1 := (only_wr _ _ _).mono (by decide)
  have h2 : Only [.regs, .capOld] s s2 := Only.chain (Only.set_capOld _ _) (by decide) h1
  exact Only.ite (Only.chain (only_wn _ _ _) (by decide) h2) h2

theorem only_tmrCaptAct : ∀ n s0, Reply.Only [.regs, .capOld] s0 (tmrCaptAct n s0) := by
  intro n s0
  unfold tmrCaptAct
  repeat' first
    | intro z
    | with_reducible exact Only.refl _ _
    | decide
    | (with_reducible apply Reply.only_done)
    | (with_reducible apply Only.chain (only_readBefore _ _ _))
    | (with_reducible apply Only.chain (only_wr _ _ _))
    | (lift_lets; intro z)
    | split

theorem only_execTmrCaptRead : ∀ a n s, Answers [.regs, .capOld, .paths, .doms] s (execTmrCaptRead a n s) := by
  intro a n s
  unfold execTmrCaptRead
  repeat' first
    | with_reducible exact Only.refl _ _
    | decide
    | (with_reducible apply Answers.next)
    | (with_reducible refine only_operate (A := [.regs, .capOld, .paths, .doms]) _ _ _ _ _ _ (fun _ => ?_) (by decide) (by decide) ?_)
    | (with_reducible apply Reply.only_chain (only_tmrCaptAct _ _))

end Sys2Proof.Machine
end

