-- ==== Sys2Proof/Laws/OnlyMail.lean ====
section
/-! SUPPORT. What the operations of Machine/Mail.lean change: for each, the parts of the state beyond which it leaves
    everything as it was. -/

namespace Sys2Proof.Machine

theorem only_doorbell : ∀ s i, Only [.regs, .sdio, .pcie, .doms] s (State.doorbell s i) := by
  intro s i
  unfold State.doorbell
  dsimp -zeta only [State.mk_sdio]
  repeat' first
    | with_reducible exact Only.refl _ _
    | with_reducible assumption
    | decide
    | (with_reducible apply Only.chain (only_bump _ _))
    | (with_reducible apply Only.chain (only_wake _ _ _))
    | (with_reducible apply Only.chain (only_raise _ _))
    | (with_reducible apply Only.chain (Only.set_sdio _ _))
    | (lift_lets; intro z; refine Only.cut z ?_ ?_; (on_goal 2 => (intro hz; clear_value z)); (on_goal 1 => unfold z))
    | split

theorem only_noticeLocal : ∀ s n d mask, Only [.regs, .sdio, .pcie] s (State.noticeLocal s n d mask) := by
  intro s n d mask
  unfold State.noticeLocal
  dsimp -zeta only [State.mk_sdio]
  repeat' first
    | with_reducible exact Only.refl _ _
    | with_reducible assumption
    | decide
    | (with_reducible apply Only.chain (only_raise _ _))
    | (with_reducible apply Only.chain (only_wn _ _ _))
    | (with_reducible apply Only.chain (Only.set_sdio _ _))
    | (lift_lets; intro z; refine Only.cut z ?_ ?_; (on_goal 2 => (intro hz; clear_value z)); (on_goal 1 => unfold z))
    | split

theorem only_notify : ∀ s i n, Only [.regs, .nodes, .sdio, .pcie] s (State.notify s i n) := by
  intro s i n
  unfold State.notify
  repeat' first
    | with_reducible exact Only.refl _ _
    | decide
    | (with_reducible apply Only.chain (only_noticeLocal _ _ _ _))
    | (with_reducible apply Only.chain (only_sendMsg _ _))
    | (with_reducible apply Only.chain (only_bump32 _ _))
    | split

theorem only_execNotice : ∀ dev mask s, Answers [.regs, .sdio, .pcie] s (execNotice dev mask s) := by
  intro dev mask s
  unfold execNotice
  repeat' first
    | with_reducible exact Only.refl _ _
    | decide
    | (with_reducible apply Answers.next)
    | (with_reducible apply Only.chain (only_noticeLocal _ _ _ _))
    | (with_reducible apply only_clk)

theorem only_mbNoticeAct : ∀ p d s0, Reply.Only [.regs] s0 (mbNoticeAct p d s0) := by
  intro p d s0
  unfold mbNoticeAct
  repeat' first
    | with_reducible exact Only.refl _ _
    | decide
    | (with_reducible apply Reply.only_done)
    | (with_reducible apply Only.chain (only_wn _ _ _))

theorem only_execMbNoticeRead : ∀ a d s, Answers [.regs, .paths, .doms] s (execMbNoticeRead a d s) := by
  intro a d s
  unfold execMbNoticeRead
  repeat' first
    | with_reducible exact Only.refl _ _
    | decide
    | (with_reducible apply Answers.next)
    | (with_reducible refine only_operate (A := [.regs, .paths, .doms]) _ _ _ _ _ _ (fun _ => ?_) (by decide) (by decide) ?_)
    | (with_reducible apply Reply.only_chain (only_mbNoticeAct _ _ _))

theorem only_mbPut : ∀ s i n kind m payload, Only [.regs, .mboxes] s (State.mbPut s i n kind m payload) := by
  intro s i n kind m payload
  unfold State.mbPut
  repeat' first
    | with_reducible exact Only.refl _ _
    | decide
    | (with_reducible apply Only.chain (only_hwm _ _ _))
    | (with_reducible apply Only.chain (only_updMbox _ _ _))
    | (with_reducible apply Only.chain (only_wn _ _ _))

theorem only_mbTry : ∀ s i n payload, Only [.regs, .mboxes, .sdio, .pcie, .doms] s (State.mbTry s i n payload).1 := by
  intro s i n payload
  unfold State.mbTry
  repeat' first
    | (intro z; refine Only.cut z ?_ ?_; (on_goal 2 => (intro hz; clear_value z)); (on_goal 1 => unfold z))
    | intro z
    | with_reducible exact Only.refl _ _
    | with_reducible assumption
    | decide
    | (with_reducible apply Only.chain (only_bump _ _))
    | (with_reducible apply Only.chain (only_mbPut _ _ _ _ _ _))
    | (with_reducible apply Only.chain (only_doorbell _ _))
    | (with_reducible apply Only.chain (only_updMbox _ _ _))
    | (lift_lets; intro z)
    | split

theorem only_mbSendAct : ∀ p i s0, Reply.Only [.regs, .mboxes, .sdio, .pcie, .doms] s0 (mbSendAct p i s0) := by
  intro p i s0
  unfold mbSendAct
  repeat' first
    | with_reducible exact Only.refl _ _
    | decide
    | (with_reducible apply Reply.only_okAct)
    | (with_reducible apply Reply.only_guardAct)
    | (with_reducible apply Reply.only_wait)
    | (with_reducible apply Only.chain (only_updMbox _ _ _))
    | (with_reducible apply Only.chain (only_mbTry _ _ _ _))
    | (lift_lets; intro z)
    | split

theorem only_execMbSend : ∀ a i s, Answers [.regs, .paths, .mboxes, .sdio, .pcie, .doms] s (execMbSend a i s) := by
  intro a i s
  unfold execMbSend
  repeat' first
    | with_reducible exact Only.refl _ _
    | decide
    | (with_reducible apply Answers.next)
    | (with_reducible refine only_operate (A := [.regs, .paths, .mboxes, .sdio, .pcie, .doms]) _ _ _ _ _ _ (fun _ => ?_) (by decide) (by decide) ?_)
    | (with_reducible apply Reply.only_chain (only_mbSendAct _ _ _))

theorem only_execMbSendTimeout : ∀ i s, Answers [.paths, .mboxes] s (execMbSendTimeout i s) := by
  intro i s
  unfold execMbSendTimeout
  repeat' first
    | with_reducible exact Only.refl _ _
    | decide
    | (with_reducible apply Answers.next)
    | (with_reducible apply Only.chain (only_updMbox _ _ _))
    | (with_reducible apply Only.chain (only_finish _ _ _ _ _))
    | (with_reducible apply only_clk)
    | split

theorem only_mbDoorbellAct : ∀ i s0, Reply.Only [.regs, .sdio, .pcie, .doms] s0 (mbDoorbellAct i s0) := by
  intro i s0
  unfold mbDoorbellAct
  repeat' first
    | with_reducible exact Only.refl _ _
    | decide
    | (with_reducible apply Reply.only_okAct)
    | (with_reducible apply Only.chain (only_doorbell _ _))

theorem only_execMbDoorbell : ∀ a i s, Answers [.regs, .paths, .sdio, .pcie, .doms] s (execMbDoorbell a i s) := by
  intro a i s
  unfold execMbDoorbell
  repeat' first
    | with_reducible exact Only.refl _ _
    | decide
    | (with_reducible apply Answers.next)
    | (with_reducible refine only_operate (A := [.regs, .paths, .sdio, .pcie, .doms]) _ _ _ _ _ _ (fun _ => ?_) (by decide) (by decide) ?_)
    | (with_reducible apply Reply.only_chain (only_mbDoorbellAct _ _))

theorem only_mbLockReadAct : ∀ p i s0, Reply.Only [.regs] s0 (mbLockReadAct p i s0) := by
  intro p i s0
  unfold mbLockReadAct
  repeat' first
    | with_reducible exact Only.refl _ _
    | decide
    | (with_reducible apply Reply.only_done)
    | (with_reducible apply Only.chain (only_wn _ _ _))
    | split

theorem only_execMbLockRead : ∀ a i s, Answers [.regs, .paths, .doms] s (execMbLockRead a i s) := by
  intro a i s
  unfold execMbLockRead
  repeat' first
    | with_reducible exact Only.refl _ _
    | decide
    | (with_reducible apply Answers.next)
    | (with_reducible refine only_operate (A := [.regs, .paths, .doms]) _ _ _ _ _ _ (fun _ => ?_) (by decide) (by decide) ?_)
    | (with_reducible apply Reply.only_chain (only_mbLockReadAct _ _ _))

theorem only_mbLockWriteAct : ∀ p i v s0, Reply.Only [.regs] s0 (mbLockWriteAct p i v s0) := by
  intro p i v s0
  unfold mbLockWriteAct
  repeat' first
    | with_reducible exact Only.refl _ _
    | decide
    | (with_reducible apply Reply.only_okAct)
    | (with_reducible apply Only.chain (only_wn _ _ _))
    | (with_reducible apply Only.chain (only_bump32 _ _))
    | split

theorem only_execMbLockWrite : ∀ a i v s, Answers [.regs, .paths, .doms] s (execMbLockWrite a i v s) := by
  intro a i v s
  unfold execMbLockWrite
  repeat' first
    | with_reducible exact Only.refl _ _
    | decide
    | (with_reducible apply Answers.next)
    | (with_reducible refine only_operate (A := [.regs, .paths, .doms]) _ _ _ _ _ _ (fun _ => ?_) (by decide) (by decide) ?_)
    | (with_reducible apply Reply.only_chain (only_mbLockWriteAct _ _ _ _))

theorem only_mbMsgAct : ∀ p i d s0, Reply.Only [.mboxes] s0 (mbMsgAct p i d s0) := by
  intro p i d s0
  unfold mbMsgAct
  repeat' first
    | with_reducible exact Only.refl _ _
    | decide
    | (with_reducible apply Reply.only_okAct)
    | (with_reducible apply Reply.only_guardAct)
    | (with_reducible apply Only.chain (only_updMbox _ _ _))

theorem only_execMbMsgWrite : ∀ a i d s, Answers [.regs, .paths, .mboxes, .doms] s (execMbMsgWrite a i d s) := by
  intro a i d s
  unfold execMbMsgWrite
  repeat' first
    | with_reducible exact Only.refl _ _
    | decide
    | (with_reducible apply Answers.next)
    | (with_reducible refine only_operate (A := [.regs, .paths, .mboxes, .doms]) _ _ _ _ _ _ (fun _ => ?_) (by decide) (by decide) ?_)
    | (with_reducible apply Reply.only_chain (only_mbMsgAct _ _ _ _))

theorem only_mbConsAct : ∀ p i v s0, Reply.Only [.regs, .paths, .mboxes, .sdio, .pcie, .doms] s0 (mbConsAct p i v s0) := by
  intro p i v s0
  unfold mbConsAct
  repeat' first
    | with_reducible exact Only.refl _ _
    | decide
    | (with_reducible apply Reply.only_okAct)
    | (with_reducible apply Reply.only_guardAct)
    | (with_reducible apply Only.chain (only_updMbox _ _ _))
    | (with_reducible apply Only.chain (only_finish _ _ _ _ _))
    | (with_reducible apply Only.chain (only_mbTry _ _ _ _))
    | (with_reducible apply Only.chain (only_wn _ _ _))
    | (lift_lets; intro z)
    | split

theorem only_execMbConsWrite : ∀ a i v s,
    Answers [.regs, .paths, .mboxes, .sdio, .pcie, .doms] s (execMbConsWrite a i v s) := by
  intro a i v s
  unfold execMbConsWrite
  repeat' first
    | with_reducible exact Only.refl _ _
    | decide
    | (with_reducible apply Answers.next)
    | (with_reducible refine only_operate (A := [.regs, .paths, .mboxes, .sdio, .pcie, .doms]) _ _ _ _ _ _ (fun _ => ?_) (by decide) (by decide) ?_)
    | (with_reducible apply Reply.only_chain (only_mbConsAct _ _ _ _))

theorem only_mbReset : ∀ s i, Only [.regs, .nodes, .paths, .mboxes, .sdio, .pcie] s (State.mbReset s i) := by
  intro s i
  unfold State.mbReset
  repeat' first
    | with_reducible exact Only.refl _ _
    | with_reducible assumption
    | decide
    | (with_reducible apply Only.chain (only_notify _ _ _))
    | (with_reducible apply Only.chain (only_bumpBy _ _ _ _))
    | (with_reducible apply Only.chain (only_updMbox _ _ _))
    | (with_reducible apply Only.chain (only_finish _ _ _ _ _))
    | (with_reducible apply Only.chain (only_wn _ _ _))
    | (with_reducible apply Only.foldl; on_goal 2 => intro _ _ _)
    | split

theorem only_mbResetAct : ∀ p i s0, Reply.Only [.regs, .nodes, .paths, .mboxes, .sdio, .pcie] s0 (mbResetAct p i s0) := by
  intro p i s0
  unfold mbResetAct
  repeat' first
    | with_reducible exact Only.refl _ _
    | decide
    | (with_reducible apply Reply.only_okAct)
    | (with_reducible apply Reply.only_guardAct)
    | (with_reducible apply Only.chain (only_mbReset _ _))

theorem only_execMbReset : ∀ a i s,
    Answers [.regs, .nodes, .paths, .mboxes, .sdio, .pcie, .doms] s (execMbReset a i s) := by
  intro a i s
  unfold execMbReset
  repeat' first
    | with_reducible exact Only.refl _ _
    | decide
    | (with_reducible apply Answers.next)
    | (with_reducible refine only_operate (A := [.regs, .nodes, .paths, .mboxes, .sdio, .pcie, .doms]) _ _ _ _ _ _ (fun _ => ?_) (by decide) (by decide) ?_)
    | (with_reducible apply Reply.only_chain (only_mbResetAct _ _ _))

theorem only_mbReceiverAct : ∀ i v s0, Reply.Only [.regs] s0 (mbReceiverAct i v s0) := by
  intro i v s0
  unfold mbReceiverAct
  repeat' first
    | with_reducible exact Only.refl _ _
    | decide
    | (with_reducible apply Reply.only_okAct)
    | (with_reducible apply Reply.only_guardAct)
    | (with_reducible apply Only.chain (only_wn _ _ _))

theorem only_execMbReceiverWrite : ∀ a i v s, Answers [.regs, .paths, .doms] s (execMbReceiverWrite a i v s) := by
  intro a i v s
  unfold execMbReceiverWrite
  repeat' first
    | with_reducible exact Only.refl _ _
    | decide
    | (with_reducible apply Answers.next)
    | (with_reducible refine only_operate (A := [.regs, .paths, .doms]) _ _ _ _ _ _ (fun _ => ?_) (by decide) (by decide) ?_)
    | (with_reducible apply Reply.only_chain (only_mbReceiverAct _ _ _))

theorem only_abortOp : ∀ s n, Only [.conns, .paths] s (State.abortOp s n) := by
  intro s n
  unfold State.abortOp
  repeat' first
    | with_reducible exact Only.refl _ _
    | decide
    | (with_reducible apply Only.chain (only_answer _ _ _ _ _))
    | (with_reducible apply Only.chain (only_dropOpen _ _))
    | (with_reducible apply Only.chain (only_updPathN _ _ _))
    | split

theorem only_breakLocks : ∀ s n, Only [.regs, .mboxes] s (State.breakLocks s n) := by
  intro s n
  unfold State.breakLocks
  repeat' first
    | with_reducible exact Only.refl _ _
    | with_reducible assumption
    | decide
    | (with_reducible apply Only.chain (only_updMbox _ _ _))
    | (with_reducible apply Only.chain (only_wn _ _ _))
    | (with_reducible apply Only.chain (only_bump32 _ _))
    | (with_reducible apply Only.foldl; on_goal 2 => intro _ _ _)
    | split

theorem only_clearBank : ∀ s n, Only [.regs] s (State.clearBank s n) := by
  intro s n
  unfold State.clearBank
  dsimp -zeta only [State.mk_regs]
  repeat' first
    | with_reducible exact Only.refl _ _
    | decide
    | (with_reducible apply Only.chain (Only.set_regs _ _))

theorem only_resetPath : ∀ s n, Only [.regs, .nodes, .conns, .paths, .mboxes, .sdio, .pcie] s (State.resetPath s n) := by
  intro s n
  unfold State.resetPath
  repeat' first
    | with_reducible exact Only.refl _ _
    | with_reducible assumption
    | decide
    | (with_reducible apply Only.chain (only_breakLocks _ _))
    | (with_reducible apply Only.chain (only_abortOp _ _))
    | (with_reducible apply Only.chain (only_updPathN _ _ _))
    | (with_reducible apply Only.chain (only_mbReset _ _))
    | (with_reducible apply Only.chain (only_clearBank _ _))
    | (with_reducible apply Only.foldl; on_goal 2 => intro _ _ _)
    | split

end Sys2Proof.Machine
end

