-- ==== Sys2Proof/Laws/OnlyDma.lean ====
section
/-! SUPPORT. What the operations of Machine/Dma.lean change: for each, the parts of the state beyond which it leaves
    everything as it was. -/

namespace Sys2Proof.Machine

theorem only_startEvent : ∀ s f, Only [.nodes] s (State.startEvent s f) := by
  intro s f
  unfold State.startEvent
  repeat' first
    | with_reducible exact Only.refl _ _
    | decide
    | (with_reducible apply Only.chain (only_inject _ _ _ _))
    | (with_reducible apply Only.chain (only_addSent _ _ _ _))

theorem only_routePulse : ∀ s l, Only [.regs, .eng, .nodes, .capOld, .sdio, .pcie, .doms] s (State.routePulse s l) := by
  intro s l
  unfold State.routePulse
  repeat' first
    | with_reducible exact Only.refl _ _
    | decide
    | (with_reducible apply Only.chain (only_stepSource _ _))
    | (with_reducible apply Only.chain (only_bump _ _))
    | (with_reducible apply Only.chain (only_startEvent _ _))
    | (with_reducible apply Only.chain (only_doorbell _ _))
    | (with_reducible apply Only.chain (only_capture _ _ _))
    | (lift_lets; intro z)
    | split

theorem only_pulse : ∀ s l,
    Only [.regs, .eng, .nodes, .conns, .capOld, .sdio, .pcie, .doms, .live, .ids] s (State.pulse s l) := by
  intro s l
  unfold State.pulse
  repeat' first
    | with_reducible exact Only.refl _ _
    | with_reducible assumption
    | decide
    | (with_reducible apply Only.chain (only_pulseToken _ _))
    | (with_reducible apply Only.chain (only_bump _ _))
    | (with_reducible apply Only.chain (only_routePulse _ _))
    | (with_reducible apply Only.foldl; on_goal 2 => intro _ _ _)
    | (lift_lets; intro z)
    | split

theorem only_dmaOpenAct : ∀ p s0, Reply.Only [.regs, .chans] s0 (dmaOpenAct p s0) := by
  intro p s0
  unfold dmaOpenAct
  repeat' first
    | with_reducible exact Only.refl _ _
    | decide
    | (with_reducible exact Reply.only_refuse _ _ _)
    | (with_reducible apply Reply.only_okAct)
    | (with_reducible apply Reply.only_guardAct)
    | (with_reducible apply Only.chain (only_updChan _ _ _))
    | (with_reducible apply Only.chain (only_wn _ _ _))
    | split

theorem only_execDmaOpen : ∀ a s, Answers [.regs, .chans, .paths, .doms] s (execDmaOpen a s) := by
  intro a s
  unfold execDmaOpen
  repeat' first
    | with_reducible exact Only.refl _ _
    | decide
    | (with_reducible apply Answers.next)
    | (with_reducible refine only_operate (A := [.regs, .chans, .paths, .doms]) _ _ _ _ _ _ (fun _ => ?_) (by decide) (by decide) ?_)
    | (with_reducible apply Reply.only_chain (only_dmaOpenAct _ _))

theorem only_dmaStartAct : ∀ p s0, Reply.Only [.regs, .chans, .doms] s0 (dmaStartAct p s0) := by
  intro p s0
  unfold dmaStartAct
  repeat' first
    | with_reducible exact Only.refl _ _
    | decide
    | (with_reducible exact Reply.only_refuse _ _ _)
    | (with_reducible apply Reply.only_okAct)
    | (with_reducible apply Reply.only_guardAct)
    | (with_reducible apply Only.chain (only_updChan _ _ _))
    | (with_reducible apply Only.chain (only_wake _ _ _))
    | split

theorem only_execDmaStart : ∀ a s, Answers [.regs, .chans, .paths, .doms] s (execDmaStart a s) := by
  intro a s
  unfold execDmaStart
  repeat' first
    | with_reducible exact Only.refl _ _
    | decide
    | (with_reducible apply Answers.next)
    | (with_reducible refine only_operate (A := [.regs, .chans, .paths, .doms]) _ _ _ _ _ _ (fun _ => ?_) (by decide) (by decide) ?_)
    | (with_reducible apply Reply.only_chain (only_dmaStartAct _ _))

theorem only_settleChan : ∀ s c, Only [.chans] s (State.settleChan s c) := by
  intro s c
  unfold State.settleChan
  repeat' first
    | with_reducible exact Only.refl _ _
    | decide
    | (with_reducible apply Only.chain (only_updChan _ _ _))

theorem only_stopChan : ∀ s c, Only [.chans] s (State.stopChan s c) := by
  intro s c
  unfold State.stopChan
  repeat' first
    | with_reducible exact Only.refl _ _
    | decide
    | (with_reducible apply Only.chain (only_updChan _ _ _))
    | (with_reducible apply Only.chain (only_settleChan _ _))

theorem only_dmaStopAct : ∀ p s0, Reply.Only [.chans] s0 (dmaStopAct p s0) := by
  intro p s0
  unfold dmaStopAct
  repeat' first
    | with_reducible exact Only.refl _ _
    | decide
    | (with_reducible exact Reply.only_refuse _ _ _)
    | (with_reducible apply Reply.only_okAct)
    | (with_reducible apply Only.chain (only_stopChan _ _))
    | split

theorem only_execDmaStop : ∀ a s, Answers [.regs, .chans, .paths, .doms] s (execDmaStop a s) := by
  intro a s
  unfold execDmaStop
  repeat' first
    | with_reducible exact Only.refl _ _
    | decide
    | (with_reducible apply Answers.next)
    | (with_reducible refine only_operate (A := [.regs, .chans, .paths, .doms]) _ _ _ _ _ _ (fun _ => ?_) (by decide) (by decide) ?_)
    | (with_reducible apply Reply.only_chain (only_dmaStopAct _ _))

theorem only_dmaCloseAct : ∀ p s0, Reply.Only [.chans] s0 (dmaCloseAct p s0) := by
  intro p s0
  unfold dmaCloseAct
  repeat' first
    | with_reducible exact Only.refl _ _
    | decide
    | (with_reducible exact Reply.only_refuse _ _ _)
    | (with_reducible apply Reply.only_okAct)
    | (with_reducible apply Reply.only_guardAct)
    | (with_reducible apply Only.chain (only_updChan _ _ _))
    | (lift_lets; intro z)
    | split

theorem only_execDmaClose : ∀ a s, Answers [.regs, .chans, .paths, .doms] s (execDmaClose a s) := by
  intro a s
  unfold execDmaClose
  repeat' first
    | with_reducible exact Only.refl _ _
    | decide
    | (with_reducible apply Answers.next)
    | (with_reducible refine only_operate (A := [.regs, .chans, .paths, .doms]) _ _ _ _ _ _ (fun _ => ?_) (by decide) (by decide) ?_)
    | (with_reducible apply Reply.only_chain (only_dmaCloseAct _ _))

theorem only_dmaProdAct : ∀ c v s0, Reply.Only [.regs] s0 (dmaProdAct c v s0) := by
  intro c v s0
  unfold dmaProdAct
  repeat' first
    | with_reducible exact Only.refl _ _
    | decide
    | (with_reducible apply Reply.only_okAct)
    | (with_reducible apply Reply.only_guardAct)
    | (with_reducible apply Only.chain (only_wn _ _ _))

theorem only_execDmaProdWrite : ∀ a c v s, Answers [.regs, .paths, .doms] s (execDmaProdWrite a c v s) := by
  intro a c v s
  unfold execDmaProdWrite
  repeat' first
    | with_reducible exact Only.refl _ _
    | decide
    | (with_reducible apply Answers.next)
    | (with_reducible refine only_operate (A := [.regs, .paths, .doms]) _ _ _ _ _ _ (fun _ => ?_) (by decide) (by decide) ?_)
    | (with_reducible apply Reply.only_chain (only_dmaProdAct _ _ _))

theorem only_dmaFail : ∀ s c st, Only [.regs, .chans, .log] s (State.dmaFail s c st) := by
  intro s c st
  unfold State.dmaFail
  repeat' first
    | with_reducible exact Only.refl _ _
    | decide
    | (with_reducible apply Only.chain (only_post _ _ _ _ _ _))
    | (with_reducible apply Only.chain (only_updChan _ _ _))
    | (with_reducible apply Only.chain (only_wn _ _ _))

theorem only_takeDma : ∀ s c w, Only [.regs, .chans, .log, .ids] s (State.takeDma s c w) := by
  intro s c w
  unfold State.takeDma
  dsimp -zeta only [State.mk_ids]
  repeat' first
    | intro z
    | with_reducible exact Only.refl _ _
    | decide
    | (with_reducible apply Only.chain (only_updChan _ _ _))
    | (with_reducible apply Only.chain (only_dmaFail _ _ _))
    | (with_reducible apply Only.chain (Only.set_ids _ _))
    | (lift_lets; intro z)
    | split

theorem only_execDmaDescFetch : ∀ c e s,
    Answers [.regs, .chans, .log, .doms, .ids] s (execDmaDescFetch c e s) := by
  intro c e s
  unfold execDmaDescFetch
  repeat' first
    | intro z
    | with_reducible exact Only.refl _ _
    | decide
    | (with_reducible apply Answers.next)
    | (with_reducible apply Only.chain (only_holdAccess _ _))
    | (with_reducible apply Only.chain (only_readEcc _ _ _ _))
    | (with_reducible apply Only.chain (only_dmaFail _ _ _))
    | (with_reducible apply Only.chain (only_takeDma _ _ _))
    | (with_reducible apply only_clk)
    | (lift_lets; intro z)
    | split

theorem only_preempt : ∀ s ready c, Only [.regs] s (State.preempt s ready c) := by
  intro s ready c
  unfold State.preempt
  repeat' first
    | with_reducible exact Only.refl _ _
    | with_reducible assumption
    | decide
    | (with_reducible apply Only.chain (only_bump _ _))
    | (with_reducible apply Only.foldl; on_goal 2 => intro _ _ _)

theorem only_wakeFor : ∀ s f g, Only [.regs, .doms] s (State.wakeFor s f g) := by
  intro s f g
  unfold State.wakeFor
  repeat' first
    | with_reducible exact Only.refl _ _
    | with_reducible assumption
    | decide
    | (with_reducible apply Only.chain (only_holdAccess _ _))
    | (with_reducible apply Only.foldl; on_goal 2 => intro _ _ _)
    | split

theorem only_updReading : ∀ s c g, Only [.chans] s (State.updReading s c g) := by
  intro s c g
  unfold State.updReading
  repeat' first
    | with_reducible exact Only.refl _ _
    | decide
    | (with_reducible apply Only.chain (only_updChan _ _ _))

theorem only_updWriting : ∀ s c g, Only [.chans] s (State.updWriting s c g) := by
  intro s c g
  unfold State.updWriting
  repeat' first
    | with_reducible exact Only.refl _ _
    | decide
    | (with_reducible apply Only.chain (only_updChan _ _ _))

theorem only_readBeat : ∀ s c data ecc, Only [.regs, .chans, .log] s (State.readBeat s c data ecc) := by
  intro s c data ecc
  unfold State.readBeat
  repeat' first
    | intro z
    | with_reducible exact Only.refl _ _
    | decide
    | (with_reducible apply Only.chain (only_readEcc _ _ _ _))
    | (with_reducible apply Only.chain (only_updReading _ _ _))
    | (lift_lets; intro z)
    | split
    | (unfold z; split)

theorem only_execDmaReadBeat : ∀ data ecc s,
    Answers [.regs, .chans, .turnR, .swap, .log, .doms] s (execDmaReadBeat data ecc s) := by
  intro data ecc s
  unfold execDmaReadBeat
  dsimp -zeta only [State.mk_swap, State.mk_turnR]
  repeat' first
    | with_reducible exact Only.refl _ _
    | with_reducible assumption
    | decide
    | (with_reducible apply Answers.next)
    | (with_reducible apply Only.chain (only_preempt _ _ _))
    | (with_reducible apply Only.chain (only_readBeat _ _ _ _))
    | (with_reducible apply Only.chain (only_wakeFor _ _ _))
    | (with_reducible apply Only.chain (Only.set_swap _ _))
    | (with_reducible apply Only.chain (Only.set_turnR _ _))
    | (with_reducible apply only_clk)
    | (lift_lets; intro z; refine Only.cut z ?_ ?_; (on_goal 2 => (intro hz; clear_value z)); (on_goal 1 => unfold z))
    | split

theorem only_writeBeat : ∀ s c,
    Only [.regs, .eng, .reconf, .cores, .tiles, .nodes, .hostMem, .lpddr, .chans] s (State.writeBeat s c) := by
  intro s c
  unfold State.writeBeat
  repeat' first
    | (intro z; refine Only.cut z ?_ ?_; (on_goal 2 => (intro hz; clear_value z)); (on_goal 1 => unfold z))
    | intro z
    | with_reducible exact Only.refl _ _
    | with_reducible assumption
    | decide
    | (with_reducible apply Only.chain (only_inject _ _ _ _))
    | (with_reducible apply Only.chain (only_toHost _ _ _))
    | (with_reducible apply Only.chain (only_writeSpace _ _ _))
    | (with_reducible apply Only.chain (only_updWriting _ _ _))
    | (lift_lets; intro z)
    | split

theorem only_execDmaWriteBeat : ∀ s,
    Answers [.regs, .eng, .reconf, .cores, .tiles, .nodes, .hostMem, .lpddr, .chans, .turnW, .swap, .doms] s (execDmaWriteBeat s) := by
  intro s
  unfold execDmaWriteBeat
  dsimp -zeta only [State.mk_turnW, State.mk_swap]
  repeat' first
    | with_reducible exact Only.refl _ _
    | with_reducible assumption
    | decide
    | (with_reducible apply Answers.next)
    | (with_reducible apply Only.chain (only_preempt _ _ _))
    | (with_reducible apply Only.chain (only_writeBeat _ _))
    | (with_reducible apply Only.chain (only_wakeFor _ _ _))
    | (with_reducible apply Only.chain (Only.set_turnW _ _))
    | (with_reducible apply Only.chain (Only.set_swap _ _))
    | (with_reducible apply only_clk)
    | (lift_lets; intro z; refine Only.cut z ?_ ?_; (on_goal 2 => (intro hz; clear_value z)); (on_goal 1 => unfold z))
    | split

theorem only_completeDesc : ∀ s c d,
    Only [.regs, .eng, .nodes, .conns, .chans, .capOld, .sdio, .pcie, .doms, .live, .ids] s (State.completeDesc s c d) := by
  intro s c d
  unfold State.completeDesc
  repeat' first
    | with_reducible exact Only.refl _ _
    | with_reducible assumption
    | decide
    | (with_reducible apply Only.chain (only_pulse _ _))
    | (with_reducible apply Only.chain (only_updChan _ _ _))
    | (with_reducible apply Only.chain (only_bump _ _))
    | (with_reducible apply Only.chain (only_bumpBy _ _ _ _))
    | (with_reducible apply Only.chain (only_settleChan _ _))
    | (with_reducible apply Only.chain (only_wn _ _ _))
    | (lift_lets; intro z; refine Only.cut z ?_ ?_; (on_goal 2 => (intro hz; clear_value z)); (on_goal 1 => unfold z))
    | split

theorem only_execDmaDescComplete : ∀ c s,
    Answers [.regs, .eng, .nodes, .conns, .chans, .capOld, .sdio, .pcie, .doms, .live, .ids] s (execDmaDescComplete c s) := by
  intro c s
  unfold execDmaDescComplete
  repeat' first
    | with_reducible exact Only.refl _ _
    | decide
    | (with_reducible apply Answers.next)
    | (with_reducible apply Only.chain (only_completeDesc _ _ _))
    | (with_reducible apply only_clk)
    | split

theorem only_execDmaDescFault : ∀ c s, Answers [.regs, .chans, .log] s (execDmaDescFault c s) := by
  intro c s
  unfold execDmaDescFault
  repeat' first
    | with_reducible exact Only.refl _ _
    | decide
    | (with_reducible apply Answers.next)
    | (with_reducible apply Only.chain (only_dmaFail _ _ _))
    | (with_reducible apply only_clk)
    | split

end Sys2Proof.Machine
end

