-- ==== Sys2Proof/Laws/OnlySwap.lean ====
section
/-! SUPPORT. What the operations of Machine/Swap.lean change: for each, the parts of the state beyond which it leaves
    everything as it was. -/

namespace Sys2Proof.Machine

theorem only_postMemory : ∀ s loc kind how, Only [.regs, .log] s (State.postMemory s loc kind how) := by
  intro s loc kind how
  unfold State.postMemory
  repeat' first
    | with_reducible exact Only.refl _ _
    | decide
    | (with_reducible apply Only.chain (only_post _ _ _ _ _ _))
    | (with_reducible apply Only.chain (only_bump _ _))

theorem only_noAddress : ∀ s, Only [.free] s (State.noAddress s).2 := by
  intro s
  unfold State.noAddress
  dsimp -zeta only [State.mk_free]
  repeat' first
    | with_reducible exact Only.refl _ _
    | decide
    | (with_reducible apply Only.chain (Only.set_free _ _))

theorem only_coreUe : ∀ s k off how,
    Only [.regs, .boot, .cores, .tiles, .nodes, .paths, .log, .flights, .live, .free] s (State.coreUe s k off how) := by
  intro s k off how
  unfold State.coreUe
  dsimp -zeta only [State.mk_boot]
  repeat' first
    | (intro z; refine Only.cut z ?_ ?_; (on_goal 2 => (intro hz; clear_value z)); (on_goal 1 => unfold z))
    | with_reducible exact Only.refl _ _
    | with_reducible assumption
    | decide
    | with_reducible rfl
    | (with_reducible apply Only.chain (only_updCore _ _ _))
    | (with_reducible apply Only.chain (only_fenceCore _ _ _))
    | (with_reducible apply Only.chain (only_postMemory _ _ _ _))
    | (with_reducible apply Only.chain (Only.set_bootK _ _ ?_))
    | (lift_lets; intro z)
    | split

theorem only_tsmUe : ∀ s t off how, Only [.regs, .tiles, .log, .free] s (State.tsmUe s t off how) := by
  intro s t off how
  unfold State.tsmUe
  repeat' first
    | (intro z; refine Only.cut z ?_ ?_; (on_goal 2 => (intro hz; clear_value z)); (on_goal 1 => unfold z))
    | with_reducible exact Only.refl _ _
    | with_reducible assumption
    | decide
    | (with_reducible apply Only.chain (only_updTile _ _ _))
    | (with_reducible apply Only.chain (only_postMemory _ _ _ _))
    | (with_reducible apply Only.chain (only_noAddress _))
    | (lift_lets; intro z)
    | split

theorem only_parkOne : ∀ s v f t, Only [.regs, .eng, .reconf, .cores, .tiles, .lpddr] s (State.parkOne s v f t) := by
  intro s v f t
  unfold State.parkOne
  repeat' first
    | (intro z; refine Only.cut z ?_ ?_; (on_goal 2 => (intro hz; clear_value z)); (on_goal 1 => unfold z))
    | intro z
    | with_reducible exact Only.refl _ _
    | with_reducible assumption
    | decide
    | (with_reducible apply Only.chain (only_bump _ _))
    | (with_reducible apply Only.chain (only_hwm _ _ _))
    | (with_reducible apply Only.chain (only_wn _ _ _))
    | (with_reducible apply Only.chain (only_writeSpace _ _ _))
    | (lift_lets; intro z)
    | split

theorem only_execParkWrite : ∀ s,
    Answers [.regs, .eng, .reconf, .cores, .tiles, .lpddr, .parkq, .doms, .live] s (execParkWrite s) := by
  intro s
  unfold execParkWrite
  dsimp -zeta only [State.mk_parkq]
  repeat' first
    | with_reducible exact Only.refl _ _
    | decide
    | (with_reducible apply Answers.next)
    | (with_reducible apply Only.chain (only_holdAccess _ _))
    | (with_reducible apply Only.chain (only_parkOne _ _ _ _))
    | (with_reducible apply Only.chain (only_itemEnd _ _))
    | (with_reducible apply Only.chain (Only.set_parkq _ _))
    | (with_reducible apply only_clk)
    | (lift_lets; intro z)
    | split

theorem only_keepOff : ∀ s old, Only [.lpddr] s (State.keepOff s old) := by
  intro s old
  unfold State.keepOff
  dsimp -zeta only [State.mk_lpddr]
  repeat' first
    | with_reducible exact Only.refl _ _
    | decide
    | (with_reducible apply Only.chain (Only.set_lpddr _ _))

theorem only_parkQueue : ∀ s v sl q i d,
    Only [.regs, .eng, .reconf, .cores, .tiles, .conns, .lpddr, .live] s (State.parkQueue s v sl q i d) := by
  intro s v sl q i d
  unfold State.parkQueue
  repeat' first
    | with_reducible exact Only.refl _ _
    | decide
    | (with_reducible apply Only.chain (only_bump _ _))
    | (with_reducible apply Only.chain (only_itemEnd _ _))
    | (with_reducible apply Only.chain (only_updConn _ _ _))
    | (with_reducible apply Only.chain (only_setSavedQueue _ _ _ _ _))
    | (with_reducible apply Only.chain (only_writeSpace _ _ _))

theorem only_execDescPark : ∀ s,
    Answers [.regs, .eng, .reconf, .cores, .tiles, .nodes, .conns, .combs, .hrings, .lpddr, .parkq, .paths, .pcie, .log, .doms, .live] s (execDescPark s) := by
  intro s
  unfold execDescPark
  dsimp -zeta only [State.mk_parkq]
  repeat' first
    | with_reducible exact Only.refl _ _
    | with_reducible assumption
    | decide
    | (with_reducible apply Answers.next)
    | (with_reducible apply Only.chain (only_creditBack _ _))
    | (with_reducible apply Only.chain (only_holdAccess _ _))
    | (with_reducible apply Only.chain (only_itemEnd _ _))
    | (with_reducible apply Only.chain (only_inject _ _ _ _))
    | (with_reducible apply Only.chain (only_abortDesc _ _ _ _ _ _))
    | (with_reducible apply Only.chain (only_keepOff _ _))
    | (with_reducible apply Only.chain (only_postDesc _ _ _ _ _))
    | (with_reducible apply Only.chain (only_closeCheck _))
    | (with_reducible apply Only.chain (only_dropAt _ _ _ _))
    | (with_reducible apply Only.chain (only_parkQueue _ _ _ _ _ _))
    | (with_reducible apply Only.chain (Only.set_parkq _ _))
    | (with_reducible apply only_clk)
    | (lift_lets; intro z; refine Only.cut z ?_ ?_; (on_goal 2 => (intro hz; clear_value z)); (on_goal 1 => unfold z))
    | (lift_lets; intro z)
    | split

theorem only_parkPop : ∀ s v, Only [.regs, .parks] s (State.parkPop s v) := by
  intro s v
  unfold State.parkPop
  dsimp -zeta only [State.mk_parks]
  repeat' first
    | with_reducible exact Only.refl _ _
    | decide
    | (with_reducible apply Only.chain (only_wn _ _ _))
    | (with_reducible apply Only.chain (Only.set_parks _ _))

theorem only_replayFlit : ∀ s v f t, Only [.regs, .nodes] s (State.replayFlit s v f t) := by
  intro s v f t
  unfold State.replayFlit
  repeat' first
    | with_reducible exact Only.refl _ _
    | decide
    | (with_reducible apply Only.chain (only_bump _ _))
    | (with_reducible apply Only.chain (only_startEvent _ _))
    | split

theorem only_execReplay : ∀ v ecc s, Answers [.regs, .nodes, .parks, .log, .doms] s (execReplay v ecc s) := by
  intro v ecc s
  unfold execReplay
  repeat' first
    | (intro z; refine Only.cut z ?_ ?_; (on_goal 2 => (intro hz; clear_value z)); (on_goal 1 => unfold z))
    | intro z
    | with_reducible exact Only.refl _ _
    | with_reducible assumption
    | decide
    | (with_reducible apply Answers.next)
    | (with_reducible apply Only.chain (only_holdAccess _ _))
    | (with_reducible apply Only.chain (only_bump _ _))
    | (with_reducible apply Only.chain (only_replayFlit _ _ _ _))
    | (with_reducible apply Only.chain (only_readEcc _ _ _ _))
    | (with_reducible apply Only.chain (only_parkPop _ _))
    | (with_reducible apply only_clk)
    | (lift_lets; intro z)
    | split

theorem only_startOut : ∀ s v next, Only [.regs, .nodes, .swap, .doms] s (State.startOut s v next) := by
  intro s v next
  unfold State.startOut
  dsimp -zeta only [State.mk_swap]
  repeat' first
    | with_reducible exact Only.refl _ _
    | decide
    | (with_reducible apply Only.chain (only_sendMarks _ _ _ _))
    | (with_reducible apply Only.chain (only_wake _ _ _))
    | (with_reducible apply Only.chain (only_wr _ _ _))
    | (with_reducible apply Only.chain (Only.set_swap _ _))

theorem only_swapOutAct : ∀ p s0, Reply.Only [.regs, .nodes, .swap, .doms] s0 (swapOutAct p s0) := by
  intro p s0
  unfold swapOutAct
  repeat' first
    | with_reducible exact Only.refl _ _
    | decide
    | (with_reducible apply Reply.only_okAct)
    | (with_reducible apply Reply.only_guardAct)
    | (with_reducible apply Only.chain (only_startOut _ _ _))

theorem only_execSwapOut : ∀ a s, Answers [.regs, .nodes, .swap, .paths, .doms] s (execSwapOut a s) := by
  intro a s
  unfold execSwapOut
  repeat' first
    | with_reducible exact Only.refl _ _
    | decide
    | (with_reducible apply Answers.next)
    | (with_reducible refine only_operate (A := [.regs, .nodes, .swap, .paths, .doms]) _ _ _ _ _ _ (fun _ => ?_) (by decide) (by decide) ?_)
    | (with_reducible apply Reply.only_chain (only_swapOutAct _ _))

theorem only_swapInAct : ∀ p s0, Reply.Only [.regs, .swap, .doms] s0 (swapInAct p s0) := by
  intro p s0
  unfold swapInAct
  dsimp -zeta only [State.mk_swap]
  repeat' first
    | with_reducible exact Only.refl _ _
    | decide
    | (with_reducible apply Reply.only_okAct)
    | (with_reducible apply Reply.only_guardAct)
    | (with_reducible apply Only.chain (only_wake _ _ _))
    | (with_reducible apply Only.chain (Only.set_swap _ _))

theorem only_execSwapIn : ∀ a s, Answers [.regs, .swap, .paths, .doms] s (execSwapIn a s) := by
  intro a s
  unfold execSwapIn
  repeat' first
    | with_reducible exact Only.refl _ _
    | decide
    | (with_reducible apply Answers.next)
    | (with_reducible refine only_operate (A := [.regs, .swap, .paths, .doms]) _ _ _ _ _ _ (fun _ => ?_) (by decide) (by decide) ?_)
    | (with_reducible apply Reply.only_chain (only_swapInAct _ _))

theorem only_swapExchangeAct : ∀ p s0, Reply.Only [.regs, .nodes, .swap, .doms] s0 (swapExchangeAct p s0) := by
  intro p s0
  unfold swapExchangeAct
  repeat' first
    | with_reducible exact Only.refl _ _
    | decide
    | (with_reducible apply Reply.only_okAct)
    | (with_reducible apply Reply.only_guardAct)
    | (with_reducible apply Only.chain (only_startOut _ _ _))

theorem only_execSwapExchange : ∀ a s, Answers [.regs, .nodes, .swap, .paths, .doms] s (execSwapExchange a s) := by
  intro a s
  unfold execSwapExchange
  repeat' first
    | with_reducible exact Only.refl _ _
    | decide
    | (with_reducible apply Answers.next)
    | (with_reducible refine only_operate (A := [.regs, .nodes, .swap, .paths, .doms]) _ _ _ _ _ _ (fun _ => ?_) (by decide) (by decide) ?_)
    | (with_reducible apply Reply.only_chain (only_swapExchangeAct _ _))

theorem only_endSwap : ∀ s st ticks,
    Only [.regs, .eng, .nodes, .conns, .swap, .capOld, .sdio, .pcie, .doms, .live, .ids] s (State.endSwap s st ticks) := by
  intro s st ticks
  have hs : Only [.regs, .eng, .nodes, .conns, .swap, .capOld, .sdio, .pcie, .doms, .live, .ids] s { s with swap := none } :=
    (Only.set_swap s none).mono (by decide)
  unfold State.endSwap
  dsimp only
  split
  · exact Only.chain (only_pulse _ _) (by decide) (Only.chain (only_wn _ _ _) (by decide)
      (Only.chain (only_bump _ _) (by decide) (Only.chain (only_wn _ _ _) (by decide) hs)))
  · exact Only.chain (only_wn _ _ _) (by decide)
      (Only.chain (only_bump _ _) (by decide) (Only.chain (only_wn _ _ _) (by decide) hs))

theorem only_execSwapFreeze : ∀ s, Answers [.eng, .swap] s (execSwapFreeze s) := by
  intro s
  unfold execSwapFreeze
  dsimp -zeta only [State.mk_swap]
  repeat' first
    | with_reducible exact Only.refl _ _
    | decide
    | (with_reducible apply Answers.next)
    | (with_reducible apply Only.chain (only_phaseStep _))
    | (with_reducible apply Only.chain (Only.set_swap _ _))
    | (with_reducible apply only_clk)
    | split

theorem only_execSwapCopyOut : ∀ s, Answers [.swap] s (execSwapCopyOut s) := by
  intro s
  unfold execSwapCopyOut
  dsimp -zeta only [State.mk_swap]
  repeat' first
    | with_reducible exact Only.refl _ _
    | decide
    | (with_reducible apply Answers.next)
    | (with_reducible apply Only.chain (Only.set_swap _ _))
    | (with_reducible apply only_clk)
    | split

theorem only_copyOutSlot : ∀ s v t sl, Only [.lpddr] s (State.copyOutSlot s v t sl) := by
  intro s v t sl
  unfold State.copyOutSlot
  dsimp -zeta only [State.mk_lpddr]
  repeat' first
    | with_reducible exact Only.refl _ _
    | decide
    | (with_reducible apply Only.chain (Only.set_lpddr _ _))

theorem only_unloadTile : ∀ s t, Only [.cores, .tiles] s (State.unloadTile s t) := by
  intro s t
  unfold State.unloadTile
  dsimp -zeta only [State.mk_cores]
  repeat' first
    | with_reducible exact Only.refl _ _
    | decide
    | (with_reducible apply Only.chain (only_updTile _ _ _))
    | (with_reducible apply Only.chain (Only.set_cores _ _))

theorem only_swapFault : ∀ s v ticks,
    Only [.regs, .eng, .nodes, .conns, .swap, .capOld, .sdio, .pcie, .log, .doms, .live, .ids] s (State.swapFault s v ticks) := by
  intro s v ticks
  unfold State.swapFault
  repeat' first
    | with_reducible exact Only.refl _ _
    | decide
    | (with_reducible apply Only.chain (only_post _ _ _ _ _ _))
    | (with_reducible apply Only.chain (only_endSwap _ _ _))

theorem only_holdCopy : ∀ s w, Only [.regs, .doms] s (State.holdCopy s w) := by
  intro s w
  unfold State.holdCopy
  repeat' first
    | with_reducible exact Only.refl _ _
    | with_reducible assumption
    | decide
    | (with_reducible apply Only.chain (only_bump _ _))
    | (with_reducible apply Only.chain (only_wake _ _ _))
    | (with_reducible apply Only.foldl; on_goal 2 => intro _ _ _)
    | split

theorem only_countCopy : ∀ s, Only [.regs] s (State.countCopy s) := by
  intro s
  unfold State.countCopy
  repeat' first
    | with_reducible exact Only.refl _ _
    | decide
    | (with_reducible apply Only.chain (only_bumpBy _ _ _ _))

theorem only_copyOutDone : ∀ s w ue ticks,
    Only [.regs, .boot, .eng, .cores, .tiles, .nodes, .conns, .lpddr, .swap, .capOld, .paths, .sdio, .pcie, .log, .doms, .flights, .live, .ids, .free] s (State.copyOutDone s w ue ticks) := by
  intro s w ue ticks
  unfold State.copyOutDone
  dsimp -zeta only [State.mk_swap]
  repeat' first
    | with_reducible exact Only.refl _ _
    | with_reducible assumption
    | decide
    | (with_reducible apply Only.chain (only_countCopy _))
    | (with_reducible apply Only.chain (only_endSwap _ _ _))
    | (with_reducible apply Only.chain (only_swapFault _ _ _))
    | (with_reducible apply Only.chain (only_unloadTile _ _))
    | (with_reducible apply Only.chain (only_copyOutSlot _ _ _ _))
    | (with_reducible apply Only.chain (only_keepOff _ _))
    | (with_reducible apply Only.chain (only_coreUe _ _ _ _))
    | (with_reducible apply Only.chain (Only.set_swap _ _))
    | (with_reducible apply Only.foldl; on_goal 2 => intro _ _ _)
    | (lift_lets; intro z; refine Only.cut z ?_ ?_; (on_goal 2 => (intro hz; clear_value z)); (on_goal 1 => unfold z))
    | split

theorem only_execSwapCopyOutDone : ∀ ue ticks s,
    Answers [.regs, .boot, .eng, .reconf, .cores, .tiles, .nodes, .conns, .lpddr, .swap, .capOld, .paths, .sdio, .pcie, .log, .doms, .flights, .live, .ids, .free] s (execSwapCopyOutDone ue ticks s) := by
  intro ue ticks s
  unfold execSwapCopyOutDone
  repeat' first
    | with_reducible exact Only.refl _ _
    | decide
    | (with_reducible apply Answers.next)
    | (with_reducible apply Only.chain (only_copyOutDone _ _ _ _))
    | (with_reducible apply Only.chain (only_holdCopy _ _))
    | (with_reducible apply Only.chain (only_release _))
    | (with_reducible apply only_clk)
    | split

theorem only_copyInSlot : ∀ s v t sl, Only [.cores, .tiles] s (State.copyInSlot s v t sl) := by
  intro s v t sl
  unfold State.copyInSlot
  repeat' first
    | with_reducible exact Only.refl _ _
    | with_reducible assumption
    | decide
    | (with_reducible apply Only.chain (only_setQueue _ _ _ _ _))
    | (with_reducible apply Only.chain (only_setCore _ _ _))
    | (with_reducible apply Only.foldl; on_goal 2 => intro _ _ _)
    | (lift_lets; intro z; refine Only.cut z ?_ ?_; (on_goal 2 => (intro hz; clear_value z)); (on_goal 1 => unfold z))
    | split

theorem only_readable : ∀ s, Only [.lpddr] s (State.readable s) := by
  intro s
  unfold State.readable
  dsimp -zeta only [State.mk_lpddr]
  repeat' first
    | with_reducible exact Only.refl _ _
    | decide
    | (with_reducible apply Only.chain (Only.set_lpddr _ _))

theorem only_withLpddr : ∀ s m, Only [.lpddr] s (State.withLpddr s m) := by
  intro s m
  unfold State.withLpddr
  dsimp -zeta only [State.mk_lpddr]
  repeat' first
    | with_reducible exact Only.refl _ _
    | decide
    | (with_reducible apply Only.chain (Only.set_lpddr _ _))

theorem only_copyInDone : ∀ s w ue ticks,
    Only [.regs, .eng, .cores, .tiles, .nodes, .conns, .lpddr, .swap, .capOld, .sdio, .pcie, .log, .doms, .live, .ids] s (State.copyInDone s w ue ticks) := by
  intro s w ue ticks
  unfold State.copyInDone
  dsimp -zeta only [State.mk_swap]
  repeat' first
    | with_reducible exact Only.refl _ _
    | with_reducible assumption
    | decide
    | (with_reducible apply Only.chain (only_countCopy _))
    | (with_reducible apply Only.chain (only_memUe _ _ _))
    | (with_reducible apply Only.chain (only_swapFault _ _ _))
    | (with_reducible apply Only.chain (only_sendMarks _ _ _ _))
    | (with_reducible apply Only.chain (only_unloadTile _ _))
    | (with_reducible apply Only.chain (only_copyInSlot _ _ _ _))
    | (with_reducible apply Only.chain (only_wr _ _ _))
    | (with_reducible apply Only.chain (only_readable _))
    | (with_reducible apply Only.chain (only_withLpddr _ _))
    | (with_reducible apply Only.chain (Only.set_swap _ _))
    | (with_reducible apply Only.foldl; on_goal 2 => intro _ _ _)
    | (lift_lets; intro z; refine Only.cut z ?_ ?_; (on_goal 2 => (intro hz; clear_value z)); (on_goal 1 => unfold z))
    | split

theorem only_execSwapCopyInDone : ∀ ue ticks s,
    Answers [.regs, .eng, .reconf, .cores, .tiles, .nodes, .conns, .lpddr, .swap, .capOld, .paths, .sdio, .pcie, .log, .doms, .live, .ids] s (execSwapCopyInDone ue ticks s) := by
  intro ue ticks s
  unfold execSwapCopyInDone
  repeat' first
    | with_reducible exact Only.refl _ _
    | decide
    | (with_reducible apply Answers.next)
    | (with_reducible apply Only.chain (only_copyInDone _ _ _ _))
    | (with_reducible apply Only.chain (only_holdCopy _ _))
    | (with_reducible apply Only.chain (only_release _))
    | (with_reducible apply only_clk)
    | split

theorem only_execSwapMapDone : ∀ ticks s,
    Answers [.regs, .eng, .nodes, .conns, .swap, .capOld, .sdio, .pcie, .doms, .live, .ids] s (execSwapMapDone ticks s) := by
  intro ticks s
  unfold execSwapMapDone
  repeat' first
    | with_reducible exact Only.refl _ _
    | decide
    | (with_reducible apply Answers.next)
    | (with_reducible apply Only.chain (only_endSwap _ _ _))
    | (with_reducible apply Only.chain (only_wn _ _ _))
    | (with_reducible apply only_clk)
    | (lift_lets; intro z)
    | split

theorem only_execMemPatrolPass : ∀ ue ce s, Answers [.regs, .log] s (execMemPatrolPass ue ce s) := by
  intro ue ce s
  unfold execMemPatrolPass
  repeat' first
    | with_reducible exact Only.refl _ _
    | with_reducible assumption
    | decide
    | (with_reducible apply Answers.next)
    | (with_reducible apply Only.chain (only_bump _ _))
    | (with_reducible apply Only.chain (only_memUe _ _ _))
    | (with_reducible apply Only.chain (only_bumpBy _ _ _ _))
    | (with_reducible apply Only.foldl; on_goal 2 => intro _ _ _)
    | (with_reducible apply only_clk)
    | split

end Sys2Proof.Machine
end

