-- ==== Sys2Proof/Laws/OnlyBoot.lean ====
section
/-! SUPPORT. What the operations of Machine/Boot.lean change: for each, the parts of the state beyond which it leaves
    everything as it was. -/

namespace Sys2Proof.Machine

theorem only_loseLpddr : ∀ s, Only [.lpddr, .free] s (State.loseLpddr s) := by
  intro s
  unfold State.loseLpddr
  dsimp -zeta only [State.mk_lpddr_free]
  repeat' first
    | with_reducible exact Only.refl _ _
    | decide
    | (with_reducible apply Only.chain (Only.set_lpddr_free _ _ _))

theorem only_execDeviceReset : ∀ c d cc s, Answers allParts s (execDeviceReset c d cc s) := by
  intro c d cc s
  exact ⟨_, rfl, Only.all _ _⟩

theorem only_execPorstPulse : ∀ ns d cc s, Answers allParts s (execPorstPulse ns d cc s) := by
  intro ns d cc s
  unfold execPorstPulse
  exact ⟨_, rfl, Only.all _ _⟩

theorem only_execSupplyReset : ∀ mv d cc s, Answers allParts s (execSupplyReset mv d cc s) := by
  intro mv d cc s
  unfold execSupplyReset
  exact ⟨_, rfl, Only.all _ _⟩

theorem only_execRefclkLoss : ∀ s, Answers [.boot] s (execRefclkLoss s) := by
  intro s
  unfold execRefclkLoss
  dsimp -zeta only [State.mk_boot]
  repeat' first
    | with_reducible exact Only.refl _ _
    | decide
    | with_reducible rfl
    | (with_reducible apply Answers.next)
    | (with_reducible apply Only.chain (Only.set_bootK _ _ ?_))

theorem only_bootResetAct : ∀ s0, Reply.Only [.boot] s0 (bootResetAct s0) := by
  intro s0
  unfold bootResetAct
  dsimp -zeta only [State.mk_boot]
  repeat' first
    | with_reducible exact Only.refl _ _
    | decide
    | with_reducible rfl
    | (with_reducible apply Reply.only_okAct)
    | (with_reducible apply Reply.only_guardAct)
    | (with_reducible apply Only.chain (Only.set_bootK _ _ ?_))

theorem only_execBootReset : ∀ p s, Answers [.regs, .boot, .paths, .doms] s (execBootReset p s) := by
  intro p s
  unfold execBootReset
  repeat' first
    | with_reducible exact Only.refl _ _
    | decide
    | (with_reducible apply Answers.next)
    | (with_reducible refine only_operate (A := [.regs, .boot, .paths, .doms]) _ _ _ _ _ _ (fun _ => ?_) (by decide) (by decide) ?_)
    | (with_reducible apply Reply.only_chain (only_bootResetAct _))

theorem only_bootForceAct : ∀ s0, Reply.Only [.boot] s0 (bootForceAct s0) := by
  intro s0
  unfold bootForceAct
  dsimp -zeta only [State.mk_boot]
  repeat' first
    | with_reducible exact Only.refl _ _
    | decide
    | with_reducible rfl
    | (with_reducible apply Reply.only_okAct)
    | (with_reducible apply Only.chain (Only.set_bootK _ _ ?_))

theorem only_execBootForceReset : ∀ p s, Answers [.regs, .boot, .paths, .doms] s (execBootForceReset p s) := by
  intro p s
  unfold execBootForceReset
  repeat' first
    | with_reducible exact Only.refl _ _
    | decide
    | (with_reducible apply Answers.next)
    | (with_reducible refine only_operate (A := [.regs, .boot, .paths, .doms]) _ _ _ _ _ _ (fun _ => ?_) (by decide) (by decide) ?_)
    | (with_reducible apply Reply.only_chain (only_bootForceAct _))

theorem only_execResetDelayExpire : ∀ d cc s, Answers allParts s (execResetDelayExpire d cc s) := by
  intro d cc s
  unfold execResetDelayExpire
  exact ⟨_, rfl, Only.all _ _⟩

theorem only_bootFault : ∀ s code detail, Only [.regs, .stage, .boot, .log] s (State.bootFault s code detail) := by
  intro s code detail
  unfold State.bootFault
  dsimp -zeta only [State.mk_boot]
  repeat' first
    | with_reducible exact Only.refl _ _
    | decide
    | (with_reducible apply Only.chain (only_post _ _ _ _ _ _))
    | (with_reducible apply Only.chain (only_wn _ _ _))
    | (with_reducible apply Only.chain (Only.set_boot _ _))

theorem only_bootImage : ∀ s n i, Only [.regs, .boot] s (State.bootImage s n i) := by
  intro s n i
  unfold State.bootImage
  dsimp -zeta only [State.mk_boot]
  repeat' first
    | with_reducible exact Only.refl _ _
    | decide
    | with_reducible rfl
    | (with_reducible apply Only.chain (only_wn _ _ _))
    | (with_reducible apply Only.chain (Only.set_bootK _ _ ?_))

theorem only_romBoot : ∀ s i0 i1, Only.Opt [.regs, .boot, .log] s (State.romBoot s i0 i1) := by
  intro s i0 i1
  unfold State.romBoot
  repeat' first
    | with_reducible exact Only.refl _ _
    | decide
    | (with_reducible exact Only.opt_none _ _)
    | (with_reducible apply Only.opt_some)
    | (with_reducible apply Only.chain (only_post _ _ _ _ _ _))
    | (with_reducible apply Only.chain (only_bootImage _ _ _))
    | split

theorem only_readFuses : ∀ s, Only [.regs, .boot] s (State.readFuses s) := by
  intro s
  unfold State.readFuses
  dsimp -zeta only [State.mk_boot]
  repeat' first
    | with_reducible exact Only.refl _ _
    | decide
    | with_reducible rfl
    | (with_reducible apply Only.chain (only_wn _ _ _))
    | (with_reducible apply Only.chain (Only.set_bootK _ _ ?_))

theorem only_bootTime : ∀ s stage us, Only [.regs] s (State.bootTime s stage us) := by
  intro s stage us
  unfold State.bootTime
  repeat' first
    | with_reducible exact Only.refl _ _
    | decide
    | (with_reducible apply Only.chain (only_wn _ _ _))

theorem only_execDawnEnd : ∀ i0 i1 us s, Answers [.regs, .stage, .boot, .log] s (execDawnEnd i0 i1 us s) := by
  intro i0 i1 us s
  unfold execDawnEnd
  dsimp -zeta only [State.mk_boot]
  repeat' first
    | with_reducible exact Only.refl _ _
    | with_reducible assumption
    | decide
    | (with_reducible apply Answers.next)
    | (with_reducible apply Only.chain (only_bootFault _ _ _))
    | (with_reducible apply Only.chain (only_readFuses _))
    | (with_reducible apply Only.chain (Only.ofOpt (only_romBoot _ _ _) ‹_›))
    | (with_reducible apply Only.chain (only_bootTime _ _ _))
    | (with_reducible apply Only.chain (Only.set_boot _ _))
    | (with_reducible apply only_clk)
    | (lift_lets; intro z; refine Only.cut z ?_ ?_; (on_goal 2 => (intro hz; clear_value z)); (on_goal 1 => unfold z))
    | split

theorem only_trainMem : ∀ s density untrained, Only [.regs] s (State.trainMem s density untrained) := by
  intro s density untrained
  unfold State.trainMem
  repeat' first
    | with_reducible exact Only.refl _ _
    | decide
    | (with_reducible apply Only.chain (only_wn _ _ _))

theorem only_selfTest : ∀ s r, Only [.regs, .boot] s (State.selfTest s r) := by
  intro s r
  unfold State.selfTest
  dsimp -zeta only [State.mk_boot]
  repeat' first
    | with_reducible exact Only.refl _ _
    | decide
    | with_reducible rfl
    | (with_reducible apply Only.chain (only_wn _ _ _))
    | (with_reducible apply Only.chain (Only.set_bootK _ _ ?_))

theorem only_mapCores : ∀ s t, Only [.regs] s (State.mapCores s t) := by
  intro s t
  unfold State.mapCores
  repeat' first
    | with_reducible exact Only.refl _ _
    | with_reducible assumption
    | decide
    | (with_reducible apply Only.chain (only_wn _ _ _))
    | (with_reducible apply Only.foldl; on_goal 2 => intro _ _ _)

theorem only_mapTiles : ∀ s, Only [.regs] s (State.mapTiles s) := by
  intro s
  unfold State.mapTiles
  repeat' first
    | with_reducible exact Only.refl _ _
    | with_reducible assumption
    | decide
    | (with_reducible apply Only.chain (only_mapCores _ _))
    | (with_reducible apply Only.chain (only_wn _ _ _))
    | (with_reducible apply Only.foldl; on_goal 2 => intro _ _ _)

theorem only_startScrub : ∀ s, Only [.scrub] s (State.startScrub s) := by
  intro s
  unfold State.startScrub
  dsimp -zeta only [State.mk_scrub]
  repeat' first
    | with_reducible exact Only.refl _ _
    | decide
    | (with_reducible apply Only.chain (Only.set_scrub _ _))

theorem only_degrade : ∀ s n c, Only [.regs] s (State.degrade s n c) := by
  intro s n c
  unfold State.degrade
  repeat' first
    | with_reducible exact Only.refl _ _
    | decide
    | (with_reducible apply Only.chain (only_wn _ _ _))
    | split

theorem only_startMorning : ∀ s, Only [.regs, .stage, .boot, .ports, .log] s (State.startMorning s) := by
  intro s
  unfold State.startMorning
  dsimp -zeta only [State.mk_boot]
  repeat' first
    | with_reducible exact Only.refl _ _
    | with_reducible assumption
    | decide
    | (with_reducible apply Only.chain (only_train _ _ _))
    | (with_reducible apply Only.chain (Only.set_boot _ _))
    | (with_reducible apply Only.foldl; on_goal 2 => intro _ _ _)
    | split

theorem only_sunrise : ∀ s r, Only [.regs, .stage, .boot, .ports, .log, .scrub] s (State.sunrise s r) := by
  intro s r
  unfold State.sunrise
  repeat' first
    | with_reducible exact Only.refl _ _
    | with_reducible assumption
    | decide
    | (with_reducible apply Only.chain (only_selfTest _ _))
    | (with_reducible apply Only.chain (only_trainMem _ _ _))
    | (with_reducible apply Only.chain (only_bootFault _ _ _))
    | (with_reducible apply Only.chain (only_startScrub _))
    | (with_reducible apply Only.chain (only_startMorning _))
    | (with_reducible apply Only.chain (only_mapTiles _))
    | (with_reducible apply Only.chain (only_degrade _ _ _))
    | (lift_lets; intro z; refine Only.cut z ?_ ?_; (on_goal 2 => (intro hz; clear_value z)); (on_goal 1 => unfold z))
    | split

theorem only_execSunriseEnd : ∀ r us s, Answers [.regs, .stage, .boot, .ports, .log, .scrub] s (execSunriseEnd r us s) := by
  intro r us s
  unfold execSunriseEnd
  repeat' first
    | with_reducible exact Only.refl _ _
    | decide
    | (with_reducible apply Answers.next)
    | (with_reducible apply Only.chain (only_sunrise _ _))
    | (with_reducible apply Only.chain (only_bootTime _ _ _))
    | (with_reducible apply only_clk)
    | split

theorem only_execMemTrainingTimeout : ∀ s, Answers [.regs] s (execMemTrainingTimeout s) := by
  intro s
  unfold execMemTrainingTimeout
  repeat' first
    | with_reducible exact Only.refl _ _
    | decide
    | (with_reducible apply Answers.next)
    | (with_reducible apply Only.chain (only_wn _ _ _))
    | (with_reducible apply only_clk)
    | split

theorem only_execMorningEnd : ∀ us s, Answers [.regs, .stage, .boot] s (execMorningEnd us s) := by
  intro us s
  unfold execMorningEnd
  dsimp -zeta only [State.mk_boot]
  repeat' first
    | with_reducible exact Only.refl _ _
    | with_reducible assumption
    | decide
    | (with_reducible apply Answers.next)
    | (with_reducible apply Only.chain (only_degrade _ _ _))
    | (with_reducible apply Only.chain (only_bootTime _ _ _))
    | (with_reducible apply Only.chain (Only.set_boot _ _))
    | (with_reducible apply only_clk)
    | (lift_lets; intro z; refine Only.cut z ?_ ?_; (on_goal 2 => (intro hz; clear_value z)); (on_goal 1 => unfold z))
    | split

theorem only_trainingFailed : ∀ s p,
    Only [.regs, .nodes, .ports, .chans, .log, .routes, .peers, .live] s (State.trainingFailed s p) := by
  intro s p
  unfold State.trainingFailed
  repeat' first
    | with_reducible exact Only.refl _ _
    | decide
    | (with_reducible apply Only.chain (only_downPort _ _))
    | (with_reducible apply Only.chain (only_updPort _ _ _))

theorem only_execBootStepTimeout : ∀ b s,
    Answers [.regs, .stage, .boot, .nodes, .ports, .chans, .log, .routes, .peers, .live] s (execBootStepTimeout b s) := by
  intro b s
  unfold execBootStepTimeout
  repeat' first
    | with_reducible exact Only.refl _ _
    | decide
    | (with_reducible apply Answers.next)
    | (with_reducible apply Only.chain (only_bootFault _ _ _))
    | (with_reducible apply Only.chain (only_trainingFailed _ _))
    | (with_reducible apply only_clk)
    | split

theorem only_execPerstRelease : ∀ s, Answers [.pcie] s (execPerstRelease s) := by
  intro s
  unfold execPerstRelease
  dsimp -zeta only [State.mk_pcie]
  repeat' first
    | with_reducible exact Only.refl _ _
    | decide
    | (with_reducible apply Answers.next)
    | (with_reducible apply Only.chain (Only.set_pcie _ _))

end Sys2Proof.Machine
end

