-- ==== Sys2Proof/Laws/OnlySecurity.lean ====
section
/-! SUPPORT. What the operations of Machine/Security.lean change: for each, the parts of the state beyond which it leaves
    everything as it was. -/

namespace Sys2Proof.Machine

theorem only_setBlob : ∀ s n idx sub b, Only [.paths] s (State.setBlob s n idx sub b) := by
  intro s n idx sub b
  unfold State.setBlob
  repeat' first
    | with_reducible exact Only.refl _ _
    | decide
    | (with_reducible apply Only.chain (only_updPathN _ _ _))

theorem only_attestAct : ∀ p s0, Reply.Only [.paths] s0 (attestAct p s0) := by
  intro p s0
  unfold attestAct
  repeat' first
    | with_reducible exact Only.refl _ _
    | decide
    | (with_reducible apply Reply.only_okAct)
    | (with_reducible apply Only.chain (only_updPath _ _ _))
    | (with_reducible apply Only.chain (only_setBlob _ _ _ _ _))

theorem only_execSecAttest : ∀ a s, Answers [.regs, .paths, .doms] s (execSecAttest a s) := by
  intro a s
  unfold execSecAttest
  repeat' first
    | with_reducible exact Only.refl _ _
    | decide
    | (with_reducible apply Answers.next)
    | (with_reducible refine only_operate (A := [.regs, .paths, .doms]) _ _ _ _ _ _ (fun _ => ?_) (by decide) (by decide) ?_)
    | (with_reducible apply Reply.only_chain (only_attestAct _ _))

theorem only_arbAct : ∀ p s0, Reply.Only [.fuses] s0 (arbAct p s0) := by
  intro p s0
  unfold arbAct
  dsimp -zeta only [State.mk_fuses]
  exact Reply.only_guardAct _ (Reply.only_okAct (Only.set_fuses _ _ ⟨rfl, Nat.le_max_left _ _, fun _ => rfl⟩))

theorem only_execSecAdvanceArb : ∀ a s, Answers [.regs, .fuses, .paths, .doms] s (execSecAdvanceArb a s) := by
  intro a s
  unfold execSecAdvanceArb
  repeat' first
    | with_reducible exact Only.refl _ _
    | decide
    | (with_reducible apply Answers.next)
    | (with_reducible refine only_operate (A := [.regs, .fuses, .paths, .doms]) _ _ _ _ _ _ (fun _ => ?_) (by decide) (by decide) ?_)
    | (with_reducible apply Reply.only_chain (only_arbAct _ _))

theorem only_provisionAct : ∀ p s0, Reply.Only [.fuses] s0 (provisionAct p s0) := by
  intro p s0
  unfold provisionAct guardAct
  dsimp -zeta only [State.mk_fuses]
  extract_lets k cs
  split
  · rename_i h
    refine Reply.only_okAct (Only.set_fuses _ _ ⟨rfl, Nat.le_refl _, fun hc => ?_⟩)
    exfalso
    have h2 : s0.signedMode = true := hc
    rw [h2] at h
    revert h
    cases (!blows p) <;> cases (ecKey k).isNone <;> decide
  · exact .refuse _

theorem only_execSecProvision : ∀ a s, Answers [.regs, .fuses, .paths, .doms] s (execSecProvision a s) := by
  intro a s
  unfold execSecProvision
  repeat' first
    | with_reducible exact Only.refl _ _
    | decide
    | (with_reducible apply Answers.next)
    | (with_reducible refine only_operate (A := [.regs, .fuses, .paths, .doms]) _ _ _ _ _ _ (fun _ => ?_) (by decide) (by decide) ?_)
    | (with_reducible apply Reply.only_chain (only_provisionAct _ _))

end Sys2Proof.Machine
end

