-- ==== Sys2Proof/Laws/OnlyFaults.lean ====
section
/-! SUPPORT. What the operations of Machine/Faults.lean change: for each, the parts of the state beyond which it leaves
    everything as it was. -/

namespace Sys2Proof.Machine

theorem only_mark : ∀ s v on, Only [.boot] s (State.mark s v on) := by
  intro s v on
  unfold State.mark
  dsimp -zeta only [State.mk_boot]
  repeat' first
    | intro z
    | with_reducible exact Only.refl _ _
    | decide
    | with_reducible rfl
    | (with_reducible apply Only.chain (Only.set_bootK _ _ ?_))
    | (lift_lets; intro z)
    | split

theorem only_markAct : ∀ p on s0, Reply.Only [.boot] s0 (markAct p on s0) := by
  intro p on s0
  unfold markAct
  repeat' first
    | with_reducible exact Only.refl _ _
    | decide
    | (with_reducible apply Reply.only_okAct)
    | (with_reducible apply Reply.only_guardAct)
    | (with_reducible apply Only.chain (only_mark _ _ _))

theorem only_execDefectMark : ∀ a s, Answers [.regs, .boot, .paths, .doms] s (execDefectMark a s) := by
  intro a s
  unfold execDefectMark
  repeat' first
    | with_reducible exact Only.refl _ _
    | decide
    | (with_reducible apply Answers.next)
    | (with_reducible refine only_operate (A := [.regs, .boot, .paths, .doms]) _ _ _ _ _ _ (fun _ => ?_) (by decide) (by decide) ?_)
    | (with_reducible apply Reply.only_chain (only_markAct _ _ _))

theorem only_execDefectUnmark : ∀ a s, Answers [.regs, .boot, .paths, .doms] s (execDefectUnmark a s) := by
  intro a s
  unfold execDefectUnmark
  repeat' first
    | with_reducible exact Only.refl _ _
    | decide
    | (with_reducible apply Answers.next)
    | (with_reducible refine only_operate (A := [.regs, .boot, .paths, .doms]) _ _ _ _ _ _ (fun _ => ?_) (by decide) (by decide) ?_)
    | (with_reducible apply Reply.only_chain (only_markAct _ _ _))

theorem only_whyScrub : ∀ s, Only [.regs] s (State.whyScrub s) := by
  intro s
  unfold State.whyScrub
  repeat' first
    | with_reducible exact Only.refl _ _
    | decide
    | (with_reducible apply Only.chain (only_whyBit _ _ _))

theorem only_scrubHit : ∀ s x1,
    Only [.regs, .boot, .cores, .tiles, .nodes, .paths, .log, .flights, .live, .free] s (State.scrubHit s x1) := by
  intro s x1
  unfold State.scrubHit
  repeat' first
    | with_reducible exact Only.refl _ _
    | decide
    | (with_reducible apply Only.chain (only_bump _ _))
    | (with_reducible apply Only.chain (only_tsmUe _ _ _ _))
    | (with_reducible apply Only.chain (only_coreUe _ _ _ _))
    | (with_reducible apply Only.chain (only_postMemory _ _ _ _))
    | (with_reducible apply Only.chain (only_noAddress _))
    | (lift_lets; intro z)
    | split

theorem only_scrubAct : ∀ s0, Reply.Only [.scrub] s0 (scrubAct s0) := by
  intro s0
  unfold scrubAct
  repeat' first
    | with_reducible exact Only.refl _ _
    | decide
    | (with_reducible apply Reply.only_okAct)
    | (with_reducible apply Only.chain (only_startScrub _))

theorem only_execScrubPass : ∀ a s, Answers [.regs, .paths, .doms, .scrub] s (execScrubPass a s) := by
  intro a s
  unfold execScrubPass
  repeat' first
    | with_reducible exact Only.refl _ _
    | decide
    | (with_reducible apply Answers.next)
    | (with_reducible refine only_operate (A := [.regs, .paths, .doms, .scrub]) _ _ _ _ _ _ (fun _ => ?_) (by decide) (by decide) ?_)
    | (with_reducible apply Reply.only_chain (only_scrubAct _))

theorem only_execScrubPassStart : ∀ hits s,
    Answers [.regs, .boot, .cores, .tiles, .nodes, .paths, .log, .flights, .live, .scrub, .free] s (execScrubPassStart hits s) := by
  intro hits s
  unfold execScrubPassStart
  repeat' first
    | with_reducible exact Only.refl _ _
    | with_reducible assumption
    | decide
    | (with_reducible apply Answers.next)
    | (with_reducible apply Only.chain (only_scrubHit _ _))
    | (with_reducible apply Only.chain (only_startScrub _))
    | (with_reducible apply Only.foldl; on_goal 2 => intro _ _ _)
    | split

theorem only_execScrubPassEnd : ∀ ms s, Answers [.regs, .scrub, .scrubbed] s (execScrubPassEnd ms s) := by
  intro ms s
  unfold execScrubPassEnd
  dsimp -zeta only [State.mk_scrub_scrubbed]
  repeat' first
    | with_reducible exact Only.refl _ _
    | with_reducible assumption
    | decide
    | (with_reducible apply Answers.next)
    | (with_reducible apply Only.chain (only_bump _ _))
    | (with_reducible apply Only.chain (only_whyScrub _))
    | (with_reducible apply Only.chain (only_bump32 _ _))
    | (with_reducible apply Only.chain (Only.set_scrub_scrubbed _ _ _))
    | (lift_lets; intro z; refine Only.cut z ?_ ?_; (on_goal 2 => (intro hz; clear_value z)); (on_goal 1 => unfold z))
    | split

theorem only_watchdog : ∀ s u stage,
    Only [.regs, .boot, .cores, .tiles, .nodes, .ports, .chans, .paths, .log, .routes, .peers, .flights, .live, .free] s (State.watchdog s u stage) := by
  intro s u stage
  unfold State.watchdog
  dsimp -zeta only [State.mk_boot]
  repeat' first
    | with_reducible exact Only.refl _ _
    | with_reducible assumption
    | decide
    | with_reducible rfl
    | (with_reducible apply Only.chain (only_post _ _ _ _ _ _))
    | (with_reducible apply Only.chain (only_downPort _ _))
    | (with_reducible apply Only.chain (only_fenceCore _ _ _))
    | (with_reducible apply Only.chain (only_bump32 _ _))
    | (with_reducible apply Only.chain (Only.set_bootK _ _ ?_))
    | (with_reducible apply Only.foldl; on_goal 2 => intro _ _ _)
    | (lift_lets; intro z; refine Only.cut z ?_ ?_; (on_goal 2 => (intro hz; clear_value z)); (on_goal 1 => unfold z))
    | split

theorem only_execWatchdogExpire : ∀ u stage s,
    Answers [.regs, .boot, .cores, .tiles, .nodes, .ports, .chans, .paths, .log, .routes, .peers, .flights, .live, .free] s (execWatchdogExpire u stage s) := by
  intro u stage s
  unfold execWatchdogExpire
  repeat' first
    | with_reducible exact Only.refl _ _
    | decide
    | (with_reducible apply Answers.next)
    | (with_reducible apply Only.chain (only_watchdog _ _ _))

theorem only_hkcStops : ∀ s st, Only [.regs, .mon] s (State.hkcStops s st) := by
  intro s st
  unfold State.hkcStops
  dsimp -zeta only [State.mk_mon]
  repeat' first
    | with_reducible exact Only.refl _ _
    | decide
    | with_reducible rfl
    | (with_reducible apply Only.chain (only_whyBit _ _ _))
    | (with_reducible apply Only.chain (only_wn _ _ _))
    | (with_reducible apply Only.chain (Only.set_monK _ _ ?_))

theorem only_endAttests : ∀ s, Only [.paths] s (State.endAttests s) := by
  intro s
  unfold State.endAttests
  repeat' first
    | with_reducible exact Only.refl _ _
    | with_reducible assumption
    | decide
    | (with_reducible apply Only.chain (only_answer _ _ _ _ _))
    | (with_reducible apply Only.chain (only_updPathN _ _ _))
    | (with_reducible apply Only.foldl; on_goal 2 => intro _ _ _)
    | split

theorem only_lockstep : ∀ s pc n,
    Only [.regs, .stage, .boot, .nodes, .conns, .paths, .mboxes, .sdio, .pcie, .log, .mon] s (State.lockstep s pc n) := by
  intro s pc n
  unfold State.lockstep
  repeat' first
    | with_reducible exact Only.refl _ _
    | with_reducible assumption
    | decide
    | (with_reducible apply Only.chain (only_post _ _ _ _ _ _))
    | (with_reducible apply Only.chain (only_endAttests _))
    | (with_reducible apply Only.chain (only_bootFault _ _ _))
    | (with_reducible apply Only.chain (only_bump32 _ _))
    | (with_reducible apply Only.chain (only_resetPath _ _))
    | (with_reducible apply Only.chain (only_hkcStops _ _))
    | (lift_lets; intro z; refine Only.cut z ?_ ?_; (on_goal 2 => (intro hz; clear_value z)); (on_goal 1 => unfold z))
    | split

theorem only_execLockstepMismatch : ∀ pc n s,
    Answers [.regs, .stage, .boot, .nodes, .conns, .paths, .mboxes, .sdio, .pcie, .log, .mon] s (execLockstepMismatch pc n s) := by
  intro pc n s
  unfold execLockstepMismatch
  repeat' first
    | with_reducible exact Only.refl _ _
    | decide
    | (with_reducible apply Answers.next)
    | (with_reducible apply Only.chain (only_lockstep _ _ _))
    | (with_reducible apply only_clk)
    | split

theorem only_ringRecord : ∀ s r rest, Only [.regs, .hostMem, .pcie, .log] s (State.ringRecord s r rest) := by
  intro s r rest
  unfold State.ringRecord
  dsimp -zeta only [State.mk_log]
  repeat' first
    | with_reducible exact Only.refl _ _
    | decide
    | (with_reducible apply Only.chain (only_toHost _ _ _))
    | (with_reducible apply Only.chain (only_raise _ _))
    | (with_reducible apply Only.chain (only_wn _ _ _))
    | (with_reducible apply Only.chain (Only.set_log _ _))

theorem only_execFaultRingWrite : ∀ s, Answers [.regs, .hostMem, .pcie, .log] s (execFaultRingWrite s) := by
  intro s
  unfold execFaultRingWrite
  repeat' first
    | with_reducible exact Only.refl _ _
    | decide
    | (with_reducible apply Answers.next)
    | (with_reducible apply Only.chain (only_ringRecord _ _ _))
    | (with_reducible apply only_clk)
    | split

theorem only_faultRingEnableAct : ∀ s0, Reply.Only [.regs] s0 (faultRingEnableAct s0) := by
  intro s0
  unfold faultRingEnableAct
  repeat' first
    | with_reducible exact Only.refl _ _
    | decide
    | (with_reducible apply Reply.only_okAct)
    | (with_reducible apply Reply.only_guardAct)
    | (with_reducible apply Only.chain (only_wn _ _ _))
    | (with_reducible apply Only.chain (only_whyRing _))

theorem only_execFaultRingEnable : ∀ a s, Answers [.regs, .paths, .doms] s (execFaultRingEnable a s) := by
  intro a s
  unfold execFaultRingEnable
  repeat' first
    | with_reducible exact Only.refl _ _
    | decide
    | (with_reducible apply Answers.next)
    | (with_reducible refine only_operate (A := [.regs, .paths, .doms]) _ _ _ _ _ _ (fun _ => ?_) (by decide) (by decide) ?_)
    | (with_reducible apply Reply.only_chain (only_faultRingEnableAct _))

theorem only_faultRingDisableAct : ∀ s0, Reply.Only [.regs] s0 (faultRingDisableAct s0) := by
  intro s0
  unfold faultRingDisableAct
  repeat' first
    | with_reducible exact Only.refl _ _
    | decide
    | (with_reducible apply Reply.only_okAct)
    | (with_reducible apply Only.chain (only_wn _ _ _))
    | (with_reducible apply Only.chain (only_whyRing _))

theorem only_execFaultRingDisable : ∀ a s, Answers [.regs, .paths, .doms] s (execFaultRingDisable a s) := by
  intro a s
  unfold execFaultRingDisable
  repeat' first
    | with_reducible exact Only.refl _ _
    | decide
    | (with_reducible apply Answers.next)
    | (with_reducible refine only_operate (A := [.regs, .paths, .doms]) _ _ _ _ _ _ (fun _ => ?_) (by decide) (by decide) ?_)
    | (with_reducible apply Reply.only_chain (only_faultRingDisableAct _))

theorem only_faultConsAct : ∀ v s0, Reply.Only [.regs] s0 (faultConsAct v s0) := by
  intro v s0
  unfold faultConsAct
  repeat' first
    | with_reducible exact Only.refl _ _
    | decide
    | (with_reducible apply Reply.only_okAct)
    | (with_reducible apply Reply.only_guardAct)
    | (with_reducible apply Only.chain (only_wn _ _ _))

end Sys2Proof.Machine
end

