-- ==== Sys2Proof/Laws/OnlyPower.lean ====
section
/-! SUPPORT. What the operations of Machine/Power.lean change: for each, the parts of the state beyond which it leaves
    everything as it was. -/

namespace Sys2Proof.Machine

theorem only_closeWhere : ∀ s f,
    Only [.regs, .cores, .tiles, .nodes, .conns, .combs, .hrings, .lpddr, .paths, .pcie, .doms, .live] s (State.closeWhere s f) := by
  intro s f
  unfold State.closeWhere
  repeat' first
    | with_reducible exact Only.refl _ _
    | with_reducible assumption
    | decide
    | (with_reducible apply Only.chain (only_startClose _ _ _ _ _))
    | (with_reducible apply Only.foldl; on_goal 2 => intro _ _ _)
    | split

theorem only_dropStaged : ∀ s l, Only [.regs, .nodes, .live] s (State.dropStaged s l) := by
  intro s l
  unfold State.dropStaged
  repeat' first
    | with_reducible exact Only.refl _ _
    | with_reducible assumption
    | decide
    | (with_reducible apply Only.chain (only_bump _ _))
    | (with_reducible apply Only.chain (only_hringDrop _ _ _))
    | (with_reducible apply Only.foldl; on_goal 2 => intro _ _ _)

theorem only_hostLost : ∀ s,
    Only [.regs, .tiles, .nodes, .conns, .combs, .hrings, .lpddr, .paths, .pcie, .live] s (State.hostLost s) := by
  intro s
  unfold State.hostLost
  dsimp -zeta only [State.mk_hrings_pcie]
  repeat' first
    | (intro z; refine Only.cut z ?_ ?_; (on_goal 2 => (intro hz; clear_value z)); (on_goal 1 => unfold z))
    | intro z
    | with_reducible exact Only.refl _ _
    | with_reducible assumption
    | decide
    | (with_reducible apply Only.chain (only_dropStaged _ _))
    | (with_reducible apply Only.chain (only_closeCheck _))
    | (with_reducible apply Only.chain (Only.set_hrings_pcie _ _ _))
    | (lift_lets; intro z)
    | split

theorem only_hostDetach : ∀ s,
    Only [.regs, .cores, .tiles, .nodes, .conns, .combs, .hrings, .lpddr, .chans, .paths, .pcie, .doms, .live] s (State.hostDetach s) := by
  intro s
  unfold State.hostDetach
  repeat' first
    | with_reducible exact Only.refl _ _
    | with_reducible assumption
    | decide
    | (with_reducible apply Only.chain (only_closeWhere _ _))
    | (with_reducible apply Only.chain (only_hringForce _ _))
    | (with_reducible apply Only.chain (only_stopChan _ _))
    | (with_reducible apply Only.chain (only_wn _ _ _))
    | (with_reducible apply Only.foldl; on_goal 2 => intro _ _ _)
    | split

theorem only_discarded : ∀ s d n, Only [.regs] s (State.discarded s d n) := by
  intro s d n
  unfold State.discarded
  repeat' first
    | with_reducible exact Only.refl _ _
    | decide
    | (with_reducible apply Only.chain (only_bumpBy _ _ _ _))

theorem only_dropInbuf : ∀ s k, Only [.cores, .nodes, .flights] s (State.dropInbuf s k) := by
  intro s k
  unfold State.dropInbuf
  repeat' first
    | with_reducible exact Only.refl _ _
    | with_reducible assumption
    | decide
    | (with_reducible apply Only.chain (only_flightEnd _ _ _))
    | (with_reducible apply Only.chain (only_setCore _ _ _))
    | (with_reducible apply Only.foldl; on_goal 2 => intro _ _ _)

theorem only_dropNiHold : ∀ s t, Only [.regs, .tiles, .nodes, .conns, .log, .flights, .live] s (State.dropNiHold s t) := by
  intro s t
  unfold State.dropNiHold
  repeat' first
    | with_reducible exact Only.refl _ _
    | with_reducible assumption
    | decide
    | (with_reducible apply Only.chain (only_itemEnd _ _))
    | (with_reducible apply Only.chain (only_flightEnd _ _ _))
    | (with_reducible apply Only.chain (only_updTile _ _ _))
    | (with_reducible apply Only.chain (only_dropSide _ _))
    | (with_reducible apply Only.foldl; on_goal 2 => intro _ _ _)

theorem only_discardTile : ∀ s t,
    Only [.regs, .cores, .tiles, .nodes, .conns, .combs, .hrings, .lpddr, .paths, .pcie, .log, .doms, .flights, .live] s (State.discardTile s t) := by
  intro s t
  unfold State.discardTile
  repeat' first
    | with_reducible exact Only.refl _ _
    | with_reducible assumption
    | decide
    | (with_reducible apply Only.chain (only_dropNiHold _ _))
    | (with_reducible apply Only.chain (only_closeWhere _ _))
    | (with_reducible apply Only.chain (only_dropInbuf _ _))
    | (with_reducible apply Only.chain (only_updTile _ _ _))
    | (with_reducible apply Only.chain (only_discarded _ _ _))
    | (with_reducible apply Only.foldl; on_goal 2 => intro _ _ _)

theorem only_discardDma : ∀ s, Only [.regs, .chans] s (State.discardDma s) := by
  intro s
  unfold State.discardDma
  repeat' first
    | with_reducible exact Only.refl _ _
    | with_reducible assumption
    | decide
    | (with_reducible apply Only.chain (only_updChan _ _ _))
    | (with_reducible apply Only.chain (only_discarded _ _ _))
    | (with_reducible apply Only.chain (only_wn _ _ _))
    | (with_reducible apply Only.foldl; on_goal 2 => intro _ _ _)
    | split

theorem only_discardStream : ∀ s, Only [.regs, .nodes, .sports, .sctxs, .live] s (State.discardStream s) := by
  intro s
  unfold State.discardStream
  repeat' first
    | with_reducible exact Only.refl _ _
    | with_reducible assumption
    | decide
    | (with_reducible apply Only.chain (only_recEnd _ _ _))
    | (with_reducible apply Only.chain (only_updSctx _ _ _))
    | (with_reducible apply Only.chain (only_discarded _ _ _))
    | (with_reducible apply Only.chain (only_updSport _ _ _))
    | (with_reducible apply Only.foldl; on_goal 2 => intro _ _ _)

theorem only_discardHkc : ∀ s, Only [.regs, .paths] s (State.discardHkc s) := by
  intro s
  unfold State.discardHkc
  repeat' first
    | with_reducible exact Only.refl _ _
    | with_reducible assumption
    | decide
    | (with_reducible apply Only.chain (only_answer _ _ _ _ _))
    | (with_reducible apply Only.chain (only_discarded _ _ _))
    | (with_reducible apply Only.foldl; on_goal 2 => intro _ _ _)

theorem only_discardWork : ∀ s d, Only meshParts s (State.discardWork s d) := by
  intro s d
  unfold State.discardWork
  repeat' first
    | with_reducible exact Only.refl _ _
    | decide
    | (with_reducible apply Only.chain (only_discardStream _))
    | (with_reducible apply Only.chain (only_discardTile _ _))
    | (with_reducible apply Only.chain (only_downPort _ _))
    | (with_reducible apply Only.chain (only_hostDetach _))
    | (with_reducible apply Only.chain (only_discardDma _))
    | (with_reducible apply Only.chain (only_discardHkc _))
    | (with_reducible apply Only.chain (only_discarded _ _ _))
    | split

theorem only_beginEntry : ∀ s d want force, Only meshParts s (State.beginEntry s d want force) := by
  intro s d want force
  unfold State.beginEntry
  repeat' first
    | with_reducible exact Only.refl _ _
    | with_reducible assumption
    | decide
    | (with_reducible apply Only.chain (only_discardWork _ _))
    | (with_reducible apply Only.chain (only_enterDomain _ _ _))
    | (with_reducible apply Only.chain (only_putLink _ _ _ _ _ _ _ _))
    | (lift_lets; intro z; refine Only.cut z ?_ ?_; (on_goal 2 => (intro hz; clear_value z)); (on_goal 1 => unfold z))
    | split

theorem only_acceptRequest : ∀ s d want force, Only meshParts s (State.acceptRequest s d want force) := by
  intro s d want force
  unfold State.acceptRequest
  repeat' first
    | with_reducible exact Only.refl _ _
    | decide
    | (with_reducible apply Only.chain (only_wake _ _ _))
    | (with_reducible apply Only.chain (only_updDom _ _ _))
    | (with_reducible apply Only.chain (only_beginEntry _ _ _ _))
    | split

theorem only_domainAct : ∀ d want force s0, Reply.Only meshParts s0 (domainAct d want force s0) := by
  intro d want force s0
  unfold domainAct
  repeat' first
    | with_reducible exact Only.refl _ _
    | decide
    | (with_reducible exact Reply.only_refuse _ _ _)
    | (with_reducible apply Reply.only_okAct)
    | (with_reducible apply Reply.only_guardAct)
    | (with_reducible apply Reply.only_done)
    | (with_reducible apply Only.chain (only_acceptRequest _ _ _ _))
    | (with_reducible apply Only.chain (only_bump32 _ _))
    | split

theorem only_execDomainOn : ∀ a d s, Answers meshParts s (execDomainOn a d s) := by
  intro a d s
  unfold execDomainOn
  repeat' first
    | with_reducible exact Only.refl _ _
    | decide
    | (with_reducible apply Answers.next)
    | (with_reducible refine only_operate (A := meshParts) _ _ _ _ _ _ (fun _ => ?_) (by decide) (by decide) ?_)
    | (with_reducible apply Reply.only_chain (only_domainAct _ _ _ _))

theorem only_execDomainRetention : ∀ a d s, Answers meshParts s (execDomainRetention a d s) := by
  intro a d s
  unfold execDomainRetention
  repeat' first
    | with_reducible exact Only.refl _ _
    | decide
    | (with_reducible apply Answers.next)
    | (with_reducible refine only_operate (A := meshParts) _ _ _ _ _ _ (fun _ => ?_) (by decide) (by decide) ?_)
    | (with_reducible apply Reply.only_chain (only_domainAct _ _ _ _))

theorem only_execDomainOff : ∀ a d s, Answers meshParts s (execDomainOff a d s) := by
  intro a d s
  unfold execDomainOff
  repeat' first
    | with_reducible exact Only.refl _ _
    | decide
    | (with_reducible apply Answers.next)
    | (with_reducible refine only_operate (A := meshParts) _ _ _ _ _ _ (fun _ => ?_) (by decide) (by decide) ?_)
    | (with_reducible apply Reply.only_chain (only_domainAct _ _ _ _))

theorem only_execDomainOffForce : ∀ a d s, Answers meshParts s (execDomainOffForce a d s) := by
  intro a d s
  unfold execDomainOffForce
  repeat' first
    | with_reducible exact Only.refl _ _
    | decide
    | (with_reducible apply Answers.next)
    | (with_reducible refine only_operate (A := meshParts) _ _ _ _ _ _ (fun _ => ?_) (by decide) (by decide) ?_)
    | (with_reducible apply Reply.only_chain (only_domainAct _ _ _ _))

theorem only_offTile : ∀ s t, Only [.regs, .cores, .tiles, .paths, .free] s (State.offTile s t) := by
  intro s t
  unfold State.offTile
  dsimp -zeta only [State.mk_cores]
  repeat' first
    | with_reducible exact Only.refl _ _
    | decide
    | (with_reducible apply Only.chain (only_nightLeft _ _))
    | (with_reducible apply Only.chain (only_updTile _ _ _))
    | (with_reducible apply Only.chain (only_wn _ _ _))
    | (with_reducible apply Only.chain (Only.set_cores _ _))

theorem only_dropParkq : ∀ s, Only [.regs, .parkq, .live] s (State.dropParkq s) := by
  intro s
  unfold State.dropParkq
  dsimp -zeta only [State.mk_parkq]
  repeat' first
    | with_reducible exact Only.refl _ _
    | with_reducible assumption
    | decide
    | (with_reducible apply Only.chain (only_bump _ _))
    | (with_reducible apply Only.chain (only_itemEnd _ _))
    | (with_reducible apply Only.chain (Only.set_parkq _ _))
    | (with_reducible apply Only.foldl; on_goal 2 => intro _ _ _)
    | split

theorem only_offStream : ∀ s, Only [.regs, .nodes, .sports, .sctxs, .sch, .paths, .live] s (State.offStream s) := by
  intro s
  unfold State.offStream
  dsimp -zeta only [State.mk_sctxs_sch]
  repeat' first
    | with_reducible exact Only.refl _ _
    | with_reducible assumption
    | decide
    | (with_reducible apply Only.chain (only_discardStream _))
    | (with_reducible apply Only.chain (only_wn _ _ _))
    | (with_reducible apply Only.chain (only_sctxOff _ _))
    | (with_reducible apply Only.chain (Only.set_sctxs_sch _ _ _))
    | (with_reducible apply Only.foldl; on_goal 2 => intro _ _ _)

theorem only_offPcie : ∀ s,
    Only [.regs, .tiles, .nodes, .conns, .combs, .hrings, .lpddr, .paths, .pcie, .live] s (State.offPcie s) := by
  intro s
  unfold State.offPcie
  dsimp -zeta only [State.mk_pcie]
  repeat' first
    | with_reducible exact Only.refl _ _
    | decide
    | (with_reducible apply Only.chain (only_hostLost _))
    | (with_reducible apply Only.chain (only_wn _ _ _))
    | (with_reducible apply Only.chain (Only.set_pcie _ _))

theorem only_offDomain : ∀ s d,
    Only [.regs, .cores, .tiles, .nodes, .conns, .combs, .hrings, .lpddr, .parkq, .sports, .sctxs, .sch, .paths, .pcie, .mon, .live, .free] s (State.offDomain s d) := by
  intro s d
  unfold State.offDomain
  repeat' first
    | with_reducible exact Only.refl _ _
    | decide
    | (with_reducible apply Only.chain (only_loseLpddr _))
    | (with_reducible apply Only.chain (only_offTile _ _))
    | (with_reducible apply Only.chain (only_dropParkq _))
    | (with_reducible apply Only.chain (only_offStream _))
    | (with_reducible apply Only.chain (only_offPcie _))
    | (with_reducible apply Only.chain (only_hkcStops _ _))
    | split

theorem only_execDomainEntryDone : ∀ d s,
    Answers [.regs, .cores, .tiles, .nodes, .conns, .combs, .hrings, .lpddr, .parkq, .sports, .sctxs, .sch, .paths, .pcie, .doms, .mon, .live, .free] s (execDomainEntryDone d s) := by
  intro d s
  unfold execDomainEntryDone
  repeat' first
    | (intro z; refine Only.cut z ?_ ?_; (on_goal 2 => (intro hz; clear_value z)); (on_goal 1 => unfold z))
    | with_reducible exact Only.refl _ _
    | with_reducible assumption
    | decide
    | (with_reducible apply Answers.next)
    | (with_reducible apply Only.chain (only_offDomain _ _))
    | (with_reducible apply Only.chain (only_wake _ _ _))
    | (with_reducible apply Only.chain (only_updDom _ _ _))
    | (with_reducible apply Only.chain (only_wn _ _ _))
    | (lift_lets; intro z)
    | split

theorem only_execDomainEntryAbandon : ∀ d s, Answers [.regs, .doms] s (execDomainEntryAbandon d s) := by
  intro d s
  unfold execDomainEntryAbandon
  repeat' first
    | with_reducible exact Only.refl _ _
    | decide
    | (with_reducible apply Answers.next)
    | (with_reducible apply Only.chain (only_updDom _ _ _))
    | (with_reducible apply Only.chain (only_wn _ _ _))
    | (with_reducible apply Only.chain (only_bump32 _ _))
    | split

theorem only_execDomainWake : ∀ d src s, Answers [.regs, .doms] s (execDomainWake d src s) := by
  intro d src s
  unfold execDomainWake
  repeat' first
    | with_reducible exact Only.refl _ _
    | decide
    | (with_reducible apply Answers.next)
    | (with_reducible apply Only.chain (only_wake _ _ _))
    | split

theorem only_domainBack : ∀ s d fromOff,
    Only [.regs, .eng, .reconf, .cores, .tiles, .nodes, .ports, .conns, .lpddr, .paths, .mboxes, .sdio, .pcie, .log, .flights, .live, .free] s (State.domainBack s d fromOff) := by
  intro s d fromOff
  unfold State.domainBack
  dsimp -zeta only [State.mk_pcie]
  repeat' first
    | with_reducible exact Only.refl _ _
    | decide
    | (with_reducible apply Only.chain (only_pumpVc1 _ _))
    | (with_reducible apply Only.chain (only_train _ _ _))
    | (with_reducible apply Only.chain (only_pumpTile _ _))
    | (with_reducible apply Only.chain (only_offTile _ _))
    | (with_reducible apply Only.chain (only_wn _ _ _))
    | (with_reducible apply Only.chain (only_resetPath _ _))
    | (with_reducible apply Only.chain (only_release _))
    | (with_reducible apply Only.chain (Only.set_pcie _ _))
    | (lift_lets; intro z)
    | split

theorem only_whyTemp : ∀ s, Only [.regs] s (State.whyTemp s) := by
  intro s
  unfold State.whyTemp
  repeat' first
    | with_reducible exact Only.refl _ _
    | decide
    | (with_reducible apply Only.chain (only_whyBit _ _ _))

theorem only_whyVolt : ∀ s, Only [.regs] s (State.whyVolt s) := by
  intro s
  unfold State.whyVolt
  repeat' first
    | with_reducible exact Only.refl _ _
    | decide
    | (with_reducible apply Only.chain (only_whyBit _ _ _))

theorem only_postTemp : ∀ s c i v, Only [.regs, .log] s (State.postTemp s c i v) := by
  intro s c i v
  unfold State.postTemp
  repeat' first
    | with_reducible exact Only.refl _ _
    | decide
    | (with_reducible apply Only.chain (only_post _ _ _ _ _ _))
    | split

theorem only_judgeTemp : ∀ s i v, Only [.regs, .log, .thermtrip, .mon] s (State.judgeTemp s i v) := by
  intro s i v
  unfold State.judgeTemp
  dsimp -zeta only [State.mk_mon]
  repeat' first
    | with_reducible exact Only.refl _ _
    | decide
    | (with_reducible apply Only.chain (only_postTemp _ _ _ _))
    | (with_reducible apply Only.chain (only_bump32 _ _))
    | (with_reducible apply Only.chain (Only.set_mon _ _))
    | (lift_lets; intro z)
    | split

theorem only_execTempSample : ∀ i v s, Answers [.regs, .log, .thermtrip, .mon] s (execTempSample i v s) := by
  intro i v s
  unfold execTempSample
  dsimp -zeta only [State.mk_mon]
  repeat' first
    | with_reducible exact Only.refl _ _
    | decide
    | with_reducible rfl
    | (with_reducible apply Answers.next)
    | (with_reducible apply Only.chain (only_whyTemp _))
    | (with_reducible apply Only.chain (only_judgeTemp _ _ _))
    | (with_reducible apply Only.chain (only_wn _ _ _))
    | (with_reducible apply Only.chain (Only.set_monK _ _ ?_))
    | (with_reducible apply only_clk)
    | split

theorem only_execVoltSample : ∀ d rail mv s, Answers [.regs, .log, .mon, .free] s (execVoltSample d rail mv s) := by
  intro d rail mv s
  refine ⟨_, rfl, only_clk (Only.refl _ _) ?_⟩
  extract_lets first low s1 s2 bad m s3 s4
  have h1 : Only [.regs, .log, .mon, .free] s s1 := (only_wn _ _ _).mono (by decide)
  have h2 : Only [.regs, .log, .mon, .free] s s2 := Only.ite (Only.chain (only_wn _ _ _) (by decide) h1) h1
  have h3 : Only [.regs, .log, .mon, .free] s s3 := Only.chain (Only.set_monK s2 _ rfl) (by decide) h2
  clear_value s3
  have h4 : Only [.regs, .log, .mon, .free] s s4 :=
    Only.ite (Only.chain (only_post _ _ _ _ _ _) (by decide) (Only.chain (Only.set_free s3 _) (by decide) h3)) h3
  clear_value s4
  exact Only.chain (only_whyVolt _) (by decide) h4

theorem only_execProcSample : ∀ t ps s, Answers [.regs] s (execProcSample t ps s) := by
  intro t ps s
  unfold execProcSample
  repeat' first
    | with_reducible exact Only.refl _ _
    | decide
    | (with_reducible apply Answers.next)
    | (with_reducible apply Only.chain (only_wn _ _ _))
    | (with_reducible apply only_clk)

theorem only_extremeAct : ∀ volt i v s0, Reply.Only [.regs] s0 (extremeAct volt i v s0) := by
  intro volt i v s0
  unfold extremeAct
  repeat' first
    | with_reducible exact Only.refl _ _
    | decide
    | (with_reducible apply Reply.only_okAct)
    | (with_reducible apply Reply.only_guardAct)
    | (with_reducible apply Only.chain (only_wn _ _ _))
    | split

theorem only_execMonExtremeClear : ∀ a volt i v s, Answers [.regs, .paths, .doms] s (execMonExtremeClear a volt i v s) := by
  intro a volt i v s
  unfold execMonExtremeClear
  repeat' first
    | with_reducible exact Only.refl _ _
    | decide
    | (with_reducible apply Answers.next)
    | (with_reducible refine only_operate (A := [.regs, .paths, .doms]) _ _ _ _ _ _ (fun _ => ?_) (by decide) (by decide) ?_)
    | (with_reducible apply Reply.only_chain (only_extremeAct _ _ _ _))

theorem only_execVwarnLatch : ∀ mv s, Answers [.regs, .eng, .mon] s (execVwarnLatch mv s) := by
  intro mv s
  unfold execVwarnLatch
  dsimp -zeta only [State.mk_mon]
  repeat' first
    | (intro z; refine Only.cut z ?_ ?_; (on_goal 2 => (intro hz; clear_value z)); (on_goal 1 => unfold z))
    | with_reducible exact Only.refl _ _
    | with_reducible assumption
    | decide
    | with_reducible rfl
    | (with_reducible apply Answers.next)
    | (with_reducible apply Only.chain (only_holdPhase _))
    | (with_reducible apply Only.chain (only_whyVolt _))
    | (with_reducible apply Only.chain (only_wn _ _ _))
    | (with_reducible apply Only.chain (only_bump32 _ _))
    | (with_reducible apply Only.chain (Only.set_monK _ _ ?_))
    | (lift_lets; intro z)
    | split

theorem only_resumeHeld : ∀ s, Only resumeParts s (State.resumeHeld s) := by
  intro s
  unfold State.resumeHeld
  repeat' first
    | with_reducible exact Only.refl _ _
    | with_reducible assumption
    | decide
    | (with_reducible apply Only.chain (only_startWake _ _ _))
    | (with_reducible apply Only.chain (only_boundaryWork _ _ _))
    | (with_reducible apply Only.chain (only_beginEntry _ _ _ _))
    | (with_reducible apply Only.chain (only_updEng _ _))
    | (with_reducible apply Only.chain (only_settleTo _ _))
    | (with_reducible apply Only.foldl; on_goal 2 => intro _ _ _)
    | (lift_lets; intro z; refine Only.cut z ?_ ?_; (on_goal 2 => (intro hz; clear_value z)); (on_goal 1 => unfold z))
    | split

theorem only_execVwarnClear : ∀ mv us s, Answers warnParts s (execVwarnClear mv us s) := by
  intro mv us s
  unfold execVwarnClear
  dsimp -zeta only [State.mk_mon]
  repeat' first
    | (intro z; refine Only.cut z ?_ ?_; (on_goal 2 => (intro hz; clear_value z)); (on_goal 1 => unfold z))
    | with_reducible exact Only.refl _ _
    | with_reducible assumption
    | decide
    | with_reducible rfl
    | (with_reducible apply Answers.next)
    | (with_reducible apply Only.chain (only_post _ _ _ _ _ _))
    | (with_reducible apply Only.chain (only_resumeHeld _))
    | (with_reducible apply Only.chain (only_lrnResume _))
    | (with_reducible apply Only.chain (only_startScrub _))
    | (with_reducible apply Only.chain (only_whyVolt _))
    | (with_reducible apply Only.chain (only_wn _ _ _))
    | (with_reducible apply Only.chain (Only.set_monK _ _ ?_))
    | (lift_lets; intro z)
    | split

end Sys2Proof.Machine
end

