-- ==== Sys2Proof/Laws/OnlyDict.lean ====
section
/-! SUPPORT. What the operations of Machine/Dict.lean change: for each, the parts of the state beyond which it leaves
    everything as it was. -/

namespace Sys2Proof.Machine

theorem only_readAct : ∀ p r idx sub s0, Reply.Only [.regs, .capOld] s0 (readAct p r idx sub s0) := by
  intro p r idx sub s0
  unfold readAct
  repeat' first
    | with_reducible exact Only.refl _ _
    | decide
    | (with_reducible apply Reply.only_done)
    | (with_reducible apply Reply.only_chain (only_mbNoticeAct _ _ _))
    | (with_reducible apply Reply.only_chain (only_mbLockReadAct _ _ _))
    | (with_reducible apply Reply.only_chain (only_tmrCaptAct _ _))
    | split

theorem only_hostOpenAct : ∀ p s0, Reply.Only [.regs, .paths] s0 (hostOpenAct p s0) := by
  intro p s0
  unfold hostOpenAct
  repeat' first
    | with_reducible exact Only.refl _ _
    | decide
    | (with_reducible apply Reply.only_okAct)
    | (with_reducible apply Reply.only_guardAct)
    | (with_reducible apply Only.chain (only_openSession _ _ _ _))

theorem only_hostCloseAct : ∀ p s0,
    Reply.Only [.regs, .nodes, .conns, .paths, .mboxes, .sdio, .pcie] s0 (hostCloseAct p s0) := by
  intro p s0
  unfold hostCloseAct
  repeat' first
    | with_reducible exact Only.refl _ _
    | decide
    | (with_reducible apply Reply.only_okAct)
    | (with_reducible apply Reply.only_guardAct)
    | (with_reducible apply Only.chain (only_resetPath _ _))

theorem only_winbaseAct : ∀ v s0, Reply.Only [.regs] s0 (winbaseAct v s0) := by
  intro v s0
  unfold winbaseAct
  repeat' first
    | with_reducible exact Only.refl _ _
    | decide
    | (with_reducible apply Reply.only_okAct)
    | (with_reducible apply Reply.only_guardAct)
    | (with_reducible apply Only.chain (only_wn _ _ _))

theorem only_newMembers : ∀ s v,
    Only [.regs, .nodes, .ports, .conns, .paths, .mboxes, .sdio, .pcie] s (State.newMembers s v) := by
  intro s v
  unfold State.newMembers
  repeat' first
    | with_reducible exact Only.refl _ _
    | with_reducible assumption
    | decide
    | (with_reducible apply Only.chain (only_wn _ _ _))
    | (with_reducible apply Only.chain (only_resetPath _ _))
    | (with_reducible apply Only.chain (only_sendJoins _))
    | (with_reducible apply Only.foldl; on_goal 2 => intro _ _ _)

theorem only_storeNum : ∀ s p idx sub v,
    Only [.regs, .reconf, .nodes, .ports, .conns, .paths, .mboxes, .sdio, .pcie] s (State.storeNum s p idx sub v) := by
  intro s p idx sub v
  unfold State.storeNum
  repeat' first
    | with_reducible exact Only.refl _ _
    | with_reducible assumption
    | decide
    | (with_reducible apply Only.chain (only_whyScrub _))
    | (with_reducible apply Only.chain (only_newMembers _ _))
    | (with_reducible apply Only.chain (only_rehash _))
    | (with_reducible apply Only.chain (only_wn _ _ _))
    | (with_reducible apply Only.chain (only_sendJoins _))
    | (lift_lets; intro z; refine Only.cut z ?_ ?_; (on_goal 2 => (intro hz; clear_value z)); (on_goal 1 => unfold z))
    | split

theorem only_clearNum : ∀ s p idx sub, Only [.regs, .cores, .conns, .combs] s (State.clearNum s p idx sub) := by
  intro s p idx sub
  unfold State.clearNum
  repeat' first
    | with_reducible exact Only.refl _ _
    | with_reducible assumption
    | decide
    | (with_reducible apply Only.chain (only_updCore _ _ _))
    | (with_reducible apply Only.chain (only_updComb _ _ _))
    | (with_reducible apply Only.chain (only_updConn _ _ _))
    | (with_reducible apply Only.chain (only_wn _ _ _))
    | (with_reducible apply Only.chain (only_whyRing _))
    | (lift_lets; intro z; refine Only.cut z ?_ ?_; (on_goal 2 => (intro hz; clear_value z)); (on_goal 1 => unfold z))
    | split

theorem only_cmdAct : ∀ p idx sub code s0, Reply.Only cmdParts s0 (cmdAct p idx sub code s0) := by
  intro p idx sub code s0
  unfold cmdAct
  repeat' first
    | with_reducible apply Reply.only_ite
    | with_reducible exact Only.refl _ _
    | decide
    | (with_reducible exact Reply.only_refuse _ _ _)
    | (with_reducible apply Reply.only_chain (only_spUpAct _ _))
    | (with_reducible apply Reply.only_chain (only_markAct _ _ _))
    | (with_reducible apply Reply.only_chain (only_mbResetAct _ _ _))
    | (with_reducible apply Reply.only_chain (only_stopAct _))
    | (with_reducible apply Reply.only_chain (only_fenceAct _))
    | (with_reducible apply Reply.only_chain (only_sctxEnableAct _ _))
    | (with_reducible apply Reply.only_chain (only_closeAct _ _))
    | (with_reducible apply Reply.only_chain (only_attestAct _ _))
    | (with_reducible apply Reply.only_chain (only_spDownAct _ _))
    | (with_reducible apply Reply.only_chain (only_mbSendAct _ _ _))
    | (with_reducible apply Reply.only_chain (only_dmaCloseAct _ _))
    | (with_reducible apply Reply.only_chain (only_scrubAct _))
    | (with_reducible apply Reply.only_chain (only_coreReleaseAct _ _))
    | (with_reducible apply Reply.only_chain (only_dringDisableAct _ _))
    | (with_reducible apply Reply.only_chain (only_hringEnableAct _ _))
    | (with_reducible apply Reply.only_chain (only_commitAct _ _ _))
    | (with_reducible apply Reply.only_chain (only_swapInAct _ _))
    | (with_reducible apply Reply.only_chain (only_dringEnableAct _ _))
    | (with_reducible apply Reply.only_chain (only_faultRingEnableAct _))
    | (with_reducible apply Reply.only_chain (only_portDownAct _ _))
    | (with_reducible apply Reply.only_chain (only_hostCloseAct _ _))
    | (with_reducible apply Reply.only_chain (only_hringForceAct _ _))
    | (with_reducible apply Reply.only_chain (only_swapOutAct _ _))
    | (with_reducible apply Reply.only_chain (only_runAct _))
    | (with_reducible apply Reply.only_chain (only_sctxDisableAct _ _))
    | (with_reducible apply Reply.only_chain (only_dmaStartAct _ _))
    | (with_reducible apply Reply.only_chain (only_portTrainAct _ _))
    | (with_reducible apply Reply.only_chain (only_coreFenceAct _ _))
    | (with_reducible apply Reply.only_chain (only_swapExchangeAct _ _))
    | (with_reducible apply Reply.only_chain (only_dmaOpenAct _ _))
    | (with_reducible apply Reply.only_chain (only_bootForceAct _))
    | (with_reducible apply Reply.only_chain (only_arbAct _ _))
    | (with_reducible apply Reply.only_chain (only_hringDisableAct _ _))
    | (with_reducible apply Reply.only_chain (only_domainAct _ _ _ _))
    | (with_reducible apply Reply.only_chain (only_bootResetAct _))
    | (with_reducible apply Reply.only_chain (only_cancelAct _))
    | (with_reducible apply Reply.only_chain (only_lrnClearAct _))
    | (with_reducible apply Reply.only_chain (only_mbDoorbellAct _ _))
    | (with_reducible apply Reply.only_chain (only_faultRingDisableAct _))
    | (with_reducible apply Reply.only_chain (only_dmaStopAct _ _))
    | (with_reducible apply Reply.only_chain (only_openAct _ _))
    | (with_reducible apply Reply.only_chain (only_rejoinAct _))
    | (with_reducible apply Reply.only_chain (only_hostOpenAct _ _))
    | (with_reducible apply Reply.only_chain (only_provisionAct _ _))
    | (with_reducible apply Reply.only_chain (only_adoptAct _ _))
    | (with_reducible apply Reply.only_chain (only_lrnMidnightAct _ _ _))

/-- What an entry's own act may change: nothing beyond W. -/
def ActOnly (W : List Part) (o : Option Act) : Prop := ∀ act s, o = some act → Reply.Only W s (act s)

theorem ActOnly.none {W : List Part} : ActOnly W none := fun _ _ h => nomatch h

theorem ActOnly.some {W : List Part} {a : Act} (h : ∀ s, Reply.Only W s (a s)) : ActOnly W (some a) := by
  intro act s e
  cases e
  exact h s

theorem ActOnly.ite {W : List Part} {c : Prop} [Decidable c] {a b : Option Act} (h : ActOnly W a)
    (g : ActOnly W b) : ActOnly W (if c then a else b) := by
  split
  · exact h
  · exact g

theorem only_specialAct : ∀ p idx sub v d,
    ActOnly [.regs, .reconf, .nodes, .ports, .parks, .sch, .was, .capPre, .paths, .mboxes, .sdio, .pcie, .doms, .drains, .routes]
      (specialAct p idx sub v d) := by
  intro p idx sub v d
  unfold specialAct
  dsimp only
  repeat' first
    | decide
    | exact Only.refl _ _
    | exact ActOnly.none
    | with_reducible apply ActOnly.ite
    | (with_reducible apply ActOnly.some; intro s0)
    | (with_reducible apply Reply.only_chain (only_mapTileAct _ _ _))
    | (with_reducible apply Reply.only_chain (only_capinAct _ _ _ _))
    | (with_reducible apply Reply.only_chain (only_tmrCmpAct _ _ _ _))
    | (with_reducible apply Reply.only_chain (only_trgForceAct _ _ _))
    | (with_reducible apply Reply.only_chain (only_routeAct _ _ _))
    | (with_reducible apply Reply.only_chain (only_mapCoreAct _ _ _ _))
    | (with_reducible apply Reply.only_chain (only_extremeAct _ _ _ _))
    | (with_reducible apply Reply.only_chain (only_tmrFlagsAct _ _ _))
    | (with_reducible apply Reply.only_chain (only_mbLockWriteAct _ _ _ _))
    | (with_reducible apply Reply.only_chain (only_faultConsAct _ _))
    | (with_reducible apply Reply.only_chain (only_schEntryAct _ _ _))
    | (with_reducible apply Reply.only_chain (only_tmrCountAct _ _ _))
    | (with_reducible apply Reply.only_chain (only_winbaseAct _ _))
    | (with_reducible apply Reply.only_chain (only_mbReceiverAct _ _ _))
    | (with_reducible apply Reply.only_chain (only_dringProdAct _ _ _))
    | (with_reducible apply Reply.only_chain (only_dmaProdAct _ _ _))
    | (with_reducible apply Reply.only_chain (only_hringConsAct _ _ _))
    | (with_reducible apply Reply.only_chain (only_mbMsgAct _ _ _ _))
    | (with_reducible apply Reply.only_chain (only_mbConsAct _ _ _ _))
    | (with_reducible apply Reply.only_chain (only_periodAct _ _))
    | (with_reducible apply Reply.only_chain (only_tmrEnAct _ _ _))
    | split

theorem Reply.only_under {W : List Part} {s : State} {r : Reply} (st : Status) (h : Reply.Only W s r) :
    Reply.Only W s (under st r) := by
  unfold under
  split
  · exact h
  · cases r <;> exact .refuse _

theorem only_storeAct : ∀ p r idx sub d s0,
    Reply.Only storeParts
      s0 (storeAct p r idx sub d s0) := by
  intro p r idx sub d s0
  have hok : ∀ (s0 : State), Reply.Only storeParts
      s0 (okAct s0) := fun s0 => Reply.only_okAct (Only.refl _ _)
  have hsp := only_specialAct p idx sub (leNat d) d
  unfold storeAct
  generalize specialAct p idx sub (leNat d) d = o at hsp
  cases o <;> cases r.acc
  all_goals dsimp only
  all_goals
    repeat' first
      | exact hok _
      | exact Reply.only_guardAct _ (hok _)
      | exact Reply.only_okAct (Only.chain (only_clearNum _ _ _ _) (by decide) (Only.refl _ _))
      | exact Reply.only_okAct (Only.chain (only_setBlob _ _ _ _ _) (by decide) (Only.refl _ _))
      | exact Reply.only_guardAct _ (Reply.only_okAct (Only.chain (only_storeNum _ _ _ _ _) (by decide) (Only.refl _ _)))
      | exact Reply.only_chain (only_cmdAct _ _ _ _ _) (by decide) (Only.refl _ _)
      | exact Reply.only_chain (hsp _ _ rfl) (by decide) (Only.refl _ _)
      | split

theorem only_writeAct : ∀ p r idx sub d s0, Reply.Only storeParts s0 (writeAct p r idx sub d s0) := by
  intro p r idx sub d s0
  unfold writeAct
  repeat' first
    | with_reducible exact Only.refl _ _
    | decide
    | (with_reducible apply Reply.only_chain (only_storeAct _ _ _ _ _ _))
    | with_reducible apply Reply.only_under

theorem only_dictAct : ∀ p op idx sub d s0, Reply.Only dictParts s0 (dictAct p op idx sub d s0) := by
  intro p op idx sub d s0
  unfold dictAct
  dsimp -zeta only [State.mk_free]
  repeat' first
    | with_reducible exact Only.refl _ _
    | decide
    | (with_reducible exact Reply.only_refuse _ _ _)
    | (with_reducible apply Reply.only_done)
    | (with_reducible apply Reply.only_chain (only_readAct _ _ _ _ _))
    | (with_reducible apply Reply.only_chain (only_writeAct _ _ _ _ _ _))
    | (with_reducible apply Only.chain (Only.set_free _ _))
    | split

end Sys2Proof.Machine
end

