-- ==== Sys2Proof/Laws/OnlyHost.lean ====
section
/-! SUPPORT. What the operations of Machine/Host.lean change: for each, the parts of the state beyond which it leaves
    everything as it was. -/

namespace Sys2Proof.Machine

theorem only_forwardAct : ∀ dev tag op idx sub d s0, Reply.Only [.nodes] s0 (forwardAct dev tag op idx sub d s0) := by
  intro dev tag op idx sub d s0
  unfold forwardAct
  repeat' first
    | with_reducible exact Only.refl _ _
    | decide
    | (with_reducible apply Reply.only_guardAct)
    | (with_reducible apply Reply.only_wait)
    | (with_reducible apply Only.chain (only_sendMsg _ _))

theorem only_windowOp : ∀ s p, Only dictParts s (State.windowOp s p) := by
  intro s p
  unfold State.windowOp
  extract_lets q idx sub op dev rsvd d t
  have ht : Only dictParts s t := (only_updPath _ _ _).mono (by decide)
  clear_value t
  have hd : ∀ u, Reply.Only dictParts u (dictAct p op idx sub d u) := fun u => only_dictAct _ _ _ _ _ u
  split
  · exact only_serve (A := []) p false idx sub (fun _ => .refuse _) (by decide) (by decide) ht
  · split
    · split
      · have hf := Reply.only_under (if (rsvd || decide (op = 0) || decide (3 < op)) = true then Status.rsvdSet else .ok)
          (only_forwardAct dev (ctlTag q.ctl) op idx sub d t)
        split
        · rename_i e
          rw [e] at hf
          cases hf with
          | wait _ _ hf => exact Only.chain (only_updPath _ _ _) (by decide) (ht.trans (hf.mono (by decide)))
        · exact Only.chain (only_answer _ _ _ _ _) (by decide) ht
        · exact Only.chain (only_answer _ _ _ _ _) (by decide) ht
      · exact Only.chain (only_answer _ _ _ _ _) (by decide) ht
    · split
      · exact only_serve (A := dictParts) p false idx sub
          (fun u => Reply.only_under _ (only_dictAct _ _ _ _ _ u)) (by decide) (by decide) ht
      · split
        · exact only_serve (A := dictParts) p false idx sub (fun u => Reply.only_under _ (hd u)) (by decide) (by decide) ht
        · exact only_serveOp (A := dictParts) p _ op idx sub d hd (by decide) (by decide) ht

theorem only_startWindow : ∀ s p addr ctl data, Only dictParts s (State.startWindow s p addr ctl data) := by
  intro s p addr ctl data
  unfold State.startWindow
  repeat' first
    | with_reducible exact Only.refl _ _
    | decide
    | (with_reducible apply Only.chain (only_openWindow _ _ _ _ _))
    | (with_reducible apply Only.chain (only_windowOp _ _))
    | (with_reducible apply Only.chain (only_bump32 _ _))
    | split

theorem only_execDwRead : ∀ p addr ctl s, Answers dictParts s (execDwRead p addr ctl s) := by
  intro p addr ctl s
  unfold execDwRead
  repeat' first
    | with_reducible exact Only.refl _ _
    | decide
    | (with_reducible apply Answers.next)
    | (with_reducible apply Only.chain (only_startWindow _ _ _ _ _))
    | (with_reducible apply only_clk)

theorem only_execDwWrite : ∀ p addr ctl data s, Answers dictParts s (execDwWrite p addr ctl data s) := by
  intro p addr ctl data s
  unfold execDwWrite
  repeat' first
    | with_reducible exact Only.refl _ _
    | decide
    | (with_reducible apply Answers.next)
    | (with_reducible apply Only.chain (only_startWindow _ _ _ _ _))
    | (with_reducible apply only_clk)

theorem only_execDwInfo : ∀ p addr ctl s, Answers dictParts s (execDwInfo p addr ctl s) := by
  intro p addr ctl s
  unfold execDwInfo
  repeat' first
    | with_reducible exact Only.refl _ _
    | decide
    | (with_reducible apply Answers.next)
    | (with_reducible apply Only.chain (only_startWindow _ _ _ _ _))
    | (with_reducible apply only_clk)

theorem only_report : ∀ s p st data, Only [.nodes, .sdio, .pcie] s (State.report s p st data) := by
  intro s p st data
  unfold State.report
  dsimp -zeta only [State.mk_sdio]
  repeat' first
    | intro z
    | with_reducible exact Only.refl _ _
    | decide
    | (with_reducible apply Only.chain (only_raise _ _))
    | (with_reducible apply Only.chain (only_sendMsg _ _))
    | (with_reducible apply Only.chain (Only.set_sdio _ _))
    | (lift_lets; intro z)
    | split

theorem only_complete1 : ∀ s p st data, Only [.nodes, .paths, .sdio, .pcie] s (State.complete1 s p st data) := by
  intro s p st data
  unfold State.complete1
  repeat' first
    | with_reducible exact Only.refl _ _
    | decide
    | (with_reducible apply Only.chain (only_updPath _ _ _))
    | (with_reducible apply Only.chain (only_report _ _ _ _))

theorem only_execDictOpComplete : ∀ p s, Answers [.regs, .nodes, .paths, .sdio, .pcie] s (execDictOpComplete p s) := by
  intro p s
  unfold execDictOpComplete
  repeat' first
    | with_reducible exact Only.refl _ _
    | decide
    | (with_reducible apply Answers.next)
    | (with_reducible apply Only.chain (only_bump _ _))
    | (with_reducible apply Only.chain (only_complete1 _ _ _ _))
    | (with_reducible apply only_clk)
    | split

theorem only_execDictHkcTimeout : ∀ p s, Answers [.regs, .paths] s (execDictHkcTimeout p s) := by
  intro p s
  unfold execDictHkcTimeout
  repeat' first
    | with_reducible exact Only.refl _ _
    | decide
    | (with_reducible apply Answers.next)
    | (with_reducible apply Only.chain (only_answer _ _ _ _ _))
    | (with_reducible apply Only.chain (only_bump32 _ _))
    | (with_reducible apply only_clk)
    | split

theorem only_execDreq : ∀ dev tag op idx sub data s, Answers dictParts s (execDreq dev tag op idx sub data s) := by
  intro dev tag op idx sub data s
  unfold execDreq
  repeat' first
    | with_reducible exact Only.refl _ _
    | decide
    | (with_reducible apply Answers.next)
    | (with_reducible apply Only.chain (only_startWindow _ _ _ _ _))
    | (with_reducible apply only_clk)

theorem only_execDrsp : ∀ dev tag status data s, Answers [.regs, .paths] s (execDrsp dev tag status data s) := by
  intro dev tag status data s
  unfold execDrsp
  repeat' first
    | with_reducible exact Only.refl _ _
    | decide
    | (with_reducible apply Answers.next)
    | (with_reducible apply Only.chain (only_updPath _ _ _))
    | (with_reducible apply Only.chain (only_bump32 _ _))
    | (with_reducible apply only_clk)
    | split

theorem only_execDictForwardTimeout : ∀ s, Answers [.regs, .paths] s (execDictForwardTimeout s) := by
  intro s
  unfold execDictForwardTimeout
  repeat' first
    | with_reducible exact Only.refl _ _
    | decide
    | (with_reducible apply Answers.next)
    | (with_reducible apply Only.chain (only_updPath _ _ _))
    | (with_reducible apply Only.chain (only_bump32 _ _))
    | (with_reducible apply only_clk)
    | split

theorem only_execHostOpen : ∀ p s, Answers [.regs, .paths, .doms] s (execHostOpen p s) := by
  intro p s
  unfold execHostOpen
  repeat' first
    | with_reducible exact Only.refl _ _
    | decide
    | (with_reducible apply Answers.next)
    | (with_reducible refine only_operate (A := [.regs, .paths, .doms]) _ _ _ _ _ _ (fun _ => ?_) (by decide) (by decide) ?_)
    | (with_reducible apply Reply.only_chain (only_hostOpenAct _ _))

theorem only_execHostClose : ∀ p s,
    Answers [.regs, .nodes, .conns, .paths, .mboxes, .sdio, .pcie, .doms] s (execHostClose p s) := by
  intro p s
  unfold execHostClose
  repeat' first
    | with_reducible exact Only.refl _ _
    | decide
    | (with_reducible apply Answers.next)
    | (with_reducible refine only_operate (A := [.regs, .nodes, .conns, .paths, .mboxes, .sdio, .pcie, .doms]) _ _ _ _ _ _ (fun _ => ?_) (by decide) (by decide) ?_)
    | (with_reducible apply Reply.only_chain (only_hostCloseAct _ _))

theorem only_execBar0Read : ∀ off n s, Answers [.regs, .pcie] s (execBar0Read off n s) := by
  intro off n s
  unfold execBar0Read
  repeat' first
    | with_reducible exact Only.refl _ _
    | decide
    | (with_reducible apply Answers.next)
    | (with_reducible apply Only.chain (only_bump _ _))
    | (with_reducible apply Only.chain (only_complete _ _ _))
    | (with_reducible apply only_clk)
    | split

theorem only_windowPut : ∀ s p o d, Only dictParts s (State.windowPut s p o d) := by
  intro s p o d
  unfold State.windowPut
  repeat' first
    | with_reducible exact Only.refl _ _
    | with_reducible assumption
    | decide
    | (with_reducible apply Only.chain (only_updPath _ _ _))
    | (with_reducible apply Only.chain (only_windowOp _ _))
    | (with_reducible apply Only.chain (only_bump32 _ _))
    | (lift_lets; intro z; refine Only.cut z ?_ ?_; (on_goal 2 => (intro hz; clear_value z)); (on_goal 1 => unfold z))
    | split

theorem only_bar0Write : ∀ s off d, Only dictParts s (State.bar0Write s off d) := by
  intro s off d
  unfold State.bar0Write
  dsimp -zeta only [State.mk_pcie]
  repeat' first
    | intro z
    | with_reducible exact Only.refl _ _
    | decide
    | (with_reducible apply Only.chain (only_bump _ _))
    | (with_reducible apply Only.chain (only_wn _ _ _))
    | (with_reducible apply Only.chain (only_windowPut _ _ _ _))
    | (with_reducible apply Only.chain (Only.set_pcie _ _))
    | (lift_lets; intro z)
    | split

theorem only_execWinbaseWrite : ∀ via v s, Answers [.regs, .paths, .doms] s (execWinbaseWrite via v s) := by
  intro via v s
  unfold execWinbaseWrite
  repeat' first
    | with_reducible exact Only.refl _ _
    | decide
    | (with_reducible apply Answers.next)
    | (with_reducible refine only_operate (A := [.regs, .paths, .doms]) _ _ _ _ _ _ (fun _ => ?_) (by decide) (by decide) ?_)
    | (with_reducible apply Only.chain (only_bump _ _))
    | (with_reducible apply Only.chain (only_wr _ _ _))
    | (with_reducible apply Reply.only_chain (only_winbaseAct _ _))
    | (with_reducible apply only_clk)
    | split

theorem only_execBar2Read : ∀ off n ecc s, Answers [.regs, .pcie, .log, .doms] s (execBar2Read off n ecc s) := by
  intro off n ecc s
  unfold execBar2Read
  dsimp -zeta only [State.mk_pcie]
  repeat' first
    | (intro z; refine Only.cut z ?_ ?_; (on_goal 2 => (intro hz; clear_value z)); (on_goal 1 => unfold z))
    | intro z
    | with_reducible exact Only.refl _ _
    | with_reducible assumption
    | decide
    | (with_reducible apply Answers.next)
    | (with_reducible apply Only.chain (only_holdAccess _ _))
    | (with_reducible apply Only.chain (only_bump _ _))
    | (with_reducible apply Only.chain (only_readEcc _ _ _ _))
    | (with_reducible apply Only.chain (only_complete _ _ _))
    | (with_reducible apply Only.chain (Only.set_pcie _ _))
    | (with_reducible apply only_clk)
    | (lift_lets; intro z)
    | split

theorem only_execBar2Write : ∀ off data s,
    Answers [.regs, .eng, .reconf, .cores, .tiles, .lpddr, .pcie, .doms, .ids] s (execBar2Write off data s) := by
  intro off data s
  unfold execBar2Write
  repeat' first
    | with_reducible exact Only.refl _ _
    | decide
    | (with_reducible apply Answers.next)
    | (with_reducible apply Only.chain (only_bump _ _))
    | (with_reducible apply Only.chain (only_postWrite _ _ _))
    | (with_reducible apply only_clk)
    | split

theorem only_execUnsupportedRequest : ∀ bar s, Answers [.pcie] s (execUnsupportedRequest bar s) := by
  intro bar s
  unfold execUnsupportedRequest
  dsimp -zeta only [State.mk_pcie]
  repeat' first
    | with_reducible exact Only.refl _ _
    | decide
    | (with_reducible apply Answers.next)
    | (with_reducible apply Only.chain (Only.set_pcie _ _))
    | (lift_lets; intro z)
    | split

theorem only_showLink : ∀ s up speed width, Only [.regs] s (State.showLink s up speed width) := by
  intro s up speed width
  unfold State.showLink
  repeat' first
    | with_reducible exact Only.refl _ _
    | decide
    | (with_reducible apply Only.chain (only_wn _ _ _))

theorem only_execPcieFlr : ∀ perst s,
    Answers [.regs, .cores, .tiles, .nodes, .conns, .combs, .hrings, .lpddr, .chans, .paths, .mboxes, .sdio, .pcie, .doms, .live] s (execPcieFlr perst s) := by
  intro perst s
  refine ⟨_, rfl, only_clk (Only.refl _ _) ?_⟩
  extract_lets p1 s1 n s2 p2 s3 s4
  have h1 : Only [.regs, .cores, .tiles, .nodes, .conns, .combs, .hrings, .lpddr, .chans, .paths, .mboxes, .sdio, .pcie, .doms, .live] s s1 :=
    (Only.set_pcie s _).mono (by decide)
  clear_value s1
  have h2 := Only.chain (only_resetPath s1.hostLost.hostDetach 1) (by decide)
    (Only.chain (only_hostDetach s1.hostLost) (by decide) (Only.chain (only_hostLost s1) (by decide) h1))
  change Only _ s s2 at h2
  clear_value s2
  have h3 : Only [.regs, .cores, .tiles, .nodes, .conns, .combs, .hrings, .lpddr, .chans, .paths, .mboxes, .sdio, .pcie, .doms, .live] s s3 :=
    Only.chain (Only.set_pcie s2 _) (by decide) h2
  clear_value s3
  have h4 : Only [.regs, .cores, .tiles, .nodes, .conns, .combs, .hrings, .lpddr, .chans, .paths, .mboxes, .sdio, .pcie, .doms, .live] s s4 :=
    Only.ite (Only.chain (only_showLink _ _ _ _) (by decide) h3) h3
  clear_value s4
  exact Only.chain (only_bumpBy _ _ _ _) (by decide) (Only.chain (only_bump32 _ _) (by decide)
    (Only.chain (only_wn _ _ _) (by decide) h4))

theorem only_execBusMasterEnableChange : ∀ bme d3 link speed width s,
    Answers [.regs, .tiles, .nodes, .conns, .combs, .hrings, .lpddr, .paths, .pcie, .doms, .live] s (execBusMasterEnableChange bme d3 link speed width s) := by
  intro bme d3 link speed width s
  unfold execBusMasterEnableChange
  dsimp -zeta only [State.mk_pcie]
  repeat' first
    | (intro z; refine Only.cut z ?_ ?_; (on_goal 2 => (intro hz; clear_value z)); (on_goal 1 => unfold z))
    | intro z
    | with_reducible exact Only.refl _ _
    | with_reducible assumption
    | decide
    | (with_reducible apply Answers.next)
    | (with_reducible apply Only.chain (only_hostLost _))
    | (with_reducible apply Only.chain (only_wake _ _ _))
    | (with_reducible apply Only.chain (only_showLink _ _ _ _))
    | (with_reducible apply Only.chain (Only.set_pcie _ _))
    | (with_reducible apply only_clk)
    | (lift_lets; intro z)
    | split

theorem only_execMsixPendingSend : ∀ v s, Answers [.pcie] s (execMsixPendingSend v s) := by
  intro v s
  unfold execMsixPendingSend
  dsimp -zeta only [State.mk_pcie]
  repeat' first
    | with_reducible exact Only.refl _ _
    | decide
    | (with_reducible apply Answers.next)
    | (with_reducible apply Only.chain (only_raise _ _))
    | (with_reducible apply Only.chain (Only.set_pcie _ _))
    | (with_reducible apply only_clk)
    | (lift_lets; intro z)
    | split

theorem only_execCmd5 : ∀ s, Answers [.sdio] s (execCmd5 s) := by
  intro s
  unfold execCmd5
  dsimp -zeta only [State.mk_sdio]
  repeat' first
    | with_reducible exact Only.refl _ _
    | decide
    | (with_reducible apply Answers.next)
    | (with_reducible apply Only.chain (Only.set_sdio _ _))

theorem only_execCmd11 : ∀ s, Answers [.sdio] s (execCmd11 s) := by
  intro s
  unfold execCmd11
  dsimp -zeta only [State.mk_sdio]
  repeat' first
    | with_reducible exact Only.refl _ _
    | decide
    | (with_reducible apply Answers.next)
    | (with_reducible apply Only.chain (Only.set_sdio _ _))

theorem only_execCmd19 : ∀ s, Answers [.sdio] s (execCmd19 s) := by
  intro s
  unfold execCmd19
  dsimp -zeta only [State.mk_sdio]
  repeat' first
    | with_reducible exact Only.refl _ _
    | decide
    | (with_reducible apply Answers.next)
    | (with_reducible apply Only.chain (Only.set_sdio _ _))

theorem only_sdioStore : ∀ s a b, Only [.paths, .sdio] s (State.sdioStore s a b) := by
  intro s a b
  unfold State.sdioStore
  dsimp -zeta only [State.mk_sdio]
  repeat' first
    | with_reducible exact Only.refl _ _
    | decide
    | (with_reducible apply Only.chain (only_updPath _ _ _))
    | (with_reducible apply Only.chain (Only.set_sdio _ _))
    | (lift_lets; intro z)
    | split

theorem only_sdioWrite : ∀ s l, Only dictParts s (State.sdioWrite s l) := by
  intro s l
  unfold State.sdioWrite
  repeat' first
    | (intro z; refine Only.cut z ?_ ?_; (on_goal 2 => (intro hz; clear_value z)); (on_goal 1 => unfold z))
    | intro z
    | with_reducible exact Only.refl _ _
    | with_reducible assumption
    | decide
    | (with_reducible apply Only.chain (only_windowOp _ _))
    | (with_reducible apply Only.chain (only_bump32 _ _))
    | (with_reducible apply Only.chain (only_sdioStore _ _ _))
    | (with_reducible apply Only.foldl; on_goal 2 => intro _ _ _)
    | (lift_lets; intro z)
    | split

theorem only_execCmd52 : ∀ write a v s, Answers dictParts s (execCmd52 write a v s) := by
  intro write a v s
  unfold execCmd52
  dsimp -zeta only [State.mk_sdio]
  repeat' first
    | with_reducible exact Only.refl _ _
    | decide
    | (with_reducible apply Answers.next)
    | (with_reducible apply Only.chain (only_sdioWrite _ _))
    | (with_reducible apply Only.chain (Only.set_sdio _ _))
    | (with_reducible apply only_clk)
    | (lift_lets; intro z)
    | split

theorem only_execCmd53 : ∀ write a incr count data s, Answers dictParts s (execCmd53 write a incr count data s) := by
  intro write a incr count data s
  unfold execCmd53
  dsimp -zeta only [State.mk_sdio]
  repeat' first
    | (intro z; refine Only.cut z ?_ ?_; (on_goal 2 => (intro hz; clear_value z)); (on_goal 1 => unfold z))
    | intro z
    | with_reducible exact Only.refl _ _
    | with_reducible assumption
    | decide
    | (with_reducible apply Answers.next)
    | (with_reducible apply Only.chain (only_sdioWrite _ _))
    | (with_reducible apply Only.chain (Only.set_sdio _ _))
    | (with_reducible apply only_clk)
    | (lift_lets; intro z)
    | split

theorem only_execIoAbort : ∀ s, Answers [.sdio] s (execIoAbort s) := by
  intro s
  unfold execIoAbort
  dsimp -zeta only [State.mk_sdio]
  repeat' first
    | with_reducible exact Only.refl _ _
    | decide
    | (with_reducible apply Answers.next)
    | (with_reducible apply Only.chain (Only.set_sdio _ _))

theorem only_execSdioRes : ∀ s, Answers [.regs, .nodes, .conns, .paths, .mboxes, .sdio, .pcie] s (execSdioRes s) := by
  intro s
  unfold execSdioRes
  dsimp -zeta only [State.mk_sdio]
  repeat' first
    | with_reducible exact Only.refl _ _
    | decide
    | (with_reducible apply Answers.next)
    | (with_reducible apply Only.chain (only_resetPath _ _))
    | (with_reducible apply Only.chain (Only.set_sdio _ _))
    | (with_reducible apply only_clk)

theorem only_execIntPendWrite : ∀ v s, Answers [.paths, .sdio] s (execIntPendWrite v s) := by
  intro v s
  unfold execIntPendWrite
  repeat' first
    | with_reducible exact Only.refl _ _
    | decide
    | (with_reducible apply Answers.next)
    | (with_reducible apply Only.chain (only_sdioStore _ _ _))
    | (with_reducible apply only_clk)

theorem only_execRegisterWrite : ∀ t s, Answers dictParts s (execRegisterWrite t s) := by
  intro t s
  unfold execRegisterWrite
  dsimp -zeta only [State.mk_pcie, State.mk_sdio]
  repeat' first
    | with_reducible exact Only.refl _ _
    | decide
    | (with_reducible apply Answers.next)
    | (with_reducible refine only_operate (A := dictParts) _ _ _ _ _ _ (fun _ => ?_) (by decide) (by decide) ?_)
    | (with_reducible apply Only.chain (only_bar0Write _ _ _))
    | (with_reducible apply Only.chain (only_sdioWrite _ _))
    | (with_reducible apply Reply.only_chain (only_dictAct _ _ _ _ _ _))
    | (with_reducible apply Only.chain (Only.set_pcie _ _))
    | (with_reducible apply Only.chain (Only.set_sdio _ _))
    | (with_reducible apply only_clk)
    | (lift_lets; intro z)
    | split

theorem only_serveHeld : ∀ s, Only dictParts s (State.serveHeld s) := by
  intro s
  unfold State.serveHeld
  split
  · exact Only.refl _ _
  · with_reducible apply Only.foldl
    on_goal 2 => intro _ _ _
    · exact Only.refl _ _
    · rename_i h
      split
      · exact only_serve (A := dictParts) _ true _ _ (fun u => only_dictAct _ _ _ _ _ u) (by decide) (by decide) h
      · exact h

theorem only_execDomainWakeDone : ∀ d s, Answers dictParts s (execDomainWakeDone d s) := by
  intro d s
  unfold execDomainWakeDone
  repeat' first
    | with_reducible exact Only.refl _ _
    | decide
    | (with_reducible apply Answers.next)
    | (with_reducible apply Only.chain (only_domainBack _ _ _))
    | (with_reducible apply Only.chain (only_updDom _ _ _))
    | (with_reducible apply Only.chain (only_serveHeld _))
    | (with_reducible apply Only.chain (only_wn _ _ _))
    | (lift_lets; intro z)
    | split

theorem only_execHkcRestartDone : ∀ i0 i1 s, Answers regParts s (execHkcRestartDone i0 i1 s) := by
  intro i0 i1 s
  unfold execHkcRestartDone
  repeat' first
    | with_reducible exact Only.refl _ _
    | with_reducible assumption
    | decide
    | (with_reducible apply Answers.next)
    | (with_reducible apply Only.chain (only_bootFault _ _ _))
    | (with_reducible apply Only.chain (only_serveHeld _))
    | (with_reducible apply Only.chain (Only.ofOpt (only_romBoot _ _ _) ‹_›))
    | (with_reducible apply Only.chain (only_wn _ _ _))
    | (with_reducible apply only_clk)
    | (lift_lets; intro z; refine Only.cut z ?_ ?_; (on_goal 2 => (intro hz; clear_value z)); (on_goal 1 => unfold z))
    | split

end Sys2Proof.Machine
end

