-- ==== Sys2Proof/Laws/OnlyClock.lean ====
section
/-! SUPPORT. What the operations of Machine/Clock.lean change: for each, the parts of the state beyond which it leaves
    everything as it was. -/

namespace Sys2Proof.Machine

theorem only_tickWhere : ∀ s l f key, Only [.regs] s (State.tickWhere s l f key) := by
  intro s l f key
  unfold State.tickWhere
  repeat' first
    | with_reducible exact Only.refl _ _
    | with_reducible assumption
    | decide
    | (with_reducible apply Only.chain (only_bump _ _))
    | (with_reducible apply Only.foldl; on_goal 2 => intro _ _ _)
    | split

theorem only_telemetry : ∀ s, Only [.regs, .conns, .combs] s (State.telemetry s) := by
  intro s
  unfold State.telemetry
  repeat' first
    | with_reducible exact Only.refl _ _
    | with_reducible assumption
    | decide
    | (with_reducible apply Only.chain (only_updComb _ _ _))
    | (with_reducible apply Only.chain (only_updConn _ _ _))
    | (with_reducible apply Only.chain (only_tickWhere _ _ _ _))
    | (with_reducible apply Only.foldl; on_goal 2 => intro _ _ _)
    | split

theorem only_timebaseTick : ∀ s, Only [.regs, .eng, .was, .hits, .pcie] s (State.timebaseTick s) := by
  intro s
  unfold State.timebaseTick
  repeat' first
    | with_reducible exact Only.refl _ _
    | decide
    | (with_reducible apply Only.chain (only_tickTimers _))
    | (with_reducible apply Only.chain (only_wr _ _ _))
    | (with_reducible apply Only.chain (only_placeDeadline _))
    | (with_reducible apply Only.chain (only_updEng _ _))
    | split

theorem only_timebase : ∀ s, Only [.regs, .eng, .was, .hits, .pcie, .slew] s (State.timebase s) := by
  intro s
  unfold State.timebase
  dsimp -zeta only [State.mk_slew]
  repeat' first
    | with_reducible exact Only.refl _ _
    | with_reducible assumption
    | decide
    | (with_reducible apply Only.chain (only_timebaseTick _))
    | (with_reducible apply Only.chain (Only.set_slew _ _))
    | (lift_lets; intro z; refine Only.cut z ?_ ?_; (on_goal 2 => (intro hz; clear_value z)); (on_goal 1 => unfold z))
    | split

theorem only_residencyTick : ∀ s, Only [.regs] s (State.residencyTick s) := by
  intro s
  unfold State.residencyTick
  repeat' first
    | with_reducible exact Only.refl _ _
    | with_reducible assumption
    | decide
    | (with_reducible apply Only.chain (only_bump _ _))
    | (with_reducible apply Only.foldl; on_goal 2 => intro _ _ _)
    | split

theorem only_withNow : ∀ s n, Only [.now] s (State.withNow s n) := by
  intro s n
  unfold State.withNow
  dsimp -zeta only [State.mk_now]
  repeat' first
    | with_reducible exact Only.refl _ _
    | decide
    | (with_reducible apply Only.chain (Only.set_now _ _))

theorem only_clockTick : ∀ s,
    Only [.regs, .eng, .nodes, .conns, .combs, .was, .hits, .pcie, .log, .now, .slew] s (State.clockTick s) := by
  intro s
  unfold State.clockTick
  repeat' first
    | with_reducible exact Only.refl _ _
    | decide
    | (with_reducible apply Only.chain (only_residencyTick _))
    | (with_reducible apply Only.chain (only_timebase _))
    | (with_reducible apply Only.chain (only_sendSack _))
    | (with_reducible apply Only.chain (only_telemetry _))
    | (with_reducible apply Only.chain (only_holdRound _))
    | (with_reducible apply Only.chain (only_withNow _ _))
    | (with_reducible apply only_clk)

end Sys2Proof.Machine
end

