-- ==== Sys2Proof/Laws/State.lean ====
section
/-! SUPPORT. The fields and banks of the state after each named update of one: what an update writes, and that it leaves
    the rest. -/

namespace Sys2Proof.Machine

/-! State.wr -/

@[simp] theorem State.core_wr (s : State) (k : Nat) (v : W64) (j : Nat) : (s.wr k v).core j = s.core j := rfl
@[simp] theorem State.tile_wr (s : State) (k : Nat) (v : W64) (j : Nat) : (s.wr k v).tile j = s.tile j := rfl
@[simp] theorem State.node_wr (s : State) (k : Nat) (v : W64) (j : Nat) : (s.wr k v).node j = s.node j := rfl
@[simp] theorem State.rtr_wr (s : State) (k : Nat) (v : W64) (j : Nat) : (s.wr k v).rtr j = s.rtr j := rfl
@[simp] theorem State.port_wr (s : State) (k : Nat) (v : W64) (j : Nat) : (s.wr k v).port j = s.port j := rfl
@[simp] theorem State.conn_wr (s : State) (k : Nat) (v : W64) (j : Nat) : (s.wr k v).conn j = s.conn j := rfl
@[simp] theorem State.comb_wr (s : State) (k : Nat) (v : W64) (j : Nat) : (s.wr k v).comb j = s.comb j := rfl
@[simp] theorem State.hring_wr (s : State) (k : Nat) (v : W64) (j : Nat) : (s.wr k v).hring j = s.hring j := rfl
@[simp] theorem State.chan_wr (s : State) (k : Nat) (v : W64) (j : Nat) : (s.wr k v).chan j = s.chan j := rfl
@[simp] theorem State.sport_wr (s : State) (k : Nat) (v : W64) (j : Nat) : (s.wr k v).sport j = s.sport j := rfl
@[simp] theorem State.sctx_wr (s : State) (k : Nat) (v : W64) (j : Nat) : (s.wr k v).sctx j = s.sctx j := rfl
@[simp] theorem State.mbox_wr (s : State) (k : Nat) (v : W64) (j : Nat) : (s.wr k v).mbox j = s.mbox j := rfl
@[simp] theorem State.peer_wr (s : State) (k : Nat) (v : W64) (j : Nat) : (s.wr k v).peer j = s.peer j := rfl
@[simp] theorem State.pathN_wr (s : State) (k : Nat) (v : W64) (j : Nat) : (s.wr k v).pathN j = s.pathN j := rfl
@[simp] theorem State.dom_wr (s : State) (k : Nat) (v : W64) (j : Nat) : (s.wr k v).dom j = s.dom j := rfl
@[simp] theorem State.fuses_wr (s : State) (k : Nat) (v : W64) : (s.wr k v).fuses = s.fuses := rfl
@[simp] theorem State.straps_wr (s : State) (k : Nat) (v : W64) : (s.wr k v).straps = s.straps := rfl
@[simp] theorem State.boot_wr (s : State) (k : Nat) (v : W64) : (s.wr k v).boot = s.boot := rfl
@[simp] theorem State.eng_wr (s : State) (k : Nat) (v : W64) : (s.wr k v).eng = s.eng := rfl
@[simp] theorem State.reconf_wr (s : State) (k : Nat) (v : W64) : (s.wr k v).reconf = s.reconf := rfl
@[simp] theorem State.lrn_wr (s : State) (k : Nat) (v : W64) : (s.wr k v).lrn = s.lrn := rfl
@[simp] theorem State.hostMem_wr (s : State) (k : Nat) (v : W64) : (s.wr k v).hostMem = s.hostMem := rfl
@[simp] theorem State.lpddr_wr (s : State) (k : Nat) (v : W64) : (s.wr k v).lpddr = s.lpddr := rfl
@[simp] theorem State.swap_wr (s : State) (k : Nat) (v : W64) : (s.wr k v).swap = s.swap := rfl
@[simp] theorem State.parks_wr (s : State) (k : Nat) (v : W64) : (s.wr k v).parks = s.parks := rfl
@[simp] theorem State.parkq_wr (s : State) (k : Nat) (v : W64) : (s.wr k v).parkq = s.parkq := rfl
@[simp] theorem State.sch_wr (s : State) (k : Nat) (v : W64) : (s.wr k v).sch = s.sch := rfl
@[simp] theorem State.was_wr (s : State) (k : Nat) (v : W64) : (s.wr k v).was = s.was := rfl
@[simp] theorem State.hits_wr (s : State) (k : Nat) (v : W64) : (s.wr k v).hits = s.hits := rfl
@[simp] theorem State.capOld_wr (s : State) (k : Nat) (v : W64) : (s.wr k v).capOld = s.capOld := rfl
@[simp] theorem State.capPre_wr (s : State) (k : Nat) (v : W64) : (s.wr k v).capPre = s.capPre := rfl
@[simp] theorem State.sdio_wr (s : State) (k : Nat) (v : W64) : (s.wr k v).sdio = s.sdio := rfl
@[simp] theorem State.pcie_wr (s : State) (k : Nat) (v : W64) : (s.wr k v).pcie = s.pcie := rfl
@[simp] theorem State.log_wr (s : State) (k : Nat) (v : W64) : (s.wr k v).log = s.log := rfl
@[simp] theorem State.mon_wr (s : State) (k : Nat) (v : W64) : (s.wr k v).mon = s.mon := rfl
@[simp] theorem State.drains_wr (s : State) (k : Nat) (v : W64) : (s.wr k v).drains = s.drains := rfl
@[simp] theorem State.routes_wr (s : State) (k : Nat) (v : W64) : (s.wr k v).routes = s.routes := rfl
@[simp] theorem State.flights_wr (s : State) (k : Nat) (v : W64) : (s.wr k v).flights = s.flights := rfl
@[simp] theorem State.live_wr (s : State) (k : Nat) (v : W64) : (s.wr k v).live = s.live := rfl
@[simp] theorem State.ids_wr (s : State) (k : Nat) (v : W64) : (s.wr k v).ids = s.ids := rfl
@[simp] theorem State.now_wr (s : State) (k : Nat) (v : W64) : (s.wr k v).now = s.now := rfl
@[simp] theorem State.slew_wr (s : State) (k : Nat) (v : W64) : (s.wr k v).slew = s.slew := rfl
@[simp] theorem State.scrub_wr (s : State) (k : Nat) (v : W64) : (s.wr k v).scrub = s.scrub := rfl
@[simp] theorem State.scrubbed_wr (s : State) (k : Nat) (v : W64) : (s.wr k v).scrubbed = s.scrubbed := rfl
@[simp] theorem State.free_wr (s : State) (k : Nat) (v : W64) : (s.wr k v).free = s.free := rfl
@[simp] theorem State.pending_wr (s : State) (k : Nat) (v : W64) : (s.wr k v).pending = s.pending := rfl
@[simp] theorem State.cc_wr (s : State) (k : Nat) (v : W64) : (s.wr k v).cc = s.cc := rfl
@[simp] theorem State.turnR_wr (s : State) (k : Nat) (v : W64) : (s.wr k v).turnR = s.turnR := rfl
@[simp] theorem State.turnW_wr (s : State) (k : Nat) (v : W64) : (s.wr k v).turnW = s.turnW := rfl
@[simp] theorem State.lossSnap_wr (s : State) (k : Nat) (v : W64) : (s.wr k v).lossSnap = s.lossSnap := rfl
@[simp] theorem State.rd_wr_same (s : State) (k : Nat) (v : W64) : (s.wr k v).rd k = v := Tab.get_set_same _ _ _ _
theorem State.rd_wr_ne (s : State) {k j : Nat} (v : W64) (h : j ≠ k) : (s.wr k v).rd j = s.rd j := Tab.get_set_ne _ _ _ _ h

/-! State.setCore -/

@[simp] theorem State.rd_setCore (s : State) (k : Nat) (v : Core) (j : Nat) : (s.setCore k v).rd j = s.rd j := rfl
@[simp] theorem State.tile_setCore (s : State) (k : Nat) (v : Core) (j : Nat) : (s.setCore k v).tile j = s.tile j := rfl
@[simp] theorem State.node_setCore (s : State) (k : Nat) (v : Core) (j : Nat) : (s.setCore k v).node j = s.node j := rfl
@[simp] theorem State.rtr_setCore (s : State) (k : Nat) (v : Core) (j : Nat) : (s.setCore k v).rtr j = s.rtr j := rfl
@[simp] theorem State.port_setCore (s : State) (k : Nat) (v : Core) (j : Nat) : (s.setCore k v).port j = s.port j := rfl
@[simp] theorem State.conn_setCore (s : State) (k : Nat) (v : Core) (j : Nat) : (s.setCore k v).conn j = s.conn j := rfl
@[simp] theorem State.comb_setCore (s : State) (k : Nat) (v : Core) (j : Nat) : (s.setCore k v).comb j = s.comb j := rfl
@[simp] theorem State.hring_setCore (s : State) (k : Nat) (v : Core) (j : Nat) : (s.setCore k v).hring j = s.hring j := rfl
@[simp] theorem State.chan_setCore (s : State) (k : Nat) (v : Core) (j : Nat) : (s.setCore k v).chan j = s.chan j := rfl
@[simp] theorem State.sport_setCore (s : State) (k : Nat) (v : Core) (j : Nat) : (s.setCore k v).sport j = s.sport j := rfl
@[simp] theorem State.sctx_setCore (s : State) (k : Nat) (v : Core) (j : Nat) : (s.setCore k v).sctx j = s.sctx j := rfl
@[simp] theorem State.mbox_setCore (s : State) (k : Nat) (v : Core) (j : Nat) : (s.setCore k v).mbox j = s.mbox j := rfl
@[simp] theorem State.peer_setCore (s : State) (k : Nat) (v : Core) (j : Nat) : (s.setCore k v).peer j = s.peer j := rfl
@[simp] theorem State.pathN_setCore (s : State) (k : Nat) (v : Core) (j : Nat) : (s.setCore k v).pathN j = s.pathN j := rfl
@[simp] theorem State.dom_setCore (s : State) (k : Nat) (v : Core) (j : Nat) : (s.setCore k v).dom j = s.dom j := rfl
@[simp] theorem State.fuses_setCore (s : State) (k : Nat) (v : Core) : (s.setCore k v).fuses = s.fuses := rfl
@[simp] theorem State.straps_setCore (s : State) (k : Nat) (v : Core) : (s.setCore k v).straps = s.straps := rfl
@[simp] theorem State.boot_setCore (s : State) (k : Nat) (v : Core) : (s.setCore k v).boot = s.boot := rfl
@[simp] theorem State.eng_setCore (s : State) (k : Nat) (v : Core) : (s.setCore k v).eng = s.eng := rfl
@[simp] theorem State.reconf_setCore (s : State) (k : Nat) (v : Core) : (s.setCore k v).reconf = s.reconf := rfl
@[simp] theorem State.lrn_setCore (s : State) (k : Nat) (v : Core) : (s.setCore k v).lrn = s.lrn := rfl
@[simp] theorem State.hostMem_setCore (s : State) (k : Nat) (v : Core) : (s.setCore k v).hostMem = s.hostMem := rfl
@[simp] theorem State.lpddr_setCore (s : State) (k : Nat) (v : Core) : (s.setCore k v).lpddr = s.lpddr := rfl
@[simp] theorem State.swap_setCore (s : State) (k : Nat) (v : Core) : (s.setCore k v).swap = s.swap := rfl
@[simp] theorem State.parks_setCore (s : State) (k : Nat) (v : Core) : (s.setCore k v).parks = s.parks := rfl
@[simp] theorem State.parkq_setCore (s : State) (k : Nat) (v : Core) : (s.setCore k v).parkq = s.parkq := rfl
@[simp] theorem State.sch_setCore (s : State) (k : Nat) (v : Core) : (s.setCore k v).sch = s.sch := rfl
@[simp] theorem State.was_setCore (s : State) (k : Nat) (v : Core) : (s.setCore k v).was = s.was := rfl
@[simp] theorem State.hits_setCore (s : State) (k : Nat) (v : Core) : (s.setCore k v).hits = s.hits := rfl
@[simp] theorem State.capOld_setCore (s : State) (k : Nat) (v : Core) : (s.setCore k v).capOld = s.capOld := rfl
@[simp] theorem State.capPre_setCore (s : State) (k : Nat) (v : Core) : (s.setCore k v).capPre = s.capPre := rfl
@[simp] theorem State.sdio_setCore (s : State) (k : Nat) (v : Core) : (s.setCore k v).sdio = s.sdio := rfl
@[simp] theorem State.pcie_setCore (s : State) (k : Nat) (v : Core) : (s.setCore k v).pcie = s.pcie := rfl
@[simp] theorem State.log_setCore (s : State) (k : Nat) (v : Core) : (s.setCore k v).log = s.log := rfl
@[simp] theorem State.mon_setCore (s : State) (k : Nat) (v : Core) : (s.setCore k v).mon = s.mon := rfl
@[simp] theorem State.drains_setCore (s : State) (k : Nat) (v : Core) : (s.setCore k v).drains = s.drains := rfl
@[simp] theorem State.routes_setCore (s : State) (k : Nat) (v : Core) : (s.setCore k v).routes = s.routes := rfl
@[simp] theorem State.flights_setCore (s : State) (k : Nat) (v : Core) : (s.setCore k v).flights = s.flights := rfl
@[simp] theorem State.live_setCore (s : State) (k : Nat) (v : Core) : (s.setCore k v).live = s.live := rfl
@[simp] theorem State.ids_setCore (s : State) (k : Nat) (v : Core) : (s.setCore k v).ids = s.ids := rfl
@[simp] theorem State.now_setCore (s : State) (k : Nat) (v : Core) : (s.setCore k v).now = s.now := rfl
@[simp] theorem State.slew_setCore (s : State) (k : Nat) (v : Core) : (s.setCore k v).slew = s.slew := rfl
@[simp] theorem State.scrub_setCore (s : State) (k : Nat) (v : Core) : (s.setCore k v).scrub = s.scrub := rfl
@[simp] theorem State.scrubbed_setCore (s : State) (k : Nat) (v : Core) : (s.setCore k v).scrubbed = s.scrubbed := rfl
@[simp] theorem State.free_setCore (s : State) (k : Nat) (v : Core) : (s.setCore k v).free = s.free := rfl
@[simp] theorem State.pending_setCore (s : State) (k : Nat) (v : Core) : (s.setCore k v).pending = s.pending := rfl
@[simp] theorem State.cc_setCore (s : State) (k : Nat) (v : Core) : (s.setCore k v).cc = s.cc := rfl
@[simp] theorem State.turnR_setCore (s : State) (k : Nat) (v : Core) : (s.setCore k v).turnR = s.turnR := rfl
@[simp] theorem State.turnW_setCore (s : State) (k : Nat) (v : Core) : (s.setCore k v).turnW = s.turnW := rfl
@[simp] theorem State.lossSnap_setCore (s : State) (k : Nat) (v : Core) : (s.setCore k v).lossSnap = s.lossSnap := rfl
@[simp] theorem State.core_setCore_same (s : State) (k : Nat) (c : Core) : (s.setCore k c).core k = c :=
  Tab.get_set_same _ _ _ _
theorem State.core_setCore_ne (s : State) {k j : Nat} (c : Core) (h : j ≠ k) : (s.setCore k c).core j = s.core j :=
  Tab.get_set_ne _ _ _ _ h
@[simp] theorem State.core_updCore_same (s : State) (k : Nat) (f : Core → Core) : (s.updCore k f).core k = f (s.core k) :=
  Tab.get_set_same _ _ _ _
theorem State.core_updCore_ne (s : State) {k j : Nat} (f : Core → Core) (h : j ≠ k) : (s.updCore k f).core j = s.core j :=
  Tab.get_set_ne _ _ _ _ h

/-! State.updTile -/

@[simp] theorem State.rd_updTile (s : State) (k : Nat) (f : Tile → Tile) (j : Nat) : (s.updTile k f).rd j = s.rd j := rfl
@[simp] theorem State.core_updTile (s : State) (k : Nat) (f : Tile → Tile) (j : Nat) : (s.updTile k f).core j = s.core j := rfl
@[simp] theorem State.node_updTile (s : State) (k : Nat) (f : Tile → Tile) (j : Nat) : (s.updTile k f).node j = s.node j := rfl
@[simp] theorem State.rtr_updTile (s : State) (k : Nat) (f : Tile → Tile) (j : Nat) : (s.updTile k f).rtr j = s.rtr j := rfl
@[simp] theorem State.port_updTile (s : State) (k : Nat) (f : Tile → Tile) (j : Nat) : (s.updTile k f).port j = s.port j := rfl
@[simp] theorem State.conn_updTile (s : State) (k : Nat) (f : Tile → Tile) (j : Nat) : (s.updTile k f).conn j = s.conn j := rfl
@[simp] theorem State.comb_updTile (s : State) (k : Nat) (f : Tile → Tile) (j : Nat) : (s.updTile k f).comb j = s.comb j := rfl
@[simp] theorem State.hring_updTile (s : State) (k : Nat) (f : Tile → Tile) (j : Nat) : (s.updTile k f).hring j = s.hring j := rfl
@[simp] theorem State.chan_updTile (s : State) (k : Nat) (f : Tile → Tile) (j : Nat) : (s.updTile k f).chan j = s.chan j := rfl
@[simp] theorem State.sport_updTile (s : State) (k : Nat) (f : Tile → Tile) (j : Nat) : (s.updTile k f).sport j = s.sport j := rfl
@[simp] theorem State.sctx_updTile (s : State) (k : Nat) (f : Tile → Tile) (j : Nat) : (s.updTile k f).sctx j = s.sctx j := rfl
@[simp] theorem State.mbox_updTile (s : State) (k : Nat) (f : Tile → Tile) (j : Nat) : (s.updTile k f).mbox j = s.mbox j := rfl
@[simp] theorem State.peer_updTile (s : State) (k : Nat) (f : Tile → Tile) (j : Nat) : (s.updTile k f).peer j = s.peer j := rfl
@[simp] theorem State.pathN_updTile (s : State) (k : Nat) (f : Tile → Tile) (j : Nat) : (s.updTile k f).pathN j = s.pathN j := rfl
@[simp] theorem State.dom_updTile (s : State) (k : Nat) (f : Tile → Tile) (j : Nat) : (s.updTile k f).dom j = s.dom j := rfl
@[simp] theorem State.fuses_updTile (s : State) (k : Nat) (f : Tile → Tile) : (s.updTile k f).fuses = s.fuses := rfl
@[simp] theorem State.straps_updTile (s : State) (k : Nat) (f : Tile → Tile) : (s.updTile k f).straps = s.straps := rfl
@[simp] theorem State.boot_updTile (s : State) (k : Nat) (f : Tile → Tile) : (s.updTile k f).boot = s.boot := rfl
@[simp] theorem State.eng_updTile (s : State) (k : Nat) (f : Tile → Tile) : (s.updTile k f).eng = s.eng := rfl
@[simp] theorem State.reconf_updTile (s : State) (k : Nat) (f : Tile → Tile) : (s.updTile k f).reconf = s.reconf := rfl
@[simp] theorem State.lrn_updTile (s : State) (k : Nat) (f : Tile → Tile) : (s.updTile k f).lrn = s.lrn := rfl
@[simp] theorem State.hostMem_updTile (s : State) (k : Nat) (f : Tile → Tile) : (s.updTile k f).hostMem = s.hostMem := rfl
@[simp] theorem State.lpddr_updTile (s : State) (k : Nat) (f : Tile → Tile) : (s.updTile k f).lpddr = s.lpddr := rfl
@[simp] theorem State.swap_updTile (s : State) (k : Nat) (f : Tile → Tile) : (s.updTile k f).swap = s.swap := rfl
@[simp] theorem State.parks_updTile (s : State) (k : Nat) (f : Tile → Tile) : (s.updTile k f).parks = s.parks := rfl
@[simp] theorem State.parkq_updTile (s : State) (k : Nat) (f : Tile → Tile) : (s.updTile k f).parkq = s.parkq := rfl
@[simp] theorem State.sch_updTile (s : State) (k : Nat) (f : Tile → Tile) : (s.updTile k f).sch = s.sch := rfl
@[simp] theorem State.was_updTile (s : State) (k : Nat) (f : Tile → Tile) : (s.updTile k f).was = s.was := rfl
@[simp] theorem State.hits_updTile (s : State) (k : Nat) (f : Tile → Tile) : (s.updTile k f).hits = s.hits := rfl
@[simp] theorem State.capOld_updTile (s : State) (k : Nat) (f : Tile → Tile) : (s.updTile k f).capOld = s.capOld := rfl
@[simp] theorem State.capPre_updTile (s : State) (k : Nat) (f : Tile → Tile) : (s.updTile k f).capPre = s.capPre := rfl
@[simp] theorem State.sdio_updTile (s : State) (k : Nat) (f : Tile → Tile) : (s.updTile k f).sdio = s.sdio := rfl
@[simp] theorem State.pcie_updTile (s : State) (k : Nat) (f : Tile → Tile) : (s.updTile k f).pcie = s.pcie := rfl
@[simp] theorem State.log_updTile (s : State) (k : Nat) (f : Tile → Tile) : (s.updTile k f).log = s.log := rfl
@[simp] theorem State.mon_updTile (s : State) (k : Nat) (f : Tile → Tile) : (s.updTile k f).mon = s.mon := rfl
@[simp] theorem State.drains_updTile (s : State) (k : Nat) (f : Tile → Tile) : (s.updTile k f).drains = s.drains := rfl
@[simp] theorem State.routes_updTile (s : State) (k : Nat) (f : Tile → Tile) : (s.updTile k f).routes = s.routes := rfl
@[simp] theorem State.flights_updTile (s : State) (k : Nat) (f : Tile → Tile) : (s.updTile k f).flights = s.flights := rfl
@[simp] theorem State.live_updTile (s : State) (k : Nat) (f : Tile → Tile) : (s.updTile k f).live = s.live := rfl
@[simp] theorem State.ids_updTile (s : State) (k : Nat) (f : Tile → Tile) : (s.updTile k f).ids = s.ids := rfl
@[simp] theorem State.now_updTile (s : State) (k : Nat) (f : Tile → Tile) : (s.updTile k f).now = s.now := rfl
@[simp] theorem State.slew_updTile (s : State) (k : Nat) (f : Tile → Tile) : (s.updTile k f).slew = s.slew := rfl
@[simp] theorem State.scrub_updTile (s : State) (k : Nat) (f : Tile → Tile) : (s.updTile k f).scrub = s.scrub := rfl
@[simp] theorem State.scrubbed_updTile (s : State) (k : Nat) (f : Tile → Tile) : (s.updTile k f).scrubbed = s.scrubbed := rfl
@[simp] theorem State.free_updTile (s : State) (k : Nat) (f : Tile → Tile) : (s.updTile k f).free = s.free := rfl
@[simp] theorem State.pending_updTile (s : State) (k : Nat) (f : Tile → Tile) : (s.updTile k f).pending = s.pending := rfl
@[simp] theorem State.cc_updTile (s : State) (k : Nat) (f : Tile → Tile) : (s.updTile k f).cc = s.cc := rfl
@[simp] theorem State.turnR_updTile (s : State) (k : Nat) (f : Tile → Tile) : (s.updTile k f).turnR = s.turnR := rfl
@[simp] theorem State.turnW_updTile (s : State) (k : Nat) (f : Tile → Tile) : (s.updTile k f).turnW = s.turnW := rfl
@[simp] theorem State.lossSnap_updTile (s : State) (k : Nat) (f : Tile → Tile) : (s.updTile k f).lossSnap = s.lossSnap := rfl
@[simp] theorem State.tile_updTile_same (s : State) (k : Nat) (f : Tile → Tile) : (s.updTile k f).tile k = f (s.tile k) :=
  Tab.get_upd_same _ _ _ _
theorem State.tile_updTile_ne (s : State) {k j : Nat} (f : Tile → Tile) (h : j ≠ k) : (s.updTile k f).tile j = s.tile j :=
  Tab.get_upd_ne _ _ _ h

/-! State.updNode -/

@[simp] theorem State.rd_updNode (s : State) (k : Nat) (f : Node → Node) (j : Nat) : (s.updNode k f).rd j = s.rd j := rfl
@[simp] theorem State.core_updNode (s : State) (k : Nat) (f : Node → Node) (j : Nat) : (s.updNode k f).core j = s.core j := rfl
@[simp] theorem State.tile_updNode (s : State) (k : Nat) (f : Node → Node) (j : Nat) : (s.updNode k f).tile j = s.tile j := rfl
@[simp] theorem State.rtr_updNode (s : State) (k : Nat) (f : Node → Node) (j : Nat) : (s.updNode k f).rtr j = s.rtr j := rfl
@[simp] theorem State.port_updNode (s : State) (k : Nat) (f : Node → Node) (j : Nat) : (s.updNode k f).port j = s.port j := rfl
@[simp] theorem State.conn_updNode (s : State) (k : Nat) (f : Node → Node) (j : Nat) : (s.updNode k f).conn j = s.conn j := rfl
@[simp] theorem State.comb_updNode (s : State) (k : Nat) (f : Node → Node) (j : Nat) : (s.updNode k f).comb j = s.comb j := rfl
@[simp] theorem State.hring_updNode (s : State) (k : Nat) (f : Node → Node) (j : Nat) : (s.updNode k f).hring j = s.hring j := rfl
@[simp] theorem State.chan_updNode (s : State) (k : Nat) (f : Node → Node) (j : Nat) : (s.updNode k f).chan j = s.chan j := rfl
@[simp] theorem State.sport_updNode (s : State) (k : Nat) (f : Node → Node) (j : Nat) : (s.updNode k f).sport j = s.sport j := rfl
@[simp] theorem State.sctx_updNode (s : State) (k : Nat) (f : Node → Node) (j : Nat) : (s.updNode k f).sctx j = s.sctx j := rfl
@[simp] theorem State.mbox_updNode (s : State) (k : Nat) (f : Node → Node) (j : Nat) : (s.updNode k f).mbox j = s.mbox j := rfl
@[simp] theorem State.peer_updNode (s : State) (k : Nat) (f : Node → Node) (j : Nat) : (s.updNode k f).peer j = s.peer j := rfl
@[simp] theorem State.pathN_updNode (s : State) (k : Nat) (f : Node → Node) (j : Nat) : (s.updNode k f).pathN j = s.pathN j := rfl
@[simp] theorem State.dom_updNode (s : State) (k : Nat) (f : Node → Node) (j : Nat) : (s.updNode k f).dom j = s.dom j := rfl
@[simp] theorem State.fuses_updNode (s : State) (k : Nat) (f : Node → Node) : (s.updNode k f).fuses = s.fuses := rfl
@[simp] theorem State.straps_updNode (s : State) (k : Nat) (f : Node → Node) : (s.updNode k f).straps = s.straps := rfl
@[simp] theorem State.boot_updNode (s : State) (k : Nat) (f : Node → Node) : (s.updNode k f).boot = s.boot := rfl
@[simp] theorem State.eng_updNode (s : State) (k : Nat) (f : Node → Node) : (s.updNode k f).eng = s.eng := rfl
@[simp] theorem State.reconf_updNode (s : State) (k : Nat) (f : Node → Node) : (s.updNode k f).reconf = s.reconf := rfl
@[simp] theorem State.lrn_updNode (s : State) (k : Nat) (f : Node → Node) : (s.updNode k f).lrn = s.lrn := rfl
@[simp] theorem State.hostMem_updNode (s : State) (k : Nat) (f : Node → Node) : (s.updNode k f).hostMem = s.hostMem := rfl
@[simp] theorem State.lpddr_updNode (s : State) (k : Nat) (f : Node → Node) : (s.updNode k f).lpddr = s.lpddr := rfl
@[simp] theorem State.swap_updNode (s : State) (k : Nat) (f : Node → Node) : (s.updNode k f).swap = s.swap := rfl
@[simp] theorem State.parks_updNode (s : State) (k : Nat) (f : Node → Node) : (s.updNode k f).parks = s.parks := rfl
@[simp] theorem State.parkq_updNode (s : State) (k : Nat) (f : Node → Node) : (s.updNode k f).parkq = s.parkq := rfl
@[simp] theorem State.sch_updNode (s : State) (k : Nat) (f : Node → Node) : (s.updNode k f).sch = s.sch := rfl
@[simp] theorem State.was_updNode (s : State) (k : Nat) (f : Node → Node) : (s.updNode k f).was = s.was := rfl
@[simp] theorem State.hits_updNode (s : State) (k : Nat) (f : Node → Node) : (s.updNode k f).hits = s.hits := rfl
@[simp] theorem State.capOld_updNode (s : State) (k : Nat) (f : Node → Node) : (s.updNode k f).capOld = s.capOld := rfl
@[simp] theorem State.capPre_updNode (s : State) (k : Nat) (f : Node → Node) : (s.updNode k f).capPre = s.capPre := rfl
@[simp] theorem State.sdio_updNode (s : State) (k : Nat) (f : Node → Node) : (s.updNode k f).sdio = s.sdio := rfl
@[simp] theorem State.pcie_updNode (s : State) (k : Nat) (f : Node → Node) : (s.updNode k f).pcie = s.pcie := rfl
@[simp] theorem State.log_updNode (s : State) (k : Nat) (f : Node → Node) : (s.updNode k f).log = s.log := rfl
@[simp] theorem State.mon_updNode (s : State) (k : Nat) (f : Node → Node) : (s.updNode k f).mon = s.mon := rfl
@[simp] theorem State.drains_updNode (s : State) (k : Nat) (f : Node → Node) : (s.updNode k f).drains = s.drains := rfl
@[simp] theorem State.routes_updNode (s : State) (k : Nat) (f : Node → Node) : (s.updNode k f).routes = s.routes := rfl
@[simp] theorem State.flights_updNode (s : State) (k : Nat) (f : Node → Node) : (s.updNode k f).flights = s.flights := rfl
@[simp] theorem State.live_updNode (s : State) (k : Nat) (f : Node → Node) : (s.updNode k f).live = s.live := rfl
@[simp] theorem State.ids_updNode (s : State) (k : Nat) (f : Node → Node) : (s.updNode k f).ids = s.ids := rfl
@[simp] theorem State.now_updNode (s : State) (k : Nat) (f : Node → Node) : (s.updNode k f).now = s.now := rfl
@[simp] theorem State.slew_updNode (s : State) (k : Nat) (f : Node → Node) : (s.updNode k f).slew = s.slew := rfl
@[simp] theorem State.scrub_updNode (s : State) (k : Nat) (f : Node → Node) : (s.updNode k f).scrub = s.scrub := rfl
@[simp] theorem State.scrubbed_updNode (s : State) (k : Nat) (f : Node → Node) : (s.updNode k f).scrubbed = s.scrubbed := rfl
@[simp] theorem State.free_updNode (s : State) (k : Nat) (f : Node → Node) : (s.updNode k f).free = s.free := rfl
@[simp] theorem State.pending_updNode (s : State) (k : Nat) (f : Node → Node) : (s.updNode k f).pending = s.pending := rfl
@[simp] theorem State.cc_updNode (s : State) (k : Nat) (f : Node → Node) : (s.updNode k f).cc = s.cc := rfl
@[simp] theorem State.turnR_updNode (s : State) (k : Nat) (f : Node → Node) : (s.updNode k f).turnR = s.turnR := rfl
@[simp] theorem State.turnW_updNode (s : State) (k : Nat) (f : Node → Node) : (s.updNode k f).turnW = s.turnW := rfl
@[simp] theorem State.lossSnap_updNode (s : State) (k : Nat) (f : Node → Node) : (s.updNode k f).lossSnap = s.lossSnap := rfl
@[simp] theorem State.node_updNode_same (s : State) (k : Nat) (f : Node → Node) : (s.updNode k f).node k = f (s.node k) :=
  Tab.get_upd_same _ _ _ _
theorem State.node_updNode_ne (s : State) {k j : Nat} (f : Node → Node) (h : j ≠ k) : (s.updNode k f).node j = s.node j :=
  Tab.get_upd_ne _ _ _ h

/-! State.updRtr -/

@[simp] theorem State.rd_updRtr (s : State) (k : Nat) (f : Router → Router) (j : Nat) : (s.updRtr k f).rd j = s.rd j := rfl
@[simp] theorem State.core_updRtr (s : State) (k : Nat) (f : Router → Router) (j : Nat) : (s.updRtr k f).core j = s.core j := rfl
@[simp] theorem State.tile_updRtr (s : State) (k : Nat) (f : Router → Router) (j : Nat) : (s.updRtr k f).tile j = s.tile j := rfl
@[simp] theorem State.node_updRtr (s : State) (k : Nat) (f : Router → Router) (j : Nat) : (s.updRtr k f).node j = s.node j := rfl
@[simp] theorem State.port_updRtr (s : State) (k : Nat) (f : Router → Router) (j : Nat) : (s.updRtr k f).port j = s.port j := rfl
@[simp] theorem State.conn_updRtr (s : State) (k : Nat) (f : Router → Router) (j : Nat) : (s.updRtr k f).conn j = s.conn j := rfl
@[simp] theorem State.comb_updRtr (s : State) (k : Nat) (f : Router → Router) (j : Nat) : (s.updRtr k f).comb j = s.comb j := rfl
@[simp] theorem State.hring_updRtr (s : State) (k : Nat) (f : Router → Router) (j : Nat) : (s.updRtr k f).hring j = s.hring j := rfl
@[simp] theorem State.chan_updRtr (s : State) (k : Nat) (f : Router → Router) (j : Nat) : (s.updRtr k f).chan j = s.chan j := rfl
@[simp] theorem State.sport_updRtr (s : State) (k : Nat) (f : Router → Router) (j : Nat) : (s.updRtr k f).sport j = s.sport j := rfl
@[simp] theorem State.sctx_updRtr (s : State) (k : Nat) (f : Router → Router) (j : Nat) : (s.updRtr k f).sctx j = s.sctx j := rfl
@[simp] theorem State.mbox_updRtr (s : State) (k : Nat) (f : Router → Router) (j : Nat) : (s.updRtr k f).mbox j = s.mbox j := rfl
@[simp] theorem State.peer_updRtr (s : State) (k : Nat) (f : Router → Router) (j : Nat) : (s.updRtr k f).peer j = s.peer j := rfl
@[simp] theorem State.pathN_updRtr (s : State) (k : Nat) (f : Router → Router) (j : Nat) : (s.updRtr k f).pathN j = s.pathN j := rfl
@[simp] theorem State.dom_updRtr (s : State) (k : Nat) (f : Router → Router) (j : Nat) : (s.updRtr k f).dom j = s.dom j := rfl
@[simp] theorem State.fuses_updRtr (s : State) (k : Nat) (f : Router → Router) : (s.updRtr k f).fuses = s.fuses := rfl
@[simp] theorem State.straps_updRtr (s : State) (k : Nat) (f : Router → Router) : (s.updRtr k f).straps = s.straps := rfl
@[simp] theorem State.boot_updRtr (s : State) (k : Nat) (f : Router → Router) : (s.updRtr k f).boot = s.boot := rfl
@[simp] theorem State.eng_updRtr (s : State) (k : Nat) (f : Router → Router) : (s.updRtr k f).eng = s.eng := rfl
@[simp] theorem State.reconf_updRtr (s : State) (k : Nat) (f : Router → Router) : (s.updRtr k f).reconf = s.reconf := rfl
@[simp] theorem State.lrn_updRtr (s : State) (k : Nat) (f : Router → Router) : (s.updRtr k f).lrn = s.lrn := rfl
@[simp] theorem State.hostMem_updRtr (s : State) (k : Nat) (f : Router → Router) : (s.updRtr k f).hostMem = s.hostMem := rfl
@[simp] theorem State.lpddr_updRtr (s : State) (k : Nat) (f : Router → Router) : (s.updRtr k f).lpddr = s.lpddr := rfl
@[simp] theorem State.swap_updRtr (s : State) (k : Nat) (f : Router → Router) : (s.updRtr k f).swap = s.swap := rfl
@[simp] theorem State.parks_updRtr (s : State) (k : Nat) (f : Router → Router) : (s.updRtr k f).parks = s.parks := rfl
@[simp] theorem State.parkq_updRtr (s : State) (k : Nat) (f : Router → Router) : (s.updRtr k f).parkq = s.parkq := rfl
@[simp] theorem State.sch_updRtr (s : State) (k : Nat) (f : Router → Router) : (s.updRtr k f).sch = s.sch := rfl
@[simp] theorem State.was_updRtr (s : State) (k : Nat) (f : Router → Router) : (s.updRtr k f).was = s.was := rfl
@[simp] theorem State.hits_updRtr (s : State) (k : Nat) (f : Router → Router) : (s.updRtr k f).hits = s.hits := rfl
@[simp] theorem State.capOld_updRtr (s : State) (k : Nat) (f : Router → Router) : (s.updRtr k f).capOld = s.capOld := rfl
@[simp] theorem State.capPre_updRtr (s : State) (k : Nat) (f : Router → Router) : (s.updRtr k f).capPre = s.capPre := rfl
@[simp] theorem State.sdio_updRtr (s : State) (k : Nat) (f : Router → Router) : (s.updRtr k f).sdio = s.sdio := rfl
@[simp] theorem State.pcie_updRtr (s : State) (k : Nat) (f : Router → Router) : (s.updRtr k f).pcie = s.pcie := rfl
@[simp] theorem State.log_updRtr (s : State) (k : Nat) (f : Router → Router) : (s.updRtr k f).log = s.log := rfl
@[simp] theorem State.mon_updRtr (s : State) (k : Nat) (f : Router → Router) : (s.updRtr k f).mon = s.mon := rfl
@[simp] theorem State.drains_updRtr (s : State) (k : Nat) (f : Router → Router) : (s.updRtr k f).drains = s.drains := rfl
@[simp] theorem State.routes_updRtr (s : State) (k : Nat) (f : Router → Router) : (s.updRtr k f).routes = s.routes := rfl
@[simp] theorem State.flights_updRtr (s : State) (k : Nat) (f : Router → Router) : (s.updRtr k f).flights = s.flights := rfl
@[simp] theorem State.live_updRtr (s : State) (k : Nat) (f : Router → Router) : (s.updRtr k f).live = s.live := rfl
@[simp] theorem State.ids_updRtr (s : State) (k : Nat) (f : Router → Router) : (s.updRtr k f).ids = s.ids := rfl
@[simp] theorem State.now_updRtr (s : State) (k : Nat) (f : Router → Router) : (s.updRtr k f).now = s.now := rfl
@[simp] theorem State.slew_updRtr (s : State) (k : Nat) (f : Router → Router) : (s.updRtr k f).slew = s.slew := rfl
@[simp] theorem State.scrub_updRtr (s : State) (k : Nat) (f : Router → Router) : (s.updRtr k f).scrub = s.scrub := rfl
@[simp] theorem State.scrubbed_updRtr (s : State) (k : Nat) (f : Router → Router) : (s.updRtr k f).scrubbed = s.scrubbed := rfl
@[simp] theorem State.free_updRtr (s : State) (k : Nat) (f : Router → Router) : (s.updRtr k f).free = s.free := rfl
@[simp] theorem State.pending_updRtr (s : State) (k : Nat) (f : Router → Router) : (s.updRtr k f).pending = s.pending := rfl
@[simp] theorem State.cc_updRtr (s : State) (k : Nat) (f : Router → Router) : (s.updRtr k f).cc = s.cc := rfl
@[simp] theorem State.turnR_updRtr (s : State) (k : Nat) (f : Router → Router) : (s.updRtr k f).turnR = s.turnR := rfl
@[simp] theorem State.turnW_updRtr (s : State) (k : Nat) (f : Router → Router) : (s.updRtr k f).turnW = s.turnW := rfl
@[simp] theorem State.lossSnap_updRtr (s : State) (k : Nat) (f : Router → Router) : (s.updRtr k f).lossSnap = s.lossSnap := rfl
@[simp] theorem State.rtr_updRtr_same (s : State) (k : Nat) (f : Router → Router) : (s.updRtr k f).rtr k = f (s.rtr k) :=
  Tab.get_upd_same _ _ _ _
theorem State.rtr_updRtr_ne (s : State) {k j : Nat} (f : Router → Router) (h : j ≠ k) : (s.updRtr k f).rtr j = s.rtr j :=
  Tab.get_upd_ne _ _ _ h

/-! State.updPort -/

@[simp] theorem State.rd_updPort (s : State) (k : Nat) (f : Port → Port) (j : Nat) : (s.updPort k f).rd j = s.rd j := rfl
@[simp] theorem State.core_updPort (s : State) (k : Nat) (f : Port → Port) (j : Nat) : (s.updPort k f).core j = s.core j := rfl
@[simp] theorem State.tile_updPort (s : State) (k : Nat) (f : Port → Port) (j : Nat) : (s.updPort k f).tile j = s.tile j := rfl
@[simp] theorem State.node_updPort (s : State) (k : Nat) (f : Port → Port) (j : Nat) : (s.updPort k f).node j = s.node j := rfl
@[simp] theorem State.rtr_updPort (s : State) (k : Nat) (f : Port → Port) (j : Nat) : (s.updPort k f).rtr j = s.rtr j := rfl
@[simp] theorem State.conn_updPort (s : State) (k : Nat) (f : Port → Port) (j : Nat) : (s.updPort k f).conn j = s.conn j := rfl
@[simp] theorem State.comb_updPort (s : State) (k : Nat) (f : Port → Port) (j : Nat) : (s.updPort k f).comb j = s.comb j := rfl
@[simp] theorem State.hring_updPort (s : State) (k : Nat) (f : Port → Port) (j : Nat) : (s.updPort k f).hring j = s.hring j := rfl
@[simp] theorem State.chan_updPort (s : State) (k : Nat) (f : Port → Port) (j : Nat) : (s.updPort k f).chan j = s.chan j := rfl
@[simp] theorem State.sport_updPort (s : State) (k : Nat) (f : Port → Port) (j : Nat) : (s.updPort k f).sport j = s.sport j := rfl
@[simp] theorem State.sctx_updPort (s : State) (k : Nat) (f : Port → Port) (j : Nat) : (s.updPort k f).sctx j = s.sctx j := rfl
@[simp] theorem State.mbox_updPort (s : State) (k : Nat) (f : Port → Port) (j : Nat) : (s.updPort k f).mbox j = s.mbox j := rfl
@[simp] theorem State.peer_updPort (s : State) (k : Nat) (f : Port → Port) (j : Nat) : (s.updPort k f).peer j = s.peer j := rfl
@[simp] theorem State.pathN_updPort (s : State) (k : Nat) (f : Port → Port) (j : Nat) : (s.updPort k f).pathN j = s.pathN j := rfl
@[simp] theorem State.dom_updPort (s : State) (k : Nat) (f : Port → Port) (j : Nat) : (s.updPort k f).dom j = s.dom j := rfl
@[simp] theorem State.fuses_updPort (s : State) (k : Nat) (f : Port → Port) : (s.updPort k f).fuses = s.fuses := rfl
@[simp] theorem State.straps_updPort (s : State) (k : Nat) (f : Port → Port) : (s.updPort k f).straps = s.straps := rfl
@[simp] theorem State.boot_updPort (s : State) (k : Nat) (f : Port → Port) : (s.updPort k f).boot = s.boot := rfl
@[simp] theorem State.eng_updPort (s : State) (k : Nat) (f : Port → Port) : (s.updPort k f).eng = s.eng := rfl
@[simp] theorem State.reconf_updPort (s : State) (k : Nat) (f : Port → Port) : (s.updPort k f).reconf = s.reconf := rfl
@[simp] theorem State.lrn_updPort (s : State) (k : Nat) (f : Port → Port) : (s.updPort k f).lrn = s.lrn := rfl
@[simp] theorem State.hostMem_updPort (s : State) (k : Nat) (f : Port → Port) : (s.updPort k f).hostMem = s.hostMem := rfl
@[simp] theorem State.lpddr_updPort (s : State) (k : Nat) (f : Port → Port) : (s.updPort k f).lpddr = s.lpddr := rfl
@[simp] theorem State.swap_updPort (s : State) (k : Nat) (f : Port → Port) : (s.updPort k f).swap = s.swap := rfl
@[simp] theorem State.parks_updPort (s : State) (k : Nat) (f : Port → Port) : (s.updPort k f).parks = s.parks := rfl
@[simp] theorem State.parkq_updPort (s : State) (k : Nat) (f : Port → Port) : (s.updPort k f).parkq = s.parkq := rfl
@[simp] theorem State.sch_updPort (s : State) (k : Nat) (f : Port → Port) : (s.updPort k f).sch = s.sch := rfl
@[simp] theorem State.was_updPort (s : State) (k : Nat) (f : Port → Port) : (s.updPort k f).was = s.was := rfl
@[simp] theorem State.hits_updPort (s : State) (k : Nat) (f : Port → Port) : (s.updPort k f).hits = s.hits := rfl
@[simp] theorem State.capOld_updPort (s : State) (k : Nat) (f : Port → Port) : (s.updPort k f).capOld = s.capOld := rfl
@[simp] theorem State.capPre_updPort (s : State) (k : Nat) (f : Port → Port) : (s.updPort k f).capPre = s.capPre := rfl
@[simp] theorem State.sdio_updPort (s : State) (k : Nat) (f : Port → Port) : (s.updPort k f).sdio = s.sdio := rfl
@[simp] theorem State.pcie_updPort (s : State) (k : Nat) (f : Port → Port) : (s.updPort k f).pcie = s.pcie := rfl
@[simp] theorem State.log_updPort (s : State) (k : Nat) (f : Port → Port) : (s.updPort k f).log = s.log := rfl
@[simp] theorem State.mon_updPort (s : State) (k : Nat) (f : Port → Port) : (s.updPort k f).mon = s.mon := rfl
@[simp] theorem State.drains_updPort (s : State) (k : Nat) (f : Port → Port) : (s.updPort k f).drains = s.drains := rfl
@[simp] theorem State.routes_updPort (s : State) (k : Nat) (f : Port → Port) : (s.updPort k f).routes = s.routes := rfl
@[simp] theorem State.flights_updPort (s : State) (k : Nat) (f : Port → Port) : (s.updPort k f).flights = s.flights := rfl
@[simp] theorem State.live_updPort (s : State) (k : Nat) (f : Port → Port) : (s.updPort k f).live = s.live := rfl
@[simp] theorem State.ids_updPort (s : State) (k : Nat) (f : Port → Port) : (s.updPort k f).ids = s.ids := rfl
@[simp] theorem State.now_updPort (s : State) (k : Nat) (f : Port → Port) : (s.updPort k f).now = s.now := rfl
@[simp] theorem State.slew_updPort (s : State) (k : Nat) (f : Port → Port) : (s.updPort k f).slew = s.slew := rfl
@[simp] theorem State.scrub_updPort (s : State) (k : Nat) (f : Port → Port) : (s.updPort k f).scrub = s.scrub := rfl
@[simp] theorem State.scrubbed_updPort (s : State) (k : Nat) (f : Port → Port) : (s.updPort k f).scrubbed = s.scrubbed := rfl
@[simp] theorem State.free_updPort (s : State) (k : Nat) (f : Port → Port) : (s.updPort k f).free = s.free := rfl
@[simp] theorem State.pending_updPort (s : State) (k : Nat) (f : Port → Port) : (s.updPort k f).pending = s.pending := rfl
@[simp] theorem State.cc_updPort (s : State) (k : Nat) (f : Port → Port) : (s.updPort k f).cc = s.cc := rfl
@[simp] theorem State.turnR_updPort (s : State) (k : Nat) (f : Port → Port) : (s.updPort k f).turnR = s.turnR := rfl
@[simp] theorem State.turnW_updPort (s : State) (k : Nat) (f : Port → Port) : (s.updPort k f).turnW = s.turnW := rfl
@[simp] theorem State.lossSnap_updPort (s : State) (k : Nat) (f : Port → Port) : (s.updPort k f).lossSnap = s.lossSnap := rfl
@[simp] theorem State.port_updPort_same (s : State) (k : Nat) (f : Port → Port) : (s.updPort k f).port k = f (s.port k) :=
  Tab.get_upd_same _ _ _ _
theorem State.port_updPort_ne (s : State) {k j : Nat} (f : Port → Port) (h : j ≠ k) : (s.updPort k f).port j = s.port j :=
  Tab.get_upd_ne _ _ _ h

/-! State.updConn -/

@[simp] theorem State.rd_updConn (s : State) (k : Nat) (f : Conn → Conn) (j : Nat) : (s.updConn k f).rd j = s.rd j := rfl
@[simp] theorem State.core_updConn (s : State) (k : Nat) (f : Conn → Conn) (j : Nat) : (s.updConn k f).core j = s.core j := rfl
@[simp] theorem State.tile_updConn (s : State) (k : Nat) (f : Conn → Conn) (j : Nat) : (s.updConn k f).tile j = s.tile j := rfl
@[simp] theorem State.node_updConn (s : State) (k : Nat) (f : Conn → Conn) (j : Nat) : (s.updConn k f).node j = s.node j := rfl
@[simp] theorem State.rtr_updConn (s : State) (k : Nat) (f : Conn → Conn) (j : Nat) : (s.updConn k f).rtr j = s.rtr j := rfl
@[simp] theorem State.port_updConn (s : State) (k : Nat) (f : Conn → Conn) (j : Nat) : (s.updConn k f).port j = s.port j := rfl
@[simp] theorem State.comb_updConn (s : State) (k : Nat) (f : Conn → Conn) (j : Nat) : (s.updConn k f).comb j = s.comb j := rfl
@[simp] theorem State.hring_updConn (s : State) (k : Nat) (f : Conn → Conn) (j : Nat) : (s.updConn k f).hring j = s.hring j := rfl
@[simp] theorem State.chan_updConn (s : State) (k : Nat) (f : Conn → Conn) (j : Nat) : (s.updConn k f).chan j = s.chan j := rfl
@[simp] theorem State.sport_updConn (s : State) (k : Nat) (f : Conn → Conn) (j : Nat) : (s.updConn k f).sport j = s.sport j := rfl
@[simp] theorem State.sctx_updConn (s : State) (k : Nat) (f : Conn → Conn) (j : Nat) : (s.updConn k f).sctx j = s.sctx j := rfl
@[simp] theorem State.mbox_updConn (s : State) (k : Nat) (f : Conn → Conn) (j : Nat) : (s.updConn k f).mbox j = s.mbox j := rfl
@[simp] theorem State.peer_updConn (s : State) (k : Nat) (f : Conn → Conn) (j : Nat) : (s.updConn k f).peer j = s.peer j := rfl
@[simp] theorem State.pathN_updConn (s : State) (k : Nat) (f : Conn → Conn) (j : Nat) : (s.updConn k f).pathN j = s.pathN j := rfl
@[simp] theorem State.dom_updConn (s : State) (k : Nat) (f : Conn → Conn) (j : Nat) : (s.updConn k f).dom j = s.dom j := rfl
@[simp] theorem State.fuses_updConn (s : State) (k : Nat) (f : Conn → Conn) : (s.updConn k f).fuses = s.fuses := rfl
@[simp] theorem State.straps_updConn (s : State) (k : Nat) (f : Conn → Conn) : (s.updConn k f).straps = s.straps := rfl
@[simp] theorem State.boot_updConn (s : State) (k : Nat) (f : Conn → Conn) : (s.updConn k f).boot = s.boot := rfl
@[simp] theorem State.eng_updConn (s : State) (k : Nat) (f : Conn → Conn) : (s.updConn k f).eng = s.eng := rfl
@[simp] theorem State.reconf_updConn (s : State) (k : Nat) (f : Conn → Conn) : (s.updConn k f).reconf = s.reconf := rfl
@[simp] theorem State.lrn_updConn (s : State) (k : Nat) (f : Conn → Conn) : (s.updConn k f).lrn = s.lrn := rfl
@[simp] theorem State.hostMem_updConn (s : State) (k : Nat) (f : Conn → Conn) : (s.updConn k f).hostMem = s.hostMem := rfl
@[simp] theorem State.lpddr_updConn (s : State) (k : Nat) (f : Conn → Conn) : (s.updConn k f).lpddr = s.lpddr := rfl
@[simp] theorem State.swap_updConn (s : State) (k : Nat) (f : Conn → Conn) : (s.updConn k f).swap = s.swap := rfl
@[simp] theorem State.parks_updConn (s : State) (k : Nat) (f : Conn → Conn) : (s.updConn k f).parks = s.parks := rfl
@[simp] theorem State.parkq_updConn (s : State) (k : Nat) (f : Conn → Conn) : (s.updConn k f).parkq = s.parkq := rfl
@[simp] theorem State.sch_updConn (s : State) (k : Nat) (f : Conn → Conn) : (s.updConn k f).sch = s.sch := rfl
@[simp] theorem State.was_updConn (s : State) (k : Nat) (f : Conn → Conn) : (s.updConn k f).was = s.was := rfl
@[simp] theorem State.hits_updConn (s : State) (k : Nat) (f : Conn → Conn) : (s.updConn k f).hits = s.hits := rfl
@[simp] theorem State.capOld_updConn (s : State) (k : Nat) (f : Conn → Conn) : (s.updConn k f).capOld = s.capOld := rfl
@[simp] theorem State.capPre_updConn (s : State) (k : Nat) (f : Conn → Conn) : (s.updConn k f).capPre = s.capPre := rfl
@[simp] theorem State.sdio_updConn (s : State) (k : Nat) (f : Conn → Conn) : (s.updConn k f).sdio = s.sdio := rfl
@[simp] theorem State.pcie_updConn (s : State) (k : Nat) (f : Conn → Conn) : (s.updConn k f).pcie = s.pcie := rfl
@[simp] theorem State.log_updConn (s : State) (k : Nat) (f : Conn → Conn) : (s.updConn k f).log = s.log := rfl
@[simp] theorem State.mon_updConn (s : State) (k : Nat) (f : Conn → Conn) : (s.updConn k f).mon = s.mon := rfl
@[simp] theorem State.drains_updConn (s : State) (k : Nat) (f : Conn → Conn) : (s.updConn k f).drains = s.drains := rfl
@[simp] theorem State.routes_updConn (s : State) (k : Nat) (f : Conn → Conn) : (s.updConn k f).routes = s.routes := rfl
@[simp] theorem State.flights_updConn (s : State) (k : Nat) (f : Conn → Conn) : (s.updConn k f).flights = s.flights := rfl
@[simp] theorem State.live_updConn (s : State) (k : Nat) (f : Conn → Conn) : (s.updConn k f).live = s.live := rfl
@[simp] theorem State.ids_updConn (s : State) (k : Nat) (f : Conn → Conn) : (s.updConn k f).ids = s.ids := rfl
@[simp] theorem State.now_updConn (s : State) (k : Nat) (f : Conn → Conn) : (s.updConn k f).now = s.now := rfl
@[simp] theorem State.slew_updConn (s : State) (k : Nat) (f : Conn → Conn) : (s.updConn k f).slew = s.slew := rfl
@[simp] theorem State.scrub_updConn (s : State) (k : Nat) (f : Conn → Conn) : (s.updConn k f).scrub = s.scrub := rfl
@[simp] theorem State.scrubbed_updConn (s : State) (k : Nat) (f : Conn → Conn) : (s.updConn k f).scrubbed = s.scrubbed := rfl
@[simp] theorem State.free_updConn (s : State) (k : Nat) (f : Conn → Conn) : (s.updConn k f).free = s.free := rfl
@[simp] theorem State.pending_updConn (s : State) (k : Nat) (f : Conn → Conn) : (s.updConn k f).pending = s.pending := rfl
@[simp] theorem State.cc_updConn (s : State) (k : Nat) (f : Conn → Conn) : (s.updConn k f).cc = s.cc := rfl
@[simp] theorem State.turnR_updConn (s : State) (k : Nat) (f : Conn → Conn) : (s.updConn k f).turnR = s.turnR := rfl
@[simp] theorem State.turnW_updConn (s : State) (k : Nat) (f : Conn → Conn) : (s.updConn k f).turnW = s.turnW := rfl
@[simp] theorem State.lossSnap_updConn (s : State) (k : Nat) (f : Conn → Conn) : (s.updConn k f).lossSnap = s.lossSnap := rfl
@[simp] theorem State.conn_updConn_same (s : State) (k : Nat) (f : Conn → Conn) : (s.updConn k f).conn k = f (s.conn k) :=
  Tab.get_upd_same _ _ _ _
theorem State.conn_updConn_ne (s : State) {k j : Nat} (f : Conn → Conn) (h : j ≠ k) : (s.updConn k f).conn j = s.conn j :=
  Tab.get_upd_ne _ _ _ h

/-! State.updComb -/

@[simp] theorem State.rd_updComb (s : State) (k : Nat) (f : Comb → Comb) (j : Nat) : (s.updComb k f).rd j = s.rd j := rfl
@[simp] theorem State.core_updComb (s : State) (k : Nat) (f : Comb → Comb) (j : Nat) : (s.updComb k f).core j = s.core j := rfl
@[simp] theorem State.tile_updComb (s : State) (k : Nat) (f : Comb → Comb) (j : Nat) : (s.updComb k f).tile j = s.tile j := rfl
@[simp] theorem State.node_updComb (s : State) (k : Nat) (f : Comb → Comb) (j : Nat) : (s.updComb k f).node j = s.node j := rfl
@[simp] theorem State.rtr_updComb (s : State) (k : Nat) (f : Comb → Comb) (j : Nat) : (s.updComb k f).rtr j = s.rtr j := rfl
@[simp] theorem State.port_updComb (s : State) (k : Nat) (f : Comb → Comb) (j : Nat) : (s.updComb k f).port j = s.port j := rfl
@[simp] theorem State.conn_updComb (s : State) (k : Nat) (f : Comb → Comb) (j : Nat) : (s.updComb k f).conn j = s.conn j := rfl
@[simp] theorem State.hring_updComb (s : State) (k : Nat) (f : Comb → Comb) (j : Nat) : (s.updComb k f).hring j = s.hring j := rfl
@[simp] theorem State.chan_updComb (s : State) (k : Nat) (f : Comb → Comb) (j : Nat) : (s.updComb k f).chan j = s.chan j := rfl
@[simp] theorem State.sport_updComb (s : State) (k : Nat) (f : Comb → Comb) (j : Nat) : (s.updComb k f).sport j = s.sport j := rfl
@[simp] theorem State.sctx_updComb (s : State) (k : Nat) (f : Comb → Comb) (j : Nat) : (s.updComb k f).sctx j = s.sctx j := rfl
@[simp] theorem State.mbox_updComb (s : State) (k : Nat) (f : Comb → Comb) (j : Nat) : (s.updComb k f).mbox j = s.mbox j := rfl
@[simp] theorem State.peer_updComb (s : State) (k : Nat) (f : Comb → Comb) (j : Nat) : (s.updComb k f).peer j = s.peer j := rfl
@[simp] theorem State.pathN_updComb (s : State) (k : Nat) (f : Comb → Comb) (j : Nat) : (s.updComb k f).pathN j = s.pathN j := rfl
@[simp] theorem State.dom_updComb (s : State) (k : Nat) (f : Comb → Comb) (j : Nat) : (s.updComb k f).dom j = s.dom j := rfl
@[simp] theorem State.fuses_updComb (s : State) (k : Nat) (f : Comb → Comb) : (s.updComb k f).fuses = s.fuses := rfl
@[simp] theorem State.straps_updComb (s : State) (k : Nat) (f : Comb → Comb) : (s.updComb k f).straps = s.straps := rfl
@[simp] theorem State.boot_updComb (s : State) (k : Nat) (f : Comb → Comb) : (s.updComb k f).boot = s.boot := rfl
@[simp] theorem State.eng_updComb (s : State) (k : Nat) (f : Comb → Comb) : (s.updComb k f).eng = s.eng := rfl
@[simp] theorem State.reconf_updComb (s : State) (k : Nat) (f : Comb → Comb) : (s.updComb k f).reconf = s.reconf := rfl
@[simp] theorem State.lrn_updComb (s : State) (k : Nat) (f : Comb → Comb) : (s.updComb k f).lrn = s.lrn := rfl
@[simp] theorem State.hostMem_updComb (s : State) (k : Nat) (f : Comb → Comb) : (s.updComb k f).hostMem = s.hostMem := rfl
@[simp] theorem State.lpddr_updComb (s : State) (k : Nat) (f : Comb → Comb) : (s.updComb k f).lpddr = s.lpddr := rfl
@[simp] theorem State.swap_updComb (s : State) (k : Nat) (f : Comb → Comb) : (s.updComb k f).swap = s.swap := rfl
@[simp] theorem State.parks_updComb (s : State) (k : Nat) (f : Comb → Comb) : (s.updComb k f).parks = s.parks := rfl
@[simp] theorem State.parkq_updComb (s : State) (k : Nat) (f : Comb → Comb) : (s.updComb k f).parkq = s.parkq := rfl
@[simp] theorem State.sch_updComb (s : State) (k : Nat) (f : Comb → Comb) : (s.updComb k f).sch = s.sch := rfl
@[simp] theorem State.was_updComb (s : State) (k : Nat) (f : Comb → Comb) : (s.updComb k f).was = s.was := rfl
@[simp] theorem State.hits_updComb (s : State) (k : Nat) (f : Comb → Comb) : (s.updComb k f).hits = s.hits := rfl
@[simp] theorem State.capOld_updComb (s : State) (k : Nat) (f : Comb → Comb) : (s.updComb k f).capOld = s.capOld := rfl
@[simp] theorem State.capPre_updComb (s : State) (k : Nat) (f : Comb → Comb) : (s.updComb k f).capPre = s.capPre := rfl
@[simp] theorem State.sdio_updComb (s : State) (k : Nat) (f : Comb → Comb) : (s.updComb k f).sdio = s.sdio := rfl
@[simp] theorem State.pcie_updComb (s : State) (k : Nat) (f : Comb → Comb) : (s.updComb k f).pcie = s.pcie := rfl
@[simp] theorem State.log_updComb (s : State) (k : Nat) (f : Comb → Comb) : (s.updComb k f).log = s.log := rfl
@[simp] theorem State.mon_updComb (s : State) (k : Nat) (f : Comb → Comb) : (s.updComb k f).mon = s.mon := rfl
@[simp] theorem State.drains_updComb (s : State) (k : Nat) (f : Comb → Comb) : (s.updComb k f).drains = s.drains := rfl
@[simp] theorem State.routes_updComb (s : State) (k : Nat) (f : Comb → Comb) : (s.updComb k f).routes = s.routes := rfl
@[simp] theorem State.flights_updComb (s : State) (k : Nat) (f : Comb → Comb) : (s.updComb k f).flights = s.flights := rfl
@[simp] theorem State.live_updComb (s : State) (k : Nat) (f : Comb → Comb) : (s.updComb k f).live = s.live := rfl
@[simp] theorem State.ids_updComb (s : State) (k : Nat) (f : Comb → Comb) : (s.updComb k f).ids = s.ids := rfl
@[simp] theorem State.now_updComb (s : State) (k : Nat) (f : Comb → Comb) : (s.updComb k f).now = s.now := rfl
@[simp] theorem State.slew_updComb (s : State) (k : Nat) (f : Comb → Comb) : (s.updComb k f).slew = s.slew := rfl
@[simp] theorem State.scrub_updComb (s : State) (k : Nat) (f : Comb → Comb) : (s.updComb k f).scrub = s.scrub := rfl
@[simp] theorem State.scrubbed_updComb (s : State) (k : Nat) (f : Comb → Comb) : (s.updComb k f).scrubbed = s.scrubbed := rfl
@[simp] theorem State.free_updComb (s : State) (k : Nat) (f : Comb → Comb) : (s.updComb k f).free = s.free := rfl
@[simp] theorem State.pending_updComb (s : State) (k : Nat) (f : Comb → Comb) : (s.updComb k f).pending = s.pending := rfl
@[simp] theorem State.cc_updComb (s : State) (k : Nat) (f : Comb → Comb) : (s.updComb k f).cc = s.cc := rfl
@[simp] theorem State.turnR_updComb (s : State) (k : Nat) (f : Comb → Comb) : (s.updComb k f).turnR = s.turnR := rfl
@[simp] theorem State.turnW_updComb (s : State) (k : Nat) (f : Comb → Comb) : (s.updComb k f).turnW = s.turnW := rfl
@[simp] theorem State.lossSnap_updComb (s : State) (k : Nat) (f : Comb → Comb) : (s.updComb k f).lossSnap = s.lossSnap := rfl
@[simp] theorem State.comb_updComb_same (s : State) (k : Nat) (f : Comb → Comb) : (s.updComb k f).comb k = f (s.comb k) :=
  Tab.get_upd_same _ _ _ _
theorem State.comb_updComb_ne (s : State) {k j : Nat} (f : Comb → Comb) (h : j ≠ k) : (s.updComb k f).comb j = s.comb j :=
  Tab.get_upd_ne _ _ _ h

/-! State.updHring -/

@[simp] theorem State.rd_updHring (s : State) (k : Nat) (f : HRing → HRing) (j : Nat) : (s.updHring k f).rd j = s.rd j := rfl
@[simp] theorem State.core_updHring (s : State) (k : Nat) (f : HRing → HRing) (j : Nat) : (s.updHring k f).core j = s.core j := rfl
@[simp] theorem State.tile_updHring (s : State) (k : Nat) (f : HRing → HRing) (j : Nat) : (s.updHring k f).tile j = s.tile j := rfl
@[simp] theorem State.node_updHring (s : State) (k : Nat) (f : HRing → HRing) (j : Nat) : (s.updHring k f).node j = s.node j := rfl
@[simp] theorem State.rtr_updHring (s : State) (k : Nat) (f : HRing → HRing) (j : Nat) : (s.updHring k f).rtr j = s.rtr j := rfl
@[simp] theorem State.port_updHring (s : State) (k : Nat) (f : HRing → HRing) (j : Nat) : (s.updHring k f).port j = s.port j := rfl
@[simp] theorem State.conn_updHring (s : State) (k : Nat) (f : HRing → HRing) (j : Nat) : (s.updHring k f).conn j = s.conn j := rfl
@[simp] theorem State.comb_updHring (s : State) (k : Nat) (f : HRing → HRing) (j : Nat) : (s.updHring k f).comb j = s.comb j := rfl
@[simp] theorem State.chan_updHring (s : State) (k : Nat) (f : HRing → HRing) (j : Nat) : (s.updHring k f).chan j = s.chan j := rfl
@[simp] theorem State.sport_updHring (s : State) (k : Nat) (f : HRing → HRing) (j : Nat) : (s.updHring k f).sport j = s.sport j := rfl
@[simp] theorem State.sctx_updHring (s : State) (k : Nat) (f : HRing → HRing) (j : Nat) : (s.updHring k f).sctx j = s.sctx j := rfl
@[simp] theorem State.mbox_updHring (s : State) (k : Nat) (f : HRing → HRing) (j : Nat) : (s.updHring k f).mbox j = s.mbox j := rfl
@[simp] theorem State.peer_updHring (s : State) (k : Nat) (f : HRing → HRing) (j : Nat) : (s.updHring k f).peer j = s.peer j := rfl
@[simp] theorem State.pathN_updHring (s : State) (k : Nat) (f : HRing → HRing) (j : Nat) : (s.updHring k f).pathN j = s.pathN j := rfl
@[simp] theorem State.dom_updHring (s : State) (k : Nat) (f : HRing → HRing) (j : Nat) : (s.updHring k f).dom j = s.dom j := rfl
@[simp] theorem State.fuses_updHring (s : State) (k : Nat) (f : HRing → HRing) : (s.updHring k f).fuses = s.fuses := rfl
@[simp] theorem State.straps_updHring (s : State) (k : Nat) (f : HRing → HRing) : (s.updHring k f).straps = s.straps := rfl
@[simp] theorem State.boot_updHring (s : State) (k : Nat) (f : HRing → HRing) : (s.updHring k f).boot = s.boot := rfl
@[simp] theorem State.eng_updHring (s : State) (k : Nat) (f : HRing → HRing) : (s.updHring k f).eng = s.eng := rfl
@[simp] theorem State.reconf_updHring (s : State) (k : Nat) (f : HRing → HRing) : (s.updHring k f).reconf = s.reconf := rfl
@[simp] theorem State.lrn_updHring (s : State) (k : Nat) (f : HRing → HRing) : (s.updHring k f).lrn = s.lrn := rfl
@[simp] theorem State.hostMem_updHring (s : State) (k : Nat) (f : HRing → HRing) : (s.updHring k f).hostMem = s.hostMem := rfl
@[simp] theorem State.lpddr_updHring (s : State) (k : Nat) (f : HRing → HRing) : (s.updHring k f).lpddr = s.lpddr := rfl
@[simp] theorem State.swap_updHring (s : State) (k : Nat) (f : HRing → HRing) : (s.updHring k f).swap = s.swap := rfl
@[simp] theorem State.parks_updHring (s : State) (k : Nat) (f : HRing → HRing) : (s.updHring k f).parks = s.parks := rfl
@[simp] theorem State.parkq_updHring (s : State) (k : Nat) (f : HRing → HRing) : (s.updHring k f).parkq = s.parkq := rfl
@[simp] theorem State.sch_updHring (s : State) (k : Nat) (f : HRing → HRing) : (s.updHring k f).sch = s.sch := rfl
@[simp] theorem State.was_updHring (s : State) (k : Nat) (f : HRing → HRing) : (s.updHring k f).was = s.was := rfl
@[simp] theorem State.hits_updHring (s : State) (k : Nat) (f : HRing → HRing) : (s.updHring k f).hits = s.hits := rfl
@[simp] theorem State.capOld_updHring (s : State) (k : Nat) (f : HRing → HRing) : (s.updHring k f).capOld = s.capOld := rfl
@[simp] theorem State.capPre_updHring (s : State) (k : Nat) (f : HRing → HRing) : (s.updHring k f).capPre = s.capPre := rfl
@[simp] theorem State.sdio_updHring (s : State) (k : Nat) (f : HRing → HRing) : (s.updHring k f).sdio = s.sdio := rfl
@[simp] theorem State.pcie_updHring (s : State) (k : Nat) (f : HRing → HRing) : (s.updHring k f).pcie = s.pcie := rfl
@[simp] theorem State.log_updHring (s : State) (k : Nat) (f : HRing → HRing) : (s.updHring k f).log = s.log := rfl
@[simp] theorem State.mon_updHring (s : State) (k : Nat) (f : HRing → HRing) : (s.updHring k f).mon = s.mon := rfl
@[simp] theorem State.drains_updHring (s : State) (k : Nat) (f : HRing → HRing) : (s.updHring k f).drains = s.drains := rfl
@[simp] theorem State.routes_updHring (s : State) (k : Nat) (f : HRing → HRing) : (s.updHring k f).routes = s.routes := rfl
@[simp] theorem State.flights_updHring (s : State) (k : Nat) (f : HRing → HRing) : (s.updHring k f).flights = s.flights := rfl
@[simp] theorem State.live_updHring (s : State) (k : Nat) (f : HRing → HRing) : (s.updHring k f).live = s.live := rfl
@[simp] theorem State.ids_updHring (s : State) (k : Nat) (f : HRing → HRing) : (s.updHring k f).ids = s.ids := rfl
@[simp] theorem State.now_updHring (s : State) (k : Nat) (f : HRing → HRing) : (s.updHring k f).now = s.now := rfl
@[simp] theorem State.slew_updHring (s : State) (k : Nat) (f : HRing → HRing) : (s.updHring k f).slew = s.slew := rfl
@[simp] theorem State.scrub_updHring (s : State) (k : Nat) (f : HRing → HRing) : (s.updHring k f).scrub = s.scrub := rfl
@[simp] theorem State.scrubbed_updHring (s : State) (k : Nat) (f : HRing → HRing) : (s.updHring k f).scrubbed = s.scrubbed := rfl
@[simp] theorem State.free_updHring (s : State) (k : Nat) (f : HRing → HRing) : (s.updHring k f).free = s.free := rfl
@[simp] theorem State.pending_updHring (s : State) (k : Nat) (f : HRing → HRing) : (s.updHring k f).pending = s.pending := rfl
@[simp] theorem State.cc_updHring (s : State) (k : Nat) (f : HRing → HRing) : (s.updHring k f).cc = s.cc := rfl
@[simp] theorem State.turnR_updHring (s : State) (k : Nat) (f : HRing → HRing) : (s.updHring k f).turnR = s.turnR := rfl
@[simp] theorem State.turnW_updHring (s : State) (k : Nat) (f : HRing → HRing) : (s.updHring k f).turnW = s.turnW := rfl
@[simp] theorem State.lossSnap_updHring (s : State) (k : Nat) (f : HRing → HRing) : (s.updHring k f).lossSnap = s.lossSnap := rfl
@[simp] theorem State.hring_updHring_same (s : State) (k : Nat) (f : HRing → HRing) : (s.updHring k f).hring k = f (s.hring k) :=
  Tab.get_upd_same _ _ _ _
theorem State.hring_updHring_ne (s : State) {k j : Nat} (f : HRing → HRing) (h : j ≠ k) : (s.updHring k f).hring j = s.hring j :=
  Tab.get_upd_ne _ _ _ h

/-! State.updChan -/

@[simp] theorem State.rd_updChan (s : State) (k : Nat) (f : Chan → Chan) (j : Nat) : (s.updChan k f).rd j = s.rd j := rfl
@[simp] theorem State.core_updChan (s : State) (k : Nat) (f : Chan → Chan) (j : Nat) : (s.updChan k f).core j = s.core j := rfl
@[simp] theorem State.tile_updChan (s : State) (k : Nat) (f : Chan → Chan) (j : Nat) : (s.updChan k f).tile j = s.tile j := rfl
@[simp] theorem State.node_updChan (s : State) (k : Nat) (f : Chan → Chan) (j : Nat) : (s.updChan k f).node j = s.node j := rfl
@[simp] theorem State.rtr_updChan (s : State) (k : Nat) (f : Chan → Chan) (j : Nat) : (s.updChan k f).rtr j = s.rtr j := rfl
@[simp] theorem State.port_updChan (s : State) (k : Nat) (f : Chan → Chan) (j : Nat) : (s.updChan k f).port j = s.port j := rfl
@[simp] theorem State.conn_updChan (s : State) (k : Nat) (f : Chan → Chan) (j : Nat) : (s.updChan k f).conn j = s.conn j := rfl
@[simp] theorem State.comb_updChan (s : State) (k : Nat) (f : Chan → Chan) (j : Nat) : (s.updChan k f).comb j = s.comb j := rfl
@[simp] theorem State.hring_updChan (s : State) (k : Nat) (f : Chan → Chan) (j : Nat) : (s.updChan k f).hring j = s.hring j := rfl
@[simp] theorem State.sport_updChan (s : State) (k : Nat) (f : Chan → Chan) (j : Nat) : (s.updChan k f).sport j = s.sport j := rfl
@[simp] theorem State.sctx_updChan (s : State) (k : Nat) (f : Chan → Chan) (j : Nat) : (s.updChan k f).sctx j = s.sctx j := rfl
@[simp] theorem State.mbox_updChan (s : State) (k : Nat) (f : Chan → Chan) (j : Nat) : (s.updChan k f).mbox j = s.mbox j := rfl
@[simp] theorem State.peer_updChan (s : State) (k : Nat) (f : Chan → Chan) (j : Nat) : (s.updChan k f).peer j = s.peer j := rfl
@[simp] theorem State.pathN_updChan (s : State) (k : Nat) (f : Chan → Chan) (j : Nat) : (s.updChan k f).pathN j = s.pathN j := rfl
@[simp] theorem State.dom_updChan (s : State) (k : Nat) (f : Chan → Chan) (j : Nat) : (s.updChan k f).dom j = s.dom j := rfl
@[simp] theorem State.fuses_updChan (s : State) (k : Nat) (f : Chan → Chan) : (s.updChan k f).fuses = s.fuses := rfl
@[simp] theorem State.straps_updChan (s : State) (k : Nat) (f : Chan → Chan) : (s.updChan k f).straps = s.straps := rfl
@[simp] theorem State.boot_updChan (s : State) (k : Nat) (f : Chan → Chan) : (s.updChan k f).boot = s.boot := rfl
@[simp] theorem State.eng_updChan (s : State) (k : Nat) (f : Chan → Chan) : (s.updChan k f).eng = s.eng := rfl
@[simp] theorem State.reconf_updChan (s : State) (k : Nat) (f : Chan → Chan) : (s.updChan k f).reconf = s.reconf := rfl
@[simp] theorem State.lrn_updChan (s : State) (k : Nat) (f : Chan → Chan) : (s.updChan k f).lrn = s.lrn := rfl
@[simp] theorem State.hostMem_updChan (s : State) (k : Nat) (f : Chan → Chan) : (s.updChan k f).hostMem = s.hostMem := rfl
@[simp] theorem State.lpddr_updChan (s : State) (k : Nat) (f : Chan → Chan) : (s.updChan k f).lpddr = s.lpddr := rfl
@[simp] theorem State.swap_updChan (s : State) (k : Nat) (f : Chan → Chan) : (s.updChan k f).swap = s.swap := rfl
@[simp] theorem State.parks_updChan (s : State) (k : Nat) (f : Chan → Chan) : (s.updChan k f).parks = s.parks := rfl
@[simp] theorem State.parkq_updChan (s : State) (k : Nat) (f : Chan → Chan) : (s.updChan k f).parkq = s.parkq := rfl
@[simp] theorem State.sch_updChan (s : State) (k : Nat) (f : Chan → Chan) : (s.updChan k f).sch = s.sch := rfl
@[simp] theorem State.was_updChan (s : State) (k : Nat) (f : Chan → Chan) : (s.updChan k f).was = s.was := rfl
@[simp] theorem State.hits_updChan (s : State) (k : Nat) (f : Chan → Chan) : (s.updChan k f).hits = s.hits := rfl
@[simp] theorem State.capOld_updChan (s : State) (k : Nat) (f : Chan → Chan) : (s.updChan k f).capOld = s.capOld := rfl
@[simp] theorem State.capPre_updChan (s : State) (k : Nat) (f : Chan → Chan) : (s.updChan k f).capPre = s.capPre := rfl
@[simp] theorem State.sdio_updChan (s : State) (k : Nat) (f : Chan → Chan) : (s.updChan k f).sdio = s.sdio := rfl
@[simp] theorem State.pcie_updChan (s : State) (k : Nat) (f : Chan → Chan) : (s.updChan k f).pcie = s.pcie := rfl
@[simp] theorem State.log_updChan (s : State) (k : Nat) (f : Chan → Chan) : (s.updChan k f).log = s.log := rfl
@[simp] theorem State.mon_updChan (s : State) (k : Nat) (f : Chan → Chan) : (s.updChan k f).mon = s.mon := rfl
@[simp] theorem State.drains_updChan (s : State) (k : Nat) (f : Chan → Chan) : (s.updChan k f).drains = s.drains := rfl
@[simp] theorem State.routes_updChan (s : State) (k : Nat) (f : Chan → Chan) : (s.updChan k f).routes = s.routes := rfl
@[simp] theorem State.flights_updChan (s : State) (k : Nat) (f : Chan → Chan) : (s.updChan k f).flights = s.flights := rfl
@[simp] theorem State.live_updChan (s : State) (k : Nat) (f : Chan → Chan) : (s.updChan k f).live = s.live := rfl
@[simp] theorem State.ids_updChan (s : State) (k : Nat) (f : Chan → Chan) : (s.updChan k f).ids = s.ids := rfl
@[simp] theorem State.now_updChan (s : State) (k : Nat) (f : Chan → Chan) : (s.updChan k f).now = s.now := rfl
@[simp] theorem State.slew_updChan (s : State) (k : Nat) (f : Chan → Chan) : (s.updChan k f).slew = s.slew := rfl
@[simp] theorem State.scrub_updChan (s : State) (k : Nat) (f : Chan → Chan) : (s.updChan k f).scrub = s.scrub := rfl
@[simp] theorem State.scrubbed_updChan (s : State) (k : Nat) (f : Chan → Chan) : (s.updChan k f).scrubbed = s.scrubbed := rfl
@[simp] theorem State.free_updChan (s : State) (k : Nat) (f : Chan → Chan) : (s.updChan k f).free = s.free := rfl
@[simp] theorem State.pending_updChan (s : State) (k : Nat) (f : Chan → Chan) : (s.updChan k f).pending = s.pending := rfl
@[simp] theorem State.cc_updChan (s : State) (k : Nat) (f : Chan → Chan) : (s.updChan k f).cc = s.cc := rfl
@[simp] theorem State.turnR_updChan (s : State) (k : Nat) (f : Chan → Chan) : (s.updChan k f).turnR = s.turnR := rfl
@[simp] theorem State.turnW_updChan (s : State) (k : Nat) (f : Chan → Chan) : (s.updChan k f).turnW = s.turnW := rfl
@[simp] theorem State.lossSnap_updChan (s : State) (k : Nat) (f : Chan → Chan) : (s.updChan k f).lossSnap = s.lossSnap := rfl
@[simp] theorem State.chan_updChan_same (s : State) (k : Nat) (f : Chan → Chan) : (s.updChan k f).chan k = f (s.chan k) :=
  Tab.get_upd_same _ _ _ _
theorem State.chan_updChan_ne (s : State) {k j : Nat} (f : Chan → Chan) (h : j ≠ k) : (s.updChan k f).chan j = s.chan j :=
  Tab.get_upd_ne _ _ _ h

/-! State.updSport -/

@[simp] theorem State.rd_updSport (s : State) (k : Nat) (f : SPort → SPort) (j : Nat) : (s.updSport k f).rd j = s.rd j := rfl
@[simp] theorem State.core_updSport (s : State) (k : Nat) (f : SPort → SPort) (j : Nat) : (s.updSport k f).core j = s.core j := rfl
@[simp] theorem State.tile_updSport (s : State) (k : Nat) (f : SPort → SPort) (j : Nat) : (s.updSport k f).tile j = s.tile j := rfl
@[simp] theorem State.node_updSport (s : State) (k : Nat) (f : SPort → SPort) (j : Nat) : (s.updSport k f).node j = s.node j := rfl
@[simp] theorem State.rtr_updSport (s : State) (k : Nat) (f : SPort → SPort) (j : Nat) : (s.updSport k f).rtr j = s.rtr j := rfl
@[simp] theorem State.port_updSport (s : State) (k : Nat) (f : SPort → SPort) (j : Nat) : (s.updSport k f).port j = s.port j := rfl
@[simp] theorem State.conn_updSport (s : State) (k : Nat) (f : SPort → SPort) (j : Nat) : (s.updSport k f).conn j = s.conn j := rfl
@[simp] theorem State.comb_updSport (s : State) (k : Nat) (f : SPort → SPort) (j : Nat) : (s.updSport k f).comb j = s.comb j := rfl
@[simp] theorem State.hring_updSport (s : State) (k : Nat) (f : SPort → SPort) (j : Nat) : (s.updSport k f).hring j = s.hring j := rfl
@[simp] theorem State.chan_updSport (s : State) (k : Nat) (f : SPort → SPort) (j : Nat) : (s.updSport k f).chan j = s.chan j := rfl
@[simp] theorem State.sctx_updSport (s : State) (k : Nat) (f : SPort → SPort) (j : Nat) : (s.updSport k f).sctx j = s.sctx j := rfl
@[simp] theorem State.mbox_updSport (s : State) (k : Nat) (f : SPort → SPort) (j : Nat) : (s.updSport k f).mbox j = s.mbox j := rfl
@[simp] theorem State.peer_updSport (s : State) (k : Nat) (f : SPort → SPort) (j : Nat) : (s.updSport k f).peer j = s.peer j := rfl
@[simp] theorem State.pathN_updSport (s : State) (k : Nat) (f : SPort → SPort) (j : Nat) : (s.updSport k f).pathN j = s.pathN j := rfl
@[simp] theorem State.dom_updSport (s : State) (k : Nat) (f : SPort → SPort) (j : Nat) : (s.updSport k f).dom j = s.dom j := rfl
@[simp] theorem State.fuses_updSport (s : State) (k : Nat) (f : SPort → SPort) : (s.updSport k f).fuses = s.fuses := rfl
@[simp] theorem State.straps_updSport (s : State) (k : Nat) (f : SPort → SPort) : (s.updSport k f).straps = s.straps := rfl
@[simp] theorem State.boot_updSport (s : State) (k : Nat) (f : SPort → SPort) : (s.updSport k f).boot = s.boot := rfl
@[simp] theorem State.eng_updSport (s : State) (k : Nat) (f : SPort → SPort) : (s.updSport k f).eng = s.eng := rfl
@[simp] theorem State.reconf_updSport (s : State) (k : Nat) (f : SPort → SPort) : (s.updSport k f).reconf = s.reconf := rfl
@[simp] theorem State.lrn_updSport (s : State) (k : Nat) (f : SPort → SPort) : (s.updSport k f).lrn = s.lrn := rfl
@[simp] theorem State.hostMem_updSport (s : State) (k : Nat) (f : SPort → SPort) : (s.updSport k f).hostMem = s.hostMem := rfl
@[simp] theorem State.lpddr_updSport (s : State) (k : Nat) (f : SPort → SPort) : (s.updSport k f).lpddr = s.lpddr := rfl
@[simp] theorem State.swap_updSport (s : State) (k : Nat) (f : SPort → SPort) : (s.updSport k f).swap = s.swap := rfl
@[simp] theorem State.parks_updSport (s : State) (k : Nat) (f : SPort → SPort) : (s.updSport k f).parks = s.parks := rfl
@[simp] theorem State.parkq_updSport (s : State) (k : Nat) (f : SPort → SPort) : (s.updSport k f).parkq = s.parkq := rfl
@[simp] theorem State.sch_updSport (s : State) (k : Nat) (f : SPort → SPort) : (s.updSport k f).sch = s.sch := rfl
@[simp] theorem State.was_updSport (s : State) (k : Nat) (f : SPort → SPort) : (s.updSport k f).was = s.was := rfl
@[simp] theorem State.hits_updSport (s : State) (k : Nat) (f : SPort → SPort) : (s.updSport k f).hits = s.hits := rfl
@[simp] theorem State.capOld_updSport (s : State) (k : Nat) (f : SPort → SPort) : (s.updSport k f).capOld = s.capOld := rfl
@[simp] theorem State.capPre_updSport (s : State) (k : Nat) (f : SPort → SPort) : (s.updSport k f).capPre = s.capPre := rfl
@[simp] theorem State.sdio_updSport (s : State) (k : Nat) (f : SPort → SPort) : (s.updSport k f).sdio = s.sdio := rfl
@[simp] theorem State.pcie_updSport (s : State) (k : Nat) (f : SPort → SPort) : (s.updSport k f).pcie = s.pcie := rfl
@[simp] theorem State.log_updSport (s : State) (k : Nat) (f : SPort → SPort) : (s.updSport k f).log = s.log := rfl
@[simp] theorem State.mon_updSport (s : State) (k : Nat) (f : SPort → SPort) : (s.updSport k f).mon = s.mon := rfl
@[simp] theorem State.drains_updSport (s : State) (k : Nat) (f : SPort → SPort) : (s.updSport k f).drains = s.drains := rfl
@[simp] theorem State.routes_updSport (s : State) (k : Nat) (f : SPort → SPort) : (s.updSport k f).routes = s.routes := rfl
@[simp] theorem State.flights_updSport (s : State) (k : Nat) (f : SPort → SPort) : (s.updSport k f).flights = s.flights := rfl
@[simp] theorem State.live_updSport (s : State) (k : Nat) (f : SPort → SPort) : (s.updSport k f).live = s.live := rfl
@[simp] theorem State.ids_updSport (s : State) (k : Nat) (f : SPort → SPort) : (s.updSport k f).ids = s.ids := rfl
@[simp] theorem State.now_updSport (s : State) (k : Nat) (f : SPort → SPort) : (s.updSport k f).now = s.now := rfl
@[simp] theorem State.slew_updSport (s : State) (k : Nat) (f : SPort → SPort) : (s.updSport k f).slew = s.slew := rfl
@[simp] theorem State.scrub_updSport (s : State) (k : Nat) (f : SPort → SPort) : (s.updSport k f).scrub = s.scrub := rfl
@[simp] theorem State.scrubbed_updSport (s : State) (k : Nat) (f : SPort → SPort) : (s.updSport k f).scrubbed = s.scrubbed := rfl
@[simp] theorem State.free_updSport (s : State) (k : Nat) (f : SPort → SPort) : (s.updSport k f).free = s.free := rfl
@[simp] theorem State.pending_updSport (s : State) (k : Nat) (f : SPort → SPort) : (s.updSport k f).pending = s.pending := rfl
@[simp] theorem State.cc_updSport (s : State) (k : Nat) (f : SPort → SPort) : (s.updSport k f).cc = s.cc := rfl
@[simp] theorem State.turnR_updSport (s : State) (k : Nat) (f : SPort → SPort) : (s.updSport k f).turnR = s.turnR := rfl
@[simp] theorem State.turnW_updSport (s : State) (k : Nat) (f : SPort → SPort) : (s.updSport k f).turnW = s.turnW := rfl
@[simp] theorem State.lossSnap_updSport (s : State) (k : Nat) (f : SPort → SPort) : (s.updSport k f).lossSnap = s.lossSnap := rfl
@[simp] theorem State.sport_updSport_same (s : State) (k : Nat) (f : SPort → SPort) : (s.updSport k f).sport k = f (s.sport k) :=
  Tab.get_upd_same _ _ _ _
theorem State.sport_updSport_ne (s : State) {k j : Nat} (f : SPort → SPort) (h : j ≠ k) : (s.updSport k f).sport j = s.sport j :=
  Tab.get_upd_ne _ _ _ h

/-! State.updSctx -/

@[simp] theorem State.rd_updSctx (s : State) (k : Nat) (f : SCtx → SCtx) (j : Nat) : (s.updSctx k f).rd j = s.rd j := rfl
@[simp] theorem State.core_updSctx (s : State) (k : Nat) (f : SCtx → SCtx) (j : Nat) : (s.updSctx k f).core j = s.core j := rfl
@[simp] theorem State.tile_updSctx (s : State) (k : Nat) (f : SCtx → SCtx) (j : Nat) : (s.updSctx k f).tile j = s.tile j := rfl
@[simp] theorem State.node_updSctx (s : State) (k : Nat) (f : SCtx → SCtx) (j : Nat) : (s.updSctx k f).node j = s.node j := rfl
@[simp] theorem State.rtr_updSctx (s : State) (k : Nat) (f : SCtx → SCtx) (j : Nat) : (s.updSctx k f).rtr j = s.rtr j := rfl
@[simp] theorem State.port_updSctx (s : State) (k : Nat) (f : SCtx → SCtx) (j : Nat) : (s.updSctx k f).port j = s.port j := rfl
@[simp] theorem State.conn_updSctx (s : State) (k : Nat) (f : SCtx → SCtx) (j : Nat) : (s.updSctx k f).conn j = s.conn j := rfl
@[simp] theorem State.comb_updSctx (s : State) (k : Nat) (f : SCtx → SCtx) (j : Nat) : (s.updSctx k f).comb j = s.comb j := rfl
@[simp] theorem State.hring_updSctx (s : State) (k : Nat) (f : SCtx → SCtx) (j : Nat) : (s.updSctx k f).hring j = s.hring j := rfl
@[simp] theorem State.chan_updSctx (s : State) (k : Nat) (f : SCtx → SCtx) (j : Nat) : (s.updSctx k f).chan j = s.chan j := rfl
@[simp] theorem State.sport_updSctx (s : State) (k : Nat) (f : SCtx → SCtx) (j : Nat) : (s.updSctx k f).sport j = s.sport j := rfl
@[simp] theorem State.mbox_updSctx (s : State) (k : Nat) (f : SCtx → SCtx) (j : Nat) : (s.updSctx k f).mbox j = s.mbox j := rfl
@[simp] theorem State.peer_updSctx (s : State) (k : Nat) (f : SCtx → SCtx) (j : Nat) : (s.updSctx k f).peer j = s.peer j := rfl
@[simp] theorem State.pathN_updSctx (s : State) (k : Nat) (f : SCtx → SCtx) (j : Nat) : (s.updSctx k f).pathN j = s.pathN j := rfl
@[simp] theorem State.dom_updSctx (s : State) (k : Nat) (f : SCtx → SCtx) (j : Nat) : (s.updSctx k f).dom j = s.dom j := rfl
@[simp] theorem State.fuses_updSctx (s : State) (k : Nat) (f : SCtx → SCtx) : (s.updSctx k f).fuses = s.fuses := rfl
@[simp] theorem State.straps_updSctx (s : State) (k : Nat) (f : SCtx → SCtx) : (s.updSctx k f).straps = s.straps := rfl
@[simp] theorem State.boot_updSctx (s : State) (k : Nat) (f : SCtx → SCtx) : (s.updSctx k f).boot = s.boot := rfl
@[simp] theorem State.eng_updSctx (s : State) (k : Nat) (f : SCtx → SCtx) : (s.updSctx k f).eng = s.eng := rfl
@[simp] theorem State.reconf_updSctx (s : State) (k : Nat) (f : SCtx → SCtx) : (s.updSctx k f).reconf = s.reconf := rfl
@[simp] theorem State.lrn_updSctx (s : State) (k : Nat) (f : SCtx → SCtx) : (s.updSctx k f).lrn = s.lrn := rfl
@[simp] theorem State.hostMem_updSctx (s : State) (k : Nat) (f : SCtx → SCtx) : (s.updSctx k f).hostMem = s.hostMem := rfl
@[simp] theorem State.lpddr_updSctx (s : State) (k : Nat) (f : SCtx → SCtx) : (s.updSctx k f).lpddr = s.lpddr := rfl
@[simp] theorem State.swap_updSctx (s : State) (k : Nat) (f : SCtx → SCtx) : (s.updSctx k f).swap = s.swap := rfl
@[simp] theorem State.parks_updSctx (s : State) (k : Nat) (f : SCtx → SCtx) : (s.updSctx k f).parks = s.parks := rfl
@[simp] theorem State.parkq_updSctx (s : State) (k : Nat) (f : SCtx → SCtx) : (s.updSctx k f).parkq = s.parkq := rfl
@[simp] theorem State.sch_updSctx (s : State) (k : Nat) (f : SCtx → SCtx) : (s.updSctx k f).sch = s.sch := rfl
@[simp] theorem State.was_updSctx (s : State) (k : Nat) (f : SCtx → SCtx) : (s.updSctx k f).was = s.was := rfl
@[simp] theorem State.hits_updSctx (s : State) (k : Nat) (f : SCtx → SCtx) : (s.updSctx k f).hits = s.hits := rfl
@[simp] theorem State.capOld_updSctx (s : State) (k : Nat) (f : SCtx → SCtx) : (s.updSctx k f).capOld = s.capOld := rfl
@[simp] theorem State.capPre_updSctx (s : State) (k : Nat) (f : SCtx → SCtx) : (s.updSctx k f).capPre = s.capPre := rfl
@[simp] theorem State.sdio_updSctx (s : State) (k : Nat) (f : SCtx → SCtx) : (s.updSctx k f).sdio = s.sdio := rfl
@[simp] theorem State.pcie_updSctx (s : State) (k : Nat) (f : SCtx → SCtx) : (s.updSctx k f).pcie = s.pcie := rfl
@[simp] theorem State.log_updSctx (s : State) (k : Nat) (f : SCtx → SCtx) : (s.updSctx k f).log = s.log := rfl
@[simp] theorem State.mon_updSctx (s : State) (k : Nat) (f : SCtx → SCtx) : (s.updSctx k f).mon = s.mon := rfl
@[simp] theorem State.drains_updSctx (s : State) (k : Nat) (f : SCtx → SCtx) : (s.updSctx k f).drains = s.drains := rfl
@[simp] theorem State.routes_updSctx (s : State) (k : Nat) (f : SCtx → SCtx) : (s.updSctx k f).routes = s.routes := rfl
@[simp] theorem State.flights_updSctx (s : State) (k : Nat) (f : SCtx → SCtx) : (s.updSctx k f).flights = s.flights := rfl
@[simp] theorem State.live_updSctx (s : State) (k : Nat) (f : SCtx → SCtx) : (s.updSctx k f).live = s.live := rfl
@[simp] theorem State.ids_updSctx (s : State) (k : Nat) (f : SCtx → SCtx) : (s.updSctx k f).ids = s.ids := rfl
@[simp] theorem State.now_updSctx (s : State) (k : Nat) (f : SCtx → SCtx) : (s.updSctx k f).now = s.now := rfl
@[simp] theorem State.slew_updSctx (s : State) (k : Nat) (f : SCtx → SCtx) : (s.updSctx k f).slew = s.slew := rfl
@[simp] theorem State.scrub_updSctx (s : State) (k : Nat) (f : SCtx → SCtx) : (s.updSctx k f).scrub = s.scrub := rfl
@[simp] theorem State.scrubbed_updSctx (s : State) (k : Nat) (f : SCtx → SCtx) : (s.updSctx k f).scrubbed = s.scrubbed := rfl
@[simp] theorem State.free_updSctx (s : State) (k : Nat) (f : SCtx → SCtx) : (s.updSctx k f).free = s.free := rfl
@[simp] theorem State.pending_updSctx (s : State) (k : Nat) (f : SCtx → SCtx) : (s.updSctx k f).pending = s.pending := rfl
@[simp] theorem State.cc_updSctx (s : State) (k : Nat) (f : SCtx → SCtx) : (s.updSctx k f).cc = s.cc := rfl
@[simp] theorem State.turnR_updSctx (s : State) (k : Nat) (f : SCtx → SCtx) : (s.updSctx k f).turnR = s.turnR := rfl
@[simp] theorem State.turnW_updSctx (s : State) (k : Nat) (f : SCtx → SCtx) : (s.updSctx k f).turnW = s.turnW := rfl
@[simp] theorem State.lossSnap_updSctx (s : State) (k : Nat) (f : SCtx → SCtx) : (s.updSctx k f).lossSnap = s.lossSnap := rfl
@[simp] theorem State.sctx_updSctx_same (s : State) (k : Nat) (f : SCtx → SCtx) : (s.updSctx k f).sctx k = f (s.sctx k) :=
  Tab.get_upd_same _ _ _ _
theorem State.sctx_updSctx_ne (s : State) {k j : Nat} (f : SCtx → SCtx) (h : j ≠ k) : (s.updSctx k f).sctx j = s.sctx j :=
  Tab.get_upd_ne _ _ _ h

/-! State.updMbox -/

@[simp] theorem State.rd_updMbox (s : State) (k : Nat) (f : Mbox → Mbox) (j : Nat) : (s.updMbox k f).rd j = s.rd j := rfl
@[simp] theorem State.core_updMbox (s : State) (k : Nat) (f : Mbox → Mbox) (j : Nat) : (s.updMbox k f).core j = s.core j := rfl
@[simp] theorem State.tile_updMbox (s : State) (k : Nat) (f : Mbox → Mbox) (j : Nat) : (s.updMbox k f).tile j = s.tile j := rfl
@[simp] theorem State.node_updMbox (s : State) (k : Nat) (f : Mbox → Mbox) (j : Nat) : (s.updMbox k f).node j = s.node j := rfl
@[simp] theorem State.rtr_updMbox (s : State) (k : Nat) (f : Mbox → Mbox) (j : Nat) : (s.updMbox k f).rtr j = s.rtr j := rfl
@[simp] theorem State.port_updMbox (s : State) (k : Nat) (f : Mbox → Mbox) (j : Nat) : (s.updMbox k f).port j = s.port j := rfl
@[simp] theorem State.conn_updMbox (s : State) (k : Nat) (f : Mbox → Mbox) (j : Nat) : (s.updMbox k f).conn j = s.conn j := rfl
@[simp] theorem State.comb_updMbox (s : State) (k : Nat) (f : Mbox → Mbox) (j : Nat) : (s.updMbox k f).comb j = s.comb j := rfl
@[simp] theorem State.hring_updMbox (s : State) (k : Nat) (f : Mbox → Mbox) (j : Nat) : (s.updMbox k f).hring j = s.hring j := rfl
@[simp] theorem State.chan_updMbox (s : State) (k : Nat) (f : Mbox → Mbox) (j : Nat) : (s.updMbox k f).chan j = s.chan j := rfl
@[simp] theorem State.sport_updMbox (s : State) (k : Nat) (f : Mbox → Mbox) (j : Nat) : (s.updMbox k f).sport j = s.sport j := rfl
@[simp] theorem State.sctx_updMbox (s : State) (k : Nat) (f : Mbox → Mbox) (j : Nat) : (s.updMbox k f).sctx j = s.sctx j := rfl
@[simp] theorem State.peer_updMbox (s : State) (k : Nat) (f : Mbox → Mbox) (j : Nat) : (s.updMbox k f).peer j = s.peer j := rfl
@[simp] theorem State.pathN_updMbox (s : State) (k : Nat) (f : Mbox → Mbox) (j : Nat) : (s.updMbox k f).pathN j = s.pathN j := rfl
@[simp] theorem State.dom_updMbox (s : State) (k : Nat) (f : Mbox → Mbox) (j : Nat) : (s.updMbox k f).dom j = s.dom j := rfl
@[simp] theorem State.fuses_updMbox (s : State) (k : Nat) (f : Mbox → Mbox) : (s.updMbox k f).fuses = s.fuses := rfl
@[simp] theorem State.straps_updMbox (s : State) (k : Nat) (f : Mbox → Mbox) : (s.updMbox k f).straps = s.straps := rfl
@[simp] theorem State.boot_updMbox (s : State) (k : Nat) (f : Mbox → Mbox) : (s.updMbox k f).boot = s.boot := rfl
@[simp] theorem State.eng_updMbox (s : State) (k : Nat) (f : Mbox → Mbox) : (s.updMbox k f).eng = s.eng := rfl
@[simp] theorem State.reconf_updMbox (s : State) (k : Nat) (f : Mbox → Mbox) : (s.updMbox k f).reconf = s.reconf := rfl
@[simp] theorem State.lrn_updMbox (s : State) (k : Nat) (f : Mbox → Mbox) : (s.updMbox k f).lrn = s.lrn := rfl
@[simp] theorem State.hostMem_updMbox (s : State) (k : Nat) (f : Mbox → Mbox) : (s.updMbox k f).hostMem = s.hostMem := rfl
@[simp] theorem State.lpddr_updMbox (s : State) (k : Nat) (f : Mbox → Mbox) : (s.updMbox k f).lpddr = s.lpddr := rfl
@[simp] theorem State.swap_updMbox (s : State) (k : Nat) (f : Mbox → Mbox) : (s.updMbox k f).swap = s.swap := rfl
@[simp] theorem State.parks_updMbox (s : State) (k : Nat) (f : Mbox → Mbox) : (s.updMbox k f).parks = s.parks := rfl
@[simp] theorem State.parkq_updMbox (s : State) (k : Nat) (f : Mbox → Mbox) : (s.updMbox k f).parkq = s.parkq := rfl
@[simp] theorem State.sch_updMbox (s : State) (k : Nat) (f : Mbox → Mbox) : (s.updMbox k f).sch = s.sch := rfl
@[simp] theorem State.was_updMbox (s : State) (k : Nat) (f : Mbox → Mbox) : (s.updMbox k f).was = s.was := rfl
@[simp] theorem State.hits_updMbox (s : State) (k : Nat) (f : Mbox → Mbox) : (s.updMbox k f).hits = s.hits := rfl
@[simp] theorem State.capOld_updMbox (s : State) (k : Nat) (f : Mbox → Mbox) : (s.updMbox k f).capOld = s.capOld := rfl
@[simp] theorem State.capPre_updMbox (s : State) (k : Nat) (f : Mbox → Mbox) : (s.updMbox k f).capPre = s.capPre := rfl
@[simp] theorem State.sdio_updMbox (s : State) (k : Nat) (f : Mbox → Mbox) : (s.updMbox k f).sdio = s.sdio := rfl
@[simp] theorem State.pcie_updMbox (s : State) (k : Nat) (f : Mbox → Mbox) : (s.updMbox k f).pcie = s.pcie := rfl
@[simp] theorem State.log_updMbox (s : State) (k : Nat) (f : Mbox → Mbox) : (s.updMbox k f).log = s.log := rfl
@[simp] theorem State.mon_updMbox (s : State) (k : Nat) (f : Mbox → Mbox) : (s.updMbox k f).mon = s.mon := rfl
@[simp] theorem State.drains_updMbox (s : State) (k : Nat) (f : Mbox → Mbox) : (s.updMbox k f).drains = s.drains := rfl
@[simp] theorem State.routes_updMbox (s : State) (k : Nat) (f : Mbox → Mbox) : (s.updMbox k f).routes = s.routes := rfl
@[simp] theorem State.flights_updMbox (s : State) (k : Nat) (f : Mbox → Mbox) : (s.updMbox k f).flights = s.flights := rfl
@[simp] theorem State.live_updMbox (s : State) (k : Nat) (f : Mbox → Mbox) : (s.updMbox k f).live = s.live := rfl
@[simp] theorem State.ids_updMbox (s : State) (k : Nat) (f : Mbox → Mbox) : (s.updMbox k f).ids = s.ids := rfl
@[simp] theorem State.now_updMbox (s : State) (k : Nat) (f : Mbox → Mbox) : (s.updMbox k f).now = s.now := rfl
@[simp] theorem State.slew_updMbox (s : State) (k : Nat) (f : Mbox → Mbox) : (s.updMbox k f).slew = s.slew := rfl
@[simp] theorem State.scrub_updMbox (s : State) (k : Nat) (f : Mbox → Mbox) : (s.updMbox k f).scrub = s.scrub := rfl
@[simp] theorem State.scrubbed_updMbox (s : State) (k : Nat) (f : Mbox → Mbox) : (s.updMbox k f).scrubbed = s.scrubbed := rfl
@[simp] theorem State.free_updMbox (s : State) (k : Nat) (f : Mbox → Mbox) : (s.updMbox k f).free = s.free := rfl
@[simp] theorem State.pending_updMbox (s : State) (k : Nat) (f : Mbox → Mbox) : (s.updMbox k f).pending = s.pending := rfl
@[simp] theorem State.cc_updMbox (s : State) (k : Nat) (f : Mbox → Mbox) : (s.updMbox k f).cc = s.cc := rfl
@[simp] theorem State.turnR_updMbox (s : State) (k : Nat) (f : Mbox → Mbox) : (s.updMbox k f).turnR = s.turnR := rfl
@[simp] theorem State.turnW_updMbox (s : State) (k : Nat) (f : Mbox → Mbox) : (s.updMbox k f).turnW = s.turnW := rfl
@[simp] theorem State.lossSnap_updMbox (s : State) (k : Nat) (f : Mbox → Mbox) : (s.updMbox k f).lossSnap = s.lossSnap := rfl
@[simp] theorem State.mbox_updMbox_same (s : State) (k : Nat) (f : Mbox → Mbox) : (s.updMbox k f).mbox k = f (s.mbox k) :=
  Tab.get_upd_same _ _ _ _
theorem State.mbox_updMbox_ne (s : State) {k j : Nat} (f : Mbox → Mbox) (h : j ≠ k) : (s.updMbox k f).mbox j = s.mbox j :=
  Tab.get_upd_ne _ _ _ h

/-! State.updPeer -/

@[simp] theorem State.rd_updPeer (s : State) (k : Nat) (f : PeerInfo → PeerInfo) (j : Nat) : (s.updPeer k f).rd j = s.rd j := rfl
@[simp] theorem State.core_updPeer (s : State) (k : Nat) (f : PeerInfo → PeerInfo) (j : Nat) : (s.updPeer k f).core j = s.core j := rfl
@[simp] theorem State.tile_updPeer (s : State) (k : Nat) (f : PeerInfo → PeerInfo) (j : Nat) : (s.updPeer k f).tile j = s.tile j := rfl
@[simp] theorem State.node_updPeer (s : State) (k : Nat) (f : PeerInfo → PeerInfo) (j : Nat) : (s.updPeer k f).node j = s.node j := rfl
@[simp] theorem State.rtr_updPeer (s : State) (k : Nat) (f : PeerInfo → PeerInfo) (j : Nat) : (s.updPeer k f).rtr j = s.rtr j := rfl
@[simp] theorem State.port_updPeer (s : State) (k : Nat) (f : PeerInfo → PeerInfo) (j : Nat) : (s.updPeer k f).port j = s.port j := rfl
@[simp] theorem State.conn_updPeer (s : State) (k : Nat) (f : PeerInfo → PeerInfo) (j : Nat) : (s.updPeer k f).conn j = s.conn j := rfl
@[simp] theorem State.comb_updPeer (s : State) (k : Nat) (f : PeerInfo → PeerInfo) (j : Nat) : (s.updPeer k f).comb j = s.comb j := rfl
@[simp] theorem State.hring_updPeer (s : State) (k : Nat) (f : PeerInfo → PeerInfo) (j : Nat) : (s.updPeer k f).hring j = s.hring j := rfl
@[simp] theorem State.chan_updPeer (s : State) (k : Nat) (f : PeerInfo → PeerInfo) (j : Nat) : (s.updPeer k f).chan j = s.chan j := rfl
@[simp] theorem State.sport_updPeer (s : State) (k : Nat) (f : PeerInfo → PeerInfo) (j : Nat) : (s.updPeer k f).sport j = s.sport j := rfl
@[simp] theorem State.sctx_updPeer (s : State) (k : Nat) (f : PeerInfo → PeerInfo) (j : Nat) : (s.updPeer k f).sctx j = s.sctx j := rfl
@[simp] theorem State.mbox_updPeer (s : State) (k : Nat) (f : PeerInfo → PeerInfo) (j : Nat) : (s.updPeer k f).mbox j = s.mbox j := rfl
@[simp] theorem State.pathN_updPeer (s : State) (k : Nat) (f : PeerInfo → PeerInfo) (j : Nat) : (s.updPeer k f).pathN j = s.pathN j := rfl
@[simp] theorem State.dom_updPeer (s : State) (k : Nat) (f : PeerInfo → PeerInfo) (j : Nat) : (s.updPeer k f).dom j = s.dom j := rfl
@[simp] theorem State.fuses_updPeer (s : State) (k : Nat) (f : PeerInfo → PeerInfo) : (s.updPeer k f).fuses = s.fuses := rfl
@[simp] theorem State.straps_updPeer (s : State) (k : Nat) (f : PeerInfo → PeerInfo) : (s.updPeer k f).straps = s.straps := rfl
@[simp] theorem State.boot_updPeer (s : State) (k : Nat) (f : PeerInfo → PeerInfo) : (s.updPeer k f).boot = s.boot := rfl
@[simp] theorem State.eng_updPeer (s : State) (k : Nat) (f : PeerInfo → PeerInfo) : (s.updPeer k f).eng = s.eng := rfl
@[simp] theorem State.reconf_updPeer (s : State) (k : Nat) (f : PeerInfo → PeerInfo) : (s.updPeer k f).reconf = s.reconf := rfl
@[simp] theorem State.lrn_updPeer (s : State) (k : Nat) (f : PeerInfo → PeerInfo) : (s.updPeer k f).lrn = s.lrn := rfl
@[simp] theorem State.hostMem_updPeer (s : State) (k : Nat) (f : PeerInfo → PeerInfo) : (s.updPeer k f).hostMem = s.hostMem := rfl
@[simp] theorem State.lpddr_updPeer (s : State) (k : Nat) (f : PeerInfo → PeerInfo) : (s.updPeer k f).lpddr = s.lpddr := rfl
@[simp] theorem State.swap_updPeer (s : State) (k : Nat) (f : PeerInfo → PeerInfo) : (s.updPeer k f).swap = s.swap := rfl
@[simp] theorem State.parks_updPeer (s : State) (k : Nat) (f : PeerInfo → PeerInfo) : (s.updPeer k f).parks = s.parks := rfl
@[simp] theorem State.parkq_updPeer (s : State) (k : Nat) (f : PeerInfo → PeerInfo) : (s.updPeer k f).parkq = s.parkq := rfl
@[simp] theorem State.sch_updPeer (s : State) (k : Nat) (f : PeerInfo → PeerInfo) : (s.updPeer k f).sch = s.sch := rfl
@[simp] theorem State.was_updPeer (s : State) (k : Nat) (f : PeerInfo → PeerInfo) : (s.updPeer k f).was = s.was := rfl
@[simp] theorem State.hits_updPeer (s : State) (k : Nat) (f : PeerInfo → PeerInfo) : (s.updPeer k f).hits = s.hits := rfl
@[simp] theorem State.capOld_updPeer (s : State) (k : Nat) (f : PeerInfo → PeerInfo) : (s.updPeer k f).capOld = s.capOld := rfl
@[simp] theorem State.capPre_updPeer (s : State) (k : Nat) (f : PeerInfo → PeerInfo) : (s.updPeer k f).capPre = s.capPre := rfl
@[simp] theorem State.sdio_updPeer (s : State) (k : Nat) (f : PeerInfo → PeerInfo) : (s.updPeer k f).sdio = s.sdio := rfl
@[simp] theorem State.pcie_updPeer (s : State) (k : Nat) (f : PeerInfo → PeerInfo) : (s.updPeer k f).pcie = s.pcie := rfl
@[simp] theorem State.log_updPeer (s : State) (k : Nat) (f : PeerInfo → PeerInfo) : (s.updPeer k f).log = s.log := rfl
@[simp] theorem State.mon_updPeer (s : State) (k : Nat) (f : PeerInfo → PeerInfo) : (s.updPeer k f).mon = s.mon := rfl
@[simp] theorem State.drains_updPeer (s : State) (k : Nat) (f : PeerInfo → PeerInfo) : (s.updPeer k f).drains = s.drains := rfl
@[simp] theorem State.routes_updPeer (s : State) (k : Nat) (f : PeerInfo → PeerInfo) : (s.updPeer k f).routes = s.routes := rfl
@[simp] theorem State.flights_updPeer (s : State) (k : Nat) (f : PeerInfo → PeerInfo) : (s.updPeer k f).flights = s.flights := rfl
@[simp] theorem State.live_updPeer (s : State) (k : Nat) (f : PeerInfo → PeerInfo) : (s.updPeer k f).live = s.live := rfl
@[simp] theorem State.ids_updPeer (s : State) (k : Nat) (f : PeerInfo → PeerInfo) : (s.updPeer k f).ids = s.ids := rfl
@[simp] theorem State.now_updPeer (s : State) (k : Nat) (f : PeerInfo → PeerInfo) : (s.updPeer k f).now = s.now := rfl
@[simp] theorem State.slew_updPeer (s : State) (k : Nat) (f : PeerInfo → PeerInfo) : (s.updPeer k f).slew = s.slew := rfl
@[simp] theorem State.scrub_updPeer (s : State) (k : Nat) (f : PeerInfo → PeerInfo) : (s.updPeer k f).scrub = s.scrub := rfl
@[simp] theorem State.scrubbed_updPeer (s : State) (k : Nat) (f : PeerInfo → PeerInfo) : (s.updPeer k f).scrubbed = s.scrubbed := rfl
@[simp] theorem State.free_updPeer (s : State) (k : Nat) (f : PeerInfo → PeerInfo) : (s.updPeer k f).free = s.free := rfl
@[simp] theorem State.pending_updPeer (s : State) (k : Nat) (f : PeerInfo → PeerInfo) : (s.updPeer k f).pending = s.pending := rfl
@[simp] theorem State.cc_updPeer (s : State) (k : Nat) (f : PeerInfo → PeerInfo) : (s.updPeer k f).cc = s.cc := rfl
@[simp] theorem State.turnR_updPeer (s : State) (k : Nat) (f : PeerInfo → PeerInfo) : (s.updPeer k f).turnR = s.turnR := rfl
@[simp] theorem State.turnW_updPeer (s : State) (k : Nat) (f : PeerInfo → PeerInfo) : (s.updPeer k f).turnW = s.turnW := rfl
@[simp] theorem State.lossSnap_updPeer (s : State) (k : Nat) (f : PeerInfo → PeerInfo) : (s.updPeer k f).lossSnap = s.lossSnap := rfl
@[simp] theorem State.peer_updPeer_same (s : State) (k : Nat) (f : PeerInfo → PeerInfo) : (s.updPeer k f).peer k = f (s.peer k) :=
  Tab.get_upd_same _ _ _ _
theorem State.peer_updPeer_ne (s : State) {k j : Nat} (f : PeerInfo → PeerInfo) (h : j ≠ k) : (s.updPeer k f).peer j = s.peer j :=
  Tab.get_upd_ne _ _ _ h

/-! State.updPathN -/

@[simp] theorem State.rd_updPathN (s : State) (k : Nat) (f : PathSt → PathSt) (j : Nat) : (s.updPathN k f).rd j = s.rd j := rfl
@[simp] theorem State.core_updPathN (s : State) (k : Nat) (f : PathSt → PathSt) (j : Nat) : (s.updPathN k f).core j = s.core j := rfl
@[simp] theorem State.tile_updPathN (s : State) (k : Nat) (f : PathSt → PathSt) (j : Nat) : (s.updPathN k f).tile j = s.tile j := rfl
@[simp] theorem State.node_updPathN (s : State) (k : Nat) (f : PathSt → PathSt) (j : Nat) : (s.updPathN k f).node j = s.node j := rfl
@[simp] theorem State.rtr_updPathN (s : State) (k : Nat) (f : PathSt → PathSt) (j : Nat) : (s.updPathN k f).rtr j = s.rtr j := rfl
@[simp] theorem State.port_updPathN (s : State) (k : Nat) (f : PathSt → PathSt) (j : Nat) : (s.updPathN k f).port j = s.port j := rfl
@[simp] theorem State.conn_updPathN (s : State) (k : Nat) (f : PathSt → PathSt) (j : Nat) : (s.updPathN k f).conn j = s.conn j := rfl
@[simp] theorem State.comb_updPathN (s : State) (k : Nat) (f : PathSt → PathSt) (j : Nat) : (s.updPathN k f).comb j = s.comb j := rfl
@[simp] theorem State.hring_updPathN (s : State) (k : Nat) (f : PathSt → PathSt) (j : Nat) : (s.updPathN k f).hring j = s.hring j := rfl
@[simp] theorem State.chan_updPathN (s : State) (k : Nat) (f : PathSt → PathSt) (j : Nat) : (s.updPathN k f).chan j = s.chan j := rfl
@[simp] theorem State.sport_updPathN (s : State) (k : Nat) (f : PathSt → PathSt) (j : Nat) : (s.updPathN k f).sport j = s.sport j := rfl
@[simp] theorem State.sctx_updPathN (s : State) (k : Nat) (f : PathSt → PathSt) (j : Nat) : (s.updPathN k f).sctx j = s.sctx j := rfl
@[simp] theorem State.mbox_updPathN (s : State) (k : Nat) (f : PathSt → PathSt) (j : Nat) : (s.updPathN k f).mbox j = s.mbox j := rfl
@[simp] theorem State.peer_updPathN (s : State) (k : Nat) (f : PathSt → PathSt) (j : Nat) : (s.updPathN k f).peer j = s.peer j := rfl
@[simp] theorem State.dom_updPathN (s : State) (k : Nat) (f : PathSt → PathSt) (j : Nat) : (s.updPathN k f).dom j = s.dom j := rfl
@[simp] theorem State.fuses_updPathN (s : State) (k : Nat) (f : PathSt → PathSt) : (s.updPathN k f).fuses = s.fuses := rfl
@[simp] theorem State.straps_updPathN (s : State) (k : Nat) (f : PathSt → PathSt) : (s.updPathN k f).straps = s.straps := rfl
@[simp] theorem State.boot_updPathN (s : State) (k : Nat) (f : PathSt → PathSt) : (s.updPathN k f).boot = s.boot := rfl
@[simp] theorem State.eng_updPathN (s : State) (k : Nat) (f : PathSt → PathSt) : (s.updPathN k f).eng = s.eng := rfl
@[simp] theorem State.reconf_updPathN (s : State) (k : Nat) (f : PathSt → PathSt) : (s.updPathN k f).reconf = s.reconf := rfl
@[simp] theorem State.lrn_updPathN (s : State) (k : Nat) (f : PathSt → PathSt) : (s.updPathN k f).lrn = s.lrn := rfl
@[simp] theorem State.hostMem_updPathN (s : State) (k : Nat) (f : PathSt → PathSt) : (s.updPathN k f).hostMem = s.hostMem := rfl
@[simp] theorem State.lpddr_updPathN (s : State) (k : Nat) (f : PathSt → PathSt) : (s.updPathN k f).lpddr = s.lpddr := rfl
@[simp] theorem State.swap_updPathN (s : State) (k : Nat) (f : PathSt → PathSt) : (s.updPathN k f).swap = s.swap := rfl
@[simp] theorem State.parks_updPathN (s : State) (k : Nat) (f : PathSt → PathSt) : (s.updPathN k f).parks = s.parks := rfl
@[simp] theorem State.parkq_updPathN (s : State) (k : Nat) (f : PathSt → PathSt) : (s.updPathN k f).parkq = s.parkq := rfl
@[simp] theorem State.sch_updPathN (s : State) (k : Nat) (f : PathSt → PathSt) : (s.updPathN k f).sch = s.sch := rfl
@[simp] theorem State.was_updPathN (s : State) (k : Nat) (f : PathSt → PathSt) : (s.updPathN k f).was = s.was := rfl
@[simp] theorem State.hits_updPathN (s : State) (k : Nat) (f : PathSt → PathSt) : (s.updPathN k f).hits = s.hits := rfl
@[simp] theorem State.capOld_updPathN (s : State) (k : Nat) (f : PathSt → PathSt) : (s.updPathN k f).capOld = s.capOld := rfl
@[simp] theorem State.capPre_updPathN (s : State) (k : Nat) (f : PathSt → PathSt) : (s.updPathN k f).capPre = s.capPre := rfl
@[simp] theorem State.sdio_updPathN (s : State) (k : Nat) (f : PathSt → PathSt) : (s.updPathN k f).sdio = s.sdio := rfl
@[simp] theorem State.pcie_updPathN (s : State) (k : Nat) (f : PathSt → PathSt) : (s.updPathN k f).pcie = s.pcie := rfl
@[simp] theorem State.log_updPathN (s : State) (k : Nat) (f : PathSt → PathSt) : (s.updPathN k f).log = s.log := rfl
@[simp] theorem State.mon_updPathN (s : State) (k : Nat) (f : PathSt → PathSt) : (s.updPathN k f).mon = s.mon := rfl
@[simp] theorem State.drains_updPathN (s : State) (k : Nat) (f : PathSt → PathSt) : (s.updPathN k f).drains = s.drains := rfl
@[simp] theorem State.routes_updPathN (s : State) (k : Nat) (f : PathSt → PathSt) : (s.updPathN k f).routes = s.routes := rfl
@[simp] theorem State.flights_updPathN (s : State) (k : Nat) (f : PathSt → PathSt) : (s.updPathN k f).flights = s.flights := rfl
@[simp] theorem State.live_updPathN (s : State) (k : Nat) (f : PathSt → PathSt) : (s.updPathN k f).live = s.live := rfl
@[simp] theorem State.ids_updPathN (s : State) (k : Nat) (f : PathSt → PathSt) : (s.updPathN k f).ids = s.ids := rfl
@[simp] theorem State.now_updPathN (s : State) (k : Nat) (f : PathSt → PathSt) : (s.updPathN k f).now = s.now := rfl
@[simp] theorem State.slew_updPathN (s : State) (k : Nat) (f : PathSt → PathSt) : (s.updPathN k f).slew = s.slew := rfl
@[simp] theorem State.scrub_updPathN (s : State) (k : Nat) (f : PathSt → PathSt) : (s.updPathN k f).scrub = s.scrub := rfl
@[simp] theorem State.scrubbed_updPathN (s : State) (k : Nat) (f : PathSt → PathSt) : (s.updPathN k f).scrubbed = s.scrubbed := rfl
@[simp] theorem State.free_updPathN (s : State) (k : Nat) (f : PathSt → PathSt) : (s.updPathN k f).free = s.free := rfl
@[simp] theorem State.pending_updPathN (s : State) (k : Nat) (f : PathSt → PathSt) : (s.updPathN k f).pending = s.pending := rfl
@[simp] theorem State.cc_updPathN (s : State) (k : Nat) (f : PathSt → PathSt) : (s.updPathN k f).cc = s.cc := rfl
@[simp] theorem State.turnR_updPathN (s : State) (k : Nat) (f : PathSt → PathSt) : (s.updPathN k f).turnR = s.turnR := rfl
@[simp] theorem State.turnW_updPathN (s : State) (k : Nat) (f : PathSt → PathSt) : (s.updPathN k f).turnW = s.turnW := rfl
@[simp] theorem State.lossSnap_updPathN (s : State) (k : Nat) (f : PathSt → PathSt) : (s.updPathN k f).lossSnap = s.lossSnap := rfl
@[simp] theorem State.pathN_updPathN_same (s : State) (k : Nat) (f : PathSt → PathSt) : (s.updPathN k f).pathN k = f (s.pathN k) :=
  Tab.get_upd_same _ _ _ _
theorem State.pathN_updPathN_ne (s : State) {k j : Nat} (f : PathSt → PathSt) (h : j ≠ k) : (s.updPathN k f).pathN j = s.pathN j :=
  Tab.get_upd_ne _ _ _ h

/-! State.updDom -/

@[simp] theorem State.rd_updDom (s : State) (k : Nat) (f : Dom → Dom) (j : Nat) : (s.updDom k f).rd j = s.rd j := rfl
@[simp] theorem State.core_updDom (s : State) (k : Nat) (f : Dom → Dom) (j : Nat) : (s.updDom k f).core j = s.core j := rfl
@[simp] theorem State.tile_updDom (s : State) (k : Nat) (f : Dom → Dom) (j : Nat) : (s.updDom k f).tile j = s.tile j := rfl
@[simp] theorem State.node_updDom (s : State) (k : Nat) (f : Dom → Dom) (j : Nat) : (s.updDom k f).node j = s.node j := rfl
@[simp] theorem State.rtr_updDom (s : State) (k : Nat) (f : Dom → Dom) (j : Nat) : (s.updDom k f).rtr j = s.rtr j := rfl
@[simp] theorem State.port_updDom (s : State) (k : Nat) (f : Dom → Dom) (j : Nat) : (s.updDom k f).port j = s.port j := rfl
@[simp] theorem State.conn_updDom (s : State) (k : Nat) (f : Dom → Dom) (j : Nat) : (s.updDom k f).conn j = s.conn j := rfl
@[simp] theorem State.comb_updDom (s : State) (k : Nat) (f : Dom → Dom) (j : Nat) : (s.updDom k f).comb j = s.comb j := rfl
@[simp] theorem State.hring_updDom (s : State) (k : Nat) (f : Dom → Dom) (j : Nat) : (s.updDom k f).hring j = s.hring j := rfl
@[simp] theorem State.chan_updDom (s : State) (k : Nat) (f : Dom → Dom) (j : Nat) : (s.updDom k f).chan j = s.chan j := rfl
@[simp] theorem State.sport_updDom (s : State) (k : Nat) (f : Dom → Dom) (j : Nat) : (s.updDom k f).sport j = s.sport j := rfl
@[simp] theorem State.sctx_updDom (s : State) (k : Nat) (f : Dom → Dom) (j : Nat) : (s.updDom k f).sctx j = s.sctx j := rfl
@[simp] theorem State.mbox_updDom (s : State) (k : Nat) (f : Dom → Dom) (j : Nat) : (s.updDom k f).mbox j = s.mbox j := rfl
@[simp] theorem State.peer_updDom (s : State) (k : Nat) (f : Dom → Dom) (j : Nat) : (s.updDom k f).peer j = s.peer j := rfl
@[simp] theorem State.pathN_updDom (s : State) (k : Nat) (f : Dom → Dom) (j : Nat) : (s.updDom k f).pathN j = s.pathN j := rfl
@[simp] theorem State.fuses_updDom (s : State) (k : Nat) (f : Dom → Dom) : (s.updDom k f).fuses = s.fuses := rfl
@[simp] theorem State.straps_updDom (s : State) (k : Nat) (f : Dom → Dom) : (s.updDom k f).straps = s.straps := rfl
@[simp] theorem State.boot_updDom (s : State) (k : Nat) (f : Dom → Dom) : (s.updDom k f).boot = s.boot := rfl
@[simp] theorem State.eng_updDom (s : State) (k : Nat) (f : Dom → Dom) : (s.updDom k f).eng = s.eng := rfl
@[simp] theorem State.reconf_updDom (s : State) (k : Nat) (f : Dom → Dom) : (s.updDom k f).reconf = s.reconf := rfl
@[simp] theorem State.lrn_updDom (s : State) (k : Nat) (f : Dom → Dom) : (s.updDom k f).lrn = s.lrn := rfl
@[simp] theorem State.hostMem_updDom (s : State) (k : Nat) (f : Dom → Dom) : (s.updDom k f).hostMem = s.hostMem := rfl
@[simp] theorem State.lpddr_updDom (s : State) (k : Nat) (f : Dom → Dom) : (s.updDom k f).lpddr = s.lpddr := rfl
@[simp] theorem State.swap_updDom (s : State) (k : Nat) (f : Dom → Dom) : (s.updDom k f).swap = s.swap := rfl
@[simp] theorem State.parks_updDom (s : State) (k : Nat) (f : Dom → Dom) : (s.updDom k f).parks = s.parks := rfl
@[simp] theorem State.parkq_updDom (s : State) (k : Nat) (f : Dom → Dom) : (s.updDom k f).parkq = s.parkq := rfl
@[simp] theorem State.sch_updDom (s : State) (k : Nat) (f : Dom → Dom) : (s.updDom k f).sch = s.sch := rfl
@[simp] theorem State.was_updDom (s : State) (k : Nat) (f : Dom → Dom) : (s.updDom k f).was = s.was := rfl
@[simp] theorem State.hits_updDom (s : State) (k : Nat) (f : Dom → Dom) : (s.updDom k f).hits = s.hits := rfl
@[simp] theorem State.capOld_updDom (s : State) (k : Nat) (f : Dom → Dom) : (s.updDom k f).capOld = s.capOld := rfl
@[simp] theorem State.capPre_updDom (s : State) (k : Nat) (f : Dom → Dom) : (s.updDom k f).capPre = s.capPre := rfl
@[simp] theorem State.sdio_updDom (s : State) (k : Nat) (f : Dom → Dom) : (s.updDom k f).sdio = s.sdio := rfl
@[simp] theorem State.pcie_updDom (s : State) (k : Nat) (f : Dom → Dom) : (s.updDom k f).pcie = s.pcie := rfl
@[simp] theorem State.log_updDom (s : State) (k : Nat) (f : Dom → Dom) : (s.updDom k f).log = s.log := rfl
@[simp] theorem State.mon_updDom (s : State) (k : Nat) (f : Dom → Dom) : (s.updDom k f).mon = s.mon := rfl
@[simp] theorem State.drains_updDom (s : State) (k : Nat) (f : Dom → Dom) : (s.updDom k f).drains = s.drains := rfl
@[simp] theorem State.routes_updDom (s : State) (k : Nat) (f : Dom → Dom) : (s.updDom k f).routes = s.routes := rfl
@[simp] theorem State.flights_updDom (s : State) (k : Nat) (f : Dom → Dom) : (s.updDom k f).flights = s.flights := rfl
@[simp] theorem State.live_updDom (s : State) (k : Nat) (f : Dom → Dom) : (s.updDom k f).live = s.live := rfl
@[simp] theorem State.ids_updDom (s : State) (k : Nat) (f : Dom → Dom) : (s.updDom k f).ids = s.ids := rfl
@[simp] theorem State.now_updDom (s : State) (k : Nat) (f : Dom → Dom) : (s.updDom k f).now = s.now := rfl
@[simp] theorem State.slew_updDom (s : State) (k : Nat) (f : Dom → Dom) : (s.updDom k f).slew = s.slew := rfl
@[simp] theorem State.scrub_updDom (s : State) (k : Nat) (f : Dom → Dom) : (s.updDom k f).scrub = s.scrub := rfl
@[simp] theorem State.scrubbed_updDom (s : State) (k : Nat) (f : Dom → Dom) : (s.updDom k f).scrubbed = s.scrubbed := rfl
@[simp] theorem State.free_updDom (s : State) (k : Nat) (f : Dom → Dom) : (s.updDom k f).free = s.free := rfl
@[simp] theorem State.pending_updDom (s : State) (k : Nat) (f : Dom → Dom) : (s.updDom k f).pending = s.pending := rfl
@[simp] theorem State.cc_updDom (s : State) (k : Nat) (f : Dom → Dom) : (s.updDom k f).cc = s.cc := rfl
@[simp] theorem State.turnR_updDom (s : State) (k : Nat) (f : Dom → Dom) : (s.updDom k f).turnR = s.turnR := rfl
@[simp] theorem State.turnW_updDom (s : State) (k : Nat) (f : Dom → Dom) : (s.updDom k f).turnW = s.turnW := rfl
@[simp] theorem State.lossSnap_updDom (s : State) (k : Nat) (f : Dom → Dom) : (s.updDom k f).lossSnap = s.lossSnap := rfl
@[simp] theorem State.dom_updDom_same (s : State) (k : Nat) (f : Dom → Dom) : (s.updDom k f).dom k = f (s.dom k) :=
  Tab.get_upd_same _ _ _ _
theorem State.dom_updDom_ne (s : State) {k j : Nat} (f : Dom → Dom) (h : j ≠ k) : (s.updDom k f).dom j = s.dom j :=
  Tab.get_upd_ne _ _ _ h

/-! State.wn -/

@[simp] theorem State.core_wn (s : State) (k v : Nat) (j : Nat) : (s.wn k v).core j = s.core j := rfl
@[simp] theorem State.tile_wn (s : State) (k v : Nat) (j : Nat) : (s.wn k v).tile j = s.tile j := rfl
@[simp] theorem State.node_wn (s : State) (k v : Nat) (j : Nat) : (s.wn k v).node j = s.node j := rfl
@[simp] theorem State.rtr_wn (s : State) (k v : Nat) (j : Nat) : (s.wn k v).rtr j = s.rtr j := rfl
@[simp] theorem State.port_wn (s : State) (k v : Nat) (j : Nat) : (s.wn k v).port j = s.port j := rfl
@[simp] theorem State.conn_wn (s : State) (k v : Nat) (j : Nat) : (s.wn k v).conn j = s.conn j := rfl
@[simp] theorem State.comb_wn (s : State) (k v : Nat) (j : Nat) : (s.wn k v).comb j = s.comb j := rfl
@[simp] theorem State.hring_wn (s : State) (k v : Nat) (j : Nat) : (s.wn k v).hring j = s.hring j := rfl
@[simp] theorem State.chan_wn (s : State) (k v : Nat) (j : Nat) : (s.wn k v).chan j = s.chan j := rfl
@[simp] theorem State.sport_wn (s : State) (k v : Nat) (j : Nat) : (s.wn k v).sport j = s.sport j := rfl
@[simp] theorem State.sctx_wn (s : State) (k v : Nat) (j : Nat) : (s.wn k v).sctx j = s.sctx j := rfl
@[simp] theorem State.mbox_wn (s : State) (k v : Nat) (j : Nat) : (s.wn k v).mbox j = s.mbox j := rfl
@[simp] theorem State.peer_wn (s : State) (k v : Nat) (j : Nat) : (s.wn k v).peer j = s.peer j := rfl
@[simp] theorem State.pathN_wn (s : State) (k v : Nat) (j : Nat) : (s.wn k v).pathN j = s.pathN j := rfl
@[simp] theorem State.dom_wn (s : State) (k v : Nat) (j : Nat) : (s.wn k v).dom j = s.dom j := rfl
@[simp] theorem State.fuses_wn (s : State) (k v : Nat) : (s.wn k v).fuses = s.fuses := rfl
@[simp] theorem State.straps_wn (s : State) (k v : Nat) : (s.wn k v).straps = s.straps := rfl
@[simp] theorem State.boot_wn (s : State) (k v : Nat) : (s.wn k v).boot = s.boot := rfl
@[simp] theorem State.eng_wn (s : State) (k v : Nat) : (s.wn k v).eng = s.eng := rfl
@[simp] theorem State.reconf_wn (s : State) (k v : Nat) : (s.wn k v).reconf = s.reconf := rfl
@[simp] theorem State.lrn_wn (s : State) (k v : Nat) : (s.wn k v).lrn = s.lrn := rfl
@[simp] theorem State.hostMem_wn (s : State) (k v : Nat) : (s.wn k v).hostMem = s.hostMem := rfl
@[simp] theorem State.lpddr_wn (s : State) (k v : Nat) : (s.wn k v).lpddr = s.lpddr := rfl
@[simp] theorem State.swap_wn (s : State) (k v : Nat) : (s.wn k v).swap = s.swap := rfl
@[simp] theorem State.parks_wn (s : State) (k v : Nat) : (s.wn k v).parks = s.parks := rfl
@[simp] theorem State.parkq_wn (s : State) (k v : Nat) : (s.wn k v).parkq = s.parkq := rfl
@[simp] theorem State.sch_wn (s : State) (k v : Nat) : (s.wn k v).sch = s.sch := rfl
@[simp] theorem State.was_wn (s : State) (k v : Nat) : (s.wn k v).was = s.was := rfl
@[simp] theorem State.hits_wn (s : State) (k v : Nat) : (s.wn k v).hits = s.hits := rfl
@[simp] theorem State.capOld_wn (s : State) (k v : Nat) : (s.wn k v).capOld = s.capOld := rfl
@[simp] theorem State.capPre_wn (s : State) (k v : Nat) : (s.wn k v).capPre = s.capPre := rfl
@[simp] theorem State.sdio_wn (s : State) (k v : Nat) : (s.wn k v).sdio = s.sdio := rfl
@[simp] theorem State.pcie_wn (s : State) (k v : Nat) : (s.wn k v).pcie = s.pcie := rfl
@[simp] theorem State.log_wn (s : State) (k v : Nat) : (s.wn k v).log = s.log := rfl
@[simp] theorem State.mon_wn (s : State) (k v : Nat) : (s.wn k v).mon = s.mon := rfl
@[simp] theorem State.drains_wn (s : State) (k v : Nat) : (s.wn k v).drains = s.drains := rfl
@[simp] theorem State.routes_wn (s : State) (k v : Nat) : (s.wn k v).routes = s.routes := rfl
@[simp] theorem State.flights_wn (s : State) (k v : Nat) : (s.wn k v).flights = s.flights := rfl
@[simp] theorem State.live_wn (s : State) (k v : Nat) : (s.wn k v).live = s.live := rfl
@[simp] theorem State.ids_wn (s : State) (k v : Nat) : (s.wn k v).ids = s.ids := rfl
@[simp] theorem State.now_wn (s : State) (k v : Nat) : (s.wn k v).now = s.now := rfl
@[simp] theorem State.slew_wn (s : State) (k v : Nat) : (s.wn k v).slew = s.slew := rfl
@[simp] theorem State.scrub_wn (s : State) (k v : Nat) : (s.wn k v).scrub = s.scrub := rfl
@[simp] theorem State.scrubbed_wn (s : State) (k v : Nat) : (s.wn k v).scrubbed = s.scrubbed := rfl
@[simp] theorem State.free_wn (s : State) (k v : Nat) : (s.wn k v).free = s.free := rfl
@[simp] theorem State.pending_wn (s : State) (k v : Nat) : (s.wn k v).pending = s.pending := rfl
@[simp] theorem State.cc_wn (s : State) (k v : Nat) : (s.wn k v).cc = s.cc := rfl
@[simp] theorem State.turnR_wn (s : State) (k v : Nat) : (s.wn k v).turnR = s.turnR := rfl
@[simp] theorem State.turnW_wn (s : State) (k v : Nat) : (s.wn k v).turnW = s.turnW := rfl
@[simp] theorem State.lossSnap_wn (s : State) (k v : Nat) : (s.wn k v).lossSnap = s.lossSnap := rfl

/-! State.bumpBy -/

@[simp] theorem State.core_bumpBy (s : State) (w k n : Nat) (j : Nat) : (s.bumpBy w k n).core j = s.core j := rfl
@[simp] theorem State.tile_bumpBy (s : State) (w k n : Nat) (j : Nat) : (s.bumpBy w k n).tile j = s.tile j := rfl
@[simp] theorem State.node_bumpBy (s : State) (w k n : Nat) (j : Nat) : (s.bumpBy w k n).node j = s.node j := rfl
@[simp] theorem State.rtr_bumpBy (s : State) (w k n : Nat) (j : Nat) : (s.bumpBy w k n).rtr j = s.rtr j := rfl
@[simp] theorem State.port_bumpBy (s : State) (w k n : Nat) (j : Nat) : (s.bumpBy w k n).port j = s.port j := rfl
@[simp] theorem State.conn_bumpBy (s : State) (w k n : Nat) (j : Nat) : (s.bumpBy w k n).conn j = s.conn j := rfl
@[simp] theorem State.comb_bumpBy (s : State) (w k n : Nat) (j : Nat) : (s.bumpBy w k n).comb j = s.comb j := rfl
@[simp] theorem State.hring_bumpBy (s : State) (w k n : Nat) (j : Nat) : (s.bumpBy w k n).hring j = s.hring j := rfl
@[simp] theorem State.chan_bumpBy (s : State) (w k n : Nat) (j : Nat) : (s.bumpBy w k n).chan j = s.chan j := rfl
@[simp] theorem State.sport_bumpBy (s : State) (w k n : Nat) (j : Nat) : (s.bumpBy w k n).sport j = s.sport j := rfl
@[simp] theorem State.sctx_bumpBy (s : State) (w k n : Nat) (j : Nat) : (s.bumpBy w k n).sctx j = s.sctx j := rfl
@[simp] theorem State.mbox_bumpBy (s : State) (w k n : Nat) (j : Nat) : (s.bumpBy w k n).mbox j = s.mbox j := rfl
@[simp] theorem State.peer_bumpBy (s : State) (w k n : Nat) (j : Nat) : (s.bumpBy w k n).peer j = s.peer j := rfl
@[simp] theorem State.pathN_bumpBy (s : State) (w k n : Nat) (j : Nat) : (s.bumpBy w k n).pathN j = s.pathN j := rfl
@[simp] theorem State.dom_bumpBy (s : State) (w k n : Nat) (j : Nat) : (s.bumpBy w k n).dom j = s.dom j := rfl
@[simp] theorem State.fuses_bumpBy (s : State) (w k n : Nat) : (s.bumpBy w k n).fuses = s.fuses := rfl
@[simp] theorem State.straps_bumpBy (s : State) (w k n : Nat) : (s.bumpBy w k n).straps = s.straps := rfl
@[simp] theorem State.boot_bumpBy (s : State) (w k n : Nat) : (s.bumpBy w k n).boot = s.boot := rfl
@[simp] theorem State.eng_bumpBy (s : State) (w k n : Nat) : (s.bumpBy w k n).eng = s.eng := rfl
@[simp] theorem State.reconf_bumpBy (s : State) (w k n : Nat) : (s.bumpBy w k n).reconf = s.reconf := rfl
@[simp] theorem State.lrn_bumpBy (s : State) (w k n : Nat) : (s.bumpBy w k n).lrn = s.lrn := rfl
@[simp] theorem State.hostMem_bumpBy (s : State) (w k n : Nat) : (s.bumpBy w k n).hostMem = s.hostMem := rfl
@[simp] theorem State.lpddr_bumpBy (s : State) (w k n : Nat) : (s.bumpBy w k n).lpddr = s.lpddr := rfl
@[simp] theorem State.swap_bumpBy (s : State) (w k n : Nat) : (s.bumpBy w k n).swap = s.swap := rfl
@[simp] theorem State.parks_bumpBy (s : State) (w k n : Nat) : (s.bumpBy w k n).parks = s.parks := rfl
@[simp] theorem State.parkq_bumpBy (s : State) (w k n : Nat) : (s.bumpBy w k n).parkq = s.parkq := rfl
@[simp] theorem State.sch_bumpBy (s : State) (w k n : Nat) : (s.bumpBy w k n).sch = s.sch := rfl
@[simp] theorem State.was_bumpBy (s : State) (w k n : Nat) : (s.bumpBy w k n).was = s.was := rfl
@[simp] theorem State.hits_bumpBy (s : State) (w k n : Nat) : (s.bumpBy w k n).hits = s.hits := rfl
@[simp] theorem State.capOld_bumpBy (s : State) (w k n : Nat) : (s.bumpBy w k n).capOld = s.capOld := rfl
@[simp] theorem State.capPre_bumpBy (s : State) (w k n : Nat) : (s.bumpBy w k n).capPre = s.capPre := rfl
@[simp] theorem State.sdio_bumpBy (s : State) (w k n : Nat) : (s.bumpBy w k n).sdio = s.sdio := rfl
@[simp] theorem State.pcie_bumpBy (s : State) (w k n : Nat) : (s.bumpBy w k n).pcie = s.pcie := rfl
@[simp] theorem State.log_bumpBy (s : State) (w k n : Nat) : (s.bumpBy w k n).log = s.log := rfl
@[simp] theorem State.mon_bumpBy (s : State) (w k n : Nat) : (s.bumpBy w k n).mon = s.mon := rfl
@[simp] theorem State.drains_bumpBy (s : State) (w k n : Nat) : (s.bumpBy w k n).drains = s.drains := rfl
@[simp] theorem State.routes_bumpBy (s : State) (w k n : Nat) : (s.bumpBy w k n).routes = s.routes := rfl
@[simp] theorem State.flights_bumpBy (s : State) (w k n : Nat) : (s.bumpBy w k n).flights = s.flights := rfl
@[simp] theorem State.live_bumpBy (s : State) (w k n : Nat) : (s.bumpBy w k n).live = s.live := rfl
@[simp] theorem State.ids_bumpBy (s : State) (w k n : Nat) : (s.bumpBy w k n).ids = s.ids := rfl
@[simp] theorem State.now_bumpBy (s : State) (w k n : Nat) : (s.bumpBy w k n).now = s.now := rfl
@[simp] theorem State.slew_bumpBy (s : State) (w k n : Nat) : (s.bumpBy w k n).slew = s.slew := rfl
@[simp] theorem State.scrub_bumpBy (s : State) (w k n : Nat) : (s.bumpBy w k n).scrub = s.scrub := rfl
@[simp] theorem State.scrubbed_bumpBy (s : State) (w k n : Nat) : (s.bumpBy w k n).scrubbed = s.scrubbed := rfl
@[simp] theorem State.free_bumpBy (s : State) (w k n : Nat) : (s.bumpBy w k n).free = s.free := rfl
@[simp] theorem State.pending_bumpBy (s : State) (w k n : Nat) : (s.bumpBy w k n).pending = s.pending := rfl
@[simp] theorem State.cc_bumpBy (s : State) (w k n : Nat) : (s.bumpBy w k n).cc = s.cc := rfl
@[simp] theorem State.turnR_bumpBy (s : State) (w k n : Nat) : (s.bumpBy w k n).turnR = s.turnR := rfl
@[simp] theorem State.turnW_bumpBy (s : State) (w k n : Nat) : (s.bumpBy w k n).turnW = s.turnW := rfl
@[simp] theorem State.lossSnap_bumpBy (s : State) (w k n : Nat) : (s.bumpBy w k n).lossSnap = s.lossSnap := rfl

/-! State.bump -/

@[simp] theorem State.core_bump (s : State) (k : Nat) (j : Nat) : (s.bump k).core j = s.core j := rfl
@[simp] theorem State.tile_bump (s : State) (k : Nat) (j : Nat) : (s.bump k).tile j = s.tile j := rfl
@[simp] theorem State.node_bump (s : State) (k : Nat) (j : Nat) : (s.bump k).node j = s.node j := rfl
@[simp] theorem State.rtr_bump (s : State) (k : Nat) (j : Nat) : (s.bump k).rtr j = s.rtr j := rfl
@[simp] theorem State.port_bump (s : State) (k : Nat) (j : Nat) : (s.bump k).port j = s.port j := rfl
@[simp] theorem State.conn_bump (s : State) (k : Nat) (j : Nat) : (s.bump k).conn j = s.conn j := rfl
@[simp] theorem State.comb_bump (s : State) (k : Nat) (j : Nat) : (s.bump k).comb j = s.comb j := rfl
@[simp] theorem State.hring_bump (s : State) (k : Nat) (j : Nat) : (s.bump k).hring j = s.hring j := rfl
@[simp] theorem State.chan_bump (s : State) (k : Nat) (j : Nat) : (s.bump k).chan j = s.chan j := rfl
@[simp] theorem State.sport_bump (s : State) (k : Nat) (j : Nat) : (s.bump k).sport j = s.sport j := rfl
@[simp] theorem State.sctx_bump (s : State) (k : Nat) (j : Nat) : (s.bump k).sctx j = s.sctx j := rfl
@[simp] theorem State.mbox_bump (s : State) (k : Nat) (j : Nat) : (s.bump k).mbox j = s.mbox j := rfl
@[simp] theorem State.peer_bump (s : State) (k : Nat) (j : Nat) : (s.bump k).peer j = s.peer j := rfl
@[simp] theorem State.pathN_bump (s : State) (k : Nat) (j : Nat) : (s.bump k).pathN j = s.pathN j := rfl
@[simp] theorem State.dom_bump (s : State) (k : Nat) (j : Nat) : (s.bump k).dom j = s.dom j := rfl
@[simp] theorem State.fuses_bump (s : State) (k : Nat) : (s.bump k).fuses = s.fuses := rfl
@[simp] theorem State.straps_bump (s : State) (k : Nat) : (s.bump k).straps = s.straps := rfl
@[simp] theorem State.boot_bump (s : State) (k : Nat) : (s.bump k).boot = s.boot := rfl
@[simp] theorem State.eng_bump (s : State) (k : Nat) : (s.bump k).eng = s.eng := rfl
@[simp] theorem State.reconf_bump (s : State) (k : Nat) : (s.bump k).reconf = s.reconf := rfl
@[simp] theorem State.lrn_bump (s : State) (k : Nat) : (s.bump k).lrn = s.lrn := rfl
@[simp] theorem State.hostMem_bump (s : State) (k : Nat) : (s.bump k).hostMem = s.hostMem := rfl
@[simp] theorem State.lpddr_bump (s : State) (k : Nat) : (s.bump k).lpddr = s.lpddr := rfl
@[simp] theorem State.swap_bump (s : State) (k : Nat) : (s.bump k).swap = s.swap := rfl
@[simp] theorem State.parks_bump (s : State) (k : Nat) : (s.bump k).parks = s.parks := rfl
@[simp] theorem State.parkq_bump (s : State) (k : Nat) : (s.bump k).parkq = s.parkq := rfl
@[simp] theorem State.sch_bump (s : State) (k : Nat) : (s.bump k).sch = s.sch := rfl
@[simp] theorem State.was_bump (s : State) (k : Nat) : (s.bump k).was = s.was := rfl
@[simp] theorem State.hits_bump (s : State) (k : Nat) : (s.bump k).hits = s.hits := rfl
@[simp] theorem State.capOld_bump (s : State) (k : Nat) : (s.bump k).capOld = s.capOld := rfl
@[simp] theorem State.capPre_bump (s : State) (k : Nat) : (s.bump k).capPre = s.capPre := rfl
@[simp] theorem State.sdio_bump (s : State) (k : Nat) : (s.bump k).sdio = s.sdio := rfl
@[simp] theorem State.pcie_bump (s : State) (k : Nat) : (s.bump k).pcie = s.pcie := rfl
@[simp] theorem State.log_bump (s : State) (k : Nat) : (s.bump k).log = s.log := rfl
@[simp] theorem State.mon_bump (s : State) (k : Nat) : (s.bump k).mon = s.mon := rfl
@[simp] theorem State.drains_bump (s : State) (k : Nat) : (s.bump k).drains = s.drains := rfl
@[simp] theorem State.routes_bump (s : State) (k : Nat) : (s.bump k).routes = s.routes := rfl
@[simp] theorem State.flights_bump (s : State) (k : Nat) : (s.bump k).flights = s.flights := rfl
@[simp] theorem State.live_bump (s : State) (k : Nat) : (s.bump k).live = s.live := rfl
@[simp] theorem State.ids_bump (s : State) (k : Nat) : (s.bump k).ids = s.ids := rfl
@[simp] theorem State.now_bump (s : State) (k : Nat) : (s.bump k).now = s.now := rfl
@[simp] theorem State.slew_bump (s : State) (k : Nat) : (s.bump k).slew = s.slew := rfl
@[simp] theorem State.scrub_bump (s : State) (k : Nat) : (s.bump k).scrub = s.scrub := rfl
@[simp] theorem State.scrubbed_bump (s : State) (k : Nat) : (s.bump k).scrubbed = s.scrubbed := rfl
@[simp] theorem State.free_bump (s : State) (k : Nat) : (s.bump k).free = s.free := rfl
@[simp] theorem State.pending_bump (s : State) (k : Nat) : (s.bump k).pending = s.pending := rfl
@[simp] theorem State.cc_bump (s : State) (k : Nat) : (s.bump k).cc = s.cc := rfl
@[simp] theorem State.turnR_bump (s : State) (k : Nat) : (s.bump k).turnR = s.turnR := rfl
@[simp] theorem State.turnW_bump (s : State) (k : Nat) : (s.bump k).turnW = s.turnW := rfl
@[simp] theorem State.lossSnap_bump (s : State) (k : Nat) : (s.bump k).lossSnap = s.lossSnap := rfl

/-! State.bump32 -/

@[simp] theorem State.core_bump32 (s : State) (k : Nat) (j : Nat) : (s.bump32 k).core j = s.core j := rfl
@[simp] theorem State.tile_bump32 (s : State) (k : Nat) (j : Nat) : (s.bump32 k).tile j = s.tile j := rfl
@[simp] theorem State.node_bump32 (s : State) (k : Nat) (j : Nat) : (s.bump32 k).node j = s.node j := rfl
@[simp] theorem State.rtr_bump32 (s : State) (k : Nat) (j : Nat) : (s.bump32 k).rtr j = s.rtr j := rfl
@[simp] theorem State.port_bump32 (s : State) (k : Nat) (j : Nat) : (s.bump32 k).port j = s.port j := rfl
@[simp] theorem State.conn_bump32 (s : State) (k : Nat) (j : Nat) : (s.bump32 k).conn j = s.conn j := rfl
@[simp] theorem State.comb_bump32 (s : State) (k : Nat) (j : Nat) : (s.bump32 k).comb j = s.comb j := rfl
@[simp] theorem State.hring_bump32 (s : State) (k : Nat) (j : Nat) : (s.bump32 k).hring j = s.hring j := rfl
@[simp] theorem State.chan_bump32 (s : State) (k : Nat) (j : Nat) : (s.bump32 k).chan j = s.chan j := rfl
@[simp] theorem State.sport_bump32 (s : State) (k : Nat) (j : Nat) : (s.bump32 k).sport j = s.sport j := rfl
@[simp] theorem State.sctx_bump32 (s : State) (k : Nat) (j : Nat) : (s.bump32 k).sctx j = s.sctx j := rfl
@[simp] theorem State.mbox_bump32 (s : State) (k : Nat) (j : Nat) : (s.bump32 k).mbox j = s.mbox j := rfl
@[simp] theorem State.peer_bump32 (s : State) (k : Nat) (j : Nat) : (s.bump32 k).peer j = s.peer j := rfl
@[simp] theorem State.pathN_bump32 (s : State) (k : Nat) (j : Nat) : (s.bump32 k).pathN j = s.pathN j := rfl
@[simp] theorem State.dom_bump32 (s : State) (k : Nat) (j : Nat) : (s.bump32 k).dom j = s.dom j := rfl
@[simp] theorem State.fuses_bump32 (s : State) (k : Nat) : (s.bump32 k).fuses = s.fuses := rfl
@[simp] theorem State.straps_bump32 (s : State) (k : Nat) : (s.bump32 k).straps = s.straps := rfl
@[simp] theorem State.boot_bump32 (s : State) (k : Nat) : (s.bump32 k).boot = s.boot := rfl
@[simp] theorem State.eng_bump32 (s : State) (k : Nat) : (s.bump32 k).eng = s.eng := rfl
@[simp] theorem State.reconf_bump32 (s : State) (k : Nat) : (s.bump32 k).reconf = s.reconf := rfl
@[simp] theorem State.lrn_bump32 (s : State) (k : Nat) : (s.bump32 k).lrn = s.lrn := rfl
@[simp] theorem State.hostMem_bump32 (s : State) (k : Nat) : (s.bump32 k).hostMem = s.hostMem := rfl
@[simp] theorem State.lpddr_bump32 (s : State) (k : Nat) : (s.bump32 k).lpddr = s.lpddr := rfl
@[simp] theorem State.swap_bump32 (s : State) (k : Nat) : (s.bump32 k).swap = s.swap := rfl
@[simp] theorem State.parks_bump32 (s : State) (k : Nat) : (s.bump32 k).parks = s.parks := rfl
@[simp] theorem State.parkq_bump32 (s : State) (k : Nat) : (s.bump32 k).parkq = s.parkq := rfl
@[simp] theorem State.sch_bump32 (s : State) (k : Nat) : (s.bump32 k).sch = s.sch := rfl
@[simp] theorem State.was_bump32 (s : State) (k : Nat) : (s.bump32 k).was = s.was := rfl
@[simp] theorem State.hits_bump32 (s : State) (k : Nat) : (s.bump32 k).hits = s.hits := rfl
@[simp] theorem State.capOld_bump32 (s : State) (k : Nat) : (s.bump32 k).capOld = s.capOld := rfl
@[simp] theorem State.capPre_bump32 (s : State) (k : Nat) : (s.bump32 k).capPre = s.capPre := rfl
@[simp] theorem State.sdio_bump32 (s : State) (k : Nat) : (s.bump32 k).sdio = s.sdio := rfl
@[simp] theorem State.pcie_bump32 (s : State) (k : Nat) : (s.bump32 k).pcie = s.pcie := rfl
@[simp] theorem State.log_bump32 (s : State) (k : Nat) : (s.bump32 k).log = s.log := rfl
@[simp] theorem State.mon_bump32 (s : State) (k : Nat) : (s.bump32 k).mon = s.mon := rfl
@[simp] theorem State.drains_bump32 (s : State) (k : Nat) : (s.bump32 k).drains = s.drains := rfl
@[simp] theorem State.routes_bump32 (s : State) (k : Nat) : (s.bump32 k).routes = s.routes := rfl
@[simp] theorem State.flights_bump32 (s : State) (k : Nat) : (s.bump32 k).flights = s.flights := rfl
@[simp] theorem State.live_bump32 (s : State) (k : Nat) : (s.bump32 k).live = s.live := rfl
@[simp] theorem State.ids_bump32 (s : State) (k : Nat) : (s.bump32 k).ids = s.ids := rfl
@[simp] theorem State.now_bump32 (s : State) (k : Nat) : (s.bump32 k).now = s.now := rfl
@[simp] theorem State.slew_bump32 (s : State) (k : Nat) : (s.bump32 k).slew = s.slew := rfl
@[simp] theorem State.scrub_bump32 (s : State) (k : Nat) : (s.bump32 k).scrub = s.scrub := rfl
@[simp] theorem State.scrubbed_bump32 (s : State) (k : Nat) : (s.bump32 k).scrubbed = s.scrubbed := rfl
@[simp] theorem State.free_bump32 (s : State) (k : Nat) : (s.bump32 k).free = s.free := rfl
@[simp] theorem State.pending_bump32 (s : State) (k : Nat) : (s.bump32 k).pending = s.pending := rfl
@[simp] theorem State.cc_bump32 (s : State) (k : Nat) : (s.bump32 k).cc = s.cc := rfl
@[simp] theorem State.turnR_bump32 (s : State) (k : Nat) : (s.bump32 k).turnR = s.turnR := rfl
@[simp] theorem State.turnW_bump32 (s : State) (k : Nat) : (s.bump32 k).turnW = s.turnW := rfl
@[simp] theorem State.lossSnap_bump32 (s : State) (k : Nat) : (s.bump32 k).lossSnap = s.lossSnap := rfl

/-! State.updCore -/

@[simp] theorem State.rd_updCore (s : State) (k : Nat) (f : Core → Core) (j : Nat) : (s.updCore k f).rd j = s.rd j := rfl
@[simp] theorem State.tile_updCore (s : State) (k : Nat) (f : Core → Core) (j : Nat) : (s.updCore k f).tile j = s.tile j := rfl
@[simp] theorem State.node_updCore (s : State) (k : Nat) (f : Core → Core) (j : Nat) : (s.updCore k f).node j = s.node j := rfl
@[simp] theorem State.rtr_updCore (s : State) (k : Nat) (f : Core → Core) (j : Nat) : (s.updCore k f).rtr j = s.rtr j := rfl
@[simp] theorem State.port_updCore (s : State) (k : Nat) (f : Core → Core) (j : Nat) : (s.updCore k f).port j = s.port j := rfl
@[simp] theorem State.conn_updCore (s : State) (k : Nat) (f : Core → Core) (j : Nat) : (s.updCore k f).conn j = s.conn j := rfl
@[simp] theorem State.comb_updCore (s : State) (k : Nat) (f : Core → Core) (j : Nat) : (s.updCore k f).comb j = s.comb j := rfl
@[simp] theorem State.hring_updCore (s : State) (k : Nat) (f : Core → Core) (j : Nat) : (s.updCore k f).hring j = s.hring j := rfl
@[simp] theorem State.chan_updCore (s : State) (k : Nat) (f : Core → Core) (j : Nat) : (s.updCore k f).chan j = s.chan j := rfl
@[simp] theorem State.sport_updCore (s : State) (k : Nat) (f : Core → Core) (j : Nat) : (s.updCore k f).sport j = s.sport j := rfl
@[simp] theorem State.sctx_updCore (s : State) (k : Nat) (f : Core → Core) (j : Nat) : (s.updCore k f).sctx j = s.sctx j := rfl
@[simp] theorem State.mbox_updCore (s : State) (k : Nat) (f : Core → Core) (j : Nat) : (s.updCore k f).mbox j = s.mbox j := rfl
@[simp] theorem State.peer_updCore (s : State) (k : Nat) (f : Core → Core) (j : Nat) : (s.updCore k f).peer j = s.peer j := rfl
@[simp] theorem State.pathN_updCore (s : State) (k : Nat) (f : Core → Core) (j : Nat) : (s.updCore k f).pathN j = s.pathN j := rfl
@[simp] theorem State.dom_updCore (s : State) (k : Nat) (f : Core → Core) (j : Nat) : (s.updCore k f).dom j = s.dom j := rfl
@[simp] theorem State.fuses_updCore (s : State) (k : Nat) (f : Core → Core) : (s.updCore k f).fuses = s.fuses := rfl
@[simp] theorem State.straps_updCore (s : State) (k : Nat) (f : Core → Core) : (s.updCore k f).straps = s.straps := rfl
@[simp] theorem State.boot_updCore (s : State) (k : Nat) (f : Core → Core) : (s.updCore k f).boot = s.boot := rfl
@[simp] theorem State.eng_updCore (s : State) (k : Nat) (f : Core → Core) : (s.updCore k f).eng = s.eng := rfl
@[simp] theorem State.reconf_updCore (s : State) (k : Nat) (f : Core → Core) : (s.updCore k f).reconf = s.reconf := rfl
@[simp] theorem State.lrn_updCore (s : State) (k : Nat) (f : Core → Core) : (s.updCore k f).lrn = s.lrn := rfl
@[simp] theorem State.hostMem_updCore (s : State) (k : Nat) (f : Core → Core) : (s.updCore k f).hostMem = s.hostMem := rfl
@[simp] theorem State.lpddr_updCore (s : State) (k : Nat) (f : Core → Core) : (s.updCore k f).lpddr = s.lpddr := rfl
@[simp] theorem State.swap_updCore (s : State) (k : Nat) (f : Core → Core) : (s.updCore k f).swap = s.swap := rfl
@[simp] theorem State.parks_updCore (s : State) (k : Nat) (f : Core → Core) : (s.updCore k f).parks = s.parks := rfl
@[simp] theorem State.parkq_updCore (s : State) (k : Nat) (f : Core → Core) : (s.updCore k f).parkq = s.parkq := rfl
@[simp] theorem State.sch_updCore (s : State) (k : Nat) (f : Core → Core) : (s.updCore k f).sch = s.sch := rfl
@[simp] theorem State.was_updCore (s : State) (k : Nat) (f : Core → Core) : (s.updCore k f).was = s.was := rfl
@[simp] theorem State.hits_updCore (s : State) (k : Nat) (f : Core → Core) : (s.updCore k f).hits = s.hits := rfl
@[simp] theorem State.capOld_updCore (s : State) (k : Nat) (f : Core → Core) : (s.updCore k f).capOld = s.capOld := rfl
@[simp] theorem State.capPre_updCore (s : State) (k : Nat) (f : Core → Core) : (s.updCore k f).capPre = s.capPre := rfl
@[simp] theorem State.sdio_updCore (s : State) (k : Nat) (f : Core → Core) : (s.updCore k f).sdio = s.sdio := rfl
@[simp] theorem State.pcie_updCore (s : State) (k : Nat) (f : Core → Core) : (s.updCore k f).pcie = s.pcie := rfl
@[simp] theorem State.log_updCore (s : State) (k : Nat) (f : Core → Core) : (s.updCore k f).log = s.log := rfl
@[simp] theorem State.mon_updCore (s : State) (k : Nat) (f : Core → Core) : (s.updCore k f).mon = s.mon := rfl
@[simp] theorem State.drains_updCore (s : State) (k : Nat) (f : Core → Core) : (s.updCore k f).drains = s.drains := rfl
@[simp] theorem State.routes_updCore (s : State) (k : Nat) (f : Core → Core) : (s.updCore k f).routes = s.routes := rfl
@[simp] theorem State.flights_updCore (s : State) (k : Nat) (f : Core → Core) : (s.updCore k f).flights = s.flights := rfl
@[simp] theorem State.live_updCore (s : State) (k : Nat) (f : Core → Core) : (s.updCore k f).live = s.live := rfl
@[simp] theorem State.ids_updCore (s : State) (k : Nat) (f : Core → Core) : (s.updCore k f).ids = s.ids := rfl
@[simp] theorem State.now_updCore (s : State) (k : Nat) (f : Core → Core) : (s.updCore k f).now = s.now := rfl
@[simp] theorem State.slew_updCore (s : State) (k : Nat) (f : Core → Core) : (s.updCore k f).slew = s.slew := rfl
@[simp] theorem State.scrub_updCore (s : State) (k : Nat) (f : Core → Core) : (s.updCore k f).scrub = s.scrub := rfl
@[simp] theorem State.scrubbed_updCore (s : State) (k : Nat) (f : Core → Core) : (s.updCore k f).scrubbed = s.scrubbed := rfl
@[simp] theorem State.free_updCore (s : State) (k : Nat) (f : Core → Core) : (s.updCore k f).free = s.free := rfl
@[simp] theorem State.pending_updCore (s : State) (k : Nat) (f : Core → Core) : (s.updCore k f).pending = s.pending := rfl
@[simp] theorem State.cc_updCore (s : State) (k : Nat) (f : Core → Core) : (s.updCore k f).cc = s.cc := rfl
@[simp] theorem State.turnR_updCore (s : State) (k : Nat) (f : Core → Core) : (s.updCore k f).turnR = s.turnR := rfl
@[simp] theorem State.turnW_updCore (s : State) (k : Nat) (f : Core → Core) : (s.updCore k f).turnW = s.turnW := rfl
@[simp] theorem State.lossSnap_updCore (s : State) (k : Nat) (f : Core → Core) : (s.updCore k f).lossSnap = s.lossSnap := rfl

/-! State.updPath -/

@[simp] theorem State.rd_updPath (s : State) (p : Path) (f : PathSt → PathSt) (j : Nat) : (s.updPath p f).rd j = s.rd j := rfl
@[simp] theorem State.core_updPath (s : State) (p : Path) (f : PathSt → PathSt) (j : Nat) : (s.updPath p f).core j = s.core j := rfl
@[simp] theorem State.tile_updPath (s : State) (p : Path) (f : PathSt → PathSt) (j : Nat) : (s.updPath p f).tile j = s.tile j := rfl
@[simp] theorem State.node_updPath (s : State) (p : Path) (f : PathSt → PathSt) (j : Nat) : (s.updPath p f).node j = s.node j := rfl
@[simp] theorem State.rtr_updPath (s : State) (p : Path) (f : PathSt → PathSt) (j : Nat) : (s.updPath p f).rtr j = s.rtr j := rfl
@[simp] theorem State.port_updPath (s : State) (p : Path) (f : PathSt → PathSt) (j : Nat) : (s.updPath p f).port j = s.port j := rfl
@[simp] theorem State.conn_updPath (s : State) (p : Path) (f : PathSt → PathSt) (j : Nat) : (s.updPath p f).conn j = s.conn j := rfl
@[simp] theorem State.comb_updPath (s : State) (p : Path) (f : PathSt → PathSt) (j : Nat) : (s.updPath p f).comb j = s.comb j := rfl
@[simp] theorem State.hring_updPath (s : State) (p : Path) (f : PathSt → PathSt) (j : Nat) : (s.updPath p f).hring j = s.hring j := rfl
@[simp] theorem State.chan_updPath (s : State) (p : Path) (f : PathSt → PathSt) (j : Nat) : (s.updPath p f).chan j = s.chan j := rfl
@[simp] theorem State.sport_updPath (s : State) (p : Path) (f : PathSt → PathSt) (j : Nat) : (s.updPath p f).sport j = s.sport j := rfl
@[simp] theorem State.sctx_updPath (s : State) (p : Path) (f : PathSt → PathSt) (j : Nat) : (s.updPath p f).sctx j = s.sctx j := rfl
@[simp] theorem State.mbox_updPath (s : State) (p : Path) (f : PathSt → PathSt) (j : Nat) : (s.updPath p f).mbox j = s.mbox j := rfl
@[simp] theorem State.peer_updPath (s : State) (p : Path) (f : PathSt → PathSt) (j : Nat) : (s.updPath p f).peer j = s.peer j := rfl
@[simp] theorem State.dom_updPath (s : State) (p : Path) (f : PathSt → PathSt) (j : Nat) : (s.updPath p f).dom j = s.dom j := rfl
@[simp] theorem State.fuses_updPath (s : State) (p : Path) (f : PathSt → PathSt) : (s.updPath p f).fuses = s.fuses := rfl
@[simp] theorem State.straps_updPath (s : State) (p : Path) (f : PathSt → PathSt) : (s.updPath p f).straps = s.straps := rfl
@[simp] theorem State.boot_updPath (s : State) (p : Path) (f : PathSt → PathSt) : (s.updPath p f).boot = s.boot := rfl
@[simp] theorem State.eng_updPath (s : State) (p : Path) (f : PathSt → PathSt) : (s.updPath p f).eng = s.eng := rfl
@[simp] theorem State.reconf_updPath (s : State) (p : Path) (f : PathSt → PathSt) : (s.updPath p f).reconf = s.reconf := rfl
@[simp] theorem State.lrn_updPath (s : State) (p : Path) (f : PathSt → PathSt) : (s.updPath p f).lrn = s.lrn := rfl
@[simp] theorem State.hostMem_updPath (s : State) (p : Path) (f : PathSt → PathSt) : (s.updPath p f).hostMem = s.hostMem := rfl
@[simp] theorem State.lpddr_updPath (s : State) (p : Path) (f : PathSt → PathSt) : (s.updPath p f).lpddr = s.lpddr := rfl
@[simp] theorem State.swap_updPath (s : State) (p : Path) (f : PathSt → PathSt) : (s.updPath p f).swap = s.swap := rfl
@[simp] theorem State.parks_updPath (s : State) (p : Path) (f : PathSt → PathSt) : (s.updPath p f).parks = s.parks := rfl
@[simp] theorem State.parkq_updPath (s : State) (p : Path) (f : PathSt → PathSt) : (s.updPath p f).parkq = s.parkq := rfl
@[simp] theorem State.sch_updPath (s : State) (p : Path) (f : PathSt → PathSt) : (s.updPath p f).sch = s.sch := rfl
@[simp] theorem State.was_updPath (s : State) (p : Path) (f : PathSt → PathSt) : (s.updPath p f).was = s.was := rfl
@[simp] theorem State.hits_updPath (s : State) (p : Path) (f : PathSt → PathSt) : (s.updPath p f).hits = s.hits := rfl
@[simp] theorem State.capOld_updPath (s : State) (p : Path) (f : PathSt → PathSt) : (s.updPath p f).capOld = s.capOld := rfl
@[simp] theorem State.capPre_updPath (s : State) (p : Path) (f : PathSt → PathSt) : (s.updPath p f).capPre = s.capPre := rfl
@[simp] theorem State.sdio_updPath (s : State) (p : Path) (f : PathSt → PathSt) : (s.updPath p f).sdio = s.sdio := rfl
@[simp] theorem State.pcie_updPath (s : State) (p : Path) (f : PathSt → PathSt) : (s.updPath p f).pcie = s.pcie := rfl
@[simp] theorem State.log_updPath (s : State) (p : Path) (f : PathSt → PathSt) : (s.updPath p f).log = s.log := rfl
@[simp] theorem State.mon_updPath (s : State) (p : Path) (f : PathSt → PathSt) : (s.updPath p f).mon = s.mon := rfl
@[simp] theorem State.drains_updPath (s : State) (p : Path) (f : PathSt → PathSt) : (s.updPath p f).drains = s.drains := rfl
@[simp] theorem State.routes_updPath (s : State) (p : Path) (f : PathSt → PathSt) : (s.updPath p f).routes = s.routes := rfl
@[simp] theorem State.flights_updPath (s : State) (p : Path) (f : PathSt → PathSt) : (s.updPath p f).flights = s.flights := rfl
@[simp] theorem State.live_updPath (s : State) (p : Path) (f : PathSt → PathSt) : (s.updPath p f).live = s.live := rfl
@[simp] theorem State.ids_updPath (s : State) (p : Path) (f : PathSt → PathSt) : (s.updPath p f).ids = s.ids := rfl
@[simp] theorem State.now_updPath (s : State) (p : Path) (f : PathSt → PathSt) : (s.updPath p f).now = s.now := rfl
@[simp] theorem State.slew_updPath (s : State) (p : Path) (f : PathSt → PathSt) : (s.updPath p f).slew = s.slew := rfl
@[simp] theorem State.scrub_updPath (s : State) (p : Path) (f : PathSt → PathSt) : (s.updPath p f).scrub = s.scrub := rfl
@[simp] theorem State.scrubbed_updPath (s : State) (p : Path) (f : PathSt → PathSt) : (s.updPath p f).scrubbed = s.scrubbed := rfl
@[simp] theorem State.free_updPath (s : State) (p : Path) (f : PathSt → PathSt) : (s.updPath p f).free = s.free := rfl
@[simp] theorem State.pending_updPath (s : State) (p : Path) (f : PathSt → PathSt) : (s.updPath p f).pending = s.pending := rfl
@[simp] theorem State.cc_updPath (s : State) (p : Path) (f : PathSt → PathSt) : (s.updPath p f).cc = s.cc := rfl
@[simp] theorem State.turnR_updPath (s : State) (p : Path) (f : PathSt → PathSt) : (s.updPath p f).turnR = s.turnR := rfl
@[simp] theorem State.turnW_updPath (s : State) (p : Path) (f : PathSt → PathSt) : (s.updPath p f).turnW = s.turnW := rfl
@[simp] theorem State.lossSnap_updPath (s : State) (p : Path) (f : PathSt → PathSt) : (s.updPath p f).lossSnap = s.lossSnap := rfl

/-! State.answer -/

@[simp] theorem State.rd_answer (s : State) (n : Nat) (st : Status) (b : Bool) (d : Bytes) (j : Nat) : (s.answer n st b d).rd j = s.rd j := rfl
@[simp] theorem State.core_answer (s : State) (n : Nat) (st : Status) (b : Bool) (d : Bytes) (j : Nat) : (s.answer n st b d).core j = s.core j := rfl
@[simp] theorem State.tile_answer (s : State) (n : Nat) (st : Status) (b : Bool) (d : Bytes) (j : Nat) : (s.answer n st b d).tile j = s.tile j := rfl
@[simp] theorem State.node_answer (s : State) (n : Nat) (st : Status) (b : Bool) (d : Bytes) (j : Nat) : (s.answer n st b d).node j = s.node j := rfl
@[simp] theorem State.rtr_answer (s : State) (n : Nat) (st : Status) (b : Bool) (d : Bytes) (j : Nat) : (s.answer n st b d).rtr j = s.rtr j := rfl
@[simp] theorem State.port_answer (s : State) (n : Nat) (st : Status) (b : Bool) (d : Bytes) (j : Nat) : (s.answer n st b d).port j = s.port j := rfl
@[simp] theorem State.conn_answer (s : State) (n : Nat) (st : Status) (b : Bool) (d : Bytes) (j : Nat) : (s.answer n st b d).conn j = s.conn j := rfl
@[simp] theorem State.comb_answer (s : State) (n : Nat) (st : Status) (b : Bool) (d : Bytes) (j : Nat) : (s.answer n st b d).comb j = s.comb j := rfl
@[simp] theorem State.hring_answer (s : State) (n : Nat) (st : Status) (b : Bool) (d : Bytes) (j : Nat) : (s.answer n st b d).hring j = s.hring j := rfl
@[simp] theorem State.chan_answer (s : State) (n : Nat) (st : Status) (b : Bool) (d : Bytes) (j : Nat) : (s.answer n st b d).chan j = s.chan j := rfl
@[simp] theorem State.sport_answer (s : State) (n : Nat) (st : Status) (b : Bool) (d : Bytes) (j : Nat) : (s.answer n st b d).sport j = s.sport j := rfl
@[simp] theorem State.sctx_answer (s : State) (n : Nat) (st : Status) (b : Bool) (d : Bytes) (j : Nat) : (s.answer n st b d).sctx j = s.sctx j := rfl
@[simp] theorem State.mbox_answer (s : State) (n : Nat) (st : Status) (b : Bool) (d : Bytes) (j : Nat) : (s.answer n st b d).mbox j = s.mbox j := rfl
@[simp] theorem State.peer_answer (s : State) (n : Nat) (st : Status) (b : Bool) (d : Bytes) (j : Nat) : (s.answer n st b d).peer j = s.peer j := rfl
@[simp] theorem State.dom_answer (s : State) (n : Nat) (st : Status) (b : Bool) (d : Bytes) (j : Nat) : (s.answer n st b d).dom j = s.dom j := rfl
@[simp] theorem State.fuses_answer (s : State) (n : Nat) (st : Status) (b : Bool) (d : Bytes) : (s.answer n st b d).fuses = s.fuses := rfl
@[simp] theorem State.straps_answer (s : State) (n : Nat) (st : Status) (b : Bool) (d : Bytes) : (s.answer n st b d).straps = s.straps := rfl
@[simp] theorem State.boot_answer (s : State) (n : Nat) (st : Status) (b : Bool) (d : Bytes) : (s.answer n st b d).boot = s.boot := rfl
@[simp] theorem State.eng_answer (s : State) (n : Nat) (st : Status) (b : Bool) (d : Bytes) : (s.answer n st b d).eng = s.eng := rfl
@[simp] theorem State.reconf_answer (s : State) (n : Nat) (st : Status) (b : Bool) (d : Bytes) : (s.answer n st b d).reconf = s.reconf := rfl
@[simp] theorem State.lrn_answer (s : State) (n : Nat) (st : Status) (b : Bool) (d : Bytes) : (s.answer n st b d).lrn = s.lrn := rfl
@[simp] theorem State.hostMem_answer (s : State) (n : Nat) (st : Status) (b : Bool) (d : Bytes) : (s.answer n st b d).hostMem = s.hostMem := rfl
@[simp] theorem State.lpddr_answer (s : State) (n : Nat) (st : Status) (b : Bool) (d : Bytes) : (s.answer n st b d).lpddr = s.lpddr := rfl
@[simp] theorem State.swap_answer (s : State) (n : Nat) (st : Status) (b : Bool) (d : Bytes) : (s.answer n st b d).swap = s.swap := rfl
@[simp] theorem State.parks_answer (s : State) (n : Nat) (st : Status) (b : Bool) (d : Bytes) : (s.answer n st b d).parks = s.parks := rfl
@[simp] theorem State.parkq_answer (s : State) (n : Nat) (st : Status) (b : Bool) (d : Bytes) : (s.answer n st b d).parkq = s.parkq := rfl
@[simp] theorem State.sch_answer (s : State) (n : Nat) (st : Status) (b : Bool) (d : Bytes) : (s.answer n st b d).sch = s.sch := rfl
@[simp] theorem State.was_answer (s : State) (n : Nat) (st : Status) (b : Bool) (d : Bytes) : (s.answer n st b d).was = s.was := rfl
@[simp] theorem State.hits_answer (s : State) (n : Nat) (st : Status) (b : Bool) (d : Bytes) : (s.answer n st b d).hits = s.hits := rfl
@[simp] theorem State.capOld_answer (s : State) (n : Nat) (st : Status) (b : Bool) (d : Bytes) : (s.answer n st b d).capOld = s.capOld := rfl
@[simp] theorem State.capPre_answer (s : State) (n : Nat) (st : Status) (b : Bool) (d : Bytes) : (s.answer n st b d).capPre = s.capPre := rfl
@[simp] theorem State.sdio_answer (s : State) (n : Nat) (st : Status) (b : Bool) (d : Bytes) : (s.answer n st b d).sdio = s.sdio := rfl
@[simp] theorem State.pcie_answer (s : State) (n : Nat) (st : Status) (b : Bool) (d : Bytes) : (s.answer n st b d).pcie = s.pcie := rfl
@[simp] theorem State.log_answer (s : State) (n : Nat) (st : Status) (b : Bool) (d : Bytes) : (s.answer n st b d).log = s.log := rfl
@[simp] theorem State.mon_answer (s : State) (n : Nat) (st : Status) (b : Bool) (d : Bytes) : (s.answer n st b d).mon = s.mon := rfl
@[simp] theorem State.drains_answer (s : State) (n : Nat) (st : Status) (b : Bool) (d : Bytes) : (s.answer n st b d).drains = s.drains := rfl
@[simp] theorem State.routes_answer (s : State) (n : Nat) (st : Status) (b : Bool) (d : Bytes) : (s.answer n st b d).routes = s.routes := rfl
@[simp] theorem State.flights_answer (s : State) (n : Nat) (st : Status) (b : Bool) (d : Bytes) : (s.answer n st b d).flights = s.flights := rfl
@[simp] theorem State.live_answer (s : State) (n : Nat) (st : Status) (b : Bool) (d : Bytes) : (s.answer n st b d).live = s.live := rfl
@[simp] theorem State.ids_answer (s : State) (n : Nat) (st : Status) (b : Bool) (d : Bytes) : (s.answer n st b d).ids = s.ids := rfl
@[simp] theorem State.now_answer (s : State) (n : Nat) (st : Status) (b : Bool) (d : Bytes) : (s.answer n st b d).now = s.now := rfl
@[simp] theorem State.slew_answer (s : State) (n : Nat) (st : Status) (b : Bool) (d : Bytes) : (s.answer n st b d).slew = s.slew := rfl
@[simp] theorem State.scrub_answer (s : State) (n : Nat) (st : Status) (b : Bool) (d : Bytes) : (s.answer n st b d).scrub = s.scrub := rfl
@[simp] theorem State.scrubbed_answer (s : State) (n : Nat) (st : Status) (b : Bool) (d : Bytes) : (s.answer n st b d).scrubbed = s.scrubbed := rfl
@[simp] theorem State.free_answer (s : State) (n : Nat) (st : Status) (b : Bool) (d : Bytes) : (s.answer n st b d).free = s.free := rfl
@[simp] theorem State.pending_answer (s : State) (n : Nat) (st : Status) (b : Bool) (d : Bytes) : (s.answer n st b d).pending = s.pending := rfl
@[simp] theorem State.cc_answer (s : State) (n : Nat) (st : Status) (b : Bool) (d : Bytes) : (s.answer n st b d).cc = s.cc := rfl
@[simp] theorem State.turnR_answer (s : State) (n : Nat) (st : Status) (b : Bool) (d : Bytes) : (s.answer n st b d).turnR = s.turnR := rfl
@[simp] theorem State.turnW_answer (s : State) (n : Nat) (st : Status) (b : Bool) (d : Bytes) : (s.answer n st b d).turnW = s.turnW := rfl
@[simp] theorem State.lossSnap_answer (s : State) (n : Nat) (st : Status) (b : Bool) (d : Bytes) : (s.answer n st b d).lossSnap = s.lossSnap := rfl

/-! State.openWindow -/

@[simp] theorem State.rd_openWindow (s : State) (p : Path) (a c : W64) (d : Bytes) (j : Nat) : (s.openWindow p a c d).rd j = s.rd j := rfl
@[simp] theorem State.core_openWindow (s : State) (p : Path) (a c : W64) (d : Bytes) (j : Nat) : (s.openWindow p a c d).core j = s.core j := rfl
@[simp] theorem State.tile_openWindow (s : State) (p : Path) (a c : W64) (d : Bytes) (j : Nat) : (s.openWindow p a c d).tile j = s.tile j := rfl
@[simp] theorem State.node_openWindow (s : State) (p : Path) (a c : W64) (d : Bytes) (j : Nat) : (s.openWindow p a c d).node j = s.node j := rfl
@[simp] theorem State.rtr_openWindow (s : State) (p : Path) (a c : W64) (d : Bytes) (j : Nat) : (s.openWindow p a c d).rtr j = s.rtr j := rfl
@[simp] theorem State.port_openWindow (s : State) (p : Path) (a c : W64) (d : Bytes) (j : Nat) : (s.openWindow p a c d).port j = s.port j := rfl
@[simp] theorem State.conn_openWindow (s : State) (p : Path) (a c : W64) (d : Bytes) (j : Nat) : (s.openWindow p a c d).conn j = s.conn j := rfl
@[simp] theorem State.comb_openWindow (s : State) (p : Path) (a c : W64) (d : Bytes) (j : Nat) : (s.openWindow p a c d).comb j = s.comb j := rfl
@[simp] theorem State.hring_openWindow (s : State) (p : Path) (a c : W64) (d : Bytes) (j : Nat) : (s.openWindow p a c d).hring j = s.hring j := rfl
@[simp] theorem State.chan_openWindow (s : State) (p : Path) (a c : W64) (d : Bytes) (j : Nat) : (s.openWindow p a c d).chan j = s.chan j := rfl
@[simp] theorem State.sport_openWindow (s : State) (p : Path) (a c : W64) (d : Bytes) (j : Nat) : (s.openWindow p a c d).sport j = s.sport j := rfl
@[simp] theorem State.sctx_openWindow (s : State) (p : Path) (a c : W64) (d : Bytes) (j : Nat) : (s.openWindow p a c d).sctx j = s.sctx j := rfl
@[simp] theorem State.mbox_openWindow (s : State) (p : Path) (a c : W64) (d : Bytes) (j : Nat) : (s.openWindow p a c d).mbox j = s.mbox j := rfl
@[simp] theorem State.peer_openWindow (s : State) (p : Path) (a c : W64) (d : Bytes) (j : Nat) : (s.openWindow p a c d).peer j = s.peer j := rfl
@[simp] theorem State.dom_openWindow (s : State) (p : Path) (a c : W64) (d : Bytes) (j : Nat) : (s.openWindow p a c d).dom j = s.dom j := rfl
@[simp] theorem State.fuses_openWindow (s : State) (p : Path) (a c : W64) (d : Bytes) : (s.openWindow p a c d).fuses = s.fuses := rfl
@[simp] theorem State.straps_openWindow (s : State) (p : Path) (a c : W64) (d : Bytes) : (s.openWindow p a c d).straps = s.straps := rfl
@[simp] theorem State.boot_openWindow (s : State) (p : Path) (a c : W64) (d : Bytes) : (s.openWindow p a c d).boot = s.boot := rfl
@[simp] theorem State.eng_openWindow (s : State) (p : Path) (a c : W64) (d : Bytes) : (s.openWindow p a c d).eng = s.eng := rfl
@[simp] theorem State.reconf_openWindow (s : State) (p : Path) (a c : W64) (d : Bytes) : (s.openWindow p a c d).reconf = s.reconf := rfl
@[simp] theorem State.lrn_openWindow (s : State) (p : Path) (a c : W64) (d : Bytes) : (s.openWindow p a c d).lrn = s.lrn := rfl
@[simp] theorem State.hostMem_openWindow (s : State) (p : Path) (a c : W64) (d : Bytes) : (s.openWindow p a c d).hostMem = s.hostMem := rfl
@[simp] theorem State.lpddr_openWindow (s : State) (p : Path) (a c : W64) (d : Bytes) : (s.openWindow p a c d).lpddr = s.lpddr := rfl
@[simp] theorem State.swap_openWindow (s : State) (p : Path) (a c : W64) (d : Bytes) : (s.openWindow p a c d).swap = s.swap := rfl
@[simp] theorem State.parks_openWindow (s : State) (p : Path) (a c : W64) (d : Bytes) : (s.openWindow p a c d).parks = s.parks := rfl
@[simp] theorem State.parkq_openWindow (s : State) (p : Path) (a c : W64) (d : Bytes) : (s.openWindow p a c d).parkq = s.parkq := rfl
@[simp] theorem State.sch_openWindow (s : State) (p : Path) (a c : W64) (d : Bytes) : (s.openWindow p a c d).sch = s.sch := rfl
@[simp] theorem State.was_openWindow (s : State) (p : Path) (a c : W64) (d : Bytes) : (s.openWindow p a c d).was = s.was := rfl
@[simp] theorem State.hits_openWindow (s : State) (p : Path) (a c : W64) (d : Bytes) : (s.openWindow p a c d).hits = s.hits := rfl
@[simp] theorem State.capOld_openWindow (s : State) (p : Path) (a c : W64) (d : Bytes) : (s.openWindow p a c d).capOld = s.capOld := rfl
@[simp] theorem State.capPre_openWindow (s : State) (p : Path) (a c : W64) (d : Bytes) : (s.openWindow p a c d).capPre = s.capPre := rfl
@[simp] theorem State.sdio_openWindow (s : State) (p : Path) (a c : W64) (d : Bytes) : (s.openWindow p a c d).sdio = s.sdio := rfl
@[simp] theorem State.pcie_openWindow (s : State) (p : Path) (a c : W64) (d : Bytes) : (s.openWindow p a c d).pcie = s.pcie := rfl
@[simp] theorem State.log_openWindow (s : State) (p : Path) (a c : W64) (d : Bytes) : (s.openWindow p a c d).log = s.log := rfl
@[simp] theorem State.mon_openWindow (s : State) (p : Path) (a c : W64) (d : Bytes) : (s.openWindow p a c d).mon = s.mon := rfl
@[simp] theorem State.drains_openWindow (s : State) (p : Path) (a c : W64) (d : Bytes) : (s.openWindow p a c d).drains = s.drains := rfl
@[simp] theorem State.routes_openWindow (s : State) (p : Path) (a c : W64) (d : Bytes) : (s.openWindow p a c d).routes = s.routes := rfl
@[simp] theorem State.flights_openWindow (s : State) (p : Path) (a c : W64) (d : Bytes) : (s.openWindow p a c d).flights = s.flights := rfl
@[simp] theorem State.live_openWindow (s : State) (p : Path) (a c : W64) (d : Bytes) : (s.openWindow p a c d).live = s.live := rfl
@[simp] theorem State.ids_openWindow (s : State) (p : Path) (a c : W64) (d : Bytes) : (s.openWindow p a c d).ids = s.ids := rfl
@[simp] theorem State.now_openWindow (s : State) (p : Path) (a c : W64) (d : Bytes) : (s.openWindow p a c d).now = s.now := rfl
@[simp] theorem State.slew_openWindow (s : State) (p : Path) (a c : W64) (d : Bytes) : (s.openWindow p a c d).slew = s.slew := rfl
@[simp] theorem State.scrub_openWindow (s : State) (p : Path) (a c : W64) (d : Bytes) : (s.openWindow p a c d).scrub = s.scrub := rfl
@[simp] theorem State.scrubbed_openWindow (s : State) (p : Path) (a c : W64) (d : Bytes) : (s.openWindow p a c d).scrubbed = s.scrubbed := rfl
@[simp] theorem State.free_openWindow (s : State) (p : Path) (a c : W64) (d : Bytes) : (s.openWindow p a c d).free = s.free := rfl
@[simp] theorem State.pending_openWindow (s : State) (p : Path) (a c : W64) (d : Bytes) : (s.openWindow p a c d).pending = s.pending := rfl
@[simp] theorem State.cc_openWindow (s : State) (p : Path) (a c : W64) (d : Bytes) : (s.openWindow p a c d).cc = s.cc := rfl
@[simp] theorem State.turnR_openWindow (s : State) (p : Path) (a c : W64) (d : Bytes) : (s.openWindow p a c d).turnR = s.turnR := rfl
@[simp] theorem State.turnW_openWindow (s : State) (p : Path) (a c : W64) (d : Bytes) : (s.openWindow p a c d).turnW = s.turnW := rfl
@[simp] theorem State.lossSnap_openWindow (s : State) (p : Path) (a c : W64) (d : Bytes) : (s.openWindow p a c d).lossSnap = s.lossSnap := rfl

/-! Registers as numbers -/

theorem State.rn_def (s : State) (k : Nat) : s.rn k = (s.rd k).toNat := rfl
theorem State.rn_wr_same (s : State) (k : Nat) (v : W64) : (s.wr k v).rn k = v.toNat := by
  rw [State.rn_def, State.rd_wr_same]
@[simp] theorem State.rd_wn_same (s : State) (k v : Nat) : (s.wn k v).rd k = w64 v := State.rd_wr_same _ _ _
theorem State.rd_wn_ne (s : State) {k j : Nat} (v : Nat) (h : j ≠ k) : (s.wn k v).rd j = s.rd j := State.rd_wr_ne _ _ h
theorem State.rn_wn_same (s : State) (k v : Nat) : (s.wn k v).rn k = v % 2 ^ 64 := by
  rw [State.rn_def, State.rd_wn_same]
  exact BitVec.toNat_ofNat _ _
theorem State.rn_wn_lt (s : State) (k : Nat) {v : Nat} (h : v < 2 ^ 64) : (s.wn k v).rn k = v := by
  rw [State.rn_wn_same, Nat.mod_eq_of_lt h]
theorem State.rn_wn_ne (s : State) {k j : Nat} (v : Nat) (h : j ≠ k) : (s.wn k v).rn j = s.rn j := by
  rw [State.rn_def, State.rd_wn_ne _ _ h, State.rn_def]
theorem State.rd_bumpBy_ne (s : State) (w : Nat) {k j : Nat} (n : Nat) (h : j ≠ k) : (s.bumpBy w k n).rd j = s.rd j :=
  State.rd_wn_ne _ _ h
theorem State.rn_bumpBy_ne (s : State) (w : Nat) {k j : Nat} (n : Nat) (h : j ≠ k) : (s.bumpBy w k n).rn j = s.rn j :=
  State.rn_wn_ne _ _ h

/-- A counter of at most 64 bits after counting n. -/
theorem State.rn_bumpBy (s : State) {w : Nat} (k n : Nat) (hw : w ≤ 64) :
    (s.bumpBy w k n).rn k = min (s.rn k + n) (2 ^ w - 1) := by
  have h : satAdd w (s.rn k) n < 2 ^ 64 := by
    have h1 : 2 ^ w ≤ 2 ^ 64 := Nat.pow_le_pow_right (by decide) hw
    have h2 : 0 < 2 ^ w := Nat.two_pow_pos w
    unfold satAdd
    omega
  exact State.rn_wn_lt s k h

end Sys2Proof.Machine
end

