-- ==== Sys2Proof/Laws/Serve.lean ====
section
/-! SUPPORT. What serving an operation of an access path answers (11 R369 to R375). -/

namespace Sys2Proof.Machine

@[simp] theorem State.path_answer (s : State) (p : Path) (st : Status) (b : Bool) (d : Bytes) :
    ((s.answer (sender p) st b d).path p).op = some (.answered st b d) := by
  unfold State.answer State.path
  rw [State.pathN_updPathN_same]

@[simp] theorem State.path_updPath (s : State) (p : Path) (f : PathSt → PathSt) : (s.updPath p f).path p = f (s.path p) := by
  unfold State.path State.updPath
  rw [State.pathN_updPathN_same]

@[simp] theorem State.session_openWindow (s : State) (p : Path) (a c : W64) (d : Bytes) :
    ((s.openWindow p a c d).path p).session = (s.path p).session := by
  unfold State.openWindow
  rw [State.path_updPath]

@[simp] theorem State.gate_openWindow (s : State) (p : Path) (a c : W64) (d : Bytes) (idx sub : Nat) :
    (s.openWindow p a c d).gate p idx sub = s.gate p idx sub := by
  unfold State.gate
  rw [State.session_openWindow, State.boot_openWindow]

@[simp] theorem State.hkcUp_openWindow (s : State) (p : Path) (a c : W64) (d : Bytes) :
    (s.openWindow p a c d).hkcUp = s.hkcUp := rfl

theorem operate_serve {s : State} {p : Path} {hkc : Bool} {op idx sub : Nat} {data : Bytes} {act : Act}
    (h : s.serves p hkc idx sub = true) :
    operate p hkc op idx sub data act s = serve p hkc idx sub act (s.opened p op idx sub data) := by
  simp only [State.serves, Bool.and_eq_true, Bool.or_eq_true, Option.isNone_iff_eq_none, Bool.not_eq_true'] at h
  obtain ⟨⟨⟨hr, hb⟩, hg⟩, hk⟩ := h
  unfold operate serveOp
  rw [hr, hb]
  cases hkc
  · rfl
  · rcases hk with hk | hk
    · cases hk
    · simp only [State.hkcUp_openWindow, hk]
      rfl

/-- Serving an access that the path and the stage admit. -/
theorem serve_gated {s : State} {p : Path} {idx sub : Nat} (hkc : Bool) (act : Act) (h : s.gate p idx sub = true) :
    serve p hkc idx sub act s = match act s with
      | .refuse st => s.answer (sender p) (Status.pick st .ok) hkc []
      | .done st d t => t.answer (sender p) st hkc d
      | .wait w t => t.updPath p fun q => { q with op := some (.waiting w) } := by
  unfold serve
  rw [h]
  cases act s <;> rfl

theorem serves_gate {s : State} {p : Path} {hkc : Bool} {op idx sub : Nat} {data : Bytes}
    (h : s.serves p hkc idx sub = true) : (s.opened p op idx sub data).gate p idx sub = true := by
  simp only [State.serves, Bool.and_eq_true] at h
  unfold State.opened
  rw [State.gate_openWindow]
  exact h.1.2

/-- An access that the path serves and the entry completes leaves the entry's answer on the path. -/
theorem operate_done {s t : State} {p : Path} {hkc : Bool} {op idx sub : Nat} {data d : Bytes} {act : Act} {st : Status}
    (h : s.serves p hkc idx sub = true) (ha : act (s.opened p op idx sub data) = .done st d t) :
    operate p hkc op idx sub data act s = t.answer (sender p) st hkc d := by
  rw [operate_serve h, serve_gated hkc act (serves_gate h), ha]

/-- An access that the path serves and the entry makes wait leaves the wait on the path. -/
theorem operate_wait {s t : State} {p : Path} {hkc : Bool} {op idx sub : Nat} {data : Bytes} {act : Act} {w : Wait}
    (h : s.serves p hkc idx sub = true) (ha : act (s.opened p op idx sub data) = .wait w t) :
    operate p hkc op idx sub data act s = t.updPath p fun q => { q with op := some (.waiting w) } := by
  rw [operate_serve h, serve_gated hkc act (serves_gate h), ha]

/-- An access that the entry refuses leaves its status, combined with the path's own, and changes nothing else. -/
theorem operate_refuse {s : State} {p : Path} {hkc : Bool} {op idx sub : Nat} {data : Bytes} {act : Act} {st : Status}
    (h : s.serves p hkc idx sub = true) (ha : act (s.opened p op idx sub data) = .refuse st) :
    operate p hkc op idx sub data act s = (s.opened p op idx sub data).answer (sender p) (Status.pick st .ok) hkc [] := by
  rw [operate_serve h, serve_gated hkc act (serves_gate h), ha]

end Sys2Proof.Machine
end

