-- ==== Sys2Proof/Laws/Core.lean ====
section
/-! SUPPORT. What the shared operations of the machine do, said once each: counters, registers, cores, queues, segments, ports,
    and how an operation of an access path completes. -/

namespace Sys2Proof.Machine

theorem mkc {W A : List Part} {c : Instr} {s : State} {Q : State → Prop} {o : Out} (h : Answers A s o) (he : exec c s = o)
    (hw : (A.all fun p => W.contains p) = true) (q : ∀ t, o = .next t → Q t) : Completes W c s Q := by
  obtain ⟨t, e, g⟩ := h
  exact ⟨t, by rw [he, e], g.mono hw, q t e⟩

theorem Core.rd64_wr64_same (c : Core) (a : Nat) (v : W64) : (c.wr64 a v).rd64 a = v := Mem.rd64_wr64_same _ _ _
theorem Core.rd64_wr64_ne (c : Core) {a x : Nat} (v : W64) (h : x + 8 ≤ a ∨ a + 8 ≤ x) :
    (c.wr64 a v).rd64 x = c.rd64 x := Mem.rd64_wr64_ne _ _ h

/-- A window counter of 32 bits after one count. -/
theorem Core.rn_tick (c : Core) (a : Nat) : (c.tick a).rn a = min (c.rn a + 1) (2 ^ 32 - 1) := by
  unfold Core.tick Core.count
  rw [if_neg (by decide)]
  show ((c.wr64 a (w64 (satAdd 32 (c.rn a) 1))).rd64 a).toNat = _
  rw [Core.rd64_wr64_same]
  unfold satAdd w64
  rw [BitVec.toNat_ofNat, Nat.mod_eq_of_lt]
  omega

theorem Core.rd64_tick_ne (c : Core) {a x : Nat} (h : x + 8 ≤ a ∨ a + 8 ≤ x) : (c.tick a).rd64 x = c.rd64 x := by
  unfold Core.tick Core.count
  rw [if_neg (by decide), Core.rd64_wr64_ne _ _ h]

/-- A counted happening changes the memory of the window only. -/
theorem Core.tick_eq (c : Core) (a : Nat) : c.tick a = { c with mem := (c.tick a).mem } := by
  unfold Core.tick Core.count
  rw [if_neg (by decide)]
  rfl

theorem State.core_post (s : State) (a b c : Nat) (l d : W64) (k : Nat) : (s.post a b c l d).core k = s.core k :=
  congrArg (fun t => Tab.get Core.reset t k) ((only_post s a b c l d).same .cores (by decide))

theorem State.seq_post (s : State) (a b c : Nat) (l d : W64) : (s.post a b c l d).log.seq = s.log.seq + 1 := by
  unfold State.post
  dsimp only
  split
  · rfl
  · exact congrArg FLog.seq ((only_whyRing _).same .log (by decide))

/-- The entry after PC, inside the active range. -/
theorem Core.advance_next {c : Core} (h : c.rep = none) (hp : c.pc.toNat + 1 < c.stbBase + c.stbLen) :
    c.advance = { c with pc := c.pc + 1, pass := .run } := by
  have e : c.advance = { c with pc := c.pc + 1, pass := .run, rep := none } := by
    unfold Core.advance Core.stepPc
    rw [h]
    dsimp only
    rw [if_neg (by omega)]
  rw [e, ← h]

theorem Core.rn_wr64_ne (c : Core) {a x : Nat} (v : W64) (h : x + 8 ≤ a ∨ a + 8 ≤ x) : (c.wr64 a v).rn x = c.rn x :=
  congrArg BitVec.toNat (Core.rd64_wr64_ne c v h)

/-! Messages of one packet (08 R252) -/

theorem Item.cut_one {i : Item} (h : i.body.length ≤ 7) : i.cut = [i] := by
  unfold Item.cut
  exact if_pos (by omega)

theorem Item.cut_desc (m : DescMsg) : (Item.desc m).cut = [.desc m] := Item.cut_one (Nat.le_of_ble_eq_true rfl)
theorem Item.cut_event (a b : Nat) (f : W64) : (Item.event a b f).cut = [.event a b f] := Item.cut_one (Nat.zero_le _)
theorem Item.cut_record (r : Record) : (Item.record r).cut = [.record r] := Item.cut_one (Nat.zero_le _)
theorem Item.cut_vc2 (d : Nat) (l : List W64) : (Item.vc2 d l).cut = [.vc2 d l] := Item.cut_one (Nat.zero_le _)

/-! What taking a descriptor at a source half does (07 R223). -/

theorem State.core_takeDesc (s : State) (i n c l : Nat) (b : Bool) (w : W64 × W64 × W64 × W64) (k : Nat) :
    (s.takeDesc i n c l b w).core k = s.core k := by
  unfold State.takeDesc State.inject State.await
  cases b <;> rfl

theorem State.conn_takeDesc_same (s : State) (i n c l : Nat) (b : Bool) (w : W64 × W64 × W64 × W64) :
    (s.takeDesc i n c l b w).conn i =
      { s.conn i with
        taken := if (s.conn i).edkind = 0 then (s.conn i).taken + 1 else (s.conn i).taken,
        sent := w64 (satAdd 64 (s.conn i).sent.toNat 1) } := by
  unfold State.takeDesc State.inject State.await
  cases b <;> simp only [State.conn, State.updConn, State.updNode, if_true, Bool.false_eq_true, if_false, Tab.get_upd_same] <;> rfl

theorem State.conn_takeDesc_ne (s : State) {i j : Nat} (n c l : Nat) (b : Bool) (w : W64 × W64 × W64 × W64) (h : j ≠ i) :
    (s.takeDesc i n c l b w).conn j = s.conn j := by
  unfold State.takeDesc State.inject State.await
  cases b <;> simp only [State.conn, State.updConn, State.updNode, if_true, Bool.false_eq_true, if_false, Tab.get_upd_ne _ _ _ h]

theorem State.node_takeDesc (s : State) (i n c l : Nat) (b : Bool) (w : W64 × W64 × W64 × W64) :
    ∃ m : DescMsg, Tab.get [] ((s.takeDesc i n c l b w).node n).out 1 = Tab.get [] (s.node n).out 1 ++ [.desc m] ∧
      m.words = w ∧ m.id = s.ids + 1 ∧ m.core = c := by
  unfold State.takeDesc State.inject State.await
  extract_lets k id m s1 s2 s3
  refine ⟨m, ?_, rfl, rfl, rfl⟩
  rw [Item.cut_desc, State.node_updNode_same]
  have h : s3.nodes = s.nodes := by unfold s3; cases b <;> rfl
  show Tab.get [] (Tab.upd [] (Tab.get Node.reset s3.nodes n).out 1 (· ++ [.desc m])) 1 = _
  rw [h, Tab.get_upd_same]
  rfl

theorem State.live_takeDesc (s : State) (i n c l : Nat) (w : W64 × W64 × W64 × W64) :
    (s.takeDesc i n c l true w).live = s.live ++ [(s.ids + 1, c)] := by
  unfold State.takeDesc State.inject State.await
  rfl

/-- Counting a flight changes neither what waits at a node nor what it has sent. -/
theorem State.node_flightEnd (s : State) (f k n : Nat) :
    ((s.flightEnd f k).node n).out = (s.node n).out ∧ ((s.flightEnd f k).node n).sent = (s.node n).sent := by
  unfold State.flightEnd
  split
  · exact ⟨rfl, rfl⟩
  · dsimp only
    split
    · unfold State.addAcc
      by_cases h : n = (Tab.get (0, 0, 0) s.flights f).1
      · subst h
        simp only [State.node, State.updNode, Tab.get_upd_same, and_self]
      · simp only [State.node, State.updNode, Tab.get_upd_ne _ _ _ h, and_self]
    · exact ⟨rfl, rfl⟩

theorem State.core_flightEnd (s : State) (f k i : Nat) : (s.flightEnd f k).core i = s.core i :=
  congrArg (fun t => Tab.get Core.reset t i) ((only_flightEnd s f k).same .cores (by decide))

/-- A core that enters FENCED: its state and cause, and what it held is gone; no other core changes (03 R126). -/
theorem State.fenceCore_core (v : State) (k cause : Nat) (hf : (v.core k).state ≠ .fenced) :
    ∃ c' : Core, (∀ j, (v.fenceCore k cause).core j = if j = k then c' else v.core j) ∧ c'.state = .fenced ∧
      c'.cause = BitVec.ofNat 4 cause ∧ c'.inbuf = [] ∧ c'.jobs = [] ∧ c'.pass = .idle ∧ c'.dn = none ∧
      c'.midnight = false := by
  have hfold1 : ∀ (l : List Copy) (u : State) j, (l.foldl (fun s q => s.flightEnd q.flight 1) u).core j = u.core j := by
    intro l; induction l with
    | nil => intro u j; rfl
    | cons a l ih => intro u j; rw [List.foldl_cons, ih, State.core_flightEnd]
  have hfold2 : ∀ (l : List Job) (u : State) j, (l.foldl (fun s q => s.flightEnd q.flight 1) u).core j = u.core j := by
    intro l; induction l with
    | nil => intro u j; rfl
    | cons a l ih => intro u j; rw [List.foldl_cons, ih, State.core_flightEnd]
  have hdr : ∀ (u : State) a b j, ((u.dropRings a b).dropHeld a b).core j = u.core j := fun u a b j =>
    congrArg (fun x => Tab.get Core.reset x j) (((only_dropHeld _ a b).same .cores (by decide)).trans ((only_dropRings u a b).same .cores (by decide)))
  have hnl : ∀ (u : State) b j, (u.nightLeft b).core j = u.core j := fun u b j =>
    congrArg (fun x => Tab.get Core.reset x j) ((only_nightLeft u b).same .cores (by decide))
  unfold State.fenceCore
  dsimp only
  rw [if_neg hf]
  generalize hc : ({ (match (v.core k).pass with
    | .blocked op _ n _ => (v.core k).setSlot n .aborted (if op = 0x6 then some false else none) false
    | _ => (v.core k)) with
      state := .fenced, cause := BitVec.ofNat 4 cause, pass := .idle, rep := none, inbuf := [], jobs := [],
      stalled := false, emitHold := false, dn := none, midnight := false, night := .start } : Core) = c'
  refine ⟨c', ?_, by rw [← hc], by rw [← hc], by rw [← hc], by rw [← hc], by rw [← hc], by rw [← hc], by rw [← hc]⟩
  intro j
  have hset : ∀ (P : Prop) [Decidable P] (X : Boot),
      (if P then ({ v.setCore k c' with boot := X } : State) else v.setCore k c').core j = if j = k then c' else v.core j := by
    intro P _ X
    have h0 : (v.setCore k c').core j = if j = k then c' else v.core j := by
      split
      · rename_i h; rw [h]; exact State.core_setCore_same _ _ _
      · rename_i h; exact State.core_setCore_ne _ _ h
    split
    · exact h0
    · exact h0
  rw [hnl]
  split
  · rw [hdr, hfold2, State.core_bumpBy, hfold1]; exact hset _ _
  · rw [hfold2, State.core_bumpBy, hfold1]; exact hset _ _

/-- A dictionary command whose entry completes: it ends as the act leaves it, with the answer on the path. -/
theorem Completes.done {W : List Part} {c : Instr} {s u : State} {p : Path} {hkc : Bool} {op idx sub : Nat}
    {data d : Bytes} {act : Act} {st : Status} {Q : State → Prop}
    (hx : exec c s = .next (operate p hkc op idx sub data act s)) (hs : s.serves p hkc idx sub = true)
    (ha : act (s.opened p op idx sub data) = .done st d u) (hw : W.contains .paths = true)
    (ho : Only W (s.opened p op idx sub data) u) (q : Q (u.answer (sender p) st hkc d)) : Completes W c s Q := by
  have h1 : (([.paths] : List Part).all fun q => W.contains q) = true := by simpa using hw
  refine ⟨u.answer (sender p) st hkc d, by rw [hx, operate_done hs ha], ?_, q⟩
  exact Only.chain (only_answer _ _ _ _ _) h1 (((only_openWindow _ _ _ _ _).mono h1).trans ho)

/-- A dictionary command whose entry makes its path wait. -/
theorem Completes.wait {W : List Part} {c : Instr} {s u : State} {p : Path} {hkc : Bool} {op idx sub : Nat}
    {data : Bytes} {act : Act} {w : Wait} {Q : State → Prop}
    (hx : exec c s = .next (operate p hkc op idx sub data act s)) (hs : s.serves p hkc idx sub = true)
    (ha : act (s.opened p op idx sub data) = .wait w u) (hw : W.contains .paths = true)
    (ho : Only W (s.opened p op idx sub data) u)
    (q : Q (u.updPath p fun r => { r with op := some (.waiting w) })) : Completes W c s Q := by
  have h1 : (([.paths] : List Part).all fun q => W.contains q) = true := by simpa using hw
  refine ⟨u.updPath p fun r => { r with op := some (.waiting w) }, by rw [hx, operate_wait hs ha], ?_, q⟩
  exact Only.chain (only_updPath _ _ _) h1 (((only_openWindow _ _ _ _ _).mono h1).trans ho)

/-- A dictionary command that its entry refuses: only the path changes. -/
theorem Completes.refuse {W : List Part} {c : Instr} {s : State} {p : Path} {hkc : Bool} {op idx sub : Nat}
    {data : Bytes} {act : Act} {st : Status} {Q : State → Prop}
    (hx : exec c s = .next (operate p hkc op idx sub data act s)) (hs : s.serves p hkc idx sub = true)
    (ha : act (s.opened p op idx sub data) = .refuse st) (hw : W.contains .paths = true)
    (q : Q ((s.opened p op idx sub data).answer (sender p) (Status.pick st .ok) hkc [])) : Completes W c s Q := by
  have h1 : (([.paths] : List Part).all fun q => W.contains q) = true := by simpa using hw
  refine ⟨_, by rw [hx, operate_refuse hs ha], ?_, q⟩
  exact Only.chain (only_answer _ _ _ _ _) h1 ((only_openWindow _ _ _ _ _).mono h1)

theorem State.answered_answer (s : State) (p : Path) (st : Status) (b : Bool) (d : Bytes) :
    (s.answer (sender p) st b d).answered p st b d := State.path_answer _ _ _ _ _

theorem State.waits_updPath (s : State) (p : Path) (w : Wait) :
    (s.updPath p fun r => { r with op := some (.waiting w) }).waits p w := by
  unfold State.waits
  rw [State.path_updPath]

/-- What opening the window of a path leaves as it was. -/
theorem Only.opened (s : State) (p : Path) (op idx sub : Nat) (data : Bytes) :
    Only [.paths] s (s.opened p op idx sub data) := only_openWindow _ _ _ _ _

/-- The engine is E with a round whose step, begun work, acknowledgements and peers are those of r. -/
def State.InRound (s : State) (E : Eng) (r : Round) : Prop :=
  ∃ q : Round, s.eng = { E with round := some q } ∧ q.step = r.step ∧ q.work = r.work ∧ q.acked = r.acked ∧
    q.peers = r.peers

theorem State.InRound.of {W : List Part} {s t : State} {E : Eng} {r : Round} (h : s.InRound E r) (o : Only W s t)
    (hw : W.contains .eng = false) : t.InRound E r := by
  obtain ⟨q, hq, h1⟩ := h
  exact ⟨q, (o.same .eng hw).trans hq, h1⟩

theorem State.InRound.updRound {s : State} {E : Eng} {r : Round} (h : s.InRound E r) {f : Round → Round}
    (hf : ∀ q, (f q).step = q.step ∧ (f q).work = q.work ∧ (f q).acked = q.acked ∧ (f q).peers = q.peers) :
    (s.updRound f).InRound E r := by
  obtain ⟨q, hq, h1, h2, h3, h4⟩ := h
  obtain ⟨f1, f2, f3, f4⟩ := hf q
  refine ⟨f q, ?_, f1.trans h1, f2.trans h2, f3.trans h3, f4.trans h4⟩
  show ({ s.eng with round := s.eng.round.map f } : Eng) = _
  rw [hq]
  rfl

theorem State.InRound.coreBoundary {s : State} {E : Eng} {r : Round} (h : s.InRound E r) (k : Nat) :
    (s.coreBoundary k).InRound E r := by
  have h1 : (s.latchCore k).InRound E r := by
    unfold State.latchCore
    dsimp only
    have hr := h.updRound (f := fun r => { r with late := r.late.filter fun n => decide (n ≠ k) }) fun q =>
      ⟨rfl, rfl, rfl, rfl⟩
    split
    · exact hr.of (only_updCore _ _ _) (by decide)
    · exact hr
  unfold State.coreBoundary
  dsimp only
  split
  · exact h1
  · split
    · unfold State.startMidnight
      exact (h1.of (only_updCore _ _ _) (by decide)).updRound fun q => ⟨rfl, rfl, rfl, rfl⟩
    · exact h1.of (only_applyDue _ _) (by decide)

/-- Boundary work puts the round into the engine and changes nothing else of it. -/
theorem State.eng_boundaryWork (s : State) (j : W64) (r : Round) :
    (s.boundaryWork j r).InRound s.eng { r with work := true } := by
  unfold State.boundaryWork
  extract_lets rc ended s1 commit night waits ks ready src s2 s3 s4 s5
  have e1 : s1.eng = s.eng := by
    unfold s1
    split <;> rfl
  have e2 : s2.InRound s.eng { r with work := true } := by
    refine ⟨{ r with work := true, commit := commit, night := night, late := ks.filter fun k => !s1.coreDone k }, ?_, rfl, rfl,
      rfl, rfl⟩
    rw [← e1]
  clear_value s2
  have e3 : s3.InRound s.eng { r with work := true } := by
    unfold s3
    split
    · exact e2.of (only_bump _ _) (by decide)
    · exact e2
  clear_value s3
  have e4 : s4.InRound s.eng { r with work := true } := by
    unfold s4
    cases commit with
    | none => exact e3
    | some g => exact (e3.of (only_switchGen _ _ _) (by decide)).of (only_takeCovered _) (by decide)
  clear_value s4
  have e5 : s5.InRound s.eng { r with work := true } := by
    have : ∀ (l : List Nat) (u : State), u.InRound s.eng { r with work := true } →
        (l.foldl (fun s k => s.coreBoundary k) u).InRound s.eng { r with work := true } := by
      intro l
      induction l with
      | nil => exact fun u h => h
      | cons a l ih => exact fun u h => ih _ (h.coreBoundary a)
    exact this _ _ e4
  clear_value s5
  cases commit with
  | none => exact e5
  | some g =>
    refine State.InRound.of ?_ (only_setDelayMax _) (by decide)
    split
    · exact e5.of (only_concludeCommit _ _ _) (by decide)
    · exact e5

theorem State.clk_on {s : State} {f : State → State} (h : s.boot.refclk = true) : s.clk f = f s := by
  unfold State.clk
  rw [h, if_pos rfl]

/-- The engine right after SETTLE(j) while VWARN is not latched (02 R45, R46, R68). -/
theorem State.eng_settleTo (s : State) (j : W64) (h : s.mon.vwarn = false) :
    ∃ r : Round, r.step = j ∧ r.work = true ∧ r.acked = [] ∧ (s.settleTo j).eng.round = some r ∧
      (s.settleTo j).eng.phase = .settle ∧ (s.settleTo j).eng.settled = j ∧
      (s.settleTo j).eng.tagRef = BitVec.ofNat 2 j.toNat ∧ (s.settleTo j).eng.timer = 0 ∧
      (s.settleTo j).eng.deadline = none ∧ (s.settleTo j).eng.closed = false ∧ (s.settleTo j).eng.waveCur = none ∧
      (s.settleTo j).eng.count = s.eng.count ∧
      (s.settleTo j).eng.starting = (decide (s.eng.phase = .stopped) || s.eng.starting) := by
  unfold State.settleTo
  extract_lets e delay late s1 open' prev r s2 s3
  have hs1 : s1.eng = s.eng ∧ s1.mon = s.mon := by
    unfold s1
    split
    · exact ⟨rfl, rfl⟩
    · exact ⟨rfl, rfl⟩
  have hm1 : s1.mon.vwarn = false := by rw [hs1.2, h]
  have h3 : Only [.nodes] s2 s3 := by
    unfold s3
    split
    · exact only_broadcast _ _
    · exact Only.refl _ _
  have hm3 : s3.mon.vwarn = false := by rw [h3.same .mon (by decide)]; exact hm1
  have hs2e : s3.eng =
      { s1.eng with
        phase := if s1.mon.vwarn then .held else .settle, settled := j, tagRef := BitVec.ofNat 2 j.toNat,
        timer := 0, deadline := none, closed := false, prev := prev,
        wavePrev := if prev then s1.eng.waveCur else none, waveCur := none, starting := !open', round := some r,
        heldAt := none } := h3.same .eng (by decide)
  clear_value s3
  rw [hm3, if_neg (by decide)]
  obtain ⟨q, hq, hq2, hq3, hq4, _⟩ := State.eng_boundaryWork s3 j r
  rw [hq, hs2e, hm1, hs1.1]
  refine ⟨q, hq2, hq3, hq4, rfl, rfl, rfl, rfl, rfl, rfl, rfl, rfl, rfl, ?_⟩
  show (!(decide (s.eng.phase ≠ .stopped) && !s.eng.starting)) = _
  cases s.eng.starting <;> simp

theorem State.eng_post (s : State) (a b c : Nat) (l d : W64) : (s.post a b c l d).eng = s.eng :=
  (only_post s a b c l d).same .eng (by decide)

/-- Ending FIRE changes the phase of the engine only. -/
theorem State.eng_phaseStep (s : State) : s.phaseStep.eng = { s.eng with phase := s.phaseStep.eng.phase } := by
  unfold State.phaseStep
  split <;> rfl

theorem FLog.whyRing (s : State) : s.whyRing.log = s.log := (only_whyRing s).same .log (by decide)

/-- A posted record stands in the fault log. -/
theorem State.posts_post (s : State) (kind status aux : Nat) (loc detail : W64) :
    s.Posts (s.post kind status aux loc detail) kind status aux loc detail := by
  unfold State.Posts State.post
  extract_lets r lg s1
  split
  · exact ⟨Tab.get_set_same _ _ _ _, rfl⟩
  · rw [FLog.whyRing]
    exact ⟨Tab.get_set_same _ _ _ _, rfl⟩

theorem State.Posts.congr {s t s' t' : State} {k a b : Nat} {l d : W64} (h : s'.Posts t' k a b l d) (hs : s'.log = s.log)
    (hd : s'.straps = s.straps) (hr : s'.rd rTB = s.rd rTB) (ht : t.log = t'.log) : s.Posts t k a b l d := by
  unfold State.Posts State.dev at *
  rw [ht, ← hs, ← hd, ← hr]
  exact h

/-- The promise bits change the registers of entry 0x0111 only. -/
theorem State.rd_setWhy (s : State) (v : Nat) {k : Nat} (h : k / 256 ≠ 0x0111) : (s.setWhy v).rd k = s.rd k := by
  have h2 : k ≠ rk 0 0x0111 2 := by intro e; rw [e] at h; exact h (by decide)
  have h3 : k ≠ rWhy := by intro e; rw [e] at h; exact h (by decide)
  have h4 : k ≠ rk 0 0x0111 4 := by intro e; rw [e] at h; exact h (by decide)
  unfold State.setWhy
  extract_lets was now u
  have hu : u.rd k = s.rd k := by unfold u; rw [State.rd_wn_ne _ _ h2, State.rd_wn_ne _ _ h3]
  split
  · rw [State.bump32, State.rd_bumpBy_ne _ _ _ h4, hu]
  · exact hu

theorem State.rd_whyBit (s : State) (n : Nat) (b : Bool) {k : Nat} (h : k / 256 ≠ 0x0111) :
    (s.whyBit n b).rd k = s.rd k := by
  unfold State.whyBit
  dsimp only
  rw [State.rd_setWhy _ _ h]

theorem State.rd_whyRing (s : State) {k : Nat} (h : k / 256 ≠ 0x0111) : s.whyRing.rd k = s.rd k := by
  unfold State.whyRing
  rw [State.rd_whyBit _ _ _ h]

/-- The registers that posting a fault record leaves as they are. -/
theorem State.rd_post (s : State) (a b c : Nat) (l d : W64) {k : Nat} (h : k / 256 ≠ 0x0111) :
    (s.post a b c l d).rd k = s.rd k := by
  have h1 : k ≠ rk 0 0x0111 1 := by intro e; rw [e] at h; exact h (by decide)
  have h5 : k ≠ rRingMiss := by intro e; rw [e] at h; exact h (by decide)
  unfold State.post
  extract_lets r sl lg u
  have hu : u.rd k = s.rd k := by unfold u; rw [State.bump]; exact State.rd_bumpBy_ne _ _ _ h1
  clear_value u lg
  rw [← hu]
  split
  · show Tab.get (regDefault k) u.regs k = Tab.get (regDefault k) u.regs k
    rfl
  · rw [State.rd_whyRing _ h, State.bump, State.rd_bumpBy_ne _ _ _ h5]
    show Tab.get (regDefault k) u.regs k = Tab.get (regDefault k) u.regs k
    rfl

theorem State.rn_post (s : State) (a b c : Nat) (l d : W64) {k : Nat} (h : k / 256 ≠ 0x0111) :
    (s.post a b c l d).rn k = s.rn k := congrArg BitVec.toNat (State.rd_post s a b c l d h)

theorem Tab.get_mem {α : Type} (d : α) (P : α → Prop) (hd : P d) {l : Tab α} (h : ∀ e ∈ l, P e.2) (k : Nat) : P (Tab.get d l k) := by
  induction l with
  | nil => exact hd
  | cons a l ih =>
    obtain ⟨x, y⟩ := a
    simp only [Tab.get]
    split
    · exact h (x, y) (by simp)
    · exact ih fun e he => h e (by simp [he])

theorem foldl_id {σ α : Type} (f : σ → α → σ) (s : σ) {l : List α} (h : ∀ a ∈ l, f s a = s) : l.foldl f s = s := by
  induction l with
  | nil => rfl
  | cons a l ih =>
    rw [List.foldl_cons, h a (by simp)]
    exact ih fun b hb => h b (by simp [hb])

/-- While no context is CLOSING, no close completes. -/
theorem State.closeCheck_idle {s : State} (h : (s.conns.all fun e => decide (e.2.state ≠ .closing)) = true) : s.closeCheck = s := by
  unfold State.closeCheck
  refine foldl_id _ _ fun e he => ?_
  have hc : (s.conn e.1).state ≠ .closing :=
    Tab.get_mem Conn.reset (fun c => c.state ≠ .closing) (by decide) (fun q hq => by simpa using List.all_eq_true.mp h q hq) e.1
  have ht : s.tellReady e.1 = s := by
    unfold State.tellReady
    exact if_neg fun h => hc h.1
  dsimp only
  rw [ht]
  refine if_neg ?_
  unfold State.closeReady
  simp [hc]

/-- Without a route hold there is no DRAIN to send. -/
theorem State.routeCheck_idle {s : State} (h : s.routes = []) : s.routeCheck = s := by
  unfold State.routeCheck
  rw [h]; rfl

theorem takePack_all {α : Type} {f : α → Bool} (k : Nat) {l : List α} (h : ∀ a ∈ l, f a = true) : takePack f k l = (l.take k, l.drop k) := by
  induction l generalizing k with
  | nil => cases k <;> rfl
  | cons a l ih =>
    cases k with
    | zero => rfl
    | succ k => simp [takePack, h a (by simp), ih k (fun b hb => h b (by simp [hb]))]

theorem State.rd_hwm_ne (s : State) {k j : Nat} (v : Nat) (h : j ≠ k) : (s.hwm k v).rd j = s.rd j := by
  unfold State.hwm
  split
  · exact State.rd_wn_ne _ _ h
  · rfl
theorem State.node_hwm (s : State) (k v n : Nat) : (s.hwm k v).node n = s.node n :=
  congrArg (fun x => Tab.get Node.reset x n) ((only_hwm s k v).same .nodes (by decide))
theorem State.rtr_hwm (s : State) (k v n : Nat) : (s.hwm k v).rtr n = s.rtr n :=
  congrArg (fun x => Tab.get Router.reset x n) ((only_hwm s k v).same .rtrs (by decide))
theorem State.node_putCredit (s : State) (p v k n : Nat) : (s.putCredit p v k).node n = s.node n :=
  congrArg (fun x => Tab.get Node.reset x n) ((only_putCredit s p v k).same .nodes (by decide))

theorem foldl_rel {σ α : Type} (R : σ → σ → Prop) (hr : ∀ s, R s s) (ht : ∀ a b c, R a b → R b c → R a c) (f : σ → α → σ)
    (h : ∀ s a, R s (f s a)) (l : List α) (s : σ) : R s (l.foldl f s) := by
  induction l generalizing s with
  | nil => exact hr s
  | cons a l ih => exact ht _ _ _ (h s a) (ih _)

/-- Every sending stream is as it was. -/
def State.TxSame (s t : State) : Prop := ∀ g m v, t.segTx g m v = s.segTx g m v

theorem State.TxSame.refl (s : State) : s.TxSame s := fun _ _ _ => rfl
theorem State.TxSame.trans {s t u : State} (h : s.TxSame t) (k : t.TxSame u) : s.TxSame u := fun g m v => (k g m v).trans (h g m v)
theorem State.TxSame.of {W : List Part} {s t : State} (h : Only W s t) (hn : W.contains .nodes = false) (hp : W.contains .ports = false) : s.TxSame t := by
  intro g m v
  have h1 : t.nodes = s.nodes := h.same .nodes hn
  have h2 : t.ports = s.ports := h.same .ports hp
  cases g
  · show Tab.get _ (Tab.get _ t.nodes _).tx _ = Tab.get _ (Tab.get _ s.nodes _).tx _
    rw [h1]
  · show Tab.get _ (Tab.get _ t.ports _).tx _ = Tab.get _ (Tab.get _ s.ports _).tx _
    rw [h2]
theorem State.TxSame.updNode (s : State) (n : Nat) (f : Node → Node) (h : ∀ d, (f d).tx = d.tx) : s.TxSame (s.updNode n f) := by
  intro g m v
  cases g with
  | node k =>
    show Tab.get _ ((s.updNode n f).node k).tx _ = Tab.get _ (s.node k).tx _
    by_cases hk : k = n
    · subst hk; rw [State.node_updNode_same, h]
    · rw [State.node_updNode_ne _ _ hk]
  | port p => rfl
theorem State.TxSame.updPort (s : State) (n : Nat) (f : Port → Port) (h : ∀ d, (f d).tx = d.tx) : s.TxSame (s.updPort n f) := by
  intro g m v
  cases g with
  | port k =>
    show Tab.get _ ((s.updPort n f).port k).tx _ = Tab.get _ (s.port k).tx _
    by_cases hk : k = n
    · subst hk; rw [State.port_updPort_same, h]
    · rw [State.port_updPort_ne _ _ hk]
  | node p => rfl
theorem State.TxSame.inject (s : State) (n v : Nat) (i : Item) : s.TxSame (s.inject n v i) := State.TxSame.updNode _ _ _ fun _ => rfl
theorem State.TxSame.answerDrains (s : State) (p : Nat) : s.TxSame (s.answerDrains p) := by
  unfold State.answerDrains
  extract_lets n ready go s1
  have h1 : s.TxSame s1 := State.TxSame.updPort s p _ fun _ => rfl
  exact h1.trans (foldl_rel State.TxSame State.TxSame.refl (fun _ _ _ => State.TxSame.trans) _ (fun u a => State.TxSame.inject _ _ _ _) _ _)

theorem State.segTx_updSegTx (s : State) (g : Seg) (m v : Nat) (f : TxStream → TxStream) : (s.updSegTx g m v f).segTx g m v = f (s.segTx g m v) := by
  cases g with
  | node n =>
    show Tab.get _ ((s.updNode n _).node n).tx _ = _
    rw [State.node_updNode_same]; exact Tab.get_upd_same _ _ _ _
  | port p =>
    show Tab.get _ ((s.updPort p _).port p).tx _ = _
    rw [State.port_updPort_same]; exact Tab.get_upd_same _ _ _ _

/-- What of port p stays while its queues are emptied and the routes are looked at. -/
structure State.PortKeeps (p : Nat) (s t : State) : Prop where
  joined : (t.port p).joined = (s.port p).joined
  qual : (t.port p).qual = (s.port p).qual
  recon : (t.port p).recon = (s.port p).recon
  tx : (t.port p).tx = (s.port p).tx
  windows : (t.port p).windows = (s.port p).windows
  swapped : (t.port p).swapped = (s.port p).swapped
  half : (t.port p).half = (s.port p).half
  state : t.rd (pReg p 1) = s.rd (pReg p 1)

namespace PK
theorem refl (p : Nat) (s : State) : s.PortKeeps p s := ⟨rfl, rfl, rfl, rfl, rfl, rfl, rfl, rfl⟩
theorem trans {p : Nat} {s t u : State} (h : s.PortKeeps p t) (k : t.PortKeeps p u) : s.PortKeeps p u :=
  ⟨k.1.trans h.1, k.2.trans h.2, k.3.trans h.3, k.4.trans h.4, k.5.trans h.5, k.6.trans h.6, k.7.trans h.7, k.8.trans h.8⟩
theorem of {W : List Part} {p : Nat} {s t : State} (h : Only W s t) (hn : W.contains .regs = false) (hp : W.contains .ports = false) : s.PortKeeps p t := by
  have h1 : t.regs = s.regs := h.same .regs hn
  have h2 : t.port p = s.port p := congrArg (fun x => Tab.get Port.reset x p) (h.same .ports hp)
  refine ⟨by rw [h2], by rw [h2], by rw [h2], by rw [h2], by rw [h2], by rw [h2], by rw [h2], ?_⟩
  show Tab.get _ t.regs _ = Tab.get _ s.regs _
  rw [h1]
theorem updPort (p : Nat) (s : State) (n : Nat) (f : Port → Port) (h : ∀ q, (f q).joined = q.joined ∧ (f q).qual = q.qual ∧ (f q).recon = q.recon ∧ (f q).tx = q.tx ∧ (f q).windows = q.windows ∧ (f q).swapped = q.swapped ∧ (f q).half = q.half) : s.PortKeeps p (s.updPort n f) := by
  by_cases hk : p = n
  · subst hk
    have := h (s.port p)
    refine ⟨?_, ?_, ?_, ?_, ?_, ?_, ?_, State.rd_updPort _ _ _ _⟩ <;> rw [State.port_updPort_same]
    exacts [this.1, this.2.1, this.2.2.1, this.2.2.2.1, this.2.2.2.2.1, this.2.2.2.2.2.1, this.2.2.2.2.2.2]
  · refine ⟨?_, ?_, ?_, ?_, ?_, ?_, ?_, State.rd_updPort _ _ _ _⟩ <;> rw [State.port_updPort_ne _ _ hk]
theorem wn (p : Nat) (s : State) (k v : Nat) (h : pReg p 1 ≠ k) : s.PortKeeps p (s.wn k v) := by
  refine ⟨?_, ?_, ?_, ?_, ?_, ?_, ?_, State.rd_wn_ne _ _ h⟩ <;> rw [State.port_wn]
theorem bumpBy (p : Nat) (s : State) (w k v : Nat) (h : pReg p 1 ≠ k) : s.PortKeeps p (s.bumpBy w k v) := PK.wn p s k _ h
theorem foldl {p : Nat} {α : Type} (f : State → α → State) (h : ∀ (s : State) (a : α), s.PortKeeps p (f s a)) (l : List α) (s : State) : s.PortKeeps p (l.foldl f s) :=
  foldl_rel (fun s t => s.PortKeeps p t) (PK.refl p) (fun _ _ _ => PK.trans) f h l s
theorem foldl_mem {p : Nat} {α : Type} (f : State → α → State) (l : List α) (h : ∀ (s : State), ∀ a ∈ l, s.PortKeeps p (f s a)) (s : State) : s.PortKeeps p (l.foldl f s) := by
  induction l generalizing s with
  | nil => exact PK.refl p s
  | cons a l ih => exact PK.trans (h s a (by simp)) (ih (fun s b hb => h s b (by simp [hb])) _)
theorem dropPortQueue (p : Nat) (s : State) (n : Nat) (f : Nat → Bool) : s.PortKeeps p (s.dropPortQueue n f) := by
  unfold State.dropPortQueue
  refine PK.foldl _ (fun u v => ?_) _ _
  dsimp only
  split
  · refine PK.trans (PK.updPort p u n (fun t => { t with out := Tab.set [] t.out v [] }) fun q => ⟨rfl, rfl, rfl, rfl, rfl, rfl, rfl⟩) (PK.foldl _ (fun w i => ?_) _ _)
    refine PK.trans (PK.trans (PK.of (W := [.chans]) (only_lostItem _ _) (by decide) (by decide)) (PK.bumpBy p _ 48 (pReg n 0x14) _ (by simp only [pReg, rk]; omega))) (PK.of (only_itemGone _ _ _) (by decide) (by decide))
  · exact PK.refl p u
theorem routeCheck (p : Nat) (s : State) : s.PortKeeps p s.routeCheck := by
  unfold State.routeCheck
  refine PK.foldl _ (fun u r => ?_) _ _
  dsimp only
  split
  · rename_i q _
    split
    · exact PK.of (W := [.routes]) (by exact Only.set_routes _ _) (by decide) (by decide)
    · split
      · refine PK.trans (PK.updPort p u q (fun q => { q with out := Tab.upd [] q.out 1 (· ++ [.drain r.1]) }) fun q => ⟨rfl, rfl, rfl, rfl, rfl, rfl, rfl⟩) ?_
        exact PK.of (W := [.routes]) (by exact Only.set_routes _ _) (by decide) (by decide)
      · exact PK.refl p u
  · exact PK.refl p u
theorem losePeer (p : Nat) (s : State) (n : Nat) : s.PortKeeps p (s.losePeer n) := by
  unfold State.losePeer
  dsimp only
  have h : s.PortKeeps p (s.wn (pReg n 2) 0xFF) := PK.wn p s _ _ (by simp only [pReg, rk]; omega)
  split
  · exact PK.trans h (PK.of (only_updPeer _ _ _) (by decide) (by decide))
  · exact h
theorem releaseDup (p : Nat) (s : State) (e : Nat) (was : Nat) (hp : p < 7) (h : s.portState p ≠ 5) : s.PortKeeps p (s.releaseDup e was) := by
  unfold State.releaseDup
  split
  · rename_i q hq
    have := List.find?_some hq
    have hqp : q ≠ p := by
      rintro rfl
      simp at this
      exact h this.1.1.2
    have h0 : s.PortKeeps p ((s.wn (rPeerState e) 1).wn (rPeerReason e) 0) :=
      PK.trans (PK.wn p s _ _ (by simp only [rPeerState, pReg, rk]; omega)) (PK.wn p _ _ _ (by simp only [rPeerReason, pReg, rk]; omega))
    refine PK.trans h0 ?_
    generalize (s.wn (rPeerState e) 1).wn (rPeerReason e) 0 = s
    unfold State.unfencePort State.findPeer State.sendJoin State.portMsg
    have h1 : s.PortKeeps p (s.wn (pReg q 1) (if (s.port q).half then 4 else 3)) := PK.wn p s _ _ (by simp only [pReg, rk]; omega)
    generalize s.wn (pReg q 1) (if (s.port q).half then 4 else 3) = u at h1
    have h2 : u.PortKeeps p (u.updPort q fun q => { q with reason := .agreed }) := PK.updPort p u q _ fun q => ⟨rfl, rfl, rfl, rfl, rfl, rfl, rfl⟩
    generalize (u.updPort q fun q => { q with reason := .agreed }) = v at h2
    have h3 : v.PortKeeps p ((v.wn (pReg q 2) e).updPeer e fun q' => { q' with port := some q }) :=
      PK.trans (PK.wn p v (pReg q 2) e (by simp only [pReg, rk]; omega)) (PK.of (only_updPeer _ _ _) (by decide) (by decide))
    refine PK.trans (PK.trans (PK.trans h1 h2) h3) ?_
    exact PK.updPort p _ q _ fun q => ⟨rfl, rfl, rfl, rfl, rfl, rfl, rfl⟩
  · exact PK.refl p s
theorem askRxNext (p : Nat) (s : State) (n e : Nat) : s.PortKeeps p (s.askRxNext n e) := by
  unfold State.askRxNext
  split
  · exact PK.updPort p s _ _ fun q => ⟨rfl, rfl, rfl, rfl, rfl, rfl, rfl⟩
  · exact PK.refl p s
end PK

theorem State.setPort_is (s : State) (p st : Nat) (h : st < 2 ^ 64) : (s.setPort p st).port p = s.port p ∧ (s.setPort p st).rn (pReg p 1) = st := by
  unfold State.setPort
  extract_lets was u
  have h1 : u.rn (pReg p 1) = st := State.rn_wn_lt _ _ h
  have h2 : u.port p = s.port p := State.port_wn _ _ _ _
  clear_value u
  split
  · refine ⟨(congrArg (fun x => Tab.get Port.reset x p) ((only_post _ _ _ _ _ _).same .ports (by decide))).trans h2, ?_⟩
    rw [State.rn_post _ _ _ _ _ _ (by simp only [pReg, rk]; omega), h1]
  · exact ⟨h2, h1⟩

/-- A port that goes down. -/
theorem State.downPort_is (s : State) (p : Nat) (hp : p < 7) :
    (s.downPort p).portState p = 0 ∧ ((s.downPort p).port p).joined = false ∧
    ((s.downPort p).port p).qual = (s.port p).qual ∧ ((s.downPort p).port p).recon = !(s.portBuf p).isEmpty := by
  unfold State.downPort
  extract_lets e dir a b c
  obtain ⟨s1, s2⟩ := State.setPort_is s p 0 (by decide)
  have ha : (s.setPort p 0).PortKeeps p a := PK.trans (PK.losePeer p _ p) (PK.dropPortQueue p _ p _)
  have hab : (a.portBuf p) = s.portBuf p := by
    unfold State.portBuf
    rw [ha.tx, s1]
  have hs : a.rn (pReg p 1) = 0 := by rw [State.rn_def, ha.state, ← State.rn_def, s2]
  have hq : (a.port p).qual = (s.port p).qual := by rw [ha.qual, s1]
  clear_value a
  have hb1 : (b.port p).joined = false ∧ (b.port p).qual = (a.port p).qual ∧ (b.port p).recon = !(a.portBuf p).isEmpty ∧ b.rn (pReg p 1) = a.rn (pReg p 1) := by
    unfold b
    rw [State.port_updPort_same]
    exact ⟨rfl, rfl, rfl, congrArg BitVec.toNat (State.rd_updPort _ _ _ _)⟩
  have hbc : b.PortKeeps p c := by
    unfold c
    split
    · exact PK.refl p b
    · exact PK.askRxNext p b p e
  clear_value b c
  have hc0 : c.portState p = 0 := by
    unfold State.portState
    rw [State.rn_def, hbc.state, ← State.rn_def, hb1.2.2.2, hs]
  have hfin : c.PortKeeps p (if dir then c.releaseDup e p else c).routeCheck := by
    refine PK.trans ?_ (PK.routeCheck p _)
    split
    · exact PK.releaseDup p c e p hp (by rw [hc0]; decide)
    · exact PK.refl p c
  refine ⟨?_, ?_, ?_, ?_⟩
  · unfold State.portState; rw [State.rn_def, hfin.state]; exact hc0
  · rw [hfin.joined, hbc.joined, hb1.1]
  · rw [hfin.qual, hbc.qual, hb1.2.1, hq]
  · rw [hfin.recon, hbc.recon, hb1.2.2.1, hab]

theorem State.takeCtl_port {s : State} {p : Nat} {w : W64} {k : Nat} (h1 : fld w 63 62 = 2) (h2 : fld w 61 58 = k)
    (h3 : crc8Ok w = true) (h4 : k ≠ 0) (h5 : k ≤ 7) :
    s.takeCtl (.port p w) k = (some (fld w 57 56, 0, fld w 55 44), s) := by
  unfold State.takeCtl
  dsimp only
  rw [if_neg (by rw [h1, h2, h3]; simp; omega), if_pos ⟨h1, h2⟩]

theorem State.port_post (s : State) (a b c : Nat) (l d : W64) (p : Nat) : (s.post a b c l d).port p = s.port p :=
  congrArg (fun x => Tab.get Port.reset x p) ((only_post s a b c l d).same .ports (by decide))
theorem State.setPort_ne (s : State) (p st k : Nat) (h : k ≠ pReg p 1) (h2 : k / 256 ≠ 0x0111) : (s.setPort p st).rd k = s.rd k := by
  unfold State.setPort
  extract_lets was u
  have h1 : u.rd k = s.rd k := State.rd_wn_ne _ _ h
  clear_value u
  split
  · rw [State.rd_post _ _ _ _ _ _ h2, h1]
  · exact h1

theorem State.opened_eq (s : State) (p : Path) (op idx sub : Nat) (data : Bytes) :
    ∃ X, s.opened p op idx sub data = { s with paths := X } := ⟨_, rfl⟩

/-- The operations that wait for w, once they are told to finish. -/
theorem State.finish_all (s : State) (w : Wait) (st : Status) (l : List Nat) {n : Nat} (hn : n ∈ l)
    (h : (s.pathN n).op = some (.waiting w)) :
    ((l.foldl (fun s n => s.finish n w false st) s).pathN n).op = some (.answered st false []) := by
  have stay : ∀ (l : List Nat) (u : State), (u.pathN n).op = some (.answered st false []) → ((l.foldl (fun s n => s.finish n w false st) u).pathN n).op = some (.answered st false []) := by
    intro l
    induction l with
    | nil => intro u h; exact h
    | cons a l ih =>
      intro u hu
      refine ih _ ?_
      dsimp only
      unfold State.finish
      split
      · rename_i ha
        unfold State.answer
        by_cases hk : n = a
        · subst hk; rw [ha] at hu; cases hu
        · rw [State.pathN_updPathN_ne _ _ hk]; exact hu
      · exact hu
  induction l generalizing s with
  | nil => cases hn
  | cons a l ih =>
    rw [List.foldl_cons]
    by_cases hk : n = a
    · subst hk
      refine stay l _ ?_
      unfold State.finish
      rw [if_pos h]
      unfold State.answer
      rw [State.pathN_updPathN_same]
    · refine ih _ ((List.mem_cons.mp hn).resolve_left hk) ?_
      unfold State.finish
      split
      · unfold State.answer
        rw [State.pathN_updPathN_ne _ _ hk]; exact h
      · exact h

/-- A JOIN record goes out on every port that is UP, DEGRADED or FENCED, in the packets that its length takes. -/
theorem State.sendJoins_out (s : State) {p : Nat} (hp : p < 7) (h : 3 ≤ s.portState p) :
    ∃ m : Msg3, m.mkind = 3 ∧ Tab.get [] (s.sendJoins.port p).out 3 = Tab.get [] (s.port p).out 3 ++ (Item.msg m).cut := by
  have key : ∀ (l : List Nat) (u : State), (∀ k, u.rd k = s.rd k) → l.Nodup →
      (∀ k, (l.foldl (fun s p => if 3 ≤ s.portState p then s.sendJoin p else s) u).rd k = s.rd k) ∧
      (p ∉ l → (l.foldl (fun s p => if 3 ≤ s.portState p then s.sendJoin p else s) u).port p = u.port p) ∧
      (p ∈ l → ∃ m : Msg3, m.mkind = 3 ∧ Tab.get [] ((l.foldl (fun s p => if 3 ≤ s.portState p then s.sendJoin p else s) u).port p).out 3 = Tab.get [] (u.port p).out 3 ++ (Item.msg m).cut) := by
    intro l
    induction l with
    | nil => intro u hu _; exact ⟨hu, fun _ => rfl, fun h => by cases h⟩
    | cons a l ih =>
      intro u hu hd
      have h1 : ∀ k, (if 3 ≤ u.portState a then u.sendJoin a else u).rd k = s.rd k := by
        intro k; split
        · unfold State.sendJoin State.portMsg; rw [State.rd_updPort, hu]
        · exact hu k
      obtain ⟨i1, i2, i3⟩ := ih _ h1 (List.nodup_cons.mp hd).2
      refine ⟨i1, fun hn => ?_, fun hm => ?_⟩
      · rw [List.foldl_cons, i2 (fun h => hn (by simp [h]))]
        have : p ≠ a := fun h => hn (by simp [h])
        split
        · unfold State.sendJoin State.portMsg; exact State.port_updPort_ne _ _ this
        · rfl
      · by_cases hk : p = a
        · subst hk
          rw [List.foldl_cons, i2 (List.nodup_cons.mp hd).1, if_pos (by unfold State.portState at *; rw [State.rn_def, hu, ← State.rn_def]; exact h)]
          unfold State.sendJoin State.portMsg
          rw [State.port_updPort_same]
          dsimp only
          rw [Tab.get_upd_same]
          exact ⟨_, rfl, rfl⟩
        · obtain ⟨m, hm1, hm2⟩ := i3 ((List.mem_cons.mp hm).resolve_left hk)
          refine ⟨m, hm1, ?_⟩
          rw [List.foldl_cons, hm2]
          congr 2
          split
          · unfold State.sendJoin State.portMsg; rw [State.port_updPort_ne _ _ hk]
          · rfl
  exact (key (List.range 7) s (fun _ => rfl) List.nodup_range).2.2 (List.mem_range.mpr hp)

/-- Two states that differ in their paths only. -/
structure State.PathEq (s u : State) : Prop where
  eq : ∃ X, u = { s with paths := X }

theorem State.pathEq_opened (s : State) (p : Path) (op idx sub : Nat) (data : Bytes) : s.PathEq (s.opened p op idx sub data) :=
  ⟨⟨_, rfl⟩⟩

/-! What states that differ in their paths agree on. -/

theorem State.PathEq.regs {s u : State} (h : s.PathEq u) : u.regs = s.regs := by obtain ⟨X, rfl⟩ := h; rfl
theorem State.PathEq.boot {s u : State} (h : s.PathEq u) : u.boot = s.boot := by obtain ⟨X, rfl⟩ := h; rfl
theorem State.PathEq.eng {s u : State} (h : s.PathEq u) : u.eng = s.eng := by obtain ⟨X, rfl⟩ := h; rfl
theorem State.PathEq.reconf {s u : State} (h : s.PathEq u) : u.reconf = s.reconf := by obtain ⟨X, rfl⟩ := h; rfl
theorem State.PathEq.lrn {s u : State} (h : s.PathEq u) : u.lrn = s.lrn := by obtain ⟨X, rfl⟩ := h; rfl
theorem State.PathEq.conns {s u : State} (h : s.PathEq u) : u.conns = s.conns := by obtain ⟨X, rfl⟩ := h; rfl
theorem State.PathEq.combs {s u : State} (h : s.PathEq u) : u.combs = s.combs := by obtain ⟨X, rfl⟩ := h; rfl
theorem State.PathEq.hrings {s u : State} (h : s.PathEq u) : u.hrings = s.hrings := by obtain ⟨X, rfl⟩ := h; rfl
theorem State.PathEq.hostMem {s u : State} (h : s.PathEq u) : u.hostMem = s.hostMem := by obtain ⟨X, rfl⟩ := h; rfl
theorem State.PathEq.chans {s u : State} (h : s.PathEq u) : u.chans = s.chans := by obtain ⟨X, rfl⟩ := h; rfl
theorem State.PathEq.swap {s u : State} (h : s.PathEq u) : u.swap = s.swap := by obtain ⟨X, rfl⟩ := h; rfl
theorem State.PathEq.parks {s u : State} (h : s.PathEq u) : u.parks = s.parks := by obtain ⟨X, rfl⟩ := h; rfl
theorem State.PathEq.parkq {s u : State} (h : s.PathEq u) : u.parkq = s.parkq := by obtain ⟨X, rfl⟩ := h; rfl
theorem State.PathEq.sports {s u : State} (h : s.PathEq u) : u.sports = s.sports := by obtain ⟨X, rfl⟩ := h; rfl
theorem State.PathEq.sctxs {s u : State} (h : s.PathEq u) : u.sctxs = s.sctxs := by obtain ⟨X, rfl⟩ := h; rfl
theorem State.PathEq.sch {s u : State} (h : s.PathEq u) : u.sch = s.sch := by obtain ⟨X, rfl⟩ := h; rfl
theorem State.PathEq.was {s u : State} (h : s.PathEq u) : u.was = s.was := by obtain ⟨X, rfl⟩ := h; rfl
theorem State.PathEq.capPre {s u : State} (h : s.PathEq u) : u.capPre = s.capPre := by obtain ⟨X, rfl⟩ := h; rfl
theorem State.PathEq.mboxes {s u : State} (h : s.PathEq u) : u.mboxes = s.mboxes := by obtain ⟨X, rfl⟩ := h; rfl
theorem State.PathEq.sdio {s u : State} (h : s.PathEq u) : u.sdio = s.sdio := by obtain ⟨X, rfl⟩ := h; rfl
theorem State.PathEq.pcie {s u : State} (h : s.PathEq u) : u.pcie = s.pcie := by obtain ⟨X, rfl⟩ := h; rfl
theorem State.PathEq.log {s u : State} (h : s.PathEq u) : u.log = s.log := by obtain ⟨X, rfl⟩ := h; rfl
theorem State.PathEq.doms {s u : State} (h : s.PathEq u) : u.doms = s.doms := by obtain ⟨X, rfl⟩ := h; rfl
theorem State.PathEq.mon {s u : State} (h : s.PathEq u) : u.mon = s.mon := by obtain ⟨X, rfl⟩ := h; rfl
theorem State.PathEq.drains {s u : State} (h : s.PathEq u) : u.drains = s.drains := by obtain ⟨X, rfl⟩ := h; rfl
theorem State.PathEq.routes {s u : State} (h : s.PathEq u) : u.routes = s.routes := by obtain ⟨X, rfl⟩ := h; rfl
theorem State.PathEq.peers {s u : State} (h : s.PathEq u) : u.peers = s.peers := by obtain ⟨X, rfl⟩ := h; rfl
theorem State.PathEq.scrub {s u : State} (h : s.PathEq u) : u.scrub = s.scrub := by obtain ⟨X, rfl⟩ := h; rfl
theorem State.PathEq.free {s u : State} (h : s.PathEq u) : u.free = s.free := by obtain ⟨X, rfl⟩ := h; rfl
theorem State.PathEq.cores {s u : State} (h : s.PathEq u) : u.cores = s.cores := by obtain ⟨X, rfl⟩ := h; rfl
theorem State.PathEq.tiles {s u : State} (h : s.PathEq u) : u.tiles = s.tiles := by obtain ⟨X, rfl⟩ := h; rfl
theorem State.PathEq.nodes {s u : State} (h : s.PathEq u) : u.nodes = s.nodes := by obtain ⟨X, rfl⟩ := h; rfl
theorem State.PathEq.ports {s u : State} (h : s.PathEq u) : u.ports = s.ports := by obtain ⟨X, rfl⟩ := h; rfl
theorem State.PathEq.fuses {s u : State} (h : s.PathEq u) : u.fuses = s.fuses := by obtain ⟨X, rfl⟩ := h; rfl
theorem State.PathEq.straps {s u : State} (h : s.PathEq u) : u.straps = s.straps := by obtain ⟨X, rfl⟩ := h; rfl
theorem State.PathEq.cc {s u : State} (h : s.PathEq u) : u.cc = s.cc := by obtain ⟨X, rfl⟩ := h; rfl
theorem State.PathEq.rd {s u : State} (h : s.PathEq u) (k : Nat) : u.rd k = s.rd k := by obtain ⟨X, rfl⟩ := h; rfl
theorem State.PathEq.rn {s u : State} (h : s.PathEq u) (k : Nat) : u.rn k = s.rn k := by obtain ⟨X, rfl⟩ := h; rfl
theorem State.PathEq.port {s u : State} (h : s.PathEq u) (k : Nat) : u.port k = s.port k := by obtain ⟨X, rfl⟩ := h; rfl
theorem State.PathEq.peer {s u : State} (h : s.PathEq u) (k : Nat) : u.peer k = s.peer k := by obtain ⟨X, rfl⟩ := h; rfl
theorem State.PathEq.core {s u : State} (h : s.PathEq u) (k : Nat) : u.core k = s.core k := by obtain ⟨X, rfl⟩ := h; rfl
theorem State.PathEq.conn {s u : State} (h : s.PathEq u) (k : Nat) : u.conn k = s.conn k := by obtain ⟨X, rfl⟩ := h; rfl
theorem State.PathEq.portState {s u : State} (h : s.PathEq u) (k : Nat) : u.portState k = s.portState k := by obtain ⟨X, rfl⟩ := h; rfl
theorem State.PathEq.tilePt {s u : State} (h : s.PathEq u) (k : Nat) : u.tilePt k = s.tilePt k := by obtain ⟨X, rfl⟩ := h; rfl
theorem State.PathEq.vtOf {s u : State} (h : s.PathEq u) (k : Nat) : u.vtOf k = s.vtOf k := by obtain ⟨X, rfl⟩ := h; rfl

theorem State.PathEq.comb {s u : State} (h : s.PathEq u) (k : Nat) : u.comb k = s.comb k := by obtain ⟨X, rfl⟩ := h; rfl
theorem State.PathEq.hring {s u : State} (h : s.PathEq u) (k : Nat) : u.hring k = s.hring k := by obtain ⟨X, rfl⟩ := h; rfl
theorem State.PathEq.tile {s u : State} (h : s.PathEq u) (k : Nat) : u.tile k = s.tile k := by obtain ⟨X, rfl⟩ := h; rfl
theorem State.PathEq.node {s u : State} (h : s.PathEq u) (k : Nat) : u.node k = s.node k := by obtain ⟨X, rfl⟩ := h; rfl
theorem State.PathEq.chan {s u : State} (h : s.PathEq u) (k : Nat) : u.chan k = s.chan k := by obtain ⟨X, rfl⟩ := h; rfl
theorem State.PathEq.sport {s u : State} (h : s.PathEq u) (k : Nat) : u.sport k = s.sport k := by obtain ⟨X, rfl⟩ := h; rfl
theorem State.PathEq.sctx {s u : State} (h : s.PathEq u) (k : Nat) : u.sctx k = s.sctx k := by obtain ⟨X, rfl⟩ := h; rfl
theorem State.PathEq.mbox {s u : State} (h : s.PathEq u) (k : Nat) : u.mbox k = s.mbox k := by obtain ⟨X, rfl⟩ := h; rfl
theorem State.PathEq.rtr {s u : State} (h : s.PathEq u) (k : Nat) : u.rtr k = s.rtr k := by obtain ⟨X, rfl⟩ := h; rfl
theorem State.PathEq.dom {s u : State} (h : s.PathEq u) (k : Nat) : u.dom k = s.dom k := by obtain ⟨X, rfl⟩ := h; rfl

/-- A completed dictionary command, by what the entry does in any state that differs from s in its paths only. -/
theorem Completes.dict {W : List Part} {c : Instr} {s : State} {p : Path} {hkc : Bool} {op idx sub : Nat}
    {data d : Bytes} {act : Act} {st : Status} {Q : State → Prop}
    (hx : exec c s = .next (operate p hkc op idx sub data act s)) (hs : s.serves p hkc idx sub = true)
    (hw : W.contains .paths = true)
    (h : ∀ u : State, s.PathEq u → ∃ v, act u = .done st d v ∧ Only W u v ∧
      ∀ w : State, v.PathEq w → w.answered p st hkc d → Q w) : Completes W c s Q := by
  obtain ⟨v, h1, h2, h3⟩ := h _ (State.pathEq_opened s p op idx sub data)
  exact Completes.done hx hs h1 hw h2 (h3 _ ⟨⟨_, rfl⟩⟩ (State.answered_answer _ _ _ _ _))

/-- A dictionary command that makes its path wait. -/
theorem Completes.dictWait {W : List Part} {c : Instr} {s : State} {p : Path} {hkc : Bool} {op idx sub : Nat}
    {data : Bytes} {act : Act} {wt : Wait} {Q : State → Prop}
    (hx : exec c s = .next (operate p hkc op idx sub data act s)) (hs : s.serves p hkc idx sub = true)
    (hw : W.contains .paths = true)
    (h : ∀ u : State, s.PathEq u → ∃ v, act u = .wait wt v ∧ Only W u v ∧
      ∀ w : State, v.PathEq w → w.waits p wt → Q w) : Completes W c s Q := by
  obtain ⟨v, h1, h2, h3⟩ := h _ (State.pathEq_opened s p op idx sub data)
  exact Completes.wait hx hs h1 hw h2 (h3 _ ⟨⟨_, rfl⟩⟩ (State.waits_updPath _ _ _))

/-- A dictionary command that its entry refuses. -/
theorem Completes.dictRefuse {W : List Part} {c : Instr} {s : State} {p : Path} {hkc : Bool} {op idx sub : Nat}
    {data : Bytes} {act : Act} {st : Status} {Q : State → Prop}
    (hx : exec c s = .next (operate p hkc op idx sub data act s)) (hs : s.serves p hkc idx sub = true)
    (hw : W.contains .paths = true) (hp : Status.pick st .ok = st)
    (h : ∀ u : State, s.PathEq u → act u = .refuse st)
    (q : ∀ w : State, w.answered p st hkc [] → Q w) : Completes W c s Q := by
  refine Completes.refuse hx hs (h _ (State.pathEq_opened s p op idx sub data)) hw (q _ ?_)
  rw [hp]
  exact State.answered_answer _ _ _ _ _

theorem Reply.Only.of_done {W : List Part} {s t : State} {st : Status} {d : Bytes} (h : Reply.Only W s (.done st d t)) :
    Machine.Only W s t := by cases h with | done _ _ _ h => exact h
theorem Reply.Only.of_wait {W : List Part} {s t : State} {w : Wait} (h : Reply.Only W s (.wait w t)) :
    Machine.Only W s t := by cases h with | wait _ _ h => exact h

theorem State.blobs_opened (s : State) (p : Path) (op idx sub : Nat) (data : Bytes) (n : Nat) :
    ((s.opened p op idx sub data).pathN n).blobs = (s.pathN n).blobs := by
  unfold State.opened State.openWindow State.updPath
  by_cases h : n = sender p
  · subst h; rw [State.pathN_updPathN_same]
  · rw [State.pathN_updPathN_ne _ _ h]

/-- A completed dictionary command whose act has a frame lemma of its own. -/
theorem Completes.dictR {A W : List Part} {c : Instr} {s : State} {p : Path} {hkc : Bool} {op idx sub : Nat}
    {data d : Bytes} {act : Act} {st : Status} {Q : State → Prop}
    (hr : ∀ u, Reply.Only A u (act u)) (hx : exec c s = .next (operate p hkc op idx sub data act s))
    (hs : s.serves p hkc idx sub = true) (hw : W.contains .paths = true) (ha : (A.all fun p => W.contains p) = true)
    (h : ∀ u : State, s.PathEq u → (∀ n, (u.pathN n).blobs = (s.pathN n).blobs) → ∃ v, act u = .done st d v ∧
      ∀ w : State, v.PathEq w → w.answered p st hkc d → Q w) : Completes W c s Q := by
  obtain ⟨v, h1, h2⟩ := h _ (State.pathEq_opened s p op idx sub data) (State.blobs_opened s p op idx sub data)
  exact Completes.done hx hs h1 hw ((Reply.Only.of_done (h1 ▸ hr _)).mono ha) (h2 _ ⟨⟨_, rfl⟩⟩ (State.answered_answer _ _ _ _ _))

/-- A dictionary write that its entry completes with OK. -/
theorem Completes.dictOk {A W : List Part} {c : Instr} {s : State} {p : Path} {hkc : Bool} {op idx sub : Nat}
    {data : Bytes} {act : Act} {Q : State → Prop}
    (hr : ∀ u, Reply.Only A u (act u)) (hx : exec c s = .next (operate p hkc op idx sub data act s))
    (hs : s.serves p hkc idx sub = true) (hw : W.contains .paths = true) (ha : (A.all fun p => W.contains p) = true)
    (h : ∀ u : State, s.PathEq u → (∀ n, (u.pathN n).blobs = (s.pathN n).blobs) → ∃ v, act u = okAct v ∧
      ∀ w : State, v.PathEq w → w.answered p .ok hkc [] → Q w) : Completes W c s Q :=
  Completes.dictR (st := .ok) (d := []) hr hx hs hw ha h

/-- A dictionary command that makes its path wait, whose act has a frame lemma of its own. -/
theorem Completes.dictWaitR {A W : List Part} {c : Instr} {s : State} {p : Path} {hkc : Bool} {op idx sub : Nat}
    {data : Bytes} {act : Act} {wt : Wait} {Q : State → Prop}
    (hr : ∀ u, Reply.Only A u (act u)) (hx : exec c s = .next (operate p hkc op idx sub data act s))
    (hs : s.serves p hkc idx sub = true) (hw : W.contains .paths = true) (ha : (A.all fun p => W.contains p) = true)
    (h : ∀ u : State, s.PathEq u → (∀ n, (u.pathN n).blobs = (s.pathN n).blobs) → ∃ v, act u = .wait wt v ∧
      ∀ w : State, v.PathEq w → w.waits p wt → Q w) : Completes W c s Q := by
  obtain ⟨v, h1, h2⟩ := h _ (State.pathEq_opened s p op idx sub data) (State.blobs_opened s p op idx sub data)
  exact Completes.wait hx hs h1 hw ((Reply.Only.of_wait (h1 ▸ hr _)).mono ha) (h2 _ ⟨⟨_, rfl⟩⟩ (State.waits_updPath _ _ _))

theorem pickAll_ok {cs : List (Bool × Status)} (h : ∀ c ∈ cs, c.1 = false) : pickAll cs = .ok := by
  induction cs with
  | nil => rfl
  | cons a l ih =>
    obtain ⟨x, y⟩ := a
    have hx : x = false := h (x, y) (by simp)
    subst hx
    exact ih fun c hc => h c (by simp [hc])

/-- Nothing refuses the access. -/
theorem guardAct_ok {cs : List (Bool × Status)} {s : State} {f : State → Reply} (h : ∀ c ∈ cs, c.1 = false) :
    guardAct cs s f = f s := by
  unfold guardAct
  rw [if_pos (pickAll_ok h)]

theorem State.conn_bind (s : State) (i k : Nat) : (s.bind i).conn k = s.conn k :=
  congrArg (fun x => Tab.get Conn.reset x k) ((only_bind s i).same .conns (by decide))
theorem State.rd_bind (s : State) (i : Nat) {k : Nat} (h : ∀ r, s.dringOf (s.conn i) = some r → k ≠ dReg r 7) :
    (s.bind i).rd k = s.rd k := by
  unfold State.bind
  extract_lets c a b
  have ha : a.rd k = s.rd k := by
    unfold a
    split
    · exact congrArg (fun x => Tab.get (regDefault k) x k) ((only_setQueueAt _ _ _ _).same .regs (by decide))
    · rfl
  have hb : b.rd k = s.rd k := by
    unfold b
    split
    · rw [State.rd_updComb, ha]
    · exact ha
  have hd : b.dringOf c = s.dringOf c := by
    have h2 : b.straps = s.straps := (by
      have h1 : a.straps = s.straps := by
        unfold a
        split
        · exact (only_setQueueAt _ _ _ _).same .straps (by decide)
        · rfl
      unfold b
      split
      · rw [State.straps_updComb, h1]
      · exact h1)
    unfold State.dringOf State.sourceHere State.dev
    rw [h2]
  rw [hd]
  split
  · rename_i r hr
    rw [State.rd_wn_ne _ _ (h r hr), hb]
  · exact hb

theorem State.conn_itemEnd (s : State) (n i : Nat) : (s.itemEnd n).conn i = s.conn i := rfl
theorem State.tile_itemEnd (s : State) (n i : Nat) : (s.itemEnd n).tile i = s.tile i := rfl
theorem State.core_itemEnd (s : State) (n i : Nat) : (s.itemEnd n).core i = s.core i := rfl
theorem State.comb_itemEnd (s : State) (n i : Nat) : (s.itemEnd n).comb i = s.comb i := rfl
theorem State.tile_setQueue (s : State) (t sl q : Nat) (v : Queue) :
    (s.setQueue t sl q v).tile t = { s.tile t with queues := Tab.set Queue.unbound (s.tile t).queues (4 * sl + q) v } := by
  unfold State.setQueue
  rw [State.tile_updTile_same]
theorem State.core_setQueue (s : State) (t sl q : Nat) (v : Queue) (i : Nat) : (s.setQueue t sl q v).core i = s.core i := rfl
theorem State.conn_setQueue (s : State) (t sl q : Nat) (v : Queue) (i : Nat) : (s.setQueue t sl q v).conn i = s.conn i := rfl
theorem State.queue_setQueue (s : State) (t sl q : Nat) (v : Queue) : (s.setQueue t sl q v).queue t sl q = v := by
  unfold State.queue
  rw [State.tile_setQueue]
  dsimp only
  rw [Tab.get_set_same]
theorem State.rn_bump (s : State) (k : Nat) : (s.bump k).rn k = min (s.rn k + 1) (2 ^ 64 - 1) := by
  unfold State.bump State.bumpBy
  rw [State.rn_wn_lt _ _ (by unfold satAdd; omega)]
  rfl
theorem State.rn_bump32 (s : State) (k : Nat) : (s.bump32 k).rn k = min (s.rn k + 1) (2 ^ 32 - 1) := by
  unfold State.bump32 State.bumpBy
  rw [State.rn_wn_lt _ _ (by unfold satAdd; omega)]
  rfl
theorem State.rd_wake (s : State) (d src k : Nat) (h : k / 256 ≠ 0x0400 + d) : (s.wake d src).rd k = s.rd k := by
  have h1 : k ≠ rDomain d := by unfold rDomain rk; omega
  have h2 : k ≠ rk 0 (0x0400 + d) 8 := by unfold rk; omega
  have h3 : k ≠ rk 0 (0x0400 + d) 7 := by unfold rk; omega
  unfold State.wake State.startWake State.bump
  dsimp only
  split
  · rw [State.rd_updDom, State.rd_wn_ne _ _ h3, State.rd_bumpBy_ne _ _ _ h2, State.rd_wn_ne _ _ h1]
  · split
    · rw [State.rd_updDom]
    · split
      · split
        · rw [State.rd_updDom]
        · rw [State.rd_updDom, State.rd_wn_ne _ _ h3, State.rd_bumpBy_ne _ _ _ h2, State.rd_wn_ne _ _ h1]
      · rfl

/-- Where an address of the device map leads does not depend on the paths. -/
theorem State.PathEq.placeOf {s u : State} (h : s.PathEq u) (a : Nat) : u.placeOf a = s.placeOf a := by
  have h0 : ∀ v, u.copyingOut v = s.copyingOut v := by obtain ⟨X, rfl⟩ := h; intro v; rfl
  have h1 : ∀ v, u.copying v = s.copying v := by obtain ⟨X, rfl⟩ := h; intro v; rfl
  have h2 : ∀ v, u.servedBy v = s.servedBy v := by obtain ⟨X, rfl⟩ := h; intro v; rfl
  have h3 : ∀ v, u.coreOfLcid v = s.coreOfLcid v := by obtain ⟨X, rfl⟩ := h; intro v; rfl
  have h4 : ∀ v p, u.tilePlace v p = s.tilePlace v p := by obtain ⟨X, rfl⟩ := h; intro v p; rfl
  have h5 : ∀ v p, u.lpPlace v p = s.lpPlace v p := by obtain ⟨X, rfl⟩ := h; intro v p; rfl
  have h6 : ∀ v, u.tileKind v = s.tileKind v := by obtain ⟨X, rfl⟩ := h; intro v; rfl
  have h7 : ∀ v, u.imageSlot v = s.imageSlot v := by obtain ⟨X, rfl⟩ := h; intro v; rfl
  have h8 : ∀ v a b, u.imageAddr v a b = s.imageAddr v a b := by
    intro v a b; unfold State.imageAddr; obtain ⟨X, rfl⟩ := h; rfl
  unfold State.placeOf
  simp only [h0, h1, h2, h3, h4, h5, h6, h7, h8]
theorem State.PathEq.places {s u : State} (h : s.PathEq u) (a n : Nat) : u.places a n = s.places a n := by
  unfold State.places
  rw [show u.placeOf = s.placeOf from funext h.placeOf]

/-! What a frame without a part keeps of that part's readings. -/

theorem Only.rdEq {W : List Part} {s t : State} (h : Only W s t) (hw : W.contains .regs = false) (k : Nat) : t.rd k = s.rd k :=
  congrArg (fun x => Tab.get (regDefault k) x k) (h.same .regs hw)
theorem Only.rnEq {W : List Part} {s t : State} (h : Only W s t) (hw : W.contains .regs = false) (k : Nat) : t.rn k = s.rn k :=
  congrArg BitVec.toNat (h.rdEq hw k)
theorem Only.coreEq {W : List Part} {s t : State} (h : Only W s t) (hw : W.contains .cores = false) (k : Nat) : t.core k = s.core k :=
  congrArg (fun x => Tab.get Core.reset x k) (h.same .cores hw)
theorem Only.tileEq {W : List Part} {s t : State} (h : Only W s t) (hw : W.contains .tiles = false) (k : Nat) : t.tile k = s.tile k :=
  congrArg (fun x => Tab.get Tile.reset x k) (h.same .tiles hw)
theorem Only.nodeEq {W : List Part} {s t : State} (h : Only W s t) (hw : W.contains .nodes = false) (k : Nat) : t.node k = s.node k :=
  congrArg (fun x => Tab.get Node.reset x k) (h.same .nodes hw)
theorem Only.portEq {W : List Part} {s t : State} (h : Only W s t) (hw : W.contains .ports = false) (k : Nat) : t.port k = s.port k :=
  congrArg (fun x => Tab.get Port.reset x k) (h.same .ports hw)
theorem Only.connEq {W : List Part} {s t : State} (h : Only W s t) (hw : W.contains .conns = false) (k : Nat) : t.conn k = s.conn k :=
  congrArg (fun x => Tab.get Conn.reset x k) (h.same .conns hw)
theorem Only.combEq {W : List Part} {s t : State} (h : Only W s t) (hw : W.contains .combs = false) (k : Nat) : t.comb k = s.comb k :=
  congrArg (fun x => Tab.get Comb.reset x k) (h.same .combs hw)
theorem Only.hringEq {W : List Part} {s t : State} (h : Only W s t) (hw : W.contains .hrings = false) (k : Nat) : t.hring k = s.hring k :=
  congrArg (fun x => Tab.get HRing.reset x k) (h.same .hrings hw)
theorem Only.chanEq {W : List Part} {s t : State} (h : Only W s t) (hw : W.contains .chans = false) (k : Nat) : t.chan k = s.chan k :=
  congrArg (fun x => Tab.get Chan.reset x k) (h.same .chans hw)
theorem Only.mboxEq {W : List Part} {s t : State} (h : Only W s t) (hw : W.contains .mboxes = false) (k : Nat) : t.mbox k = s.mbox k :=
  congrArg (fun x => Tab.get Mbox.reset x k) (h.same .mboxes hw)
theorem Only.domEq {W : List Part} {s t : State} (h : Only W s t) (hw : W.contains .doms = false) (k : Nat) : t.dom k = s.dom k :=
  congrArg (fun x => Tab.get Dom.reset x k) (h.same .doms hw)
theorem Only.pathEq {W : List Part} {s t : State} (h : Only W s t) (hw : W.contains .paths = false) (k : Nat) : t.pathN k = s.pathN k :=
  congrArg (fun x => Tab.get PathSt.reset x k) (h.same .paths hw)
theorem rn_ofrd {s t : State} {k : Nat} (h : t.rd k = s.rd k) : t.rn k = s.rn k := congrArg BitVec.toNat h
theorem guard_nil {cs : List (Bool × Status)} (h : cs.all (fun c => !c.1) = true) : ∀ c ∈ cs, c.1 = false := by
  intro c hc
  have := List.all_eq_true.mp h c hc
  simpa using this
theorem Only.sctxEq {W : List Part} {s t : State} (h : Only W s t) (hw : W.contains .sctxs = false) (k : Nat) : t.sctx k = s.sctx k :=
  congrArg (fun x => Tab.get SCtx.reset x k) (h.same .sctxs hw)
theorem Only.sportEq {W : List Part} {s t : State} (h : Only W s t) (hw : W.contains .sports = false) (k : Nat) : t.sport k = s.sport k :=
  congrArg (fun x => Tab.get SPort.reset x k) (h.same .sports hw)
/-- Entries of different subindexes are different. -/
theorem rk_sub {b i n b' i' n' : Nat} (h : n < 256) (h' : n' < 256) (e : n ≠ n') : rk b i n ≠ rk b' i' n' := by
  unfold rk; omega
/-- Entries of different indexes of a bank are different. -/
theorem rk_idx {b i n i' n' : Nat} (h : n < 256) (h' : n' < 256) (e : i ≠ i') : rk b i n ≠ rk b i' n' := by
  unfold rk; omega

/-! A path reset (11 R389): the path holds no session and no BLOBs, its own entries return to their defaults, and of the
    others only those of the mailboxes and notices change. -/

theorem Tab.get_keep {α : Type} (d : α) (f : Nat → Bool) {k : Nat} (h : f k = true) (t : Tab α) :
    Tab.get d (Tab.keep f t) k = Tab.get d t k := by
  induction t with
  | nil => rfl
  | cons e t ih =>
    by_cases he : f e.1 = true
    · rw [show Tab.keep f (e :: t) = e :: Tab.keep f t from List.filter_cons_of_pos he]
      show (if e.1 = k then e.2 else Tab.get d (Tab.keep f t) k) = if e.1 = k then e.2 else Tab.get d t k
      rw [ih]
    · rw [show Tab.keep f (e :: t) = Tab.keep f t from List.filter_cons_of_neg he, ih]
      show _ = if e.1 = k then e.2 else Tab.get d t k
      rw [if_neg (fun x : e.1 = k => he (by rw [x]; exact h))]
/-- Entries that a path reset of another path keeps. -/
def Kept (k : Nat) : Prop := k < 0x1000000 ∧ ¬(0x3100 ≤ k / 256 ∧ k / 256 ≤ 0x3120)
theorem Kept.mb {k : Nat} (h : Kept k) {i a : Nat} (hi : i < 24) (ha : a < 256) : k ≠ mb i a := by
  unfold Kept at h; unfold Machine.mb rk; omega
theorem Kept.notice {k : Nat} (h : Kept k) (n d : Nat) (hd : d < 255) : k ≠ rNotice n d := by
  unfold Kept at h; unfold rNotice rk; omega
theorem State.rd_noticeLocal (s : State) (n d m : Nat) {k : Nat} (h : k ≠ rNotice n d) : (s.noticeLocal n d m).rd k = s.rd k := by
  unfold State.noticeLocal
  extract_lets u
  have hu : u.rd k = s.rd k := State.rd_wn_ne _ _ h
  clear_value u
  split
  · exact ((only_raise _ _).rdEq (by decide) k).trans hu
  · split
    · exact ((Only.set_sdio u _).rdEq (by decide) k).trans hu
    · exact hu
theorem State.dev_lt (s : State) : s.dev < 8 := by unfold State.dev; omega
theorem State.rd_notify (s : State) {i n k : Nat} (hi : i < 24) (h : Kept k) : (s.notify i n).rd k = s.rd k := by
  unfold State.notify
  split
  · exact State.rd_noticeLocal _ _ _ _ (h.notice _ _ (by have := s.dev_lt; omega))
  · split
    · exact (only_sendMsg _ _).rdEq (by decide) k
    · rw [State.bump32, State.rd_bumpBy_ne _ _ _ (h.mb hi (by decide))]
theorem State.pathN_notify (s : State) (i n m : Nat) : (s.notify i n).pathN m = s.pathN m := by
  unfold State.notify State.noticeLocal
  split
  · extract_lets u
    have hu : u.pathN m = s.pathN m := State.pathN_wn _ _ _ _
    clear_value u
    split
    · exact ((only_raise _ _).pathEq (by decide) m).trans hu
    · split
      · exact ((Only.set_sdio u _).pathEq (by decide) m).trans hu
      · exact hu
  · split
    · exact (only_sendMsg _ _).pathEq (by decide) m
    · exact (only_bump32 _ _).pathEq (by decide) m
theorem State.finish_path (s : State) (n m : Nat) (w : Wait) (b : Bool) (st : Status) :
    ((s.finish n w b st).pathN m).session = (s.pathN m).session ∧ ((s.finish n w b st).pathN m).blobs = (s.pathN m).blobs ∧
    ((s.finish n w b st).pathN m).attest = (s.pathN m).attest := by
  unfold State.finish
  split
  · unfold State.answer
    by_cases h : m = n
    · subst h; rw [State.pathN_updPathN_same]; exact ⟨rfl, rfl, rfl⟩
    · rw [State.pathN_updPathN_ne _ _ h]; exact ⟨rfl, rfl, rfl⟩
  · exact ⟨rfl, rfl, rfl⟩
/-- What a mailbox reset leaves as it was. -/
structure MbKeeps (s t : State) : Prop where
  rd : ∀ k, Kept k → t.rd k = s.rd k
  path : ∀ m, (t.pathN m).session = (s.pathN m).session ∧ (t.pathN m).blobs = (s.pathN m).blobs ∧
    (t.pathN m).attest = (s.pathN m).attest
theorem MbKeeps.refl (s : State) : MbKeeps s s := ⟨fun _ _ => rfl, fun _ => ⟨rfl, rfl, rfl⟩⟩
theorem MbKeeps.trans {s t u : State} (h : MbKeeps s t) (g : MbKeeps t u) : MbKeeps s u :=
  ⟨fun k hk => (g.rd k hk).trans (h.rd k hk), fun m => ⟨(g.path m).1.trans (h.path m).1, (g.path m).2.1.trans (h.path m).2.1,
    (g.path m).2.2.trans (h.path m).2.2⟩⟩
theorem MbKeeps.foldl {α : Type} (f : State → α → State) (l : List α) (h : ∀ s, ∀ a ∈ l, MbKeeps s (f s a)) (s : State) :
    MbKeeps s (l.foldl f s) := by
  induction l generalizing s with
  | nil => exact .refl s
  | cons a l ih => exact (h s a List.mem_cons_self).trans (ih (fun s b hb => h s b (List.mem_cons_of_mem _ hb)) _)
theorem MbKeeps.notify (s : State) {i : Nat} (n : Nat) (hi : i < 24) : MbKeeps s (s.notify i n) :=
  ⟨fun _ hk => State.rd_notify s hi hk, fun m => by rw [State.pathN_notify]; exact ⟨rfl, rfl, rfl⟩⟩
theorem MbKeeps.of {W : List Part} {s t : State} (h : Only W s t) (hp : W.contains .paths = false)
    (hr : ∀ k, Kept k → t.rd k = s.rd k) : MbKeeps s t :=
  ⟨hr, fun m => by rw [h.pathEq hp]; exact ⟨rfl, rfl, rfl⟩⟩
theorem MbKeeps.wn (s : State) {i a : Nat} (v : Nat) (hi : i < 24) (ha : a < 256) : MbKeeps s (s.wn (mb i a) v) :=
  .of (only_wn _ _ _) (by decide) fun _ hk => State.rd_wn_ne _ _ (hk.mb hi ha)
theorem MbKeeps.bumpBy (s : State) {i a : Nat} (w v : Nat) (hi : i < 24) (ha : a < 256) :
    MbKeeps s (s.bumpBy w (mb i a) v) := .of (only_bumpBy _ _ _ _) (by decide) fun _ hk => State.rd_bumpBy_ne _ _ _ (hk.mb hi ha)
theorem MbKeeps.updMbox (s : State) (i : Nat) (f : Mbox → Mbox) : MbKeeps s (s.updMbox i f) :=
  .of (only_updMbox _ _ _) (by decide) fun _ _ => State.rd_updMbox _ _ _ _
theorem MbKeeps.mbReset (s : State) {i : Nat} (hi : i < 24) : MbKeeps s (s.mbReset i) := by
  unfold State.mbReset
  extract_lets l y z x
  have hy : MbKeeps s y := by
    unfold y
    split
    · exact ⟨fun k _ => (only_finish _ _ _ _ _).rdEq (by decide) k, fun m => State.finish_path _ _ _ _ _ _⟩
    · exact .refl s
  have hz : MbKeeps y z := .bumpBy y 64 _ hi (by decide)
  have hx : MbKeeps z x :=
    (((MbKeeps.updMbox z i _).trans (.wn _ 0 hi (by decide))).trans (.wn _ 0 hi (by decide))).trans (.wn _ 0 hi (by decide))
  exact ((hy.trans hz).trans hx).trans (.foldl _ _ (fun s n _ => .notify s n hi) _)
theorem State.regs_abortOp (s : State) (n : Nat) : (s.abortOp n).regs = s.regs := (only_abortOp s n).same .regs (by decide)
/-- What a reset of path number n does to entries outside its bank and outside the mailboxes, and to itself. -/
theorem State.resetPath_is (s : State) (n : Nat) (hn : n ≠ 0) :
    (∀ k, Kept k → (s.resetPath n).rd k = s.rd k) ∧ ((s.resetPath n).pathN n).session = none ∧
    ((s.resetPath n).pathN n).blobs = [] ∧ ((s.resetPath n).pathN n).attest = false := by
  unfold State.resetPath
  extract_lets u v
  have u1 : u.regs = s.regs := State.regs_abortOp s n
  have u2 : (u.pathN n).session = none ∧ (u.pathN n).blobs = [] ∧ (u.pathN n).attest = false := by
    unfold u; rw [State.pathN_updPathN_same]; exact ⟨rfl, rfl, rfl⟩
  have v0 : MbKeeps (u.clearBank n) v := by
    unfold v State.breakLocks
    refine .foldl _ _ (fun s i hi => ?_) _
    have hi := List.mem_range.mp hi
    split
    · exact ((MbKeeps.wn s 0 hi (by decide)).trans (.updMbox _ i _)).trans (.bumpBy _ 32 _ hi (by decide))
    · exact .refl s
  have h := v0.trans (.foldl (fun (s : State) i => if s.rn (mb i 1) = n then s.mbReset i else s) (List.range 24) (fun s i hi => by
    have hi := List.mem_range.mp hi
    split
    · exact .mbReset s hi
    · exact .refl s) v)
  refine ⟨fun k hk => ?_, ?_, ?_, ?_⟩
  · rw [h.rd k hk]
    show Tab.get (regDefault k) (Tab.keep (fun k => decide (k / 0x1000000 ≠ n)) u.regs) k = Tab.get (regDefault k) s.regs k
    rw [Tab.get_keep _ _ (by have := hk.1; simp; omega), u1]
  · exact (h.path n).1.trans u2.1
  · exact (h.path n).2.1.trans u2.2.1
  · exact (h.path n).2.2.trans u2.2.2

/-- A command of which the next state is known completes in the parts of its frame. -/
theorem Completes.of {A W : List Part} {c : Instr} {s t : State} {Q : State → Prop} (ha : Answers A s (exec c s))
    (h : exec c s = .next t) (hm : (A.all fun p => W.contains p) = true) (q : Q t) : Completes W c s Q := by
  obtain ⟨u, hu, ho⟩ := ha
  rw [h] at hu
  cases Host.Outcome.next.inj hu
  exact ⟨t, h, ho.mono hm, q⟩

end Sys2Proof.Machine
end

