-- ==== Sys2Proof/Laws/Packet.lean ====
section
/-! SUPPORT. A mesh packet that no link has changed passes its CRC (08 R253). -/

namespace Sys2Proof.Machine

theorem crcBit_lt (poly : Nat) (hp : poly < 2 ^ 32) (n c : Nat) (h : c < 2 ^ 32) : crcBit poly n c < 2 ^ 32 := by
  induction n generalizing c with
  | zero => exact h
  | succ n ih =>
    unfold crcBit
    apply ih
    split
    · exact Nat.xor_lt_two_pow (by omega) hp
    · omega

theorem crc32c_lt (b : Bytes) : crc32c b < 2 ^ 32 := by
  have h : ∀ (b : Bytes) c, c < 2 ^ 32 → crc32cFrom c b < 2 ^ 32 := by
    intro b
    induction b with
    | nil => intro c hc; exact hc
    | cons x t ih =>
      intro c hc
      have hx := x.isLt
      exact ih _ (crcBit_lt _ (by decide) _ _ (Nat.xor_lt_two_pow hc (by omega)))
  exact Nat.xor_lt_two_pow (h b _ (by decide)) (by decide)

theorem Packet.payload_words (m n : Nat) (pk : Packet) :
    (packetFlits m n pk).map (fun f => f.body.word) = pk.words ++ [trailerWord pk n m] := by
  have h : ∀ i : Item, (List.range i.flits).map (fun k => i.words.getD k 0) = i.words := by
    intro i
    apply List.ext_getElem (by simp [Item.flits])
    intro k h1 h2
    simp [h2]
  unfold packetFlits Packet.words
  rw [List.map_append, List.map_flatten, List.map_map]
  congr 2
  apply List.map_congr_left
  intro i _
  simp only [Function.comp_apply, List.map_map]
  exact h i

/-- The halves of a trailer word. -/
theorem halves_w64 (c l : Nat) (hc : c < 2 ^ 32) (hl : l < 2 ^ 32) :
    (w64 (c * 2 ^ 32 + l)).toNat % 2 ^ 32 = l ∧ (w64 (c * 2 ^ 32 + l)).toNat / 2 ^ 32 = c := by
  unfold w64
  rw [BitVec.toNat_ofNat]
  omega

theorem trailerLow_lt (pk : Packet) (src : Nat) : trailerLow pk src < 2 ^ 32 := by
  have h : ∀ a b c d : Nat, d ≤ 16 → a % 65536 * 2 ^ 16 + b % 128 * 2 ^ 9 + c % 8 * 2 ^ 6 + d < 2 ^ 32 := by omega
  exact h _ _ _ _ (by split <;> decide)

theorem trailerWord_halves (pk : Packet) (src dst : Nat) :
    (trailerWord pk src dst).toNat % 2 ^ 32 = trailerLow pk src ∧
      (trailerWord pk src dst).toNat / 2 ^ 32 = meshCrc pk.words (trailerLow pk src) dst pk.vc :=
  halves_w64 _ _ (crc32c_lt _) (trailerLow_lt pk src)

theorem trailer_crc (pk : Packet) (src dst : Nat) (w : W64) (hw : w = trailerWord pk src dst) :
    meshCrc pk.words (w.toNat % 2 ^ 32) dst pk.vc = w.toNat / 2 ^ 32 := by
  subst hw
  have h := trailerWord_halves pk src dst
  generalize trailerWord pk src dst = w at h
  obtain ⟨h1, h2⟩ := h
  rw [h1, h2]

/-- A packet that no link has changed passes its check (R253). -/
theorem intact_crc (n v : Nat) (body : List MeshFlit) (f : MeshFlit) (h : intact n v body f = true) :
    meshCrc (body.map MeshFlit.word) (f.word.toNat % 2 ^ 32) n v = f.word.toNat / 2 ^ 32 := by
  unfold intact at h
  split at h
  · rename_i pk src dst hb
    rw [Bool.and_eq_true, Bool.and_eq_true, Bool.and_eq_true, Bool.and_eq_true, decide_eq_true_eq, decide_eq_true_eq,
      decide_eq_true_eq, List.all_eq_true] at h
    obtain ⟨⟨⟨⟨hd, hv⟩, hx⟩, hall⟩, he⟩ := h
    have hw : ∀ g : MeshFlit, g.clean v n = true → g.word = g.body.word := by
      intro g hg
      have hg : g.xor = 0 := by
        simp only [MeshFlit.clean, Bool.and_eq_true, decide_eq_true_eq] at hg
        exact hg.1.1
      simp [MeshFlit.word, hg]
    have he2 : body.map (fun g => g.body.word) ++ [f.body.word] = pk.words ++ [trailerWord pk src dst] := by
      have := congrArg (List.map FlitBody.word) he
      rw [List.map_append, List.map_map, List.map_map] at this
      exact this.trans (Packet.payload_words dst src pk)
    have hbw : body.map MeshFlit.word = pk.words := by
      rw [← (List.append_inj' he2 (by rw [List.length_singleton, List.length_singleton])).1]
      exact List.map_congr_left fun g hg => hw g (hall g hg)
    have hf : f.word = trailerWord pk src dst := by
      rw [hw f hx]
      simpa using (List.append_inj' he2 (by rw [List.length_singleton, List.length_singleton])).2
    rw [hbw, ← hd, ← hv]
    exact trailer_crc pk src dst _ hf
  · exact absurd h (by simp)
end Sys2Proof.Machine
end

