-- ==== Sys2Proof/WellFormed.lean ====
section
/-! DEFINITION. Which commands are well formed: every operand names a unit that the device has (01 R17 to
    R24), and byte strings have the length their rule gives. A command that is not well formed cannot be
    sent; its meaning is total all the same. -/

namespace Sys2Proof

/-- A path is PCIe, SDIO, the HKC, or the tunnel of one of the eight devices (11 R373). -/
def Path.wf : Path → Bool
  | .pcie | .sdio | .hkc => true
  | .peer n => decide (n < 8)

/-- Physical core 136 × tile + core, 70 tiles of 136 cores (01 R18, R19). -/
def wfCore (c : Nat) : Bool := decide (c < 9520)
/-- Physical tile or router (01 R18). -/
def wfTile (t : Nat) : Bool := decide (t < 70)
/-- Mesh node: 70 NIs and 21 bridges (08 Table 8.1). -/
def wfNode (n : Nat) : Bool := decide (n < 91)
/-- Fabric port. -/
def wfPort (p : Nat) : Bool := decide (p < 7)
/-- Device number. -/
def wfDev (d : Nat) : Bool := decide (d < 8)
/-- Virtual channel. -/
def wfVc (v : Nat) : Bool := decide (v < 4)
/-- Virtual tile. -/
def wfVt (v : Nat) : Bool := decide (v < 512)

/-- A segment's sending end exists. -/
def Seg.wf : Seg → Bool
  | .node n => wfNode n
  | .port p => wfPort p

/-- A hop's place exists: a node's injection queue, or one of five input ports of a router (08 R247). -/
def Hop.wf : Hop → Bool
  | .inject n v => wfNode n && wfVc v
  | .router r q v => wfTile r && decide (q < 5) && wfVc v

/-- A link-control message arrives at a node or a port. -/
def LinkAt.wf : LinkAt → Bool
  | .node n => wfNode n
  | .port p _ => wfPort p

/-- What the flits of a packet mean, as a port's line carries it: what passes through the peer arrives without the peer's own mark. -/
def onLine : Item → Bool
  | .transit _ _ => false
  | _ => true

/-- A packet arrives at a node, or on a port as a head word and 1 to 8 payload flits (08 R252, R260). -/
def RxAt.wf : RxAt → Bool
  | .node n v => wfNode n && wfVc v
  | .port p _ flits what =>
    wfPort p && decide (1 ≤ flits.length) && decide (flits.length ≤ 8) && decide (what.length ≤ 8) && what.all onLine

/-- A size that a configuration write gives is below 8 KiB. -/
def CfgReg.wf : CfgReg → Bool
  | .sizes m r => decide (m < 8192) && decide (r < 8192)
  | .memory _ | .bar0 _ | .bar2 _ | .tags10 _ => true

/-- A register write names a byte string of 1 to 8 bytes on BAR0 (11 R361). -/
def RegTarget.wf : RegTarget → Bool
  | .entry p idx sub d => p.wf && decide (idx < 65536) && decide (sub < 256) && decide (d.length ≤ 4096)
  | .bar0 off d => decide (off < 0x4000000) && decide (1 ≤ d.length) && decide (d.length ≤ 8)
  | .sdio a _ => decide (a < 131072)
  | .ien1 _ => true
  | .msixControl _ _ => true
  | .config r => r.wf

/-- A contribution is added at a tile, or heard of by a core. -/
def CombAt.wf : CombAt → Bool
  | .tile t => wfTile t
  | .far c => wfCore c

/-- An acknowledger of a settle round exists. -/
def SackFrom.wf : SackFrom → Bool
  | .node n => wfNode n
  | .device d _ _ => wfDev d

/-- A bring-up step's index exists. -/
def BootStep.wf : BootStep → Bool
  | .portTraining p => wfPort p
  | _ => true

/-- A unit with a watchdog exists (12 R419). -/
def WdUnit.wf : WdUnit → Bool
  | .core c => wfCore c
  | .ni t => wfTile t
  | .router r => wfTile r
  | .portBridge p => wfPort p
  | .bridge n => decide (77 ≤ n) && wfNode n

/-- A window write's path exists. -/
def WinVia.wf : WinVia → Bool
  | .dict p => p.wf
  | .bar0 => true

/-- A path with a window of its own (11 R374, R378) or the HKC's local access. -/
def hasWindow : Path → Bool
  | .pcie | .sdio | .hkc => true
  | .peer _ => false

/-- OP of CTL (11 Table 11.7). -/
def opOf (ctl : W64) : Nat := ctl.toNat / 2 ^ 13 % 8

/-- A boot image: a header of 512 bytes and a body of at most 4 MiB (12 R403). -/
def Image.wf (i : Image) : Bool := decide (i.header.length = 512) && decide (i.body.length ≤ 0x400000)

/-- What SUNRISE reports names units the device has. -/
def Sunrise.wf (r : Sunrise) : Bool :=
  decide (r.density.length = 32) && r.untrained.all (fun c => decide (c < 32)) &&
    r.coreFail.all wfCore && r.tileFail.all wfTile && r.rows.all (fun e => wfTile e.1) && r.router.all wfTile

/-- A word that the scrubber or a read meets: of a core memory of 128 KiB or of a TSM of 2 MiB (03 Table 3.1). -/
def ScrubHit.wf : ScrubHit → Bool
  | .corrected => true
  | .core c off _ => wfCore c && decide (off < 0x20000)
  | .tsm t off _ => wfTile t && decide (off < 0x200000)
  | .buffer _ => true

/-- Every operand of the command names something the device has. -/
def Instr.wf : Instr → Bool
  | .deviceReset _ _ _ => true
  | .porstPulse _ _ _ => true
  | .dawnEnd a b _ => a.wf && b.wf
  | .sunriseEnd r _ => r.wf
  | .memTrainingTimeout => true
  | .morningEnd _ => true
  | .bootStepTimeout b => b.wf
  | .bootReset p => p.wf
  | .bootForceReset p => p.wf
  | .resetDelayExpire _ _ => true
  | .registerWrite t => t.wf
  | .coreWindowWrite l off d => decide (l < 65536) && decide (off + d.length ≤ 0x20000)
  | .stepRun p | .stepStop p | .stepFence p | .stepFenceTimeout p => p.wf
  | .stepPeriodWrite p _ => p.wf
  | .stepDeadline => true
  | .stepSourceEvent n => decide (n < 256)
  | .wave ps => decide (ps.length ≤ 7)
  | .settle _ => true
  | .sack u => u.wf
  | .openStep _ => true
  | .reconfCommitBoundary p | .reconfCommitGeneration p | .reconfCancel p => p.wf
  | .nop c | .fire c | .leak c | .trace c | .send c | .recv c | .combine c | .fence c | .fenceDone c
  | .repeatOp c | .waitstep c | .passDone c | .stallLimitReached c => wfCore c
  | .dense c _ | .eventAccumulate c _ => wfCore c
  | .emit c _ => wfCore c
  | .coreFence p | .coreRelease p => p.wf
  | .midnight c _ _ => wfCore c
  | .lrnCmdMidnight p _ _ => p.wf
  | .lrnCmdClear p => p.wf
  | .packetSend s v => s.wf && wfVc v
  | .routerForward h f => h.wf && f.all fun b => decide (b < 80)
  | .packetReceive e => e.wf
  | .delayRingPlace t => wfTile t
  | .ack e | .nak e | .skip e | .haveAns e | .absent e => e.wf
  | .retransmitTimeout s d v => s.wf && wfNode d && wfVc v
  | .credit p _ => wfPort p
  | .laneFailure p l _ => wfPort p && decide (l < 9)
  | .lane p _ => wfPort p
  | .portRetentionNotice p _ => wfPort p
  | .portTrain a p => a.wf && wfPort p
  | .portTrainingDone p => wfPort p
  | .qualWindowEnd p q => wfPort p && decide (q.laneErr.length = 9)
  | .portDown a p => a.wf && wfPort p
  | .portRxNextReply p _ => wfPort p
  | .portDownReconcileTimeout p => wfPort p
  | .mapTileWrite a v _ => a.wf && wfVt v
  | .drain h v => wfNode h && wfVt v
  | .mapCoreWrite a s _ => a.wf && decide (s < 128)
  | .routeWrite a e _ => a.wf && wfDev e
  | .drained e => wfDev e
  | .join p r => wfPort p && wfDev r.devnum && wfPort r.port && decide (r.hash.length = 48)
  | .sysRejoin a => a.wf
  | .sysAdoptStep a _ => a.wf
  | .tickSend => true
  | .tick p d _ => wfPort p && wfDev d
  | .lossRateUpdate => true
  | .connOpen a => a.wf
  | .connConfirm d _ _ r => wfDev d && decide (r.length = 32)
  | .connAck d _ _ _ _ => wfDev d
  | .connOpenTimeout a => a.wf
  | .connClose a => a.wf
  | .connCloseMessage d _ => wfDev d
  | .connCloseTimeout i _ => decide (i < 4096)
  | .queueDeliver t => wfTile t
  | .queueCreditReturn i => decide (i < 4096)
  | .recordHandoff t => wfTile t
  | .combContribute u => u.wf
  | .combDeliver n => decide (n < 8192)
  | .hringWrite r | .hringHoldoffExpire r => decide (r < 64)
  | .hringConsWrite a r _ => a.wf && decide (r < 64)
  | .hringEnable a r | .hringDisable a r | .hringForceDisable a r | .dringEnable a r | .dringDisable a r =>
    a.wf && decide (r < 64)
  | .dringProdWrite a r _ => a.wf && decide (r < 64)
  | .dringFetch r d => decide (r < 64) && decide (d.length = 32)
  | .dmaOpen a | .dmaStart a | .dmaStop a | .dmaClose a => a.wf
  | .dmaProdWrite a c _ => a.wf && decide (c < 64)
  | .dmaDescFetch c r => decide (c < 64) && decide (r.host.length = 32)
  | .dmaReadBeat d _ => decide (d.length = 64)
  | .dmaWriteBeat => true
  | .dmaDescComplete c | .dmaDescFault c => decide (c < 64)
  | .parkWrite => true
  | .descPark => true
  | .replay v _ => wfVt v
  | .swapOut a | .swapIn a | .swapExchange a => a.wf
  | .swapFreeze => true
  | .swapCopyOut => true
  | .swapCopyOutDone ue _ | .swapCopyInDone ue _ => ue.all fun a => decide (a < 2 ^ 24)
  | .swapMapDone _ => true
  | .memPatrolPass _ _ => true
  | .frameReceive p _ _ => decide (p < 2)
  | .pauseFrameReceive p _ => decide (p < 2)
  | .sampleConvert p x => decide (p < 2) && decide (x < 128)
  | .egressRecord p => decide (p < 2)
  | .egressHoldoffExpire x => decide (x < 128)
  | .egressFrameTransmit p => decide (p < 2)
  | .sctxEnable a x | .sctxDisable a x => a.wf && decide (x < 128)
  | .schEntryWrite a _ => a.wf
  | .spUp a p | .spDown a p => a.wf && decide (p < 2)
  | .spLinkChange p _ => decide (p < 2)
  | .timerWrap n => decide (n < 32)
  | .timerMatch n k => decide (n < 32) && decide (k < 2)
  | .tmrCountWrite a n _ => a.wf && decide (n < 32)
  | .tmrCmpWrite a n k _ => a.wf && decide (n < 32) && decide (k < 2)
  | .tmrEnWrite a n _ | .tmrFlagsWrite a n _ => a.wf && decide (n < 32)
  | .tmrCaptRead a n => a.wf && decide (n < 32)
  | .trgForceWrite a m _ => a.wf && decide (m < 8)
  | .trgPulseEnd m => decide (m < 8)
  | .captureFilterAccept k _ => decide (k < 16)
  | .capinConfigWrite a k _ _ => a.wf && decide (k < 16)
  | .pcieFlr _ => true
  | .busMasterEnableChange _ _ _ _ _ => true
  | .winbaseWrite v _ => v.wf
  | .bar2Read o n _ => decide (1 ≤ n) && decide (n ≤ 4096) && decide (o + n ≤ 0x1000000000)
  | .bar2Write o d => decide (1 ≤ d.length) && decide (d.length ≤ 512) && decide (o + d.length ≤ 0x1000000000)
  | .dwRead p _ c => hasWindow p && decide (opOf c = 1)
  | .dwInfo p _ c => hasWindow p && decide (opOf c = 3)
  | .dwWrite p _ c d => hasWindow p && decide (opOf c = 2) && decide (d.length ≤ 4096)
  | .dictOpComplete p => p.wf
  | .dictHkcTimeout p => p.wf
  | .dreq d _ op idx sub b =>
    wfDev d && decide (op < 8) && decide (idx < 65536) && decide (sub < 256) && decide (b.length ≤ 4096)
  | .drsp d _ _ b => wfDev d && decide (b.length ≤ 4096)
  | .dictForwardTimeout => true
  | .cmd5 | .cmd11 | .cmd19 => true
  | .cmd52 _ a _ => decide (a < 131072)
  | .cmd53 w a _ n d => decide (a < 131072) && decide (1 ≤ n) && (!w || decide (d.length = n))
  | .ioAbort | .sdioRes => true
  | .intPendWrite _ => true
  | .hostOpen p | .hostClose p => p.wf
  | .mbLockRead a i => a.wf && decide (i < 24)
  | .mbLockWrite a i _ | .mbReceiverWrite a i _ => a.wf && decide (i < 24)
  | .mbMsgWrite a i _ => a.wf && decide (i < 24)
  | .mbSend a i | .mbDoorbell a i | .mbReset a i => a.wf && decide (i < 24)
  | .mbSendTimeout i => decide (i < 24)
  | .mbConsWrite a i _ => a.wf && decide (i < 24)
  | .notice d _ => wfDev d
  | .mbNoticeRead a d => a.wf && wfDev d
  | .secAttest a | .secAdvanceArb a | .secProvision a | .defectMark a | .defectUnmark a | .scrubPass a => a.wf
  | .scrubPassStart hits => hits.all ScrubHit.wf
  | .watchdogExpire u _ => u.wf
  | .lockstepMismatch _ _ => true
  | .hkcRestartDone a b => a.wf && b.wf
  | .faultRingWrite => true
  | .faultRingEnable a | .faultRingDisable a => a.wf
  | .domainOn a d | .domainRetention a d | .domainOff a d | .domainOffForce a d => a.wf && decide (d < 90)
  | .domainEntryDone d | .domainEntryAbandon d | .domainWakeDone d => decide (d < 90)
  | .domainWake d n => decide (d < 90) && decide (1 ≤ n) && decide (n ≤ 8)
  | .tempSample n _ => decide (n < 96)
  | .voltSample d _ _ => decide (d < 90)
  | .procSample t _ => wfTile t
  | .monExtremeClear a v i _ => a.wf && decide (i < if v then 90 else 96)
  | .vwarnLatch _ | .vwarnClear _ _ | .supplyReset _ _ _ | .scrubPassEnd _ => true
  | .refclkLoss | .perstRelease => true
  | .bar0Read off n => decide (off < 0x4000000) && decide (1 ≤ n)
  | .unsupportedRequest b => decide (b < 6) && decide (b ≠ 0) && decide (b ≠ 2)
  | .msixPendingSend v => decide (v < 256)
  | .captureGlitch k => decide (k < 16)
  | .pauseExpire p => decide (p < 2)

end Sys2Proof
end

