-- ==== Sys2Proof/Tests/Slice0.lean ====
section
/-! SUPPORT. Tests: the commands that WellFormed refuses, the worked examples of the specification, and for each statement a
    state and operands that meet its hypotheses. -/

-- Each of these proofs waits for the kernel; checked side by side they would hold a thread each.
set_option Elab.async false

namespace Sys2Proof.Tests
open Sys2Proof Sys2Proof.Machine

/-! Ill-formed commands: one for each check of WellFormed -/

theorem test_wf_units :
    [Instr.nop 9520, .dense 9520 ⟨1, false⟩, .emit 9520 true, .delayRingPlace 70, .queueDeliver 70, .procSample 70 0,
     .packetSend (.node 91) 0, .packetSend (.port 7) 0, .packetSend (.node 0) 4, .routerForward (.router 0 5 0) [], .routerForward (.inject 0 0) [80],
     .credit 7 0, .laneFailure 0 9 ⟨false, 0, 0, 0⟩, .lane 7 0, .mapTileWrite .pcie 512 0, .drain 91 0, .mapCoreWrite .pcie 128 0,
     .routeWrite .pcie 8 0, .drained 8, .tick 0 8 0, .stepSourceEvent 256, .replay 512 .clean].all (fun c => !c.wf) = true := by
  decide +kernel

theorem test_wf_indexes :
    [Instr.queueCreditReturn 4096, .combDeliver 8192, .hringWrite 64, .dmaDescComplete 64, .egressRecord 2,
     .egressHoldoffExpire 128, .timerWrap 32, .timerMatch 0 2, .trgPulseEnd 8, .captureGlitch 16, .mbSendTimeout 24,
     .notice 8 0, .domainEntryDone 90, .domainWake 0 9, .tempSample 96 0, .msixPendingSend 256, .unsupportedRequest 6, .combContribute (.far 9520), .sampleConvert 0 128, .swapCopyOutDone (some (2 ^ 24)) 0,
     .scrubPassStart [.tsm 0 0x200000 false],
     .stepRun (.peer 8), .winbaseWrite (.dict (.peer 8)) 0].all (fun c => !c.wf) = true := by
  decide +kernel

theorem test_wf_bytes :
    [Instr.coreWindowWrite 0 0x20000 [0], .connConfirm 0 0 0 [], .dringFetch 0 [], .dmaDescFetch 0 ⟨[], .clean⟩, .dmaReadBeat [] .clean,
     .bar2Read 0 0 .clean, .bar2Write 0 [], .cmd53 true 0 true 2 [0], .cmd52 false 131072 0, .bar0Read 0x4000000 4,
     .dwRead (.peer 0) 0 0, .dreq 0 0 8 0 0 [], .dawnEnd ⟨[], []⟩ ⟨[], []⟩ 0,
     .registerWrite (.config (.sizes 8192 128)), .sunriseEnd ⟨[], [], [], [], [], none⟩ 0, .packetReceive (.port 0 0 [] [])].all (fun c => !c.wf) = true := by
  decide +kernel

/-! Worked examples of the specification -/

/-- 02, worked example of R44: the flit 0x1001_3052_A721_7000. -/
theorem test_flit :
    (let f : W64 := 0x10013052A7217000
     flTag f = 1 ∧ flDev f = 0 ∧ flLcid f = 0x1305 ∧ flAxon f = 0x2A7 ∧ flShift f = 2 ∧ flValue f = 23 ∧
     leBytes 8 f.toNat = [0x00, 0x70, 0x21, 0xA7, 0x52, 0x30, 0x01, 0x10]) := by decide

/-- 04, worked example: the DST entry 0x0001_3052_A720_0000 yields that flit, and axon 679 is LEN 16, TBASE 509, row 3,934. -/
theorem test_fanout :
    buildFlit 0x00013052A7200000 1 false 23 2 = 0x10013052A7217000 ∧
    (let e : W64 := 0x300407F5EBC00000
     axFmt e = 0 ∧ axLen e = 16 ∧ axTbase e = 509 ∧ axRow e = 3934) := by decide

/-- 05 R164 and the example of R179: rounding to even, and the scaled readouts 0.75 and 16,777,216.0. -/
theorem test_rounding :
    rneShr 5 1 = 2 ∧ rneShr 7 1 = 4 ∧ rneShr (-5) 1 = -2 ∧ rneShr (-3) 1 = -2 ∧
    scaleFp32 48 0x3C800000 = (0x3F400000, false) ∧ scaleFp32 16777217 0x3F800000 = (0x4B800000, false) := by decide +kernel

/-- 07, worked example of R236: word 1 of a DESC header of device 0, LCID 0x0C00, SEQ 0x1A2C, PH 0, LEN 3; and of the PAD. -/
theorem test_ring_headers :
    headerWord1 0x1A2B 0 0 0 0 1 false false 1 = 0x1A2B000000000801 ∧
    headerWord1 0x1A2C 0 0x0C00 0 3 0 false false 3 = 0x1A2C00C000003003 := by decide

/-- 11, worked example of R385: word 0 of a PAD of 42 units, and of a message of 1,000 bytes. -/
theorem test_mailbox_headers :
    mbWord0 0x0057 1 0 1 42 0 = 0x0057108A80000000 ∧ mbWord0 0x0058 1 1 0 64 1000 = 0x0058141007D00000 := by decide

/-- 12, worked example of R424, but for PH, which the ring writes. -/
theorem test_fault_word : putFld (faultWord0 1 0 0x0139 0 0) 51 51 1 = 0x0108013900000000 := by decide

/-- 12 R429: CONFIG.JOIN_HASH after reset is the digest of 48 zero bytes and the default settings block. -/
theorem test_join_hash : sha384 (List.replicate 48 0 ++ State.reset.settings) = joinHashReset := by decide +kernel


/-! Witnesses: for each statement, states and operands that meet its hypotheses -/

/-- A RUNNING core about to execute entry 0, the word w, of an active range of n entries. -/
def passCore (w : W64) (n : Nat) : Core :=
  ({ Core.reset with state := .running, pass := .run }.wr64 aSTB w).wr64 0x1C900 (w64 (2000 * 2 ^ 32 + n * 2 ^ 15))

/-- The reset state with core 0 replaced. -/
def withCore (c : Core) : State := State.reset.setCore 0 c

/-- The reset state with core 0 replaced and connection context 0 OPEN with record r. -/
def withConn (c : Core) (r : W64 × W64 × W64 × W64) : State :=
  (withCore c).updConn 0 fun d => { d with state := .opn, recd := r }

/-- A core whose descriptor slot 0 holds a sealed descriptor of zeros. -/
def descCore (w : W64) : Core := (passCore w 2).wrDesc (aDslot 0) (descSeal (0, 0, 0, 0))

/-- The device in NOON. -/
def noon : State := { State.reset with boot := { Boot.reset with stage := .noon } }

/-- A settle round of step 1 in which the boundary work has begun. -/
def tRound : Round :=
  { step := 1, work := true, acked := [], peers := [], commit := none, night := false, begun := false, split := false,
    late := [], sent := none }

/-- Port 2 UP with packet 5 in the retransmit buffer of VC0, attempted n times, and a SKIP for it or none. -/
def tRtx (n : Nat) (skip : Option Nat) : State := (State.reset.wn (pReg 2 1) 3).updPort 2 fun q =>
  { q with tx := [(0, { next := 6, buf := [{ pk := { vc := 0, seq := 5, drain := false, sdev := 0, ddev := 1, items := [] }, attempts := n }], skip := skip })] }

/-- A descriptor for connection context 0 of this device. -/
def tDesc : DescMsg :=
  { id := 1, core := 0, words := (0, 0, 0, 0), ddev := 0, dst := 0, src := 0, dev := 0, lcid := 0, skind := 0, step := 0 }

theorem wit_PassFlow :
    (let s := withCore (passCore 0 2)
     s.atEntry 0 = true ∧ opcode (s.core 0).word = 0 ∧ (s.core 0).rep = none ∧
     (s.core 0).pc.toNat + 1 < (s.core 0).stbBase + (s.core 0).stbLen) ∧
    (let s := withCore (passCore (w64 (0xF * 2 ^ 60)) 2)
     s.atEntry 0 = true ∧ 0xB ≤ opcode (s.core 0).word ∧ (s.core 0).rep = none ∧
     (s.core 0).pc.toNat + 1 < (s.core 0).stbBase + (s.core 0).stbLen) ∧
    (withCore (passCore (w64 (8 * 2 ^ 60)) 1)).atOp 0 8 = true ∧
    (let s := withCore { passCore (w64 (8 * 2 ^ 60)) 2 with pass := .fence [7] }
     (s.core 0).pass = .fence [7] ∧ s.tileLive 0 = true ∧ (∀ i ∈ [7], ∀ p ∈ s.live, p.1 ≠ i) ∧ (s.core 0).rep = none ∧
     (s.core 0).pc.toNat + 1 < (s.core 0).stbBase + (s.core 0).stbLen) ∧
    (let s := withCore ((passCore (w64 (9 * 2 ^ 60 + 2 ^ 48)) 2).wr64 (aSTB + 8) (w64 (7 * 2 ^ 60)))
     s.atOp 0 9 = true ∧ fld (s.core 0).word 59 48 ≠ 0 ∧
     (s.core 0).pc.toNat + 1 < (s.core 0).stbBase + (s.core 0).stbLen ∧
     1 ≤ opcode ((s.core 0).stb ((s.core 0).pc.toNat + 1)) ∧ opcode ((s.core 0).stb ((s.core 0).pc.toNat + 1)) ≤ 7) ∧
    (withCore (passCore (w64 (0xA * 2 ^ 60)) 1)).atOp 0 0xA = true ∧
    (let s := withCore { passCore 0 1 with pass := .blocked 5 0 0 0 }
     (s.core 0).stalling = true ∧ (s.core 0).stalled = false) := by decide +kernel

theorem wit_PassArrays :
    (withCore (passCore (w64 (1 * 2 ^ 60 + 2 ^ 35)) 1)).atOp 0 1 = true ∧
    (withCore (passCore (w64 (2 * 2 ^ 60 + 2 ^ 35)) 1)).atOp 0 2 = true ∧
    (let s := withCore (passCore (w64 (3 * 2 ^ 60)) 2)
     s.atOp 0 3 = true ∧ (s.core 0).learns = false ∧ (s.core 0).rep = none ∧
     (s.core 0).rangeBad (s.core 0).opFirst (fld (s.core 0).word 47 35) = false ∧
     (s.core 0).pc.toNat + 1 < (s.core 0).stbBase + (s.core 0).stbLen) ∧
    (let s := withCore (passCore (w64 (4 * 2 ^ 60)) 2)
     let c := s.core 0
     let r := denseBeats s.passCtx (c.dense c.opSlot) (s.tile 0).poison (s.denseGrant 0 1)
       { c := { c with dn := some c.denseRun }, tsm := (s.tile 0).tsm }
     s.atOp 0 4 = true ∧ s.eventReady 0 = false ∧ r.2 = .done) ∧
    (let s := withCore ((passCore (w64 (4 * 2 ^ 60)) 2).wrDesc 0x1CA00 (w64 (9 * 2 ^ 32 + 2 ^ 19), 0, 0, w64 (2 ^ 51)))
     let c := s.core 0
     let r := denseBeats s.passCtx (c.dense c.opSlot) (s.tile 0).poison (s.denseGrant 0 1 - 1)
       { c := { c with dn := some c.denseRun }, tsm := (s.tile 0).tsm }
     s.atOp 0 4 = true ∧ 0 < s.denseGrant 0 1 ∧ r.2 = .more ∧ r.1.c.state ≠ .fenced) := by
  decide +kernel

theorem wit_PassMessages_send :
    (let s := withConn (descCore (w64 (5 * 2 ^ 60))) (0, 0, 0, 0)
     let c := s.core 0
     s.atOp 0 5 = true ∧ fld c.word 55 40 = 0 ∧ c.opSlot = 0 ∧ pickAll (s.sendRefusal 0 ((s.lcidOf 0).getD 0)) = .ok ∧
     descCheck (c.rdDesc (aDslot 0)) = .ok ∧ s.sendWaits 0 0 = false) ∧
    (let s := (withConn (descCore (w64 (5 * 2 ^ 60))) (0, 0, 0, 0)).updConn 0 fun d => { d with taken := 32 }
     let c := s.core 0
     s.atOp 0 5 = true ∧ fld c.word 55 40 = 0 ∧ c.opSlot = 0 ∧ pickAll (s.sendRefusal 0 ((s.lcidOf 0).getD 0)) = .ok ∧
     descCheck (c.rdDesc (aDslot 0)) = .ok ∧ s.sendWaits 0 0 = true) ∧
    (let s := withCore (passCore (w64 (5 * 2 ^ 60)) 2)
     let c := s.core 0
     s.atOp 0 5 = true ∧ Status.pick (pickAll (s.sendRefusal (fld c.word 55 40) ((s.lcidOf 0).getD 0)))
      (descCheck (c.rdDesc (aDslot c.opSlot))) ≠ .ok) := by decide +kernel
theorem wit_PassMessages_recv_combine :
    (let s := (withConn ((descCore (w64 (6 * 2 ^ 60))).wrDesc (aQslot 0 31) (descSeal (1, 0, 0, 0))) (0, 0, 0, 0)).setQueue
       0 0 0 { handle := 0, head := 31, held := 1 }
     let c := s.core 0
     let q := s.queue 0 ((s.lcidOf 0).getD 0 % 128) (s.conn 0).q
     s.atOp 0 6 = true ∧ s.connOf (fld c.word 55 40) = some 0 ∧ (s.conn 0).dkind = 0 ∧
     (s.conn 0).dest = (s.lcidOf 0).getD 0 ∧ (s.conn 0).state = .opn ∧ q.held ≠ 0 ∧
     descCrcOk (c.rdDesc (aQslot (s.conn 0).q q.head)) = true) ∧
    (let s := withConn (descCore (w64 (6 * 2 ^ 60))) (0, 0, 0, 0)
     let c := s.core 0
     s.atOp 0 6 = true ∧ s.connOf (fld c.word 55 40) = some 0 ∧ (s.conn 0).dkind = 0 ∧
     (s.conn 0).dest = (s.lcidOf 0).getD 0 ∧ (s.conn 0).state = .opn ∧
     (s.queue 0 ((s.lcidOf 0).getD 0 % 128) (s.conn 0).q).held = 0) ∧
    (let s := withConn (passCore (w64 (7 * 2 ^ 60)) 2) (w64 (2 * 2 ^ 59), 0, 0, 0)
     let u := s.updCore 0 fun c => c.countRange (fld c.word 47 44 + 1)
     let w := (u.core 0).word
     s.atOp 0 7 = true ∧ s.connOf (fld w 43 28) = some 0 ∧ (s.conn 0).edkind = 2 ∧ (s.conn 0).elanes = fld w 47 44 ∧
     (s.conn 0).state = .opn) := by decide +kernel

theorem wit_CoreTraffic :
    (let q : Copy := { id := 1, flit := w64 (2 ^ 60), slot := 127, flight := 0, delay := true, late := false, into := 0, spill := none }
     let s := (State.reset.setCore 127 { Core.reset with state := .ready }).updTile 0 fun d => { d with copies := [q] }
     s.domUp 0 = true ∧ (s.tile 0).copies = [q] ∧ q.delay = true ∧ s.coreOf 0 q.slot = some 127 ∧
     (s.core 127).state = .ready ∧ s.swappingOut 0 = none ∧ (s.ring 0 q.slot (flTag q.flit)).held < s.dlyDepth 0) ∧
    (let q : Copy := { id := 1, flit := 0, slot := 0, flight := 0, delay := false, late := false, into := 0, spill := none }
     let s := withCore { Core.reset with state := .ready, inbuf := [q] }
     s.domUp 0 = true ∧ (s.core 0).state = .ready ∧ (s.core 0).pass ≠ .release ∧
     s.takesCopy 0 q = true ∧ (s.core 0).inbuf = [q] ∧ (s.core 0).dn = none ∧ (s.tile 0).copies = [] ∧
     ((Core.applyCopy { s.core 0 with inbuf := [] } (s.copyCtx q) q.flit none).1.inbuf[63]?).bind Copy.spill = none) ∧
    (let j : Job := { neuron := 0, readout := false, handle := 0, value := 1, shift := 15, pos := 2047, stop := 2048, step := 3,
                      flight := 0, pass := true, counted := false }
     let s := withCore { Core.reset with jobs := [j] }
     let w := (s.core 0).dstWord j.pos
     s.domUp 0 = true ∧ (s.core 0).jobs = [j] ∧ j.readout = false ∧ dstBad w s.delayLimit = false ∧ bit w 63 = false ∧
     j.shift + fld w 23 20 ≤ 15) ∧
    (let s := withCore { Core.reset with state := .running, pass := .release }
     s.passReady 0 = true ∧ s.eng.round = none) ∧
    (let s := withCore { Core.reset with midnight := true }
     let c := Core.nightRowsStep (s.core 0).nightRows 1 (s.core 0)
     (s.core 0).midnight = true ∧ s.mon.vwarn = false ∧ c.nightAll = true ∧ c.due = none ∧ (s.tile 0).copies = []) ∧
    (let s := withCore { ((Core.reset.wr64 0x00 (w64 (2 ^ 51 + 0x800 * 2 ^ 38))).wr64 0x4000 (w64 (2 ^ 59 + 2 ^ 46))) with midnight := true }
     let c := Core.nightRowsStep (s.core 0).nightRows 0 (s.core 0)
     (s.core 0).midnight = true ∧ s.mon.vwarn = false ∧ c.nightAll = false ∧ c.state ≠ .fenced) := by decide +kernel

theorem wit_CoreCommands :
    (let s := (noon.setCore 0 { Core.reset with state := .running }).wn (rCoreSel .hkc) 0
     s.serves .hkc false 0x1100 3 = true ∧ s.selCore .hkc = some 0 ∧ (s.core 0).state ≠ .fenced) ∧
    (let s := (noon.setCore 0 { Core.reset with state := .fenced }).wn (rCoreSel .hkc) 0
     s.serves .hkc false 0x1100 3 = true ∧ s.selCore .hkc = some 0 ∧ (s.core 0).state = .fenced) ∧
    (let s := { noon with eng := { Eng.reset with phase := .fire } }
     s.serves .hkc false 0x4400 3 = true ∧ s.stopped = false) ∧
    (noon.serves .hkc false 0x4400 3 = true ∧ noon.stopped = true ∧ noon.swap = none ∧ noon.inNight = false ∧
     noon.mon.vwarn = false ∧ noon.nightCores = [] ∧ noon.eng.round = none ∧
     ((noon.opened .hkc 2 0x4400 3 [1]).nightStart ⟨1, true⟩ 0).inNight = false) ∧
    (let s := noon.setCore 0 (Core.reset.wr64 0x1C900 (w64 (2 ^ 12)))
     s.serves .hkc false 0x4400 3 = true ∧ s.stopped = true ∧ s.swap = none ∧ s.inNight = false ∧ s.mon.vwarn = false ∧
     s.nightCores = [0] ∧ ((s.opened .hkc 2 0x4400 3 [1]).nightStart ⟨0, false⟩ 0).inNight = true) ∧
    (let s := { noon with mon := { Mon.reset with vwarn := true } }
     s.serves .hkc false 0x4400 3 = true ∧ s.stopped = true ∧ s.swap = none ∧ s.inNight = false ∧ s.mon.vwarn = true) ∧
    (let off := 0x1DFF8
     noon.placeOf (windowAddr 0 off) = .core 0 off ∧ noon.places (windowAddr 0 off) 8 = [.core 0 (off / 64 * 64)] ∧
     noon.qmBound 0 off = false ∧ (noon.core 0).dropsWord (noon.setsInForce (noon.core 0)) off 0 = false ∧
     shadowed off = false ∧ counterWidth off = none) ∧
    (let off := 0x1C900
     noon.placeOf (windowAddr 127 off) = .core 127 off ∧ noon.places (windowAddr 127 off) 8 = [.core 127 (off / 64 * 64)] ∧
     noon.qmBound 127 off = false ∧ (noon.core 127).dropsWord (noon.setsInForce (noon.core 127)) off 0 = false ∧
     shadowed off = true ∧ noon.reconf.state = .idle) := by decide +kernel

theorem wit_StepCommands :
    (let s := noon.wn rLeader 0
     s.serves .hkc false 0x3C03 1 = true ∧ s.leads = true ∧ s.isMember s.dev = true ∧ s.stopped = true ∧
     s.joinState ≠ 1 ∧ s.joinState ≠ 3 ∧ s.mon.vwarn = false) ∧
    (noon.serves .hkc false 0x3C03 2 = true ∧ noon.stopped = true) ∧
    (let s := { noon with eng := { Eng.reset with phase := .quiet, closed := true } }
     s.serves .hkc false 0x3C03 2 = true ∧ s.stopped = false ∧ s.eng.starting = false ∧ s.eng.closed = true ∧
     s.eng.prev = false ∧ s.eng.round = none) ∧
    (let s := { noon with eng := { Eng.reset with phase := .fire } }
     s.serves .hkc false 0x3C03 2 = true ∧ s.stopped = false ∧ s.eng.starting = false ∧ s.eng.closed = false) ∧
    (noon.serves .hkc false 0x3C03 3 = true ∧ noon.pcie.held = []) ∧
    (let s := { noon with pcie := { Pcie.reset with held := [(1, 0, [])] } }
     s.serves .hkc false 0x3C03 3 = true ∧ s.pcie.held ≠ []) ∧
    (let s := noon.updPath .hkc fun q => { q with op := some (.waiting (.fence [1])) }
     s.boot.refclk = true ∧ (s.path .hkc).op = some (.waiting (.fence [1]))) ∧
    (noon.serves .hkc false 0x3C01 0 = true ∧ 1000 ≤ (1000 : W32).toNat ∧ (1000000000 : W32).toNat ≤ 1000000000) ∧
    (let s := { noon.wn rLeader 0 with eng := { Eng.reset with phase := .fire } }
     s.boot.refclk = true ∧ s.timesStep = true ∧ s.mon.vwarn = false ∧ s.eng.round = none ∧ s.eng.closed = false) ∧
    (let s := { (noon.wn rLeader 0).wn rSource 1 with eng := { Eng.reset with phase := .fire } }
     s.boot.refclk = true ∧ s.timing = true ∧ s.rn rSource = 1 ∧ s.eng.deadline = none ∧
     s.mon.vwarn = false ∧ s.eng.round = none ∧ s.eng.closed = false) ∧
    (let s := { (noon.wn rLeader 0).wn rSource 1 with eng := { Eng.reset with phase := .dusk, deadline := some 5 } }
     s.boot.refclk = true ∧ s.timing = true ∧ s.rn rSource = 1 ∧ s.eng.deadline ≠ none) := by
  decide +kernel

theorem wit_StepSequence :
    (let s := { noon.wn rLeader 0 with eng := { Eng.reset with phase := .dusk, deadline := some 4, closed := true } }
     s.boot.refclk = true ∧ s.settleReady = true ∧ s.mon.vwarn = false) ∧
    (let s := (noon.wn rLeader 1).wn rMembers 3
     s.boot.refclk = true ∧ s.follows = true ∧ s.eng.round = none ∧ s.mon.vwarn = false) ∧
    (let s := { noon with eng := { Eng.reset with phase := .settle, round := some tRound } }
     s.boot.refclk = true ∧ tRound.work = true ∧ s.tileSettled 69 = true ∧ 70 ≤ 70) ∧
    (let s := { (noon.wn rLeader 0).wn rMembers 0x81 with eng := { Eng.reset with phase := .settle, round := some tRound } }
     s.boot.refclk = true ∧ s.leads = true ∧ s.isMember 7 = true ∧ 7 ≠ s.dev) ∧
    (let r := { tRound with acked := List.range 91 }
     let s := { (noon.setCore 0 { Core.reset with state := .ready }).wn rLeader 0 with
                eng := { Eng.reset with phase := .settle, round := some r } }
     s.leads = true ∧ s.ackedAll r = true ∧ s.someLoading r = false ∧ s.isSplit r = false ∧ r.commit = none ∧
     s.eng.heldAt = none ∧ (s.core 0).state = .ready ∧ s.tileLive 0 = true) ∧
    (let r := { tRound with acked := List.range 91 }
     let s := { (noon.wn rLeader 1).wn rMembers 3 with eng := { Eng.reset with phase := .settle, round := some r } }
     s.follows = true ∧ s.ackedAll r = true ∧ r.commit = none ∧ s.eng.heldAt = none) ∧
    (let s := { noon with eng := { Eng.reset with phase := .deliver, waveCur := some 0 } }
     s.passesDone = true ∧ s.sumSent 0 = s.sumAcc 0 ∧ s.eng.waveCur = some (s.sumSent 0) ∧ s.eng.phase ≠ .stopped) ∧
    (let s := { noon.addSent 0 0 1 with eng := { Eng.reset with phase := .fire } }
     s.sumSent 0 ≠ s.sumAcc 0 ∧ s.eng.phase ≠ .stopped) := by decide +kernel

theorem wit_ReconfCommands :
    (noon.serves .hkc false 0x3C05 1 = true ∧ noon.stopped = true ∧ noon.reconf.state = .idle ∧ noon.shadowAsleep = false ∧
     noon.commitStatus false = .ok ∧ noon.commitStatus true = .ok ∧
     ((noon.opened .hkc 2 0x3C05 1 [1]).manifest .hkc).1 = .ok ∧ ((noon.opened .hkc 2 0x3C05 1 [2]).manifest .hkc).1 = .ok) ∧
    (let s := { noon with eng := { Eng.reset with phase := .fire } }
     s.serves .hkc false 0x3C05 1 = true ∧ s.stopped = false ∧ s.eng.round = none ∧ s.alone = true ∧
     s.rn (rReconf 2) = 0 ∧ s.commitStatus true = .ok ∧ ((s.opened .hkc 2 0x3C05 1 [2]).manifest .hkc).1 = .ok) ∧
    (let s := { noon with fuses := { Fuses.blank with custHash := [1] } }
     s.serves .hkc false 0x3C05 1 = true ∧ s.stopped = true ∧ s.commitStatus false = .ok ∧
     ((s.opened .hkc 2 0x3C05 1 [1]).manifest .hkc).1 = .auth) ∧
    (let s := { noon with reconf := { Reconf.reset with state := .loading } }
     s.serves .hkc false 0x3C05 1 = true ∧ s.reconf.state = .loading) ∧
    (let r : Round := { tRound with commit := some true }
     let s := { noon with reconf := { Reconf.reset with state := .armed }, eng := { Eng.reset with round := some r } }
     s.serves .hkc false 0x3C05 1 = true ∧ s.reconf.state = .armed ∧ s.eng.round = some r ∧ r.commit.isSome = true) := by decide +kernel

theorem wit_ResetCommands :
    ({ noon with boot := { noon.boot with pending := true } }).boot.pending = true ∧ noon.boot.refclk = true ∧
    noon.serves .hkc false 0x0100 6 = true ∧ noon.stopped = true ∧ noon.swap = none ∧
    (let s := { noon with eng := { Eng.reset with phase := .fire } }
     s.serves .hkc false 0x0100 6 = true ∧ s.stopped = false) := by decide +kernel

/-- The reset state in another boot stage. -/
def tStage (g : Stage) : State := { State.reset with boot := { Boot.reset with stage := g, fpmask := 1 } }

/-- A self-test that finds nothing wrong. -/
def tSunrise : Sunrise :=
  { density := List.replicate 32 4, untrained := [], coreFail := [], tileFail := [], rows := [], router := none }

theorem wit_BootStages :
    ((tStage .dawn).boot.refclk = true ∧ (tStage .dawn).boot.stage = .dawn) ∧
    ((tStage .sunrise).boot.stage = .sunrise ∧ (List.range 70).all ((tStage .sunrise).selfTest tSunrise).tileBad = false) ∧
    { tSunrise with router := some 3 }.router = some 3 ∧
    ((tStage .morning).boot.stage = .morning ∧ (tStage .morning).morningDone = true) ∧
    (let s := (tStage .morning).wn (pReg 0 1) 1
     s.inMask 0 = true ∧ s.portState 0 = 1) := by decide +kernel

/-- Node 5 with one event for tile 9 waiting on VC0, and on its way in the transmitter. -/
def tSend : State := State.reset.updNode 5 fun d =>
  { d with out := [(0, [.event 1 0 (w64 (9 * 128 * 2 ^ 36))])],
           inj := [(1, [meshFlit 1 9 0 (.payload (.event 1 0 5) 0)])] }

/-- Router 5 with a flit for node d at its local input on VC0. -/
def tHop (d : Nat) : State := State.reset.updRtr 5 fun t =>
  { t with inb := [(16, [meshFlit 0 d 0 (.payload (.event 1 0 5) 0)])] }

/-- Port 2 UP with an event for device 1 in its queue. -/
def tPortSend : State := ((State.reset.wn (pReg 2 1) 3).updPort 2 fun q =>
  { q with out := [(0, [.event 1 0 (w64 (2 ^ 52))])] })

theorem wit_MeshSend :
    (let s := tSend
     let q := Tab.get [] (s.node 5).out 0
     q ≠ [] ∧ (∀ i ∈ q, s.routeHeld 0 i = false ∧ drainMark s.dev i = none ∧ i.isDrain = false ∧ s.itemDest 5 i = .node 9) ∧
     s.granted 5 0 = true ∧ (s.nodeTx 5 9 0).skip = none ∧ seqRoom (s.nodeTx 5 9 0) 16 = true) ∧
    (pickVc (tPortSend.portReady 2) (tPortSend.port 2).last1 = some 0 ∧ tPortSend.portAgain 2 0 = none ∧ (tPortSend.portPack 2 0).isSome = true) ∧
    (let s := tPortSend.updPort 2 fun q =>
       { q with again := [(0, [5])], tx := [(0, { next := 6, buf := [{ pk := { vc := 0, seq := 5, drain := false, sdev := 0, ddev := 1, items := [] }, attempts := 1 }], skip := none })] }
     pickVc (s.portReady 2) (s.port 2).last1 = some 0 ∧ (s.portAgain 2 0).isSome = true) ∧
    (nodeAt 5 = (5, 4) ∧ Tab.get [] (tSend.node 5).inj 1 ≠ [] ∧ (Tab.get [] (tSend.rtr 5).inb (4 * 4 + 1)).length < 6) ∧
    (let s := tHop 5
     Tab.get [] (s.rtr 5).inb (4 * 4 + 0) ≠ [] ∧ hopPort 5 5 = 4 ∧ s.hopReady 5 4 0 4 = true ∧
     pickVc (s.vcReady 5 4) (Tab.get false (s.rtr 5).alt 4) = some 0 ∧ exitsAt 5 4 5 = true) ∧
    (let s := tHop 6
     Tab.get [] (s.rtr 5).inb (4 * 4 + 0) ≠ [] ∧ hopPort 5 6 = 1 ∧ s.hopReady 5 1 0 4 = true ∧
     pickVc (s.vcReady 5 1) (Tab.get false (s.rtr 5).alt 1) = some 0 ∧ exitsAt 5 1 6 = false ∧
     (beyondPort 5 1).1 ≠ 5) := by decide +kernel

theorem wit_SegmentControl_1 :
    (((tRtx 1 none).takeCtl (.port 2 (linkWord 1 0 5 0 0 0)) 1).1 = some (0, 0, 5) ∧ (tRtx 1 none).routes = [] ∧
     ((tRtx 1 none).conns.all fun e => decide (e.2.state ≠ .closing)) = true) := by decide +kernel

theorem wit_SegmentControl_2 :
    (((tRtx 1 none).takeCtl (.port 2 (linkWord 2 0 5 0 0 0)) 2).1 = some (0, 0, 5) ∧
     ((tRtx 1 none).segTx (.port 2) 0 0).skip = none ∧
     (((tRtx 1 none).segTx (.port 2) 0 0).buf.filter fun q => !seqBefore 12 q.pk.seq 5).map Rtx.attempts = [1]) := by decide +kernel

theorem wit_SegmentControl_3 :
    ((tRtx 8 none).segTx (.port 2) 0 0).buf.map Rtx.attempts = [8] ∧ ((tRtx 1 none).segTx (.port 2) 0 0).buf.map Rtx.attempts = [1] ∧
    (((tRtx 8 none).segTx (.port 2) 0 0).buf.filter fun q => !seqBefore 12 q.pk.seq 5) = ((tRtx 8 none).segTx (.port 2) 0 0).buf := by decide +kernel

theorem wit_SegmentControl_4 :
    (((tRtx 1 none).takeCtl (.port 2 (linkWord 3 0 4095 0 0 0)) 3).1 = some (0, 0, 4095) ∧
     seqBefore 12 4095 ((tRtx 1 none).rxExp (.port 2 0) 0 0) = true) := by decide +kernel

theorem wit_SegmentControl_5 :
    (((tRtx 1 none).takeCtl (.port 2 (linkWord 3 0 0 0 0 0)) 3).1 = some (0, 0, 0) ∧
     seqBefore 12 0 ((tRtx 1 none).rxExp (.port 2 0) 0 0) = false) := by decide +kernel

theorem wit_SegmentControl_6 :
    (((tRtx 8 (some 5)).takeCtl (.port 2 (linkWord 4 0 5 0 0 0)) 4).1 = some (0, 0, 5) ∧
     ((tRtx 8 (some 5)).segTx (.port 2) 0 0).skip = some 5) := by decide +kernel

theorem wit_SegmentControl_7 :
    ((tRtx 8 (some 5)).takeCtl (.port 2 (linkWord 5 0 5 0 0 0)) 5).1 = some (0, 0, 5) := by decide +kernel

theorem wit_SegmentControl_8 :
    (fld (linkWord 6 0 0 0 3 0) 63 62 = 2 ∧ fld (linkWord 6 0 0 0 3 0) 61 58 = 6 ∧
     crc8Ok (linkWord 6 0 0 0 3 0) = true) := by decide +kernel

/-- A packet of one event flit from node 5 for node 9 on VC0 under sequence number seq, and its flits, those of list l of
    bits of its trailer turned over. -/
def tFlits (seq : Nat) (l : List Nat) : List MeshFlit :=
  match packetFlits 9 5 { vc := 0, seq := seq, drain := false, sdev := 0, ddev := 0, items := [.event 1 0 (w64 (9 * 128 * 2 ^ 36))] } with
  | a :: b :: _ => [a, b.flip l]
  | x => x

/-- Node 9 with that packet. -/
def tRecv (seq : Nat) (l : List Nat) : State := State.reset.updNode 9 fun d => { d with rx := [(0, tFlits seq l)] }

/-- The flits split as body and trailer, and the check of the packet. -/
def tParts (seq : Nat) (l : List Nat) : Bool × Bool × Nat × Bool :=
  match tFlits seq l with
  | [a, b] => (a.isLast, b.isLast, b.pos, packetOk 9 0 [a] b)
  | _ => (true, true, 0, false)

/-- A head word of a port packet of one flit on VC0 from device 0 to device 1 under number seq. -/
def tHead (seq : Nat) : W64 := portHead { vc := 0, seq := seq, drain := false, sdev := 0, ddev := 1, items := [.event 0 0 7] }

theorem wit_PacketReceive_node :
    (tParts 0 [] = (false, true, 1, true) ∧ (tRecv 0 []).boot.deadNis.contains 9 = false ∧
     (tRecv 0 []).nodeHolds 9 0 = false ∧ (tFlits 0 []).map (fun f => (fld f.word 15 9, fld f.word 31 16)) ≠ [] ∧
     0 = (tRecv 0 []).rxExp (.node 9) 5 0) ∧
    (tParts 65535 [] = (false, true, 1, true) ∧ 65535 ≠ (tRecv 65535 []).rxExp (.node 9) 5 0 ∧
     seqBefore 16 65535 ((tRecv 65535 []).rxExp (.node 9) 5 0) = true ∧
     ((tRecv 65535 []).conns.all fun e => decide (e.2.state ≠ .closing)) = true) ∧
    (tParts 3 [] = (false, true, 1, true) ∧ 3 ≠ (tRecv 3 []).rxExp (.node 9) 5 0 ∧
     seqBefore 16 3 ((tRecv 3 []).rxExp (.node 9) 5 0) = false) ∧
    (tParts 0 [40] = (false, true, 1, false) ∧ tParts 0 [76, 77] = (false, true, 2, true) ∧ (tRecv 0 [40]).nodeHolds 9 0 = false) := by decide +kernel

theorem wit_PacketReceive_port :
    (fld (tHead 0) 63 62 = 1 ∧ (tRtx 1 none).portCarries 2 (portPacket (tHead 0) [7] []).vc = true ∧
     portCrc (tHead 0) [7] = fld (tHead 0) 31 0 ∧ fld (tHead 0) 59 57 + 1 = [(7 : W64)].length ∧
     (portPacket (tHead 0) [7] []).seq = (tRtx 1 none).rxExp (.port 2 0) 0 0) ∧
    (let s := (tRtx 1 none).updPort 2 fun q => { q with naked := [(0, 1)] }
     portCrc (tHead 1) [7] = fld (tHead 1) 31 0 ∧ (portPacket (tHead 1) [7] []).seq ≠ s.rxExp (.port 2 0) 0 0 ∧
     seqBefore 12 1 (s.rxExp (.port 2 0) 0 0) = false ∧ s.mayNak (.port 2 0) 0 0 = false) ∧
    portCrc (tHead 0) [8] ≠ fld (tHead 0) 31 0 ∧ fld (w64 (3 * 2 ^ 62)) 63 62 = 3 ∧
    (State.reset.rn (rDomain 9) = 1 ∧ (State.reset.tile 9).copies = [] ∧ State.reset.deadlineMode = false ∧
     flCgen 0x1001305240000000 = State.reset.reconf.cgen ∧ flTag 0x1001305240000000 ≠ State.reset.eng.tagRef.toNat) := by
  decide +kernel

/-- A port state of FAB.PORT[2] with the domain of the port in a given state, and changes of the port. -/
def tPort (st : Nat) (f : Port → Port) : State := (State.reset.wn (pReg 2 1) st).updPort 2 f

theorem wit_FabricPorts_1 :
    (let s := tPort 3 id
     3 ≤ s.portState 2 ∧ s.laneOn 2 4 = true ∧ s.domOn 72 = true) ∧
    (let s := tPort 3 fun q => { q with cause := some (4, true) }
     let w := linkWord 7 0 0 0 0 4
     fld w 63 62 = 2 ∧ fld w 61 58 = 7 ∧ crc8Ok w = true ∧ fld w 24 21 = 4 ∧ s.laneOn 2 4 = true ∧
     (s.port 2).cause = some (4, true) ∧ (s.port 2).swapped = none ∧ s.spare 2 = some 8) ∧
    (let s := tPort 3 fun q => { q with cause := some (4, true), swapped := some 1 }
     s.laneOn 2 4 = true ∧ (s.port 2).cause = some (4, true) ∧ (s.port 2).swapped ≠ none) := by decide +kernel

theorem wit_FabricPorts_2 :
    (noon.serves .hkc false 0x2012 3 = true ∧ noon.rn (rDomain 72) ≠ 0) ∧
    ((noon.wn (rDomain 72) 0).serves .hkc false 0x2012 3 = true ∧ (noon.wn (rDomain 72) 0).rn (rDomain 72) = 0) ∧
    (tPort 1 id).portState 2 = 1 ∧
    (let s := tPort 2 id
     s.portState 2 = 2 ∧ (∀ n ∈ s.lanesOn 2, ([112000] : List Nat).getD n 0 ≤ 112000 ∧ n ∉ ([8] : List Nat))) ∧
    ((tPort 2 fun q => { q with half := true }).port 2).half = true := by decide +kernel

theorem wit_FabricPorts_3 :
    (let s := noon.wn (pReg 2 1) 3
     s.serves .hkc false 0x2012 3 = true ∧ 3 ≤ s.portState 2) ∧
    (let s := tPort 0 fun q => { q with recon := true }
     (s.port 2).recon = true ∧ s.routes = [] ∧ (s.conns.all fun e => decide (e.2.state ≠ .closing)) = true ∧
     (s.dom 72).off = false) ∧
    (let w := linkWord 7 0 0 0 0 15
     fld w 63 62 = 2 ∧ fld w 61 58 = 7 ∧ crc8Ok w = true ∧ fld w 24 21 = 15) := by decide +kernel

/-- The device of NOON with one virtual tile unmapped, so that physical tile 3 is free. -/
def tMap : State := noon.wn (rk 0 0x2203 0) 0

/-- A map write of virtual tile 3 that waits for one holder, and the path that waits for it. -/
def tDrain (l : List Nat) : State :=
  ({ noon with drains := [{ v := 3, old := 5, wait := l, got := [6] }] }).updPath .hkc fun q => { q with op := some (.waiting (.mapDrain 3)) }

/-- A JOIN record of device 1 that a device with members 0 and 1 agrees with. -/
def tJoin : JoinRec :=
  { fmt := 1, devnum := 1, genMin := 1, genMax := 1, leader := 15, members := 3, running := false, port := 4, schema := 0x0100,
    serial := 7, fwver := 1, hash := joinHashReset, step := 0, timebase := 0, delayNs := 10, agreed := 0 }

theorem wit_SystemMaps_1 :
    (let x : W64 := w64 (2 ^ 14 + 3 * 2 ^ 7)
     tMap.serves .hkc false 0x2203 0 = true ∧ tMap.swap = none ∧ (tMap.drains.any fun d => decide (d.v = 3)) = false ∧
     tMap.tileKind 3 = 0 ∧ fld x 15 14 = 1 ∧ fld x 13 7 ≤ 69 ∧ fld x 6 0 = 0 ∧ tMap.tileBad 3 = false ∧
     tMap.tileTaken 3 3 = false ∧ (tMap.residents.filter fun u => decide (u ≠ 3)).length + tMap.comingIn < 64) ∧
    (noon.serves .hkc false 0x2203 0 = true ∧ noon.tileKind 3 = 1 ∧ noon.boot.markTiles.contains (noon.tilePt 3) = false) ∧
    (((tDrain [4, 6]).drains.find? fun d => decide (d.v = 3)).isSome = true ∧ ((tDrain [4, 6]).drains.map MapDrain.got) = [[6]]) ∧
    ((tDrain [6]).waits .hkc (.mapDrain 3) ∧ sender .hkc ∈ senders) := by
  unfold State.waits
  decide +kernel

theorem wit_SystemMaps_2 :
    (noon.serves .hkc false 0x2401 2 = true ∧
     (match noon.vtOf (noon.rn (rTsel .hkc)) with | some v => noon.queuesBound (128 * v + 2) | none => false) = false ∧
     noon.coreBad (136 * noon.rn (rTsel .hkc) + 130) = false ∧
     ((List.range 128).any fun k => decide (k ≠ 2) && decide (noon.mapCore (noon.rn (rTsel .hkc)) k = 130)) = false) ∧
    (noon.serves .hkc false 0x4811 0 = true ∧ noon.routePort 1 = none) ∧
    Tab.get none { noon with routes := [(1, some (2, true))] }.routes 1 = some (2, true) ∧
    (let s := (noon.wn rMembers 3).wn (pReg 2 1) 3
     s.portState 2 = 3 ∧ tJoin.devnum < 8 ∧ s.disagreements 2 tJoin = [] ∧ s.follows = false) ∧
    (let s := { (((noon.wn rMembers 3).wn rLeader 1).wn (pReg 2 1) 3) with eng := { Eng.reset with phase := .fire } }
     let r := { tJoin with leader := 1, hash := s.reconf.joinHash }
     s.portState 2 = 3 ∧ s.disagreements 2 r = [] ∧ s.follows = true ∧ r.devnum = s.rn rLeader ∧ r.running = false ∧
     s.stopped = false ∧ s.eng.round = none) := by decide +kernel

theorem wit_SystemMaps_3 :
    noon.serves .hkc false 0x4800 6 = true ∧
    (let s := (((noon.wn rMembers 3).wn rLeader 1).wn (pReg 2 1) 3).updPeer 1 fun q => { q with port := some 2 }
     s.serves .hkc false 0x4800 6 = true ∧ s.ringsHold = false ∧ s.stopped = true ∧ s.follows = true ∧
     s.reaches (s.rn rLeader) = true) ∧
    (noon.serves .hkc false 0x0102 3 = true ∧ noon.argFailed (noon.rn (rDefectArg .hkc)) = false) := by decide +kernel

/-- The device of NOON with device 1 a member and a REMOTE open record for it on the SDIO path of the HKC. -/
def tRemote : State := (noon.wn rMembers 3).updPath .hkc fun q =>
  { q with blobs := [(blobKey 0x3800 2, descBytes (w64 (4 * 2 ^ 59), w64 (2 ^ 60), 0, 0))] }

/-- Connection context 0 OPEN with a record and other halves on other devices, the HKC path waiting or not. -/
def tOpen (w : W64) (l : List (Nat × BitVec 16)) (o : Option PathOp) : State :=
  ((noon.wn (rConnHandle .hkc) 0).updConn 0 fun c => { c with state := .opn, recd := (w, w64 (2 ^ 60), 0, 0), peers := l }).updPath .hkc fun q => { q with op := o }

theorem wit_Connections_1 :
    (noon.serves .hkc false 0x3800 1 = true ∧ noon.openRange (noon.openRec .hkc) = false ∧
     noon.openState (noon.openRec .hkc) = false ∧ ((noon.openRec .hkc).rsvd || noon.listRsvd (noon.openRec .hkc)) = false ∧
     noon.freeCtx = some 0 ∧ fld (noon.openRec .hkc).recd.1 63 62 = 0 ∧ (noon.openRec .hkc).dkind ≠ 4) ∧
    (tRemote.serves .hkc false 0x3800 1 = true ∧ tRemote.openRange (tRemote.openRec .hkc) = false ∧
     tRemote.openState (tRemote.openRec .hkc) = false ∧
     ((tRemote.openRec .hkc).rsvd || tRemote.listRsvd (tRemote.openRec .hkc)) = false ∧ tRemote.freeCtx = some 0 ∧
     fld (tRemote.openRec .hkc).recd.1 63 62 = 0 ∧ (tRemote.openRec .hkc).dkind = 4) := by decide +kernel

theorem wit_Connections_2 :
    (let s := tOpen (w64 (4 * 2 ^ 59)) [] (some (.waiting (.connOpen 0)))
     s.boot.refclk = true ∧ (s.pathN 3).op = some (.waiting (.connOpen 0)) ∧ (s.conn 0).rdev = 1) ∧
    (let s := (noon.updConn 0 fun c => { c with state := .closing, unacked := [(1, 5), (2, 6)] })
     s.closeAcked 1 0x85 = some 0 ∧ ((s.conn 0).unacked.filter fun q => decide (q.1 ≠ 1)) ≠ []) ∧
    (let s := tOpen 0 [(1, 5), (2, 6)] none
     s.serves .hkc false 0x3800 1 = true ∧ s.connOf (s.rn (rConnHandle .hkc)) = some 0 ∧ (s.conn 0).state ≠ .closing ∧
     (s.conn 0).otherHalves ≠ [] ∧ ((s.conn 0).otherHalves.filter fun q => decide (some 1 ≠ some q.1)) ≠ []) ∧
    (let s := (noon.wn (rConnHandle .hkc) 0).updConn 0 fun c => { c with state := .closing }
     s.serves .hkc false 0x3800 1 = true ∧ s.connOf (s.rn (rConnHandle .hkc)) = some 0 ∧ (s.conn 0).state = .closing) ∧
    noon.connOf 5 = none ∧
    (let s := (tOpen 0 [] (some (.waiting (.connClose 0)))).updConn 0 fun c => { c with state := .closing, path := some 3 }
     s.boot.refclk = true ∧ (s.pathN 3).op = some (.waiting (.connClose 0)) ∧ (s.conn 0).state = .closing ∧
     (s.conn 0).path = some (sender .hkc)) := by decide +kernel

/-- Connection context 0 OPEN with a first record word, core 0 running, and what waits at tile 0. -/
def tTile (w : W64) (l : List Item) (r : List Record) : State :=
  ((noon.updConn 0 fun c => { c with state := .opn, recd := (w, 0, 0, 0), taken := 1, creditsBack := 1 }).setCore 0
    { Core.reset with pass := .run }).updTile 0 fun d => { d with vc1 := l, recs := r }

/-- A record that core 0 handed over on handle h. -/
def tRecord (h : BitVec 16) : Record :=
  { id := 1, core := 0, readout := false, value := 1, step := 0, dev := 0, lcid := 0, neuron := 0, ddev := 0, handle := h }

/-- Combining queue 0 bound to context 0, two senders, one bank being delivered or none. -/
def tComb (d : Option (W64 × List W32)) (l : List Item) : State :=
  (tTile (w64 (2 * 2 ^ 59)) l []).updComb 0 fun b => { b with bound := some 0, senders := 2, lanes := 1, acc := [5], deliver := d }

theorem wit_QueueTraffic_1 :
    (let s := tTile 0 [.desc tDesc] []
     s.domUp 0 = true ∧ (s.tile 0).vc1 = [.desc tDesc] ∧ s.connOf 0 = some 0 ∧ (s.conn 0).state ≠ .closing ∧
     (s.conn 0).acceptsFrom s.dev 0 = true ∧ s.coreOf 0 ((s.conn 0).dest % 128) = some 0 ∧
     (s.queue 0 ((s.conn 0).dest % 128) (s.conn 0).q).held < 32 ∧ (s.core 0).pass = .run ∧
     s.creditDue 0 = true ∧ (s.conn 0).tokens = 0 ∧
     (s.cores.any fun e => match e.2.pass with | .blocked _ _ _ _ => true | _ => false) = false) ∧
    (let s := tTile (w64 (2 ^ 59)) [] [tRecord 0]
     (s.tile 0).recs = [tRecord 0] ∧ s.connOf 0 = some 0 ∧ s.carries 0 (tRecord 0) = true ∧ (s.conn 0).dkind ≠ 4) ∧
    ((tTile 0 [] [tRecord 9]).tile 0).recs = [tRecord 9] ∧ (tTile 0 [] []).connOf 9 = none := by decide +kernel

theorem wit_QueueTraffic_2 :
    (let s := tComb none [.contrib { id := 0, core := 0, slot := 0, sdev := 0, dev := 0, handle := 0, lanes := [7] }]
     s.domUp 0 = true ∧
     s.combOf { id := 0, core := 0, slot := 0, sdev := 0, dev := 0, handle := 0, lanes := [7] } = some 0 ∧
     (s.conn 0).state ≠ .closing ∧ (s.conn 0).acceptsFrom s.dev 0 = true ∧ (s.conn 0).combNo = 0 ∧ (s.comb 0).full = false ∧
     (s.conns.all fun e => decide (e.2.state ≠ .closing)) = true ∧ (s.comb 0).count + 1 < (s.comb 0).senders) ∧
    (let s := (tTile (w64 (4 * 2 ^ 59)) [] []).setCore 0 { Core.reset with pass := .blocked 0x7 0 0 1 }
     (s.core 0).pass = .blocked 0x7 0 0 1 ∧ s.connOf 0 = some 0 ∧ (s.conn 0).dkind = 4 ∧ s.contribHere 1 = false) ∧
    (let s := tComb (some (1, [5])) []
     (s.comb 0).deliver = some (1, [5]) ∧ s.resident 0 = some 0 ∧ s.domUp 0 = true ∧
     (s.comb 0).count < (s.comb 0).senders) ∧
    (let s := (((noon.wn rMembers 3).wn rLeader 0).wn (pReg 2 1) 3).wn (pReg 2 2) 1
     s.boot.refclk = true ∧ s.leads = true ∧ s.isMember s.dev = true ∧ s.portUp 2 = true ∧ s.rn (pReg 2 2) < 8) ∧
    (let s := (((noon.wn rMembers 3).wn rLeader 1).wn (pReg 2 1) 3).updPeer 1 fun q => { q with port := some 2 }
     s.follows = true ∧ s.rn rLeader = 1 ∧ (s.peer 1).port = some 2 ∧ s.portUp 2 = true) ∧
    (let s := noon.wn rSentAll 5
     s.hkcUp = true ∧ s.rn rSentAll - s.lossSnap.2 ≠ 0) := by decide +kernel

/-- A device whose PCIE may issue requests, with output ring 0 enabled, of 256 frames, and these messages staged. -/
def tRing (prod : Nat) (l : List HMsg) : State :=
  (((({ noon with pcie := { Pcie.reset with bme := true, link := true } } : State).wn (hReg 0 7) 1).wn (hReg 0 2) 12).wn
    (hReg 0 8) prod).wn (hReg 0 9) prod |>.updHring 0 fun h => { h with staged := l, since := l.length }

/-- A message of a kind with no frames, of step 2^32 - 1. -/
def tMsg (k : Nat) : HMsg :=
  { kind := k, value := 7, step := 0xFFFFFFFF, dev := 0, lcid := 0, neuron := 0, group := 0, frames := [0, 0, 0, 0], conn := 0, item := none }

theorem wit_HostRings_1 :
    (let s := tRing 0 [tMsg 1]
     s.boot.refclk = true ∧ s.hringOn 0 = true ∧ s.hostOk = true ∧ s.domUp 77 = true ∧ (s.hring 0).staged = [tMsg 1] ∧
     s.hBlocked 0 = false ∧ s.lateMsg (tMsg 1) = false ∧ (tMsg 1).len ≤ s.hFrames 0 - s.hPos 0 ∧ 0 < (s.hring 0).since ∧ s.pcie.wait.length = 0 ∧
     (s.conns.all fun e => decide (e.2.state ≠ .closing)) = true) ∧
    (let s := tRing 255 [tMsg 3]
     s.hBlocked 0 = false ∧ s.lateMsg (tMsg 3) = false ∧ s.hFrames 0 - s.hPos 0 < (tMsg 3).len) ∧
    (let s := ((tRing 0 [tMsg 1]).wn rOverrun 1).wn rLateAction 1
     s.hBlocked 0 = false ∧ s.lateMsg (tMsg 1) = true ∧ s.rn rLateAction = 1) := by decide +kernel

theorem wit_HostRings_2 :
    (let s := tRing 0 []
     s.serves .hkc false 0x3810 9 = true ∧ (0 + 2 ^ 32 - s.rn (hReg 0 9)) % 2 ^ 32 ≤ s.hUsed 0 ∧
     s.serves .hkc false 0x3810 6 = true ∧ s.hringNamed 0 = false ∧ (s.hring 0).staged = []) ∧
    (let s := noon.wn (hReg 0 2) 12
     s.serves .hkc false 0x3810 6 = true ∧ s.hringOn 0 = false ∧ s.ringRange (hReg 0 1) (hReg 0 2) = false) ∧
    (let s := (tRing 0 []).updConn 0 fun c => { c with state := .opn, recd := (w64 (2 ^ 59), 0, 0, 0) }
     s.hringOn 0 = true ∧ s.hringNamed 0 = true) ∧
    (let s := noon.wn (dReg 0 2) 12
     s.serves .hkc false 0x3850 3 = true ∧ s.rn (dReg 0 4) ≠ 1 ∧ s.ringRange (dReg 0 1) (dReg 0 2) = false) ∧
    (let s := (noon.wn (dReg 0 2) 12).wn (dReg 0 4) 1
     s.rn (dReg 0 4) ≠ 0 ∧ s.rn (dReg 0 7) = 0xFFFF ∧ s.serves .hkc false 0x3850 5 = true ∧
     (3 + 2 ^ 32 - s.rn (dReg 0 6)) % 2 ^ 32 ≤ s.dEntries 0 ∧ s.dringLeft 0 ≤ (3 + 2 ^ 32 - s.rn (dReg 0 6)) % 2 ^ 32) ∧
    (let s := ((((tRing 0 []).updConn 0 fun c => { c with state := .opn, recd := (w64 (2 * 2 ^ 56), 0, 0, 0) }).wn (dReg 0 4) 1).wn
       (dReg 0 5) 2).wn (dReg 0 7) 0
     s.dringReady 0 = some 0 ∧ descCheck (descSeal (0, 0, 0, 0)) = .ok ∧ descCheck (0, 0, 0, 0) ≠ .ok) := by decide +kernel

/-- A descriptor from host to host of 64 bytes, with its checksum. -/
def tDmaWord : W64 × W64 × W64 × W64 := descSeal (w64 (2 ^ 58 + 2 ^ 56 + 64 * 2 ^ 24), w64 4096, w64 8192, 0)

/-- The device with its PCIe link up and channel 0 in a state with these descriptors started. -/
def tChan (st : ChanState) (l : List DDesc) : State :=
  (({ noon with pcie := { Pcie.reset with bme := true, link := true } } : State).wn (ch 0 2) 5).updChan 0 fun x =>
    { x with state := st, quota := 4, host := true, rsize := 7, descs := l }

/-- The descriptor of tDmaWord, n bytes read of which these are staged, m written. -/
def tDescG19' (n m : Nat) (l : List (Nat × Bytes)) : DDesc :=
  { startDesc 1 tDmaWord with rd := n, wr := m, staged := l }

theorem wit_DmaEngine_1 :
    (let s := noon.updPath .hkc fun q =>
       { q with blobs := [(blobKey 0x3400 2, descBytes (w64 (2 ^ 58 + 7 * 2 ^ 53 + 2 ^ 46), w64 4096, 0, 0))] }
     let w := descWords (s.blob 3 0x3400 2 32)
     s.serves .hkc false 0x3400 1 = true ∧ 7 ≤ fld w.1 57 53 ∧ fld w.1 57 53 ≤ 16 ∧ 1 ≤ fld w.1 52 46 ∧
     fld w.1 52 46 ≤ 64 ∧ w.2.1.toNat % 4096 = 0 ∧ bit w.1 58 = true ∧ fld w.1 45 0 = 0 ∧ fld w.2.2.1 31 0 = 0 ∧
     w.2.2.2 = 0 ∧ fld w.1 63 62 = 0 ∧ s.stageUsed + fld w.1 52 46 ≤ 448 ∧ s.freeChan = some 0) ∧
    (let s := (tChan .stopped []).wn (rDmaHandle .hkc) 0
     s.serves .hkc false 0x3400 1 = true ∧ s.chanOf (s.rn (rDmaHandle .hkc)) = some 0 ∧ (s.chan 0).state = .stopped) ∧
    (let s := (tChan .running []).wn (rDmaHandle .hkc) 0
     s.chanOf (s.rn (rDmaHandle .hkc)) = some 0 ∧ (s.chan 0).state = .running ∧ s.serves .hkc false 0x3410 2 = true ∧
     (s.rn (ch 0 2) + 2 ^ 32 - s.rn (ch 0 3)) % 2 ^ 32 ≤ (9 + 2 ^ 32 - s.rn (ch 0 3)) % 2 ^ 32 ∧
     (9 + 2 ^ 32 - s.rn (ch 0 3)) % 2 ^ 32 ≤ 2 ^ (s.chan 0).rsize) := by decide +kernel

theorem wit_DmaEngine_2 :
    (let s := tChan .running []
     let b := descBytes tDmaWord
     s.boot.refclk = true ∧ s.nextDesc 0 = some 0 ∧ s.hostOk = true ∧ s.dmaCheck (descWords b) = .ok ∧
     s.dmaCheck (descWords []) ≠ .ok ∧ (s.chan 0).descs = []) ∧
    (let s := tChan .running [tDescG19' 0 0 []]
     s.domUp 86 = true ∧ s.wakeFor State.readPlaces Chan.reading = s ∧ s.pickChan (readyChans s.canRead ++ if s.swapReads then [64] else []) s.turnR = some 0 ∧ (s.chan 0).reading = some (tDescG19' 0 0 []) ∧
     (tDescG19' 0 0 []).sspace = 1 ∧ (tDescG19' 0 0 []).faulty = true) ∧
    (let s := tChan .running [tDescG19' 64 0 [(0, [1, 2])]]
     s.wakeFor State.writePlaces Chan.writing = s ∧ s.pickChan (readyChans s.canWrite ++ if s.swapWrites then [64] else []) s.turnW = some 0 ∧ (s.chan 0).writing = some (tDescG19' 64 0 [(0, [1, 2])])) ∧
    (let s := tChan .running [tDescG19' 64 64 []]
     s.descDone (tDescG19' 64 64 []) = true) := by decide +kernel

/-- Channel 0 with its ring in LPDDR5X and a descriptor there. -/
def tChanLp : State :=
  ((((tChan .running []).wn (rk 0 0x3500 1) 1).wn (rk 0 0x3500 3) 1).updChan 0 fun x => { x with host := false, rbase := 4096 }) |> fun s =>
    s.writeSpace 4096 (descBytes tDmaWord)

theorem wit_DmaEngine_3 :
    (let s := tChanLp
     let r := s.readEcc ((s.chan 0).entry 0) 32 .clean
     s.nextDesc 0 = some 0 ∧ (s.chan 0).host = false ∧ holds (s.placesRd ((s.chan 0).entry 0) 32) = false ∧ r.1.2 = false ∧
     r.2.dmaCheck (descWords r.1.1) = .ok ∧ (s.chan 0).descs = []) ∧
    (let d := { tDescG19' 0 0 [] with sspace := 0, saddr := 4096 }
     let s := ((tChan .running [d]).wn (rk 0 0x3500 1) 1).wn (rk 0 0x3500 3) 1
     s.wakeFor State.readPlaces Chan.reading = s ∧
     s.pickChan (readyChans s.canRead ++ if s.swapReads then [64] else []) s.turnR = some 0 ∧
     (s.chan 0).reading = some d ∧ d.zero = false ∧ d.sspace = 0) ∧
    (let d := { tDescG19' 64 0 [(0, [1, 2])] with dspace := 0, daddr := 4096 }
     let s := ((tChan .running [d]).wn (rk 0 0x3500 1) 1).wn (rk 0 0x3500 3) 1
     s.wakeFor State.writePlaces Chan.writing = s ∧
     s.pickChan (readyChans s.canWrite ++ if s.swapWrites then [64] else []) s.turnW = some 0 ∧
     (s.chan 0).writing = some d ∧ d.staged = [(0, [1, 2])] ∧ d.dspace = 0) := by decide +kernel

/-- Mailbox 0 with its LOCK held by the HKC, the HKC its receiver, and four bytes staged behind PROD = n, CONS = 0. -/
def tMbox (n : Nat) : State :=
  ((((noon.wn (mb 0 8) 3).wn (mb 0 1) 3).wn (mb 0 5) n).updMbox 0 fun b => { b with staged := some [1, 2, 3, 4] })

theorem wit_Mailboxes_1 :
    (let s := tMbox 0
     s.boot.refclk = true ∧ s.serves .hkc false 0x3120 1 = true ∧ s.serves .hkc false 0x3100 4 = true ∧
     s.rn (mb 0 8) = sender .hkc ∧ (s.mbox 0).staged = some [1, 2, 3, 4] ∧
     1 + (4 + 15) / 16 ≤ 1024 - s.rn (mb 0 5) % 1024 ∧ 1 + (4 + 15) / 16 ≤ 1024 - s.mbUsed 0 ∧
     s.serves .hkc false 0x3100 3 = true ∧ s.serves .hkc false 0x3100 2 = true ∧ sender .hkc ∈ senders ∧
     s.rn (mb 0 1) = sender .hkc ∧ s.serves .hkc false 0x3100 6 = true ∧
     (0 + 2 ^ 32 - s.rn (mb 0 6)) % 2 ^ 32 ≤ s.mbUsed 0 ∧ (s.mbox 0).waiting = none) ∧
    (let s := (tMbox 1024)
     1 + (4 + 15) / 16 ≤ 1024 - s.rn (mb 0 5) % 1024 ∧ 1024 - s.mbUsed 0 < 1 + (4 + 15) / 16) := by decide +kernel

theorem wit_Mailboxes_2 :
    (let s := (tMbox 0).wn (mb 0 8) 1
     s.serves .hkc false 0x3100 4 = true ∧ s.rn (mb 0 8) ≠ sender .hkc ∧ (s.mbox 0).staged ≠ none) ∧
    (let s := ((tMbox 0).updMbox 0 fun b => { b with waiting := some 3 }).updPathN 3 fun x => { x with op := some (.waiting (.mbSend 0)) }
     s.boot.refclk = true ∧ (s.mbox 0).waiting = some 3 ∧ (s.pathN 3).op = some (.waiting (.mbSend 0))) ∧
    (let s := (tMbox 0).wn (mb 0 8) 0
     s.serves .hkc false 0x3100 1 = true ∧ s.mbUsed 0 = 0 ∧ s.rn (mb 0 8) = 0 ∧ (s.mbox 0).waiting = none) := by decide +kernel

/-- The device of NOON with 1 GiB of LPDDR5X under INLINE, virtual tile 0 RESIDENT at tile 0 and 5 PARKED, each with an
    image slot, and a parking queue of 4 entries for 5. -/
def tMem : State :=
  (((((((((noon.wn (rk 0 0x3500 1) 1).wn (rk 0 0x3500 3) 1).wn (rk 0 0x3500 4) 1).wn (rk 0 0x2200 0) (2 ^ 14)).wn
    (rk 0 0x2205 0) (2 ^ 15)).wn (vtReg 0 2) 1).wn (vtReg 5 2) 2).wn (vtReg 5 4) 2).wn (rk 0 0x3502 7) 0xFF)

/-- The device of tMem in a swap of virtual tile 0. -/
def tSwap (st : SwapState) (fz : Bool) : State :=
  { tMem with swap := some { stage := st, vt := 5, pt := 1, next := none, wait := [], got := [], frozen := fz, beatR := 0, beatW := 0 } }

/-- The checksum of a saved state of zeros. -/
def tCrc : Bytes := leBytes 4 (crc32c (List.replicate 0xFC 0))

/-- LPDDR5X that holds a saved state of zeros for each core slot of the image slot of virtual tile 5. -/
def tSaved : Mem := (List.range 128).foldl (fun m sl => m.wrBytes (2 * 2 ^ 24 + sl * 0x20000 + 0x1E0FC) tCrc) []

theorem rdBytes_nil (a n : Nat) : Mem.rdBytes [] a n = List.replicate n 0 := by
  induction n generalizing a with
  | zero => rfl
  | succ n ih => rw [List.replicate_succ, ← ih (a + 1)]; rfl

theorem tSaved_out (l : List Nat) (m : Mem) (x n : Nat)
    (h : ∀ sl, x + n ≤ 2 * 2 ^ 24 + sl * 0x20000 + 0x1E0FC ∨ 2 * 2 ^ 24 + sl * 0x20000 + 0x1E0FC + 4 ≤ x) :
    (l.foldl (fun m sl => m.wrBytes (2 * 2 ^ 24 + sl * 0x20000 + 0x1E0FC) tCrc) m).rdBytes x n = m.rdBytes x n := by
  induction l generalizing m with
  | nil => rfl
  | cons a l ih =>
    rw [List.foldl_cons, ih, Mem.rdBytes_wrBytes_out]
    exact h a

theorem tSaved_in (l : List Nat) (m : Mem) (sl : Nat)
    (h : sl ∈ l ∨ m.rdBytes (2 * 2 ^ 24 + sl * 0x20000 + 0x1E0FC) 4 = tCrc) :
    (l.foldl (fun m sl => m.wrBytes (2 * 2 ^ 24 + sl * 0x20000 + 0x1E0FC) tCrc) m).rdBytes
      (2 * 2 ^ 24 + sl * 0x20000 + 0x1E0FC) 4 = tCrc := by
  induction l generalizing m with
  | nil => exact h.resolve_left (by simp)
  | cons a l ih =>
    rw [List.foldl_cons]
    refine ih _ ?_
    by_cases e : sl = a
    · subst e
      exact Or.inr (Mem.rdBytes_wrBytes_same m _ tCrc)
    · rcases h with h | h
      · exact Or.inl ((List.mem_cons.mp h).resolve_left e)
      · refine Or.inr ?_
        rw [Mem.rdBytes_wrBytes_out _ _ _ (by rw [show tCrc.length = 4 from leBytes_length _ _]; omega)]
        exact h

/-- The saved states of tSaved check out. -/
theorem tSaved_ok (s : State) (hl : s.lpddr = tSaved) (hs : s.imageSlot 5 = 2) :
    (List.range 128).all (s.savedOk 5) = true := by
  rw [List.all_eq_true]
  intro sl hsl
  have h1 : s.savedAt 5 sl = 2 * 2 ^ 24 + sl * 0x20000 + 0x1E000 := by
    unfold State.savedAt State.imageAddr; rw [hs]
  have hc : tSaved.rdBytes (2 * 2 ^ 24 + sl * 0x20000 + 0x1E000 + 0xFC) 4 = tCrc := tSaved_in _ _ _ (Or.inl hsl)
  have hz : ∀ n, n ≤ 0xFC → tSaved.rdBytes (2 * 2 ^ 24 + sl * 0x20000 + 0x1E000) n = List.replicate n 0 := by
    intro n hn
    rw [← rdBytes_nil (2 * 2 ^ 24 + sl * 0x20000 + 0x1E000) n]
    exact tSaved_out _ _ _ _ fun k => by omega
  unfold State.savedOk
  dsimp only
  rw [hl, h1]
  unfold savedCrc Mem.rd64 Mem.rdN
  rw [hc, hz 0xFC (Nat.le_refl _), hz 8 (by decide)]
  decide +kernel

theorem wit_ParkingAndSwaps_1 :
    (let s := { tMem with parkq := [.park 1 5 0 0] }
     s.domUp 86 = true ∧
     takeFirst (fun i => match i with | Item.park _ _ _ _ => true | _ => false) s.parkq = some (.park 1 5 0 0, []) ∧
     s.rn (vtReg 5 4) ≠ 0 ∧ holds (s.places (s.parkAddr 5 (s.parkHead 5 + s.rn (vtReg 5 5))) 16) = false ∧
     s.rn (vtReg 5 5) < 2 ^ s.rn (vtReg 5 4) ∧ s.rn (vtReg 5 4) ≤ 24 ∧ s.tileKind 5 ≠ 0 ∧ s.rn (vtReg 4 4) = 0) ∧
    (let s := { tMem.updConn 0 (fun c => { c with state := .opn }) with parkq := [.parkDesc 5 0 0 tDesc] }
     s.tileKind 5 = 2 ∧ s.swapFrom 5 = none ∧ s.copying 5 = false ∧ s.connOf 0 = some 0 ∧ (s.conn 0).state ≠ .closing ∧
     (s.conn 0).acceptsFrom s.dev 0 = true ∧ s.imageSlot 5 ≠ 0xFFFF ∧ (s.savedQueue 5 0 0).held < 32 ∧
     holds (s.places (s.imageAddr 5 0 0x1E000) 256 ++
       s.places (s.imageAddr 5 0 (aQslot 0 ((s.savedQueue 5 0 0).head + (s.savedQueue 5 0 0).held))) 32) = false) ∧
    (let s := (tMem.wn (vtReg 5 5) 1).wn (vtReg 5 0x0B) 1
     s.rn (vtReg 5 0x0B) ≠ 0 ∧ s.rn (vtReg 5 5) ≠ 0 ∧ holds (s.places (s.parkAddr 5 (s.parkHead 5)) 16) = false ∧
     (s.readEcc (s.parkAddr 5 (s.parkHead 5)) 16 .corrected).1.2 = false) := by decide +kernel

theorem wit_ParkingAndSwaps_2 :
    (let s := ((tMem.wn (swapReg .hkc 2) 0).wn (swapReg .hkc 3) 5).wn (swapReg .hkc 4) 1
     s.serves .hkc false 0x3502 1 = true ∧ (s.outConds (s.rn (swapReg .hkc 2))).all (fun c => !c.1) = true ∧
     s.slotBad (s.rn (swapReg .hkc 2)) = false ∧
     (s.inConds (s.rn (swapReg .hkc 3)) (s.tilePt (s.rn (swapReg .hkc 2))) true).all (fun c => !c.1) = true) ∧
    (let s := ((tMem.wn (swapReg .hkc 2) 5).wn (swapReg .hkc 4) 66).wn (rk 0 0x2201 0) 0
     (s.inConds (s.rn (swapReg .hkc 2)) (s.rn (swapReg .hkc 4)) false).all (fun c => !c.1) = true) ∧
    (let s := tSwap .freeze false
     s.boot.refclk = true ∧ s.domUp 86 = true ∧ s.tileDone 1 = true) ∧
    (let s := tSwap .freeze true
     s.tileQuiet 1 = true ∧ s.descsOn 5 = false) ∧
    (let s := tSwap .map false
     (s.parkq.any fun i => match i with
       | .park _ u _ _ | .parkDesc u _ _ _ => decide (u = 5)
       | _ => false) = false) ∧
    tMem.rn (rk 0 0x3500 4) = 1 ∧ tMem.usable ≠ 0 := by decide +kernel

theorem wit_ParkingAndSwaps_3 :
    (let s := tSwap .copyOut true
     (∀ w, s.swap = some w → s.copyHeld w = []) ∧ s.pcie.held.length = 0 ∧ s.pcie.heldRd.length = 0 ∧
     s.tileUe 1 = false ∧ 31 < s.rn (rk 0 0x3502 7)) ∧
    (let s := (tSwap .copyOut true).setCore 136 { Core.reset with bad := [0] }
     s.tileUe 1 = true) := by
  refine ⟨⟨fun w h => ?_, ?_⟩, ?_⟩
  · injection h with h; subst h; decide +kernel
  · decide +kernel
  · decide +kernel

theorem wit_ParkingAndSwaps_4 :
    ∃ (s : State) (w : Swap), s.boot.refclk = true ∧ s.swap = some w ∧ w.stage = .copyIn ∧ s.domUp 86 = true ∧
      s.copyHeld w = [] ∧ s.pcie.held = [] ∧ s.pcie.heldRd = [] ∧
      (List.range 128).all (s.countCopy.readable.savedOk w.vt) = true ∧ w.pt < 70 := by
  refine ⟨{ tSwap .copyIn false with lpddr := tSaved }, _, rfl, rfl, rfl, by decide +kernel, by decide +kernel, rfl, rfl,
    ?_, by decide⟩
  refine tSaved_ok _ ?_ (by decide +kernel)
  generalize hs : ({ tSwap .copyIn false with lpddr := tSaved } : State).countCopy = u
  have h0 : ∀ (x : State) (m : Mem), ({ x with lpddr := m } : State).countCopy.lpddr = m := fun x m =>
    (only_countCopy _).same .lpddr (by decide)
  have h1 : u.lpddr = tSaved := by rw [← hs]; exact h0 _ _
  have h2 : ∀ m, m < 8 → u.rn (rDomain (78 + m)) ≠ 0 := by rw [← hs]; decide +kernel
  have h3 : u.readable.lpddr = Tab.keep (fun a => !decide (u.rn (rDomain (mcDomain a)) = 0)) u.lpddr := rfl
  rw [h3, h1]
  unfold Tab.keep
  rw [List.filter_eq_self]
  intro e _
  have := h2 (e.1 / 256 % 8) (Nat.mod_lt _ (by decide))
  unfold mcDomain
  dsimp only
  rw [decide_eq_false this]
  rfl

/-- Port 0 with its link UP, PAUSE_EN 1 and MAC 5. -/
def tStream : State := ((noon.wn (sp 0 2) 2).wn (sp 0 7) 1).wn (sp 0 3) 5
/-- Context 3 ENABLED with CFG and DEST. -/
def tCtx (cfg dest : W64) : State := ((tStream.wr (scx 3 1) cfg).wr (scx 3 2) dest).wn (scx 3 8) 1
/-- An egress record on connection 0. -/
def tRec : Record :=
  { id := 9, core := 0, ddev := 0, handle := 0, readout := true, value := 7, step := 4, dev := 0, lcid := 2, neuron := 1 }
/-- Context 3 OUT on port 0, with connection 0 to it. -/
def tOut : State := (((tCtx (w64 (2 ^ 61)) 0).wn (scx 3 5) 4).wn (scx 3 6) 100).updConn 0 fun c =>
  { c with state := .opn, recd := (w64 (3 * 2 ^ 59), w64 (3 * 2 ^ 57), 0, 0) }
/-- A frame of two samples of one byte for context 3. -/
def tFrame : Bytes :=
  beBytes 6 5 ++ beBytes 6 0 ++ beBytes 2 0x88B5 ++
    beBytes 16 (3 * 2 ^ 112 + 8 * 2 ^ 96 + 1 * 2 ^ 80 + 2 * 2 ^ 64) ++ beBytes 2 0x0102 ++ List.replicate 32 0
/-- A device in FIRE with context 3 for two samples of one byte at port 0. -/
def tIn : State := { (tCtx (w64 (1 * 2 ^ 58 + 1 * 2 ^ 56 + 1 * 2 ^ 34)) 0).wn (sp 0 6) 1522 with
  eng := { Eng.reset with phase := .fire } }
/-- A frame of context 3 whose first sample is 1. -/
def tIng : InFrame := { ctx := 3, bytes := 64, samples := [1, 2], chan := 0 }

theorem wit_StreamTraffic_1 :
    (let s := tStream
     s.boot.refclk = true ∧ s.spUp 0 = true ∧ s.rn (sp 0 7) = 1) ∧
    (let s := tIn
     let f := tFrame
     let tag := decide (beNat ((f.drop 12).take 2) = 0x8100)
     let pay := (f.drop (if tag then 18 else 14)).take (f.length - (if tag then 18 else 14) - 4)
     let n := beNat (pay.take 16)
     let x := n / 2 ^ 112 % 128
     let nch := n / 2 ^ 80 % 256
     let nset := n / 2 ^ 64 % 65536
     s.boot.refclk = true ∧ s.spUp 0 = true ∧ beNat (f.take 6) = s.rn (sp 0 3) ∧ 64 ≤ f.length ∧
     beNat ((f.drop (if tag then 16 else 12)).take 2) = 0x88B5 ∧ f.length ≤ s.rn (sp 0 6) ∧
     (s.sport 0).bytes + f.length ≤ 0x40000 ∧
     s.rn (scx x 8) = 1 ∧ s.sctxOut x = false ∧ s.sctxPort x = 0 ∧ stypeBytes (n / 2 ^ 92 % 16) = some 1 ∧
     16 ≤ (pay.take 16).length ∧ n / 2 ^ 124 = 0 ∧ n / 2 ^ 120 % 16 = 0 ∧
     nch = fld (s.sctxCfg x) 41 34 ∧ nset * nch * 1 ≤ (pay.drop 16).length ∧ s.stopped = false ∧
     samplesOf 1 (nset * nch) (pay.drop 16) ≠ []) := by decide +kernel

theorem wit_StreamTraffic_2 :
    (let s := tIn.updSport 0 fun q => { q with frames := [tIng] }
     let r := convert (s.sctxCfg 3) (s.schAt (fld (s.sctxCfg 3) 33 21 + 0)) (s.rn (scx 3 3)) (s.rn (scx 3 4)) 1
     s.boot.refclk = true ∧ s.domUp 87 = true ∧ s.stopped = false ∧ s.frameOf 0 3 = some tIng ∧
     (s.converting 0).contains 3 = true ∧ s.convCredit 0 = true ∧ r.out = false ∧ r.ev = some 1) ∧
    (let s := tOut.updSport 0 fun q => { q with recs := [tRec] }
     s.boot.refclk = true ∧ (s.sport 0).recs = [tRec] ∧ s.connOf tRec.handle.toNat = some 0 ∧
     (s.conn 0).stream = 3 ∧ s.spUp 0 = true ∧ s.streamHeld 0 = false ∧ s.sctxOut 3 = true ∧ s.rn (scx 3 8) ≠ 0 ∧
     s.sctxPort 3 = 0 ∧ s.lateRec tRec.step = false ∧ (s.sctx 3).build.length + 1 < s.rn (scx 3 5) ∧
     s.rn (scx 3 6) ≠ 0) ∧
    (let s := tOut.updSctx 3 fun q => { q with build := [(tRec, false)] }
     s.boot.refclk = true ∧ s.domUp 87 = true ∧ (s.sctx 3).build ≠ []) ∧
    (let s := tOut.updSport 0 fun q => { q with staged := [(3, [tRec], [])] }
     s.boot.refclk = true ∧ s.spUp 0 = true ∧ s.txHeld 0 = false ∧ (s.sport 0).staged = [(3, [tRec], [])]) := by
  decide +kernel

theorem wit_StreamCommands :
    (let s := (tCtx (w64 (1 * 2 ^ 58 + 1 * 2 ^ 56 + 1 * 2 ^ 34)) 0).wn (scx 3 3) 1
     let d := s.wn (scx 3 8) 0
     let i := s.updSport 0 fun q => { q with frames := [tIng] }
     d.serves .hkc false 0x4083 7 = true ∧ d.rn (scx 3 8) = 0 ∧ d.spUp (d.sctxPort 3) = true ∧
     d.sctxRange 3 = false ∧ d.sctxRsvd 3 = false ∧ fld (d.sctxCfg 3) 63 62 = 0 ∧
     s.serves .hkc false 0x4083 7 = true ∧ s.rn (scx 3 8) = 1 ∧ s.sctxOut 3 = false ∧
     (s.converting (s.sctxPort 3)).contains 3 = false ∧ i.rn (scx 3 8) = 1 ∧ i.sctxOut 3 = false ∧
     i.serves .hkc false 0x4083 7 = true ∧ (i.converting (i.sctxPort 3)).contains 3 = true) ∧
    (let s := tOut
     s.serves .hkc false 0x4083 7 = true ∧ s.rn (scx 3 8) ≠ 0 ∧ s.sctxOut 3 = true ∧
     (s.anyConn fun c => decide (c.dkind = 3) && decide (c.stream = 3)) = true) ∧
    (let s := noon
     s.serves .hkc false 0x4010 2 = true ∧ s.schOwned (s.rn (rSchSel .hkc)) = false ∧ fld (0 : W64) 29 0 = 0 ∧
     s.serves .hkc false 0x4000 1 = true ∧ s.rn (sp 0 2) = 0) ∧
    (let s := noon.wn (sp 0 2) 1
     s.boot.refclk = true ∧ s.domUp 87 = true ∧ s.rn (sp 0 2) = 1 ∧ s.rn (sp 0 2) ≠ 0) := by decide +kernel

theorem wit_Timers :
    (let s := ((noon.wn (tmr 5 1) 1).wn (tmr 5 4) 9).wn (tmr 5 3) 10
     s.boot.refclk = true ∧ s.rn (tmr 5 1) ≠ 0 ∧ s.rn (tmr 5 2) = 0 ∧ s.rn (tmr 5 4) ≤ s.rn (tmr 5 3) ∧
     s.rn (tmr 5 4) < s.rn (tmr 5 3)) ∧
    (let s := ((((noon.wn (tmr 5 1) 1).wn (tmr 5 6) 9).wn (tmr 5 3) 10).wn (trg 7 1) 11).wn (trg 6 2) 11
     s.boot.refclk = true ∧ s.rn (tmr 5 1) ≠ 0 ∧ Tab.get false s.was (2 * 5 + 1) = false ∧
     (s.rn (tmr 5 3) + 2 ^ 32 - s.rn (tmr 5 (5 + 1))) % 2 ^ 32 < 2 ^ 31 ∧ s.rn (trg 7 1) = 2 * 5 + 1 ∧
     s.rn (trg 7 2) ≠ 2 * 5 + 1 ∧ s.rn (trg 6 2) = 2 * 5 + 1) ∧
    (let s := noon
     s.serves .hkc false 0x3C15 3 = true ∧ s.serves .hkc false 0x3C15 (5 + 1) = true ∧
     s.serves .hkc false 0x3C15 1 = true ∧ s.serves .hkc false 0x3C15 9 = true ∧ s.serves .hkc false 0x3C57 4 = true) ∧
    (let s := noon.wn (trg 3 0x20) 4
     s.boot.refclk = true ∧ s.rn (trg 3 0x20) ≠ 0) := by decide +kernel

theorem wit_Captures :
    (let s := (noon.wn (capin 2 1) 1).wn (tmr 5 0x0B) 0x12
     s.boot.refclk = true ∧ decide (s.rn (capin 2 5) = 1) ≠ true ∧ s.rn (capin 2 1) = 1 ∧
     s.rn (capin 2 4) ≤ Tab.get 0 s.capPre 2 + 1 ∧ s.rn (tmr 5 0x0B) = 0x10 + 2 ∧
     (Tab.get (0, 0) s.capOld 5).1 ≠ s.now + 1 ∧ s.rn (tmr 5 3) < 2 ^ 32) ∧
    (let s := (noon.wn (capin 2 1) 3).wn (capin 2 4) 7
     s.boot.refclk = true ∧ decide (s.rn (capin 2 5) = 1) ≠ true ∧ s.rn (capin 2 1) = 3 ∧
     Tab.get 0 s.capPre 2 + 1 < s.rn (capin 2 4)) ∧
    (let s := noon.wn (capin 2 1) 2
     s.boot.refclk = true ∧ decide (s.rn (capin 2 5) = 1) ≠ true ∧
     ¬(s.rn (capin 2 1) = 3 ∨ (s.rn (capin 2 1) = 1 ∧ true = true) ∨ (s.rn (capin 2 1) = 2 ∧ true = false))) ∧
    (let s := noon
     s.serves .hkc false 0x3C42 4 = true ∧ (256 : BitVec 16).toNat ≠ 0 ∧ (256 : BitVec 16).toNat ≤ 256 ∧
     s.serves .hkc false 0x3C42 1 = true ∧ (3 : BitVec 16).toNat ≤ 3 ∧ s.serves .hkc false 0x3C15 0x0C = true ∧
     (Tab.get (0, 0) s.capOld 5).1 ≠ s.now + 1) ∧
    (let s : State := { noon with capOld := [(5, (1, 0))] }
     s.serves .hkc false 0x3C15 0x0C = true ∧ (Tab.get (0, 0) s.capOld 5).1 = s.now + 1) := by decide +kernel

/-- An uncompressed point of the curve: its base point. -/
def tKey : Bytes := 0x04 :: (beBytes 48 ecGx ++ beBytes 48 ecGy)

theorem wit_SecurityCommands :
    (let s := (noon.setBlob (sender .sdio) 0x0C02 4 tKey).updPath .sdio fun q => { q with session := some { gen := 1, features := 0, driver := 0 } }
     s.serves .sdio true 0x0C02 3 = true ∧ blows .sdio = true ∧
     s.signedMode = false ∧ (ecKey (s.blob (sender .sdio) 0x0C02 4 97)).isSome = true) ∧
    (let s := noon.setBlob (sender .hkc) 0x0C02 4 tKey
     s.serves .hkc true 0x0C02 3 = true ∧ blows .hkc = false ∧ s.signedMode = false ∧
     (ecKey (s.blob (sender .hkc) 0x0C02 4 97)).isSome = true) := by decide +kernel

theorem wit_FaultCommands :
    (let s := noon
     s.serves .hkc false 0x0120 2 = true ∧ s.serves .hkc false 0x0112 4 = true ∧ s.rn (fRing 5) ≠ 1 ∧
     s.boot.refclk = true ∧ s.hkcUp = true ∧ ¬(s.boot.stage = .dawn ∨ s.boot.stage = .sunrise)) ∧
    (let s := (((noon.wr (rk 0 0x2200 0) (w64 (2 ^ 14))).wn (rk 16 0x2401 0) 0)).wn (rScrub 1) 1
     s.rn (rScrub 1) = 1 ∧ (s.core 0).bad.contains (16 / 8 * 8) = false ∧ (s.core 0).state ≠ .fenced ∧
     s.lcidOf 0 = some 0) ∧
    (let s : State := { noon with boot := { noon.boot with stage := .dawn } }
     s.boot.refclk = true ∧ s.hkcUp = true ∧ s.boot.stage = .dawn) ∧
    (let s := { noon with scrub := 1 }
     s.scrub ≠ 0) ∧
    (let s := noon.wn rHkc 1
     s.boot.refclk = true ∧ s.domOn 88 = true ∧ s.rn rHkc = 1 ∧ (∀ m ∈ senders, (s.pathN m).op = none)) ∧
    (let s := ((noon.wn (fRing 5) 0).wn (fRing 2) 12).wn (fRing 1) 4096
     s.serves .hkc false 0x0112 4 = true ∧ s.rn (fRing 5) ≠ 1 ∧ s.ringRange (fRing 1) (fRing 2) = false) ∧
    (let s := { (((noon.wn (fRing 5) 1).wn (fRing 2) 12).wn (fRing 1) 4096) with
                log := { noon.log with queue := [(0, 0, 0, 0)] },
                pcie := { noon.pcie with bme := true, d3 := false, link := true } }
     s.boot.refclk = true ∧ s.log.queue = [(0, 0, 0, 0)] ∧ s.fState = 1 ∧ s.hostOk = true ∧ s.domUp 77 = true) := by
  decide +kernel

theorem wit_PowerCommands :
    (let s := noon.wn (rDomain 3) 2
     s.serves .hkc false 0x0403 2 = true ∧ s.rn (rDomain 3) = 2 ∧ s.wakesRet 3 1 = true) ∧
    (let s := noon.wn (rDomain 3) 0
     s.serves .hkc false 0x0403 2 = true ∧ s.rn (rDomain 3) = 0 ∧ s.mon.vwarn = false ∧ offWakes 3 1 = true ∧
     s.wakesRet 3 1 = true) ∧
    (let s := noon
     s.serves .hkc false 0x0403 2 = true ∧ s.rn (rDomain 3) = 1 ∧ s.mon.vwarn = false ∧
     (s.opened .hkc 2 0x0403 2 [2]).retBusy 3 = false ∧ (s.opened .hkc 2 0x0403 2 [3]).offBusy 3 = false ∧
     s.serves .hkc false 0x0450 2 = true ∧ s.rn (rDomain 80) = 1 ∧
     s.serves .hkc false 0x0448 2 = true ∧ s.rn (rDomain 72) = 1) ∧
    (let s : State := { noon with mon := { noon.mon with vwarn := true } }
     s.serves .hkc false 0x0403 2 = true ∧ s.rn (rDomain 3) = 1 ∧ s.mon.vwarn = true ∧
     (s.opened .hkc 2 0x0403 2 [2]).retBusy 3 = false ∧ (s.opened .hkc 2 0x0403 2 [3]).offBusy 3 = false) ∧
    (let s := { noon with reconf := { noon.reconf with state := .armed } }
     s.serves .hkc false 0x0403 2 = true ∧ s.rn (rDomain 3) = 1 ∧
     (s.opened .hkc 2 0x0403 2 [2]).retBusy 3 = true ∧ (s.opened .hkc 2 0x0403 2 [3]).offBusy 3 = true) ∧
    (let s := noon.wn (rDomain 3) 3
     s.entryReady 3 = true ∧ (s.dom 3).off = false ∧ (s.dom 3).wake = none ∧ s.wakesRet 3 1 = true) ∧
    (let s := (noon.wn (rDomain 3) 3).updDom 3 fun q => { q with off := true, wake := some 1 }
     s.entryReady 3 = true ∧ (s.dom 3).off = true) ∧
    (let s := (noon.wn (rDomain 3) 3).updDom 3 fun q => { q with wake := some 1 }
     s.entryReady 3 = true ∧ (s.dom 3).off = false ∧ (s.dom 3).wake ≠ none) ∧
    (let s := (noon.wn (rDomain 80) 3).updDom 80 fun q => { q with off := true }
     s.entryReady 80 = true ∧ (s.dom 80).off = true ∧ (s.dom 80).wake = none) ∧
    (let s := (noon.wn (rDomain 3) 3).setCore 408 { Core.reset with inbuf := [{ id := 1, flit := 0, slot := 0, flight := 0, delay := false, late := false, into := 0, spill := none }] }
     s.rn (rDomain 3) = 3 ∧ s.tileQuietFor 3 = false) ∧
    (let s := noon.wn (rDomain 77) 4
     s.rn (rDomain 77) = 4 ∧ (∀ m ∈ senders, (s.pathN m).op = none)) := by decide +kernel

theorem wit_MonitorCommands :
    (let s := noon
     s.boot.refclk = true ∧ (841 : Int) ≤ 850 ∧ (850 : Int) < 920 ∧ 3 ∉ s.mon.hot ∧
     s.serves .hkc false 0x0811 4 = true ∧ s.serves .hkc false 0x0801 4 = true ∧ (5 : W32).toNat ≠ 0 ∧
     s.mon.vwarn = false ∧ s.rn (rDomain 3) ≠ 0) ∧
    (let s := noon.wn (rk 0 0x0802 1) 110
     s.boot.refclk = true ∧ (850 : Int) < s.rn (rk 0 0x0802 1) * 8) ∧
    (let s := noon.wn (rDomain 3) 0
     s.rn (rDomain 3) = 0) ∧
    (let s : State := { noon with mon := { noon.mon with vwarn := true } }
     s.mon.vwarn = true ∧ s.doms = [] ∧ s.eng.round = none ∧ s.eng.phase = .stopped ∧ s.eng.starting = false) := by
  decide +kernel

theorem wit_HostInterface :
    (let s := noon
     s.boot.refclk = true ∧ s.serves .hkc false 0x3001 1 = true ∧ badWinbase (0 : W64).toNat = false ∧
     badWinbase (1 : W64).toNat = true ∧ s.boot.stage = .noon ∧
     s.hrings = [] ∧ s.pcie.wait = [] ∧ (s.conns.all fun e => decide (e.2.state ≠ .closing)) = true ∧
     Tab.get false s.pcie.pend 3 = false ∧
     holds (s.placesRd (s.rn rWinbase + 8) 8) = false) ∧
    (let s : State := { noon with pcie := { noon.pcie with perst := false } }
     s.boot.refclk = true ∧ (true && !s.pcie.perst && s.domUp 77) = true) ∧
    State.reset.boot.stage ≠ .noon ∧
    (let s := (noon.wn (rk 0 0x3500 1) 1).wn (rk 0 0x3500 3) 4
     s.boot.refclk = true ∧ s.boot.stage = .noon ∧ (s.rn rWinbase + 8) % 64 + ([1, 2] : Bytes).length ≤ 64 ∧
     s.placeOf (s.rn rWinbase + 8) = .lp 8 ∧ s.placeOf ((s.rn rWinbase + 8) / 64 * 64) = .lp 0) ∧
    (let s := ((noon.wn (rk 0 0x3500 1) 1).wn (rk 0 0x3500 3) 4).wn (rDomain 78) 2
     s.boot.refclk = true ∧ s.boot.stage = .noon ∧ holds (s.placesRd (s.rn rWinbase + 8) 8) = true ∧
     holds (s.places (s.rn rWinbase + 8) 8) = true) ∧
    (let s : State := { noon with pcie := { noon.pcie with pend := [(3, true)], bme := true, link := true, msixEn := true, table := [(60, 0)] } }
     Tab.get false s.pcie.pend 3 = true ∧ s.hostOk = true ∧ s.domUp 77 = true ∧ s.vecMasked 3 = false) := by
  decide +kernel

/-- NOON with an operation on the PCIe path. -/
def tBusy (o : PathOp) : State := noon.updPath .pcie fun q => { q with op := some o }

theorem wit_DictionaryTraffic :
    (let s := noon
     addrDev (addrOf 0x3500 3) = 15 ∧ winRsvd (addrOf 0x3500 3) (ctlOf 1 0 0) = false ∧ ctlOp (ctlOf 1 0 0) = 1 ∧
     ctlOp (ctlOf 2 0 0) = 2 ∧ ctlOp (ctlOf 3 0 0) = 3 ∧ winRsvd (addrOf 0x3500 3) (ctlOf 2 0 0) = false ∧
     winRsvd (addrOf 0x3500 3) (ctlOf 3 0 0) = false ∧
     s.serves .hkc (hkcServed (fld (addrOf 0x3500 3) 31 16) (fld (addrOf 0x3500 3) 15 8)) (fld (addrOf 0x3500 3) 31 16)
       (fld (addrOf 0x3500 3) 15 8) = true ∧
     s.serves .hkc (hkcServed 0x0C02 3) 0x0C02 3 = true ∧
     s.serves (.peer 3) (hkcServed 0x0000 1) 0x0000 1 = true ∧ s.boot.refclk = true ∧
     (∀ b : Bool, (s.path .pcie).op ≠ some (.waiting (.forward 3 7 b))) ∧
     bar0Aligned 0x10010 8 = true ∧ bar0Aligned 0x11 4 = false) ∧
    (let s := tBusy (.answered .ok false [1])
     s.boot.refclk = true ∧ (s.path .pcie).op.isSome = true ∧ (s.path .pcie).op = some (.answered .ok false [1])) ∧
    (let s := tBusy (.waiting (.hkc 1 0x0C02 3 []))
     (s.path .pcie).op = some (.waiting (.hkc 1 0x0C02 3 [])) ∧ s.domOn 88 = true) ∧
    (tBusy (.waiting (.forward 3 7 true))).path .pcie = { PathSt.reset with op := some (.waiting (.forward 3 7 true)) } ∧
    (let s := noon.setBlob (sender .pcie) 0x3000 1 (leBytes 8 (2 ^ 54 + 2 ^ 38) ++ leBytes 8 0 ++ leBytes 8 5 ++ leBytes 8 0)
     s.serves .pcie false 0x3000 2 = true ∧ (s.path .pcie).session = none ∧
     (let w := descWords (s.blob (sender .pcie) 0x3000 1 32)
      fld w.2.1 63 32 < 4 ∧ fld w.1 37 0 = 0 ∧ fld w.2.1 31 0 = 0 ∧ w.2.2.2 = 0 ∧ fld w.1 63 62 = 0 ∧ fld w.1 61 58 ≤ 1 ∧
      1 ≤ fld w.1 57 54 ∧ fld w.1 53 46 ≤ 1 ∧ 1 ≤ fld w.1 45 38)) ∧
    (let s := noon.updPath .pcie fun q => { q with session := some { gen := 1, features := 0, driver := 0 } }
     s.serves .pcie false 0x3000 2 = true ∧ (s.path .pcie).session.isSome = true) := by decide +kernel

/-- Steps of the reset state, with an empty queue and with a command in front, that meet the hypotheses of the statements about
    every step; THERMTRIP_N latched and a signed device among their states. -/
theorem wit_steps :
    (∃ t, step State.reset = .next t) ∧ State.reset.pending = [] ∧ State.reset.boot.refclk = true ∧
    (∃ t, step { State.reset with mon := { Mon.reset with thermtrip := true } } = .next t) ∧
    (∃ t, step { State.reset with pending := [.refclkLoss] } = .next t) ∧
    ({ State.reset with fuses := { Fuses.blank with custHash := [1] } } : State).signedMode = true ∧
    State.reset.hostMem.wf := ⟨⟨_, rfl⟩, rfl, rfl, ⟨_, rfl⟩, ⟨_, rfl⟩, by decide, by decide⟩

/-- Conditions that apply together, FAULT among them or not. -/
theorem wit_conditions :
    (true, Status.fault) ∈ [(true, Status.busy), (true, Status.fault)] ∧
    (true, Status.fault) ∉ [(true, Status.range), (true, Status.busy), (false, Status.fault)] ∧
    (true, Status.busy) ∈ [(true, Status.range), (true, Status.busy), (false, Status.fault)] := by decide

/-- States and operands that meet the hypotheses of SdioFunction. -/
def tSdBusy : State := State.reset.updPath .sdio fun q => { q with op := some (.waiting .lrn) }
theorem wit_SdioFunction : State.reset.boot.refclk = true ∧ (State.reset.path .sdio).op = none ∧ tSdBusy.boot.refclk = true ∧
    (tSdBusy.path .sdio).op.isSome = true ∧
    (((List.range 2).map fun i => if true then 0x1FFE + i else 0x1FFE).zip [1#8, 2#8]).any (fun e => sdioWindow e.1) = true ∧
    (((List.range 2).map fun i => if true then 7 + i else 7).zip [1#8, 2#8]).any (fun e => decide (e.1 = 8)) = true ∧
    (((List.range 2).map fun i => if true then 0x1000 + i else 0x1000).zip [1#8, 2#8]).any (fun e => decide (e.1 = 8)) = false := by
  decide +kernel

end Sys2Proof.Tests
end

section
/-! PROOF. The frame of every command. -/

namespace Sys2Proof.Machine

/-- The frame of exec, command by command: each is what its own meaning may change (Laws/Only*.lean). -/
theorem exec_answers_changes (s : State) : ∀ c : Instr, Answers (changes c) s (exec c s)
  | .deviceReset .. => only_execDeviceReset ..
  | .porstPulse .. => only_execPorstPulse ..
  | .dawnEnd .. => only_execDawnEnd ..
  | .sunriseEnd .. => only_execSunriseEnd ..
  | .memTrainingTimeout => only_execMemTrainingTimeout ..
  | .morningEnd .. => only_execMorningEnd ..
  | .bootStepTimeout .. => only_execBootStepTimeout ..
  | .bootReset .. => only_execBootReset ..
  | .bootForceReset .. => only_execBootForceReset ..
  | .resetDelayExpire .. => only_execResetDelayExpire ..
  | .registerWrite .. => only_execRegisterWrite ..
  | .coreWindowWrite .. => only_execCoreWindowWrite ..
  | .stepRun .. => only_execStepRun ..
  | .stepStop .. => only_execStepStop ..
  | .stepFence .. => only_execStepFence ..
  | .stepFenceTimeout .. => only_execStepFenceTimeout ..
  | .stepPeriodWrite .. => only_execStepPeriodWrite ..
  | .stepDeadline => only_execStepDeadline ..
  | .stepSourceEvent .. => only_execStepSourceEvent ..
  | .wave .. => only_execWave ..
  | .settle .. => only_execSettle ..
  | .sack .. => only_execSack ..
  | .openStep .. => only_execOpenStep ..
  | .reconfCommitBoundary .. => only_execReconfCommitBoundary ..
  | .reconfCommitGeneration .. => only_execReconfCommitGeneration ..
  | .reconfCancel .. => only_execReconfCancel ..
  | .nop .. => only_execNop ..
  | .fire .. => only_execFire ..
  | .leak .. => only_execLeak ..
  | .trace .. => only_execTrace ..
  | .dense .. => only_execDense ..
  | .send .. => only_execSend ..
  | .recv .. => only_execRecv ..
  | .combine .. => only_execCombine ..
  | .fence .. => only_execFence ..
  | .fenceDone .. => only_execFenceDone ..
  | .repeatOp .. => only_execRepeatOp ..
  | .waitstep .. => only_execWaitstep ..
  | .passDone .. => only_execPassDone ..
  | .emit .. => only_execEmit ..
  | .eventAccumulate .. => only_execEventAccumulate ..
  | .stallLimitReached .. => only_execStallLimitReached ..
  | .coreFence .. => only_execCoreFence ..
  | .coreRelease .. => only_execCoreRelease ..
  | .midnight .. => only_execMidnight ..
  | .lrnCmdMidnight .. => only_execLrnCmdMidnight ..
  | .lrnCmdClear .. => only_execLrnCmdClear ..
  | .packetSend .. => only_execPacketSend ..
  | .routerForward .. => only_execRouterForward ..
  | .packetReceive .. => only_execPacketReceive ..
  | .delayRingPlace .. => only_execDelayRingPlace ..
  | .ack .. => only_execAck ..
  | .nak .. => only_execNak ..
  | .retransmitTimeout .. => only_execRetransmitTimeout ..
  | .skip .. => only_execSkip ..
  | .haveAns .. => only_execHave ..
  | .absent .. => only_execAbsent ..
  | .credit .. => only_execCredit ..
  | .laneFailure .. => only_execLaneFailure ..
  | .lane .. => only_execLane ..
  | .portRetentionNotice .. => only_execPortRetentionNotice ..
  | .portTrain .. => only_execPortTrain ..
  | .portTrainingDone .. => only_execPortTrainingDone ..
  | .qualWindowEnd .. => only_execQualWindowEnd ..
  | .portDown .. => only_execPortDown ..
  | .portRxNextReply .. => only_execPortRxNextReply ..
  | .portDownReconcileTimeout .. => only_execPortDownReconcileTimeout ..
  | .mapTileWrite .. => only_execMapTileWrite ..
  | .drain .. => only_execDrain ..
  | .mapCoreWrite .. => only_execMapCoreWrite ..
  | .routeWrite .. => only_execRouteWrite ..
  | .drained .. => only_execDrained ..
  | .join .. => only_execJoin ..
  | .sysRejoin .. => only_execSysRejoin ..
  | .sysAdoptStep .. => only_execSysAdoptStep ..
  | .tickSend => only_execTickSend ..
  | .tick .. => only_execTick ..
  | .lossRateUpdate => only_execLossRateUpdate ..
  | .connOpen .. => only_execConnOpen ..
  | .connConfirm .. => only_execConnConfirm ..
  | .connAck .. => only_execConnAck ..
  | .connOpenTimeout .. => only_execConnOpenTimeout ..
  | .connClose .. => only_execConnClose ..
  | .connCloseMessage .. => only_execConnCloseMessage ..
  | .connCloseTimeout .. => only_execConnCloseTimeout ..
  | .queueDeliver .. => only_execQueueDeliver ..
  | .queueCreditReturn .. => only_execQueueCreditReturn ..
  | .recordHandoff .. => only_execRecordHandoff ..
  | .combContribute .. => only_execCombContribute ..
  | .combDeliver .. => only_execCombDeliver ..
  | .hringWrite .. => only_execHringWrite ..
  | .hringHoldoffExpire .. => only_execHringHoldoffExpire ..
  | .hringConsWrite .. => only_execHringConsWrite ..
  | .hringEnable .. => only_execHringEnable ..
  | .hringDisable .. => only_execHringDisable ..
  | .hringForceDisable .. => only_execHringForceDisable ..
  | .dringEnable .. => only_execDringEnable ..
  | .dringDisable .. => only_execDringDisable ..
  | .dringProdWrite .. => only_execDringProdWrite ..
  | .dringFetch .. => only_execDringFetch ..
  | .dmaOpen .. => only_execDmaOpen ..
  | .dmaStart .. => only_execDmaStart ..
  | .dmaStop .. => only_execDmaStop ..
  | .dmaClose .. => only_execDmaClose ..
  | .dmaProdWrite .. => only_execDmaProdWrite ..
  | .dmaDescFetch .. => only_execDmaDescFetch ..
  | .dmaReadBeat .. => only_execDmaReadBeat ..
  | .dmaWriteBeat => only_execDmaWriteBeat ..
  | .dmaDescComplete .. => only_execDmaDescComplete ..
  | .dmaDescFault .. => only_execDmaDescFault ..
  | .parkWrite => only_execParkWrite ..
  | .descPark => only_execDescPark ..
  | .replay .. => only_execReplay ..
  | .swapOut .. => only_execSwapOut ..
  | .swapIn .. => only_execSwapIn ..
  | .swapExchange .. => only_execSwapExchange ..
  | .swapFreeze => only_execSwapFreeze ..
  | .swapCopyOut => only_execSwapCopyOut ..
  | .swapCopyOutDone .. => only_execSwapCopyOutDone ..
  | .swapCopyInDone .. => only_execSwapCopyInDone ..
  | .swapMapDone .. => only_execSwapMapDone ..
  | .memPatrolPass .. => only_execMemPatrolPass ..
  | .frameReceive .. => only_execFrameReceive ..
  | .pauseFrameReceive .. => only_execPauseFrameReceive ..
  | .sampleConvert .. => only_execSampleConvert ..
  | .egressRecord .. => only_execEgressRecord ..
  | .egressHoldoffExpire .. => only_execEgressHoldoffExpire ..
  | .egressFrameTransmit .. => only_execEgressFrameTransmit ..
  | .sctxEnable .. => only_execSctxEnable ..
  | .sctxDisable .. => only_execSctxDisable ..
  | .schEntryWrite .. => only_execSchEntryWrite ..
  | .spUp .. => only_execSpUp ..
  | .spDown .. => only_execSpDown ..
  | .spLinkChange .. => only_execSpLinkChange ..
  | .timerWrap .. => only_execTimerWrap ..
  | .timerMatch .. => only_execTimerMatch ..
  | .tmrCountWrite .. => only_execTmrCountWrite ..
  | .tmrCmpWrite .. => only_execTmrCmpWrite ..
  | .tmrEnWrite .. => only_execTmrEnWrite ..
  | .tmrFlagsWrite .. => only_execTmrFlagsWrite ..
  | .tmrCaptRead .. => only_execTmrCaptRead ..
  | .trgForceWrite .. => only_execTrgForceWrite ..
  | .trgPulseEnd .. => only_execTrgPulseEnd ..
  | .captureFilterAccept .. => only_execCaptureFilterAccept ..
  | .capinConfigWrite .. => only_execCapinConfigWrite ..
  | .pcieFlr .. => only_execPcieFlr ..
  | .busMasterEnableChange .. => only_execBusMasterEnableChange ..
  | .winbaseWrite .. => only_execWinbaseWrite ..
  | .bar2Read .. => only_execBar2Read ..
  | .bar2Write .. => only_execBar2Write ..
  | .dwRead .. => only_execDwRead ..
  | .dwWrite .. => only_execDwWrite ..
  | .dwInfo .. => only_execDwInfo ..
  | .dictOpComplete .. => only_execDictOpComplete ..
  | .dictHkcTimeout .. => only_execDictHkcTimeout ..
  | .dreq .. => only_execDreq ..
  | .drsp .. => only_execDrsp ..
  | .dictForwardTimeout => only_execDictForwardTimeout ..
  | .cmd5 => only_execCmd5 ..
  | .cmd11 => only_execCmd11 ..
  | .cmd19 => only_execCmd19 ..
  | .cmd52 .. => only_execCmd52 ..
  | .cmd53 .. => only_execCmd53 ..
  | .ioAbort => only_execIoAbort ..
  | .sdioRes => only_execSdioRes ..
  | .intPendWrite .. => only_execIntPendWrite ..
  | .hostOpen .. => only_execHostOpen ..
  | .hostClose .. => only_execHostClose ..
  | .mbLockRead .. => only_execMbLockRead ..
  | .mbLockWrite .. => only_execMbLockWrite ..
  | .mbMsgWrite .. => only_execMbMsgWrite ..
  | .mbSend .. => only_execMbSend ..
  | .mbSendTimeout .. => only_execMbSendTimeout ..
  | .mbDoorbell .. => only_execMbDoorbell ..
  | .mbReset .. => only_execMbReset ..
  | .mbConsWrite .. => only_execMbConsWrite ..
  | .mbReceiverWrite .. => only_execMbReceiverWrite ..
  | .notice .. => only_execNotice ..
  | .mbNoticeRead .. => only_execMbNoticeRead ..
  | .secAttest .. => only_execSecAttest ..
  | .secAdvanceArb .. => only_execSecAdvanceArb ..
  | .secProvision .. => only_execSecProvision ..
  | .defectMark .. => only_execDefectMark ..
  | .defectUnmark .. => only_execDefectUnmark ..
  | .scrubPass .. => only_execScrubPass ..
  | .scrubPassStart .. => only_execScrubPassStart ..
  | .watchdogExpire .. => only_execWatchdogExpire ..
  | .lockstepMismatch .. => only_execLockstepMismatch ..
  | .hkcRestartDone .. => only_execHkcRestartDone ..
  | .faultRingWrite => only_execFaultRingWrite ..
  | .faultRingEnable .. => only_execFaultRingEnable ..
  | .faultRingDisable .. => only_execFaultRingDisable ..
  | .domainOn .. => only_execDomainOn ..
  | .domainRetention .. => only_execDomainRetention ..
  | .domainOff .. => only_execDomainOff ..
  | .domainOffForce .. => only_execDomainOffForce ..
  | .domainEntryDone .. => only_execDomainEntryDone ..
  | .domainEntryAbandon .. => only_execDomainEntryAbandon ..
  | .domainWake .. => only_execDomainWake ..
  | .domainWakeDone .. => only_execDomainWakeDone ..
  | .tempSample .. => only_execTempSample ..
  | .voltSample .. => only_execVoltSample ..
  | .procSample .. => only_execProcSample ..
  | .monExtremeClear .. => only_execMonExtremeClear ..
  | .vwarnLatch .. => only_execVwarnLatch ..
  | .vwarnClear .. => only_execVwarnClear ..
  | .supplyReset .. => only_execSupplyReset ..
  | .scrubPassEnd .. => only_execScrubPassEnd ..
  | .refclkLoss => only_execRefclkLoss ..
  | .perstRelease => only_execPerstRelease ..
  | .bar0Read .. => only_execBar0Read ..
  | .unsupportedRequest .. => only_execUnsupportedRequest ..
  | .msixPendingSend .. => only_execMsixPendingSend ..
  | .captureGlitch .. => only_execCaptureGlitch ..
  | .pauseExpire .. => only_execPauseExpire ..

/-- Settles O3: every command's own frame is the one that `changes` lists for it. -/
theorem everyCommandKeepsItsFrame : Obligations.EveryCommandKeepsItsFrame :=
  fun c s => exec_answers_changes s c

end Sys2Proof.Machine
end

section
/-! PROOF. The Defaults of the registers, and the state that a device reset leaves. -/

namespace Sys2Proof.Machine

/-! The Defaults of the registers, by their index and subindex -/

theorem rk_index {bank idx sub : Nat} (hi : idx < 0x10000) (hs : sub < 0x100) :
    rk bank idx sub / 0x100 % 0x10000 = idx := by
  unfold rk
  omega

theorem rk_subindex {bank idx sub : Nat} (hs : sub < 0x100) : rk bank idx sub % 0x100 = sub := by
  unfold rk
  omega

theorem regDefault_hReg {r sub : Nat} (hr : r < 64) (hs : sub < 0x100) :
    regDefault (hReg r sub) =
      if sub = 2 then 12 else if sub = 3 then 0xFFFF else if sub = 4 then 1 else if sub = 5 then 100 else 0 := by
  simp (disch := omega) only [hReg, regDefault, rk_index, rk_subindex, if_neg, if_pos]

theorem regDefault_tmr {n sub : Nat} (hn : n < 32) (hs : sub < 0x100) :
    regDefault (tmr n sub) =
      if sub = 4 then 0xFFFFFFFF else if sub = 7 then 0xFFFF else if sub = 8 then 0xFFFF else 0 := by
  simp (disch := omega) only [tmr, regDefault, rk_index, rk_subindex, if_neg, if_pos]

theorem regDefault_pReg {p sub : Nat} (hp : p < 7) (hs : sub < 0x100) :
    regDefault (pReg p sub) =
      if sub = 2 then 0xFF else if sub = 4 then 200 else if sub = 5 then 0xFF else if sub = 6 then 64 else 0 := by
  simp (disch := omega) only [pReg, regDefault, rk_index, rk_subindex, if_neg, if_pos]

theorem regDefault_pwrDomain {x sub : Nat} (hx : x < 90) (hs : sub < 0x100) :
    regDefault (rk 0 (0x0400 + x) sub) = if sub = 1 ∨ sub = 3 then 1 else 0 := by
  simp (disch := omega) only [regDefault, rk_index, rk_subindex, if_neg, if_pos]

theorem regDefault_vt {v sub : Nat} (hv : v < 512) (hs : sub < 0x100) :
    regDefault (rk 0 (0x3600 + v) sub) = if sub = 2 then 0xFFFF else 0 := by
  simp (disch := omega) only [regDefault, rk_index, rk_subindex, if_neg, if_pos]

theorem regDefault_mapTile_resident {v : Nat} (hv : v < 64) :
    regDefault (rk 0 (0x2200 + v) 0) = BitVec.ofNat 64 (0x4000 + v * 0x80) := by
  simp (disch := omega) only [regDefault, rk_index, rk_subindex, if_neg, if_pos, Nat.add_sub_cancel_left]

theorem regDefault_mapTile_none {v : Nat} (hlo : 64 ≤ v) (hhi : v < 512) : regDefault (rk 0 (0x2200 + v) 0) = 0 := by
  simp (disch := omega) only [regDefault, rk_index, rk_subindex, if_neg]

/-- The memories of a core after a device reset are zero but for CFG, where STALL_LIMIT stands (03 R128, Table 3.15). -/
theorem Core.reset_mem_rd {a : Nat} (h : a < aCFG ∨ aCFG + 0x800 ≤ a) : Core.reset.mem.rd a = 0 := by
  unfold aCFG at h
  simp (disch := omega) only [Core.reset, resetMem, Mem.rd, Tab.get, if_neg]

section
variable (f : Fuses) (d : BitVec 3) (cc : Bool)

/-! The state that a device reset leaves -/

/-- Every register is at its Default but SYS.MEMBERS, which holds the device's own bit (08 R281). -/
theorem State.rd_initial {k : Nat} (hk : k ≠ rMembers) : (State.initial f d cc).rd k = regDefault k :=
  if_neg (Ne.symm hk)

/-- The same for a register whose index or subindex tells it from SYS.MEMBERS. -/
theorem State.rn_initial {idx sub : Nat} (hs : sub < 0x100) (h : idx ≠ 0x4800 ∨ sub ≠ 2) :
    (State.initial f d cc).rn (rk 0 idx sub) = (regDefault (rk 0 idx sub)).toNat := by
  have hk : rk 0 idx sub ≠ rMembers := by
    unfold rMembers rk
    omega
  rw [State.rn, State.rd_initial f d cc hk]

theorem State.rn_initial_members : (State.initial f d cc).rn rMembers = 2 ^ d.toNat := by
  have hd : 2 ^ d.toNat < 2 ^ 64 := Nat.pow_lt_pow_right (by decide) (by omega)
  show 2 ^ d.toNat % 2 ^ 64 = 2 ^ d.toNat
  exact Nat.mod_eq_of_lt hd

theorem State.core_initial (k : Nat) : (State.initial f d cc).core k = Core.reset := rfl

theorem State.portState_initial {p : Nat} (hp : p < 7) : (State.initial f d cc).portState p = 0 := by
  rw [State.portState, pReg, State.rn_initial f d cc (by decide) (by omega), ← pReg, regDefault_pReg hp (by decide)]
  rfl

theorem State.rn_domain_initial {x : Nat} (hx : x < 90) : (State.initial f d cc).rn (rDomain x) = 1 := by
  rw [rDomain, State.rn_initial f d cc (by decide) (by omega), regDefault_pwrDomain hx (by decide)]
  rfl

theorem State.rn_hReg_initial {r sub : Nat} (hr : r < 64) (hs : sub < 0x100) :
    (State.initial f d cc).rn (hReg r sub) = (regDefault (hReg r sub)).toNat :=
  State.rn_initial f d cc hs (by omega)

theorem State.rn_tmr_initial {n sub : Nat} (hn : n < 32) (hs : sub < 0x100) :
    (State.initial f d cc).rn (tmr n sub) = (regDefault (tmr n sub)).toNat :=
  State.rn_initial f d cc hs (by omega)

theorem State.imageSlot_initial {v : Nat} (hv : v < 512) : (State.initial f d cc).imageSlot v = 0xFFFF := by
  rw [State.imageSlot, State.rn_initial f d cc (by decide) (by omega), regDefault_vt hv (by decide)]
  rfl

theorem State.mapTile_initial {v : Nat} (hv : v < 512) :
    (State.initial f d cc).mapTile v = regDefault (rk 0 (0x2200 + v) 0) := by
  refine State.rd_initial f d cc ?_
  unfold rMembers rk
  omega

/-- The first 64 virtual tiles are RESIDENT, each in the physical tile of its number (08 R281). -/
theorem State.tileMap_initial_resident {v : Nat} (hv : v < 64) :
    (State.initial f d cc).tileKind v = 1 ∧ (State.initial f d cc).tilePt v = v := by
  unfold State.tileKind State.tilePt
  rw [State.mapTile_initial f d cc (by omega), regDefault_mapTile_resident hv]
  simp only [fld, BitVec.toNat_ofNat]
  omega

theorem State.tileKind_initial_none {v : Nat} (hlo : 64 ≤ v) (hhi : v < 512) :
    (State.initial f d cc).tileKind v = 0 := by
  rw [State.tileKind, State.mapTile_initial f d cc hhi, regDefault_mapTile_none hlo hhi]
  rfl

end

/-- Settles O4: a reset state lists no register but SYS.MEMBERS and no unit, so each reads as its Default. -/
theorem resetValues : Obligations.ResetValues := by
  intro f d cc s
  have hCores (k : Nat) : (s.core k).state = .unconfigured ∧ (s.core k).inbuf = [] ∧
      ∀ a, (a < aCFG ∨ aCFG + 0x800 ≤ a) → (s.core k).mem.rd a = 0 := by
    rw [State.core_initial]
    exact ⟨rfl, rfl, fun _ => Core.reset_mem_rd⟩
  have hRings (r : Nat) (hr : r < 64) : s.rn (hReg r 2) = 12 ∧ s.rn (hReg r 5) = 100 := by
    rw [State.rn_hReg_initial f d cc hr (by decide), State.rn_hReg_initial f d cc hr (by decide),
      regDefault_hReg hr (by decide), regDefault_hReg hr (by decide)]
    exact ⟨rfl, rfl⟩
  have hTimers (n : Nat) (hn : n < 32) : s.rn (tmr n 4) = 0xFFFFFFFF ∧ s.rn (tmr n 1) = 0 := by
    rw [State.rn_tmr_initial f d cc hn (by decide), State.rn_tmr_initial f d cc hn (by decide),
      regDefault_tmr hn (by decide), regDefault_tmr hn (by decide)]
    exact ⟨rfl, rfl⟩
  exact ⟨rfl, rfl, rfl, rfl, rfl, rfl, rfl, rfl, hCores, fun _ => ⟨rfl, rfl⟩, fun _ => State.portState_initial f d cc,
    fun _ => ⟨rfl, rfl⟩, rfl, rfl, rfl, rfl, rfl, fun _ => State.rn_domain_initial f d cc, State.rn_initial_members f d cc,
    rfl, rfl, hRings, fun _ => State.tileMap_initial_resident f d cc, fun _ => State.tileKind_initial_none f d cc,
    fun _ => State.imageSlot_initial f d cc, hTimers, rfl, rfl, rfl⟩

end Sys2Proof.Machine
end

section
/-! PROOF. Which of several conditions is reported (00 R17). -/

namespace Sys2Proof.Machine

theorem Status.pick_fault_left (b : Status) : Status.pick .fault b = .fault := if_pos (.inl rfl)

theorem Status.pick_fault_right (a : Status) : Status.pick a .fault = .fault := if_pos (.inr rfl)

/-- Of two conditions, one is reported. -/
theorem Status.pick_eq_or (a b : Status) : Status.pick a b = a ∨ Status.pick a b = b := by
  unfold Status.pick
  split_ifs with h
  · exact h.imp Eq.symm Eq.symm
  all_goals simp

theorem Status.pick_le_left {a b : Status} (ha : a ≠ .ok) (hb : b ≠ .fault) :
    Status.pick a b ≠ .ok ∧ (Status.pick a b).code ≤ a.code := by
  unfold Status.pick
  split_ifs <;> grind

theorem Status.pick_le_right {a b : Status} (hb : b ≠ .ok) (ha : a ≠ .fault) :
    Status.pick a b ≠ .ok ∧ (Status.pick a b).code ≤ b.code := by
  unfold Status.pick
  split_ifs <;> grind

theorem pickAll_cons_true (st : Status) (cs : List (Bool × Status)) :
    pickAll ((true, st) :: cs) = Status.pick st (pickAll cs) := rfl

/-- What is reported is OK or one of the conditions that hold. -/
theorem pickAll_mem (cs : List (Bool × Status)) : pickAll cs = .ok ∨ (true, pickAll cs) ∈ cs := by
  induction cs with
  | nil => exact .inl rfl
  | cons e cs ih =>
    obtain ⟨_ | _, st⟩ := e
    · exact ih.imp_right (List.mem_cons_of_mem _)
    · rw [pickAll_cons_true]
      obtain h | h := Status.pick_eq_or st (pickAll cs) <;> rw [h]
      · exact .inr List.mem_cons_self
      · exact ih.imp_right (List.mem_cons_of_mem _)

theorem pickAll_ne_fault {cs : List (Bool × Status)} (h : (true, Status.fault) ∉ cs) : pickAll cs ≠ .fault := by
  intro hf
  have hm := pickAll_mem cs
  rw [hf] at hm
  exact hm.elim Status.noConfusion h

theorem pickAll_of_fault {cs : List (Bool × Status)} (h : (true, Status.fault) ∈ cs) : pickAll cs = .fault := by
  induction cs with
  | nil => cases h
  | cons e cs ih =>
    obtain rfl | hm := List.mem_cons.mp h
    · exact Status.pick_fault_left (pickAll cs)
    · obtain ⟨_ | _, st⟩ := e
      · exact ih hm
      · rw [pickAll_cons_true, ih hm, Status.pick_fault_right]

theorem pickAll_le {cs : List (Bool × Status)} (hf : (true, Status.fault) ∉ cs) {st : Status} (h : (true, st) ∈ cs)
    (hok : st ≠ .ok) : pickAll cs ≠ .ok ∧ (pickAll cs).code ≤ st.code := by
  induction cs with
  | nil => cases h
  | cons e cs ih =>
    obtain ⟨he, hcs⟩ : (true, Status.fault) ≠ e ∧ (true, Status.fault) ∉ cs := by simpa using hf
    obtain rfl | hm := List.mem_cons.mp h
    · exact Status.pick_le_left hok (pickAll_ne_fault hcs)
    · obtain ⟨hne, hle⟩ := ih hcs hm
      obtain ⟨_ | _, a⟩ := e
      · exact ⟨hne, hle⟩
      · have ha : a ≠ .fault := fun ha => he (by rw [ha])
        obtain ⟨hne', hle'⟩ := Status.pick_le_right hne ha
        exact ⟨hne', hle'.trans hle⟩

/-- Settles O11, by induction on the conditions: `Status.pick` reports one of two and passes FAULT on. -/
theorem lowestStatusIsReported : Obligations.LowestStatusIsReported :=
  fun cs => ⟨pickAll_mem cs, pickAll_of_fault, fun hf _ h hok => pickAll_le hf h hok⟩

end Sys2Proof.Machine
end

section
/-! PROOF. The step on a queue that is not empty (log 7). -/

namespace Sys2Proof.Machine

/-- Settles O1: the clause of `step` for a command in front. -/
theorem stepRunsTheFrontCommand : Obligations.StepRunsTheFrontCommand := by
  intro c rest s h
  rw [step, h]

end Sys2Proof.Machine
end

section
/-! PROOF. Sending on the mesh and the fabric: packing at a node (01 R31, 08 R252, R255), a port's turn (08 R248, R257),
    and one hop of a flit (01 R29, 08 R248, R251). -/

namespace Sys2Proof.Machine

/-! Packing at a mesh node -/

/-- Where an item goes does not depend on what the nodes hold. -/
@[simp] theorem State.itemDest_updNode (s : State) (k : Nat) (f : Node → Node) (n : Nat) (i : Item) :
    (s.updNode k f).itemDest n i = s.itemDest n i := rfl

@[simp] theorem State.routeHeld_updNode (s : State) (k : Nat) (f : Node → Node) (v : Nat) (i : Item) :
    (s.updNode k f).routeHeld v i = s.routeHeld v i := rfl

@[simp] theorem State.dev_updNode (s : State) (k : Nat) (f : Node → Node) : (s.updNode k f).dev = s.dev := rfl

/-- Something waits at node n on virtual channel v, and all of it may go now, to node m. -/
structure State.BoundFor (s : State) (n v m : Nat) : Prop where
  nonempty : Tab.get [] (s.node n).out v ≠ []
  unheld : ∀ i ∈ Tab.get [] (s.node n).out v, s.routeHeld v i = false
  unmarked : ∀ i ∈ Tab.get [] (s.node n).out v, drainMark s.dev i = none
  undrained : ∀ i ∈ Tab.get [] (s.node n).out v, i.isDrain = false
  dest : ∀ i ∈ Tab.get [] (s.node n).out v, s.itemDest n i = .node m

/-- Items that one packet of virtual channel v carries at most (08 R252, R254). -/
def loadLimit (v : Nat) : Nat := if v = 0 then 8 else 1

/-- The packet that node n sends next to node m when all that waits on v goes there (08 R252, R254). -/
def State.nodePacket (s : State) (n v m : Nat) : Packet :=
  { vc := v, seq := (s.nodeTx n m v).next, drain := false, sdev := s.dev, ddev := s.dev,
    items := (Tab.get [] (s.node n).out v).take (loadLimit v) }

/-- The next hop grants node n a credit for v, and the stream to node m has no SKIP out and room for one packet more. -/
def State.mayPack (s : State) (n v m : Nat) : Bool :=
  s.granted n v && (s.nodeTx n m v).skip.isNone && seqRoom (s.nodeTx n m v) 16

/-- A queue of which every item may go, and none is a DRAIN, gives its first items. -/
theorem takeLoad_all (v : Nat) {f : Item → Bool} {q : List Item} (hq : q ≠ []) (hf : ∀ i ∈ q, f i = true)
    (hd : ∀ i ∈ q, i.isDrain = false) :
    takeLoad v f q = (q.take (loadLimit v), q.drop (loadLimit v)) := by
  obtain ⟨i, q, rfl⟩ := List.exists_cons_of_ne_nil hq
  have hi := hf i List.mem_cons_self
  have hdi := hd i List.mem_cons_self
  unfold takeLoad loadLimit
  rw [List.find?_cons_of_pos hi]
  by_cases hv : v = 0
  · have hall : ∀ j ∈ i :: q, (f j && !j.isDrain) = true := fun j hj => by rw [hf j hj, hd j hj]; rfl
    simp only [hv, hdi, ne_eq, not_true_eq_false, Bool.false_eq_true, or_self, if_false, if_true, takePack_all 8 hall]
  · simp only [hv, ne_eq, not_false_eq_true, true_or, if_true, if_false, takePack_all 1 hf]

namespace State.BoundFor

variable {s : State} {n v m : Nat}

/-- No lookup takes anything off the queue. -/
theorem sweep_eq (h : s.BoundFor n v m) (hn : ¬(70 ≤ n ∧ n ≤ 76)) :
    s.sweep n v = s.updNode n fun d => { d with out := Tab.set [] d.out v (Tab.get [] (s.node n).out v) } := by
  unfold State.sweep
  extract_lets q stays gone t t'
  have hstay : ∀ i ∈ q, stays i = true := fun i hi => by simp only [stays, h.dest i hi, Bool.or_true]
  have hgone : gone = [] := List.filter_eq_nil_iff.mpr fun i hi => by simp [hstay i hi]
  have hq : q.filter stays = q := List.filter_eq_self.mpr hstay
  simp only [t', t, hgone, hq, List.foldl_nil, if_neg hn, q]

/-- What waits is the same after the lookups. -/
theorem sweep (h : s.BoundFor n v m) (hn : ¬(70 ≤ n ∧ n ≤ 76)) : (s.sweep n v).BoundFor n v m := by
  rw [h.sweep_eq hn]
  constructor <;> rw [State.node_updNode_same, Tab.get_set_same]
  exacts [h.nonempty, h.unheld, h.unmarked, h.undrained, h.dest]

/-- No DRAIN marker stands at the front. -/
theorem takeMarks_eq (h : s.BoundFor n v m) : s.takeMarks n v = s := by
  obtain ⟨i, q, hq⟩ := List.exists_cons_of_ne_nil h.nonempty
  have hi : drainMark s.dev i = none := h.unmarked i (hq ▸ List.mem_cons_self)
  simp only [State.takeMarks, hq, hi]

theorem packDest_eq (h : s.BoundFor n v m) : s.packDest n v = some m := by
  obtain ⟨i, q, hq⟩ := List.exists_cons_of_ne_nil h.nonempty
  have hi : i ∈ Tab.get [] (s.node n).out v := hq ▸ List.mem_cons_self
  have hfree : (!s.routeHeld v i && (drainMark s.dev i).isNone) = true := by rw [h.unheld i hi, h.unmarked i hi]; rfl
  simp only [State.packDest, hq, List.find?_cons_of_pos, hfree, Option.map_some, h.dest i hi]

theorem takeLoad_eq (h : s.BoundFor n v m) :
    takeLoad v (fun i => (!s.routeHeld v i && (drainMark s.dev i).isNone) && decide (s.itemDest n i = .node m))
        (Tab.get [] (s.node n).out v) =
      ((s.nodePacket n v m).items, (Tab.get [] (s.node n).out v).drop (loadLimit v)) :=
  takeLoad_all v h.nonempty (fun i hi => by simp [h.unheld i hi, h.unmarked i hi, h.dest i hi]) h.undrained

/-- The lookups change neither the packet that goes next nor whether it may go. -/
theorem packet_sweep (h : s.BoundFor n v m) (hn : ¬(70 ≤ n ∧ n ≤ 76)) :
    (s.sweep n v).nodePacket n v m = s.nodePacket n v m ∧ (s.sweep n v).mayPack n v m = s.mayPack n v m := by
  rw [h.sweep_eq hn]
  constructor
  · simp only [State.nodePacket, State.nodeTx, State.node_updNode_same, Tab.get_set_same, State.dev_updNode]
  · simp only [State.mayPack, State.granted, State.nodeTx, State.node_updNode_same, State.rtr_updNode]
    rfl

section
variable (h : s.BoundFor n v m) (hn : ¬(70 ≤ n ∧ n ≤ 76)) (hg : s.mayPack n v m = true)
include h hn hg

/-- With a credit and room in the stream, the packet goes into the transmitter and its copy into the stream; RTX_HWM
    rises to some mark. -/
theorem packNode_eq : ∃ mark, s.packNode n v =
    ((((s.updNode n fun d =>
      { d with out := Tab.set [] d.out v ((Tab.get [] (s.node n).out v).drop (loadLimit v)) }).updNodeTx n m v fun t =>
      { t with
        next := (t.next + 1) % 65536,
        buf := t.buf ++ [{ pk := s.nodePacket n v m, attempts := 1 }] }).transmit n m (s.nodePacket n v m)).bumpBy
      64 rSentAll (s.nodePacket n v m).flits).hwm (niCtr n 8) mark := by
  have hany : (s.nodePacket n v m).items.any Item.isDrain = false :=
    List.any_eq_false.mpr fun i hi => by simp [h.undrained i (List.mem_of_mem_take hi)]
  unfold State.mayPack at hg
  simp only [State.packNode, h.packDest_eq, hg, if_true, h.takeLoad_eq, hany, if_neg hn]
  exact ⟨_, rfl⟩

theorem only_packNode : Only [.regs, .nodes] s (s.packNode n v) := by
  obtain ⟨mark, hp⟩ := h.packNode_eq hn hg
  rw [hp]
  exact .chain (only_hwm _ _ _) (by decide) <| .chain (only_bumpBy _ _ _ _) (by decide) <|
    .chain (only_transmit _ _ _ _) (by decide) <| .chain (only_updNodeTx _ _ _ _ _) (by decide) <|
    (only_updNode _ _ _).mono (by decide)

/-- Node n after it has packed: queue, transmitter and stream. -/
theorem node_packNode :
    (s.packNode n v).node n =
      { s.node n with
        out := Tab.set [] (s.node n).out v ((Tab.get [] (s.node n).out v).drop (loadLimit v)),
        inj := Tab.upd [] (s.node n).inj v (· ++ packetFlits m n (s.nodePacket n v m)),
        tx := Tab.upd TxStream.reset (s.node n).tx (4 * m + v) fun t =>
          { t with next := (t.next + 1) % 65536, buf := t.buf ++ [{ pk := s.nodePacket n v m, attempts := 1 }] } } := by
  obtain ⟨mark, hp⟩ := h.packNode_eq hn hg
  rw [hp, State.node_hwm, State.node_bumpBy, State.transmit, State.node_updNode_same, State.updNodeTx,
    State.node_updNode_same, State.node_updNode_same]
  rfl

theorem node_packNode_ne {k : Nat} (hk : k ≠ n) : (s.packNode n v).node k = s.node k := by
  obtain ⟨mark, hp⟩ := h.packNode_eq hn hg
  rw [hp, State.node_hwm, State.node_bumpBy, State.transmit, State.node_updNode_ne _ _ hk, State.updNodeTx,
    State.node_updNode_ne _ _ hk, State.node_updNode_ne _ _ hk]

end

section
variable (h : s.BoundFor n v m) (hn : ¬(70 ≤ n ∧ n ≤ 76)) (hv : n < 70 → v ≠ 1) (hg : s.mayPack n v m = true)
include h hn hv

/-- Where no SEND waits for the NI, a node looks up its queue and packs. -/
theorem sendNode_eq : s.sendNode n v = (s.sweep n v).packNode n v := by
  have hresume : ¬(n < 70 ∧ v = 1) := fun hc => hv hc.1 hc.2
  simp only [State.sendNode, (h.sweep hn).takeMarks_eq, if_neg hresume]

include hg

theorem only_sendNode : Only [.regs, .nodes] s (s.sendNode n v) := by
  have hsweep : Only [.regs, .nodes] s (s.sweep n v) := h.sweep_eq hn ▸ (only_updNode _ _ _).mono (by decide)
  rw [h.sendNode_eq hn hv]
  exact hsweep.trans ((h.sweep hn).only_packNode hn ((h.packet_sweep hn).2.trans hg))

/-- The packet has left the queue for the transmitter, and its copy is the last of the stream. -/
theorem node_sendNode :
    Tab.get [] ((s.sendNode n v).node n).out v = (Tab.get [] (s.node n).out v).drop (loadLimit v) ∧
      Tab.get [] ((s.sendNode n v).node n).inj v =
        Tab.get [] (s.node n).inj v ++ packetFlits m n (s.nodePacket n v m) ∧
      (s.sendNode n v).nodeTx n m v =
        { s.nodeTx n m v with
          next := ((s.nodeTx n m v).next + 1) % 65536,
          buf := (s.nodeTx n m v).buf ++ [{ pk := s.nodePacket n v m, attempts := 1 }] } := by
  obtain ⟨hpk, hg'⟩ := h.packet_sweep hn
  rw [h.sendNode_eq hn hv, State.nodeTx, (h.sweep hn).node_packNode hn (hg'.trans hg), hpk, h.sweep_eq hn,
    State.node_updNode_same]
  refine ⟨?_, ?_, ?_⟩
  · rw [Tab.get_set_same, Tab.get_set_same]
  · rw [Tab.get_upd_same]
  · rw [Tab.get_upd_same]
    rfl

theorem node_sendNode_ne {k : Nat} (hk : k ≠ n) : (s.sendNode n v).node k = s.node k := by
  rw [h.sendNode_eq hn hv, (h.sweep hn).node_packNode_ne hn ((h.packet_sweep hn).2.trans hg) hk, h.sweep_eq hn,
    State.node_updNode_ne _ _ hk]

end

end State.BoundFor

/-! A port's turn -/

section
variable {s : State} {p v : Nat} {pk : Packet}

/-- A new packet leaves the queue, enters the stream and goes on the line. -/
theorem State.port_portNew {rest : List Item} (h : s.portPack p v = some (pk, rest)) :
    (s.portNew p v).port p =
      { s.port p with
        out := Tab.set [] (s.port p).out v rest,
        taken := Tab.upd 0 (s.port p).taken v (· + (1 + pk.flits)),
        tx := Tab.upd TxStream.reset (s.port p).tx v fun x =>
          { x with next := (x.next + 1) % 4096, buf := x.buf ++ [{ pk := pk, attempts := 1 }] },
        line := (s.port p).line ++ [.packet pk],
        last1 := if v ≤ 1 then decide (v = 1) else (s.port p).last1 } := by
  simp only [State.portNew, h, State.linePacket, State.port_bumpBy, State.port_bump, State.port_updPort_same]

theorem State.port_portNew_ne {k : Nat} (hk : k ≠ p) : (s.portNew p v).port k = s.port k := by
  unfold State.portNew
  split
  · simp only [State.linePacket, State.port_bumpBy, State.port_bump, State.port_updPort_ne _ _ hk]
  · rfl

/-- PKT_TX counts the packet and FLIT_TX its payload flits (08 Table 8.13). -/
theorem State.rn_portNew {rest : List Item} (h : s.portPack p v = some (pk, rest)) :
    (s.portNew p v).rn (pReg p 0x10) = min (s.rn (pReg p 0x10) + 1) (2 ^ 64 - 1) ∧
      (s.portNew p v).rn (pReg p 0x12) = min (s.rn (pReg p 0x12) + pk.flits) (2 ^ 64 - 1) := by
  have hsent (sub : Nat) (hs : sub < 0x21) : pReg p sub ≠ rSentAll := by unfold pReg rSentAll rk; omega
  have hne : pReg p 0x10 ≠ pReg p 0x12 := by unfold pReg rk; omega
  simp only [State.portNew, h, State.linePacket]
  constructor
  · rw [State.rn_bumpBy_ne _ _ _ (hsent _ (by decide)), State.rn_bumpBy_ne _ _ _ hne, State.rn_bump]
    rfl
  · rw [State.rn_bumpBy_ne _ _ _ (hsent _ (by decide)), State.rn_bumpBy _ _ _ (le_refl 64), State.bump,
      State.rn_bumpBy_ne _ _ _ hne.symm]
    rfl

/-- A packet that is sent again takes its number off the list of those to resend, and has one attempt more. -/
theorem State.port_portRetry :
    (s.portRetry p v pk).port p =
      { s.port p with
        again := Tab.upd [] (s.port p).again v (·.drop 1),
        taken := Tab.upd 0 (s.port p).taken v (· + (1 + pk.flits)),
        tx := Tab.upd TxStream.reset (s.port p).tx v fun x =>
          { x with buf := x.buf.map fun r => if r.pk.seq = pk.seq then { r with attempts := r.attempts + 1 } else r },
        line := (s.port p).line ++ [.packet pk],
        last1 := if v ≤ 1 then decide (v = 1) else (s.port p).last1 } := by
  simp only [State.portRetry, State.linePacket, State.port_bumpBy, State.port_updPort_same]

theorem State.port_portRetry_ne {k : Nat} (hk : k ≠ p) : (s.portRetry p v pk).port k = s.port k := by
  simp only [State.portRetry, State.linePacket, State.port_bumpBy, State.port_updPort_ne _ _ hk]

theorem State.rn_portRetry :
    (s.portRetry p v pk).rn (pReg p 0x19) = min (s.rn (pReg p 0x19) + 1) (2 ^ 48 - 1) :=
  State.rn_bumpBy _ _ _ (by decide)

end

/-! One hop of a flit -/

/-- A flit that comes into a router joins the buffer of the virtual channel that its sideband names. -/
theorem State.inb_intoRouter (s : State) (r q : Nat) (f : MeshFlit) :
    Tab.get [] ((s.intoRouter r q f).rtr r).inb (4 * q + f.vc) =
      Tab.get [] (s.rtr r).inb (4 * q + f.vc) ++ [f.reseal] := by
  unfold State.intoRouter
  split
  · rw [State.rtr_hwm, State.rtr_updRtr_same, Tab.get_set_same]
  · rw [State.rtr_hwm, State.rtr_updRtr_same, Tab.get_set_same, State.rtr_bumpBy]

theorem State.rtr_intoRouter_ne (s : State) {r k : Nat} (q : Nat) (f : MeshFlit) (hk : k ≠ r) :
    (s.intoRouter r q f).rtr k = s.rtr k := by
  unfold State.intoRouter
  split
  · rw [State.rtr_hwm, State.rtr_updRtr_ne _ _ hk]
  · rw [State.rtr_hwm, State.rtr_updRtr_ne _ _ hk, State.rtr_bumpBy]

theorem State.node_intoRouter (s : State) (r q : Nat) (f : MeshFlit) (k : Nat) :
    (s.intoRouter r q f).node k = s.node k :=
  congrArg (Tab.get Node.reset · k) ((only_intoRouter s r q f).same .nodes (by decide))

/-- A flit whose PAR does not agree counts at the input port that it came in by (R251). -/
theorem State.rn_intoRouter_par (s : State) (r q : Nat) {f : MeshFlit} (h : f.parOk = false) :
    (s.intoRouter r q f).rn (rtrCtr r q 3) = min (s.rn (rtrCtr r q 3) + 1) (2 ^ 32 - 1) := by
  have hk : rtrCtr r q 3 ≠ rtrCtr r q (9 + f.vc) := by unfold rtrCtr rk; omega
  simp only [State.intoRouter, h, Bool.false_eq_true, if_false]
  rw [State.rn_def, State.rd_hwm_ne _ _ hk, State.rd_updRtr, ← State.rn_def, State.rn_bumpBy _ _ _ (by decide)]

/-- The flit at the head of a transmitter leaves it while the router has room. -/
theorem State.hopFrom_eq {s : State} {n v r e : Nat} {f : MeshFlit} {rest : List MeshFlit} (l : List Nat)
    (hn : nodeAt n = (r, e)) (hf : Tab.get [] (s.node n).inj v = f :: rest)
    (hroom : (Tab.get [] (s.rtr r).inb (4 * e + v)).length < 6) :
    s.hopFrom n v l =
      (s.updNode n fun q => { q with inj := Tab.set [] q.inj v rest }).intoRouter r e (f.flip l) := by
  simp only [State.hopFrom, hn, hf, if_pos hroom]

/-- A router after flit f has left its input (q, v) by output o, `rest` staying behind it: the buffer, the owner of the
    output and, at the end of a packet, whose turn it was. -/
def Router.leave (q v o : Nat) (f : MeshFlit) (rest : List MeshFlit) (x : Router) : Router :=
  { x with
    inb := Tab.set [] x.inb (4 * q + v) rest,
    lock := Tab.set none x.lock (4 * o + v) (if f.isLast then none else some q),
    alt := if f.isLast && decide (v ≤ 1) then Tab.set false x.alt o (decide (v = 1)) else x.alt }

@[simp] theorem Router.inb_leave (q v o : Nat) (f : MeshFlit) (rest : List MeshFlit) (x : Router) :
    Tab.get [] (x.leave q v o f rest).inb (4 * q + v) = rest := Tab.get_set_same _ _ _ _

@[simp] theorem Router.lock_leave (q v o : Nat) (f : MeshFlit) (rest : List MeshFlit) (x : Router) :
    Tab.get none (x.leave q v o f rest).lock (4 * o + v) = if f.isLast then none else some q := Tab.get_set_same _ _ _ _

/-- The state after flit f has left input (q, v) of router r and its counters have counted it, before it crosses the
    link. -/
def State.leaveRouter (s : State) (r q v : Nat) (f : MeshFlit) (rest : List MeshFlit) : State :=
  let t := (s.updRtr r (Router.leave q v (hopPort r f.dnode) f rest)).bump (rtrCtr r q 2)
  if f.isTrailer then t.bump (rtrCtr r q 1) else t

section
variable {s : State} {r q v : Nat} {f : MeshFlit} {rest : List MeshFlit}

/-- The flit whose turn it is leaves its router, to the node at its exit port or to the next router. -/
theorem State.hopOver_eq (l : List Nat) (hf : Tab.get [] (s.rtr r).inb (4 * q + v) = f :: rest)
    (hdead : s.boot.deadRtrs.contains r = false) (hready : s.hopReady r (hopPort r f.dnode) v q = true)
    (hpick : pickVc (s.vcReady r (hopPort r f.dnode)) (Tab.get false (s.rtr r).alt (hopPort r f.dnode)) = some v) :
    s.hopOver r q v l =
      if exitsAt r (hopPort r f.dnode) f.dnode then
        (s.leaveRouter r q v f rest).updNode f.dnode fun d =>
          { d with rx := Tab.upd [] d.rx (f.flip l).vc (· ++ [f.flip l]) }
      else
        (s.leaveRouter r q v f rest).intoRouter (beyondPort r (hopPort r f.dnode)).1
          (beyondPort r (hopPort r f.dnode)).2 (f.flip l) := by
  simp only [State.hopOver, hf, hdead, hready, hpick, Bool.false_eq_true, if_false, decide_true, Bool.and_self, if_true,
    State.leaveRouter]
  rfl

theorem only_leaveRouter : Only [.regs, .rtrs] s (s.leaveRouter r q v f rest) := by
  have h := Only.chain (W := [.regs, .rtrs]) (only_bump _ (rtrCtr r q 2)) (by decide)
    ((only_updRtr s r (Router.leave q v (hopPort r f.dnode) f rest)).mono (by decide))
  exact .ite (.chain (only_bump _ _) (by decide) h) h

theorem State.node_leaveRouter (k : Nat) : (s.leaveRouter r q v f rest).node k = s.node k :=
  congrArg (Tab.get Node.reset · k) (only_leaveRouter.same .nodes (by decide))

theorem State.rtr_leaveRouter_same :
    (s.leaveRouter r q v f rest).rtr r = (s.rtr r).leave q v (hopPort r f.dnode) f rest := by
  unfold State.leaveRouter
  split
  · rw [State.rtr_bump, State.rtr_bump, State.rtr_updRtr_same]
  · rw [State.rtr_bump, State.rtr_updRtr_same]

theorem State.rtr_leaveRouter_ne {k : Nat} (hk : k ≠ r) : (s.leaveRouter r q v f rest).rtr k = s.rtr k := by
  unfold State.leaveRouter
  split
  · rw [State.rtr_bump, State.rtr_bump, State.rtr_updRtr_ne _ _ hk]
  · rw [State.rtr_bump, State.rtr_updRtr_ne _ _ hk]

end

/-- Settles O23: each form of the two commands comes down to the operation that it runs, and that operation's own laws
    give the rest. -/
theorem meshSend : Obligations.MeshSend := by
  refine ⟨?node, ?portNew, ?portAgain, ?inject, ?exit, ?onward⟩
  case node =>
    intro n v m s q w pk hq hall hn hv hgrant hskip hroom hclose
    simp only [imp_and, forall_and] at hall
    obtain ⟨hheld, hmark, hdrain, hdest⟩ := hall
    have h : s.BoundFor n v m := ⟨hq, hheld, hmark, hdrain, hdest⟩
    have hempty : Tab.get [] (s.node n).inj v = [] := by
      simp only [State.granted, Bool.and_eq_true, List.isEmpty_iff] at hgrant
      exact hgrant.1
    have hg : s.mayPack n v m = true := by
      simp only [State.mayPack, hgrant, hskip, hroom, Option.isNone_none, Bool.and_self]
    have hsend := h.only_sendNode hn hv hg
    have hidle : (s.sendNode n v).closeCheck = s.sendNode n v :=
      State.closeCheck_idle (by rw [hsend.same .conns (by decide)]; exact hclose)
    obtain ⟨hout, hinj, htx⟩ := h.node_sendNode hn hv hg
    refine ⟨(s.sendNode n v).closeCheck, rfl, ?_⟩
    rw [hidle]
    refine ⟨hsend, hout, ?_, ?_, ?_, fun k hk => h.node_sendNode_ne hn hv hg hk⟩
    · rw [hinj, hempty, List.nil_append]
      rfl
    · rw [htx]
    · rw [htx]
      rfl
  case portNew =>
    intro p v pk rest s hpick hagain hpack
    have hsend : s.sendPort p v = s.portNew p v := by simp only [State.sendPort, hpick, if_true, hagain]
    refine ⟨s.sendPort p v, rfl, hsend ▸ only_portNew s p v, ?_⟩
    rw [hsend]
    exact ⟨State.port_portNew hpack, fun k => State.port_portNew_ne, State.rn_portNew hpack⟩
  case portAgain =>
    intro p v pk s hpick hagain
    have hsend : s.sendPort p v = s.portRetry p v pk := by simp only [State.sendPort, hpick, if_true, hagain]
    refine ⟨s.sendPort p v, rfl, hsend ▸ only_portRetry s p v pk, ?_⟩
    rw [hsend]
    exact ⟨State.port_portRetry, fun k => State.port_portRetry_ne, State.rn_portRetry⟩
  case inject =>
    intro n v r e f rest flips s hnode hf hroom g
    refine ⟨s.hopFrom n v flips, rfl, only_hopFrom s n v flips, ?_⟩
    rw [State.hopFrom_eq flips hnode hf hroom]
    refine ⟨?_, ?_, fun hpar => ?_, fun k hk => ?_, fun k hk => ?_⟩
    · rw [State.node_intoRouter, State.node_updNode_same, Tab.get_set_same]
    · exact State.inb_intoRouter _ r e g
    · exact State.rn_intoRouter_par _ r e hpar
    · exact State.rtr_intoRouter_ne _ e g hk
    · rw [State.node_intoRouter, State.node_updNode_ne _ _ hk]
  case exit =>
    intro r q v f rest flips s hf hdead o g hready hpick hexit
    refine ⟨s.hopOver r q v flips, rfl, only_hopOver s r q v flips, ?_⟩
    rw [State.hopOver_eq flips hf hdead hready hpick, if_pos hexit]
    refine ⟨?_, ?_, ?_, fun k hk => ?_, fun k hk => ?_⟩
    · rw [State.rtr_updNode, State.rtr_leaveRouter_same, Router.inb_leave]
    · rw [State.rtr_updNode, State.rtr_leaveRouter_same, Router.lock_leave]
    · rw [State.node_updNode_same, Tab.get_upd_same, State.node_leaveRouter]
    · rw [State.rtr_updNode, State.rtr_leaveRouter_ne hk]
    · rw [State.node_updNode_ne _ _ hk, State.node_leaveRouter]
  case onward =>
    intro r q v f rest flips s hf hdead o w g hready hpick hexit hw
    have hhop := State.hopOver_eq flips hf hdead hready hpick
    rw [if_neg (ne_true_of_eq_false hexit)] at hhop
    refine ⟨s.hopOver r q v flips, rfl, ?_, ?_⟩ <;> rw [hhop]
    · exact .chain (only_intoRouter _ _ _ _) (by decide) only_leaveRouter
    refine ⟨?_, ?_, ?_, fun k hr hk => ?_⟩
    · rw [State.rtr_intoRouter_ne _ _ _ hw.symm, State.rtr_leaveRouter_same, Router.inb_leave]
    · rw [State.rtr_intoRouter_ne _ _ _ hw.symm, State.rtr_leaveRouter_same, Router.lock_leave]
    · rw [State.inb_intoRouter, State.rtr_leaveRouter_ne hw]
    · rw [State.rtr_intoRouter_ne _ _ _ hk, State.rtr_leaveRouter_ne hr]

end Sys2Proof.Machine
end

section
/-! PROOF. The step-table operations that move the pass (03 R118 to R120, R129, R130, R484; 02 R77, R78). -/

namespace Sys2Proof.Machine

/-- A command that replaces core k completes in the cores, and no other core changes. -/
theorem Completes.setCore {c : Instr} {s : State} {k : Nat} {v : Core} (h : exec c s = .next (s.setCore k v)) :
    Completes [.cores] c s fun t => t.core k = v ∧ ∀ j, j ≠ k → t.core j = s.core j :=
  ⟨s.setCore k v, h, only_setCore s k v, State.core_setCore_same s k v, fun _ => State.core_setCore_ne s v⟩

/-- Counting a happening in a counter below CORE_CTL leaves the active range as it was. -/
theorem Core.range_tick (c : Core) {a : Nat} (h : a + 8 ≤ 0x1C900) :
    (c.tick a).stbBase = c.stbBase ∧ (c.tick a).stbLen = c.stbLen := by
  have hctl : (c.tick a).ctl = c.ctl := Core.rd64_tick_ne c (.inr h)
  simp only [Core.stbBase, Core.stbLen, hctl, and_self]

/-- An entry that acts as NOP counts in CFG.BADREC before the pass goes on. -/
theorem Core.nopOp_badrec {c : Core} (hop : 0xB ≤ opcode c.word) (hrep : c.rep = none)
    (hpc : c.pc.toNat + 1 < c.stbBase + c.stbLen) :
    c.nopOp = { c.tick aBADREC with pc := c.pc + 1, pass := .run } := by
  obtain ⟨hbase, hlen⟩ := c.range_tick (a := aBADREC) (by decide)
  have hrep' : (c.tick aBADREC).rep = none := by rw [Core.tick_eq]; exact hrep
  have hpc' : (c.tick aBADREC).pc = c.pc := by rw [Core.tick_eq]
  unfold Core.nopOp
  rw [if_neg (by omega), Core.advance_next hrep' (by rw [hpc', hbase, hlen]; exact hpc), hpc']

/-- A REPEAT of a repeatable entry starts its first repetition (03 R120). -/
theorem Core.repeatEntry_starts {c : Core} (hn : fld c.word 59 48 ≠ 0) (hpc : c.pc.toNat + 1 < c.stbBase + c.stbLen)
    (hlo : 1 ≤ opcode (c.stb (c.pc.toNat + 1))) (hhi : opcode (c.stb (c.pc.toNat + 1)) ≤ 7) :
    c.repeatEntry =
      { c with pc := c.pc + 1, rep := some { n := fld c.word 59 48, stride := fld c.word 47 36, k := 0 } } := by
  have hrep : repeatable (opcode (c.stb (c.pc.toNat + 1))) = true := by
    simp only [repeatable, hlo, hhi, decide_true, Bool.and_self]
  have hlast : ¬ c.stbBase + c.stbLen ≤ c.pc.toNat + 1 := by omega
  unfold Core.repeatEntry
  exact if_neg (by simp [hn, hlast, hrep])

/-- Items none of which is awaited any more let the FENCE go on (02 R77). -/
theorem State.fenceClear_of_ended {s : State} {k : Nat} {ids : List Nat} (hpass : (s.core k).pass = .fence ids)
    (hend : ∀ i ∈ ids, ∀ p ∈ s.live, p.1 ≠ i) : s.fenceClear k = true := by
  unfold State.fenceClear
  rw [hpass]
  simpa using fun i hi a b hp => hend i hi (a, b) hp

/-- Core k after its stall timer has reached the limit. -/
def Core.stallOut (c : Core) : Core := { c.tick aSTALLS with stalled := true }.wr64 aSTALLINFO c.stallInfo

theorem State.core_stallLimit (s : State) (k j : Nat) :
    (s.stallLimit k).core j = (s.setCore k (s.core k).stallOut).core j := State.core_post ..

theorem State.seq_stallLimit (s : State) (k : Nat) : (s.stallLimit k).log.seq = s.log.seq + 1 := by
  unfold State.stallLimit
  rw [State.seq_post, State.log_setCore]

theorem Core.stalls_stallOut (c : Core) : c.stallOut.rn aSTALLS = min (c.rn aSTALLS + 1) (2 ^ 32 - 1) :=
  (Core.rn_wr64_ne _ _ (.inl (by decide))).trans (c.rn_tick aSTALLS)

theorem Core.info_stallOut (c : Core) : c.stallOut.rd64 aSTALLINFO = c.stallInfo := Core.rd64_wr64_same ..

/-- Settles O13: each of these commands replaces its own core, by the operation of the entry at PC or, at the stall
    limit, by the counted core. -/
theorem passFlow : Obligations.PassFlow := by
  refine ⟨?nop, ?badrec, ?fence, ?fenceDone, ?repeated, ?waitstep, ?stall⟩
  case nop =>
    intro k s hat hop hrep hpc
    have h : exec (.nop k) s = .next (s.updCore k Core.nopOp) :=
      congrArg Host.Outcome.next (if_pos (by simp [hat, hop]))
    have hnop : (s.core k).nopOp = { s.core k with pc := (s.core k).pc + 1, pass := .run } :=
      (if_pos hop).trans (Core.advance_next hrep hpc)
    exact hnop ▸ Completes.setCore h
  case badrec =>
    intro k s hat hop hrep hpc
    have h : exec (.nop k) s = .next (s.updCore k Core.nopOp) :=
      congrArg Host.Outcome.next (if_pos (by simp [hat, hop]))
    obtain ⟨t, ht, honly, hk, hne⟩ := Completes.setCore h
    rw [Core.nopOp_badrec hop hrep hpc] at hk
    refine ⟨t, ht, honly, ?_, ?_, ?_, hne⟩ <;> rw [hk]
    exact (s.core k).rn_tick aBADREC
  case fence =>
    intro k s hat
    exact Completes.setCore (congrArg Host.Outcome.next (if_pos hat))
  case fenceDone =>
    intro k s ids hpass hlive hend hrep hpc
    have h : exec (.fenceDone k) s = .next (s.updCore k Core.advance) :=
      congrArg Host.Outcome.next (if_pos (by rw [State.fenceClear_of_ended hpass hend, hlive]; rfl))
    exact Core.advance_next hrep hpc ▸ Completes.setCore h
  case repeated =>
    intro k s hat hn hpc hlo hhi
    have h : exec (.repeatOp k) s = .next (s.updCore k Core.repeatEntry) := congrArg Host.Outcome.next (if_pos hat)
    exact Core.repeatEntry_starts hn hpc hlo hhi ▸ Completes.setCore h
  case waitstep =>
    intro k s hat
    exact Completes.setCore (congrArg Host.Outcome.next (if_pos hat))
  case stall =>
    intro k s hstalling hstalled
    have h : exec (.stallLimitReached k) s = .next (s.stallLimit k) :=
      congrArg Host.Outcome.next (if_pos (by rw [hstalling, hstalled]; rfl))
    refine ⟨s.stallLimit k, h, only_stallLimit s k, ?_, ?_, ?_, s.seq_stallLimit k, fun j hj => ?_⟩
    · rw [State.core_stallLimit, State.core_setCore_same]; rfl
    · rw [State.core_stallLimit, State.core_setCore_same, Core.stalls_stallOut]
    · rw [State.core_stallLimit, State.core_setCore_same, Core.info_stallOut]
    · rw [State.core_stallLimit, State.core_setCore_ne _ _ hj]

end Sys2Proof.Machine
end

section
/-! PROOF. The commands of the step engine and the deadline of its open step (02 R49, R52, R72, R73, R77, R78; 10 R353). -/

namespace Sys2Proof.Machine

/-! Tables changed throughout, and what the engine reads of the paths -/

/-- A table after every entry has been changed, by a change that leaves an unlisted entry as it reads. -/
theorem Tab.get_map {α : Type} (d : α) (f : Nat → α → α) {k : Nat} (h : f k d = d) (t : Tab α) :
    Tab.get d (t.map fun e => (e.1, f e.1 e.2)) k = f k (Tab.get d t k) := by
  induction t with
  | nil => exact h.symm
  | cons e t ih =>
    show (if e.1 = k then f e.1 e.2 else Tab.get d (t.map fun e => (e.1, f e.1 e.2)) k) =
      f k (if e.1 = k then e.2 else Tab.get d t k)
    split
    case isTrue he => rw [he]
    case isFalse => exact ih

section
variable {s u : State} (h : s.PathEq u)
include h

theorem State.PathEq.leads : u.leads = s.leads := by obtain ⟨X, rfl⟩ := h; rfl
theorem State.PathEq.isMember (e : Nat) : u.isMember e = s.isMember e := by obtain ⟨X, rfl⟩ := h; rfl
theorem State.PathEq.dev : u.dev = s.dev := by obtain ⟨X, rfl⟩ := h; rfl
theorem State.PathEq.joinState : u.joinState = s.joinState := by obtain ⟨X, rfl⟩ := h; rfl
theorem State.PathEq.stopped : u.stopped = s.stopped := by obtain ⟨X, rfl⟩ := h; rfl
theorem State.PathEq.heldIds : u.heldIds = s.heldIds := by obtain ⟨X, rfl⟩ := h; rfl

end

theorem State.not_stopped {s : State} (h : s.stopped = false) : s.eng.phase ≠ .stopped := of_decide_eq_false h

/-! The deadline -/

/-- Without VWARN no phase is held. -/
theorem State.holdPhase_of_clear {s : State} (h : s.mon.vwarn = false) : s.holdPhase = s := by
  simp only [State.holdPhase, h, Bool.false_and, Bool.false_eq_true, if_false]

/-- The deadline of an open step falls on the running count, and DUSK begins (R49). -/
theorem State.placeDeadline_open {s : State} (hwarn : s.mon.vwarn = false) (hround : s.eng.round = none)
    (hopen : s.eng.closed = false) :
    s.placeDeadline = s.updEng fun e => { e with phase := .dusk, deadline := some e.timer } := by
  unfold State.placeDeadline
  rw [State.holdPhase_of_clear (by exact hwarn)]
  simp only [State.updEng, hround, hopen, Option.isSome_none, Bool.or_self, Bool.false_eq_true, if_false]

/-- An event of the source named while this device times steps (R353). -/
theorem State.stepSource_named {s : State} {src : Nat} (htime : s.timing = true) (hsrc : s.rn rSource = src)
    (hne : src ≠ 0) :
    s.stepSource src = if s.eng.deadline.isNone then s.placeDeadline else s.bump (rk 0 0x3C06 2) := by
  have hnamed : (!s.timing || decide (s.rn rSource ≠ src) || decide (src = 0)) = false := by
    simp [htime, hsrc, hne]
  exact if_neg (ne_true_of_eq_false hnamed)

/-! RUN and STOP -/

/-- STEP.RUN of a stopped leader issues SETTLE of step STEP.COUNT (R72). -/
theorem runAct_settles {s : State} (hlead : s.leads = true) (hmem : s.isMember s.dev = true) (hstop : s.stopped = true)
    (hjoining : s.joinState ≠ 1) (hrefused : s.joinState ≠ 3) (hwarn : s.mon.vwarn = false) :
    runAct s = okAct (((s.updEng fun e => { e with starting := true, stopReq := false }).settleTo s.eng.count).sendJoins) := by
  have hwarn' : (s.updEng fun e => { e with starting := true, stopReq := false }).mon.vwarn = false := hwarn
  unfold runAct
  rw [guardAct_ok (guard_nil (by simp [hlead, hmem, hstop, hjoining, hrefused]))]
  simp only [hwarn', Bool.false_eq_true, if_false]
  rfl

/-- A STOP while no step is open for the first time asks the engine to stop. -/
theorem stopAct_requests {s : State} (hrun : s.stopped = false) (hstart : s.eng.starting = false) :
    stopAct s = okAct (s.updEng fun e => { e with stopReq := true }).tryStop := by
  simp only [stopAct, hrun, hstart, Bool.false_eq_true, if_false, false_and]

/-- An engine whose last step has closed stops as asked (R73). -/
theorem State.tryStop_closed {s : State} (hreq : s.eng.stopReq = true) (hclosed : s.eng.closed = true)
    (hprev : s.eng.prev = false) (hround : s.eng.round = none) (hrun : s.eng.phase ≠ .stopped) :
    s.tryStop = s.stopSteps :=
  if_pos ⟨hreq, hclosed, by rw [hprev]; rfl, hround, hrun⟩

theorem State.tryStop_open {s : State} (hopen : s.eng.closed = false) : s.tryStop = s :=
  if_neg fun h => absurd h.2.1 (by simp [hopen])

theorem State.tryStop_unasked {s : State} (hreq : s.eng.stopReq = false) : s.tryStop = s :=
  if_neg fun h => absurd h.1 (by simp [hreq])

theorem State.eng_stopSteps (s : State) :
    s.stopSteps.eng =
      { s.eng with
        phase := .stopped, count := s.eng.count + 1, stopReq := false, diverge := false, deadline := none,
        closed := false, prev := false, waveCur := none, wavePrev := none } :=
  (only_sendJoins _).same .eng (by decide)

/-- A RUNNING core becomes READY when the engine stops (R73, 03 R125). -/
theorem State.core_stopSteps {s : State} {k : Nat} (h : (s.core k).state = .running) :
    s.stopSteps.core k = { s.core k with state := .ready, pass := .idle, rep := none } := by
  have hcore : s.stopSteps.core k = _ := (only_sendJoins _).coreEq (by decide) k
  rw [hcore]
  exact (Tab.get_map Core.reset
    (fun _ c => if c.state = .running then { c with state := .ready, pass := .idle, rep := none } else c) rfl s.cores).trans
    (if_pos h)

/-! PERIOD -/

/-- The state after STEP.PERIOD has taken v; one below the running count counts in STEP.SHORT (R52, Table 2.9). -/
def State.setPeriod (s : State) (v : Nat) : State :=
  if s.timesStep && decide (v / 2 < s.eng.timer) then (s.wn rPeriod v).rehash.bump (rStep 6)
  else (s.wn rPeriod v).rehash

theorem periodAct_ok {s : State} {v : Nat} (hlo : 1000 ≤ v) (hhi : v ≤ 1000000000) (heven : v % 2 = 0) :
    periodAct v s = okAct (s.setPeriod v) :=
  guardAct_ok (guard_nil (by simp; omega))

theorem State.rd_setPeriod_of_ne_short (s : State) (v : Nat) {k : Nat} (h : k ≠ rStep 6) :
    (s.setPeriod v).rd k = (s.wn rPeriod v).rd k := by
  have hrehash : (s.wn rPeriod v).rehash.rd k = (s.wn rPeriod v).rd k := (only_rehash _).rdEq (by decide) k
  unfold State.setPeriod
  split
  · exact (State.rd_bumpBy_ne _ _ _ h).trans hrehash
  · exact hrehash

/-- Settles O18: each dictionary command by what its entry does in the opened window, each of the others by what the
    engine does while REFCLK runs. -/
theorem stepCommands : Obligations.StepCommands := by
  refine ⟨?run, ?stopStopped, ?stopClosed, ?stopOpen, ?fenceClear, ?fenceHeld, ?fenceTimeout, ?period, ?deadline,
    ?source, ?sourceExtra⟩
  case run =>
    intro p s hs hlead hmem hstop hjoining hrefused hwarn
    refine Completes.dictOk only_runAct rfl hs (by decide) (by decide) fun u hu _ => ⟨_, runAct_settles
      (hu.leads.trans hlead) (by rw [hu.isMember, hu.dev, hmem]) (hu.stopped.trans hstop) (hu.joinState ▸ hjoining)
      (hu.joinState ▸ hrefused) (by rw [hu.mon, hwarn]), fun w hw ha => ?_⟩
    obtain ⟨r, hstep, -, -, hround, hphase, hsettled, htag, htimer, -, -, -, hcount, hstart⟩ :=
      State.eng_settleTo (u.updEng fun e => { e with starting := true, stopReq := false }) u.eng.count
        (by exact (congrArg Mon.vwarn hu.mon).trans hwarn)
    have heng := hw.eng.trans ((only_sendJoins _).same .eng (by decide))
    rw [heng, ← hu.eng]
    exact ⟨ha, hphase, hsettled, hcount, hstart.trans (Bool.or_true _), htimer, htag, r, hround, hstep⟩
  case stopStopped =>
    intro p s hs hstop
    exact Completes.dict rfl hs (by decide) fun u hu =>
      ⟨u, if_pos (hu.stopped.trans hstop), .refl _ _, fun _ _ ha => ha⟩
  case stopClosed =>
    intro p s hs hrun hstart hclosed hprev hround
    refine Completes.dictOk only_stopAct rfl hs (by decide) (by decide) fun u hu _ => ⟨_, stopAct_requests
      (hu.stopped.trans hrun) (by rw [hu.eng, hstart]), fun w hw ha => ?_⟩
    have hstop : (u.updEng fun e => { e with stopReq := true }).tryStop =
        (u.updEng fun e => { e with stopReq := true }).stopSteps :=
      State.tryStop_closed rfl ((congrArg Eng.closed hu.eng).trans hclosed) ((congrArg Eng.prev hu.eng).trans hprev)
        ((congrArg Eng.round hu.eng).trans hround) (State.not_stopped (hu.stopped.trans hrun))
    rw [hstop] at hw
    refine ⟨ha, ?_, ?_, ?_, fun k hk => ?_⟩
    · rw [hw.eng, State.eng_stopSteps]
    · rw [hw.eng, State.eng_stopSteps, ← hu.eng]
      rfl
    · rw [hw.eng, State.eng_stopSteps]
    · have hcore : w.core k = { u.core k with state := .ready, pass := .idle, rep := none } :=
        (hw.core k).trans (State.core_stopSteps (s := u.updEng _) ((congrArg Core.state (hu.core k)).trans hk))
      rw [hcore, hu.core]
      exact ⟨rfl, rfl, rfl⟩
  case stopOpen =>
    intro p s hs hrun hstart hopen
    refine Completes.dict rfl hs (by decide) fun u hu => ⟨u.updEng fun e => { e with stopReq := true }, ?_,
      (only_updEng _ _).mono (by decide), fun w hw ha => ⟨ha, ?_⟩⟩
    · rw [stopAct_requests (hu.stopped.trans hrun) (by rw [hu.eng, hstart]), State.tryStop_open]
      · rfl
      · exact (congrArg Eng.closed hu.eng).trans hopen
    · rw [hw.eng, ← hu.eng]
      rfl
  case fenceClear =>
    intro p s hs hheld
    have hids : s.heldIds = [] := by simp only [State.heldIds, hheld, List.map_nil]
    exact Completes.dict rfl hs (by decide) fun u hu =>
      ⟨u, if_pos (by rw [hu.heldIds, hids]; rfl), .refl _ _, fun _ _ ha => ha⟩
  case fenceHeld =>
    intro p s hs hheld
    have hids : ¬ s.heldIds.isEmpty = true := by simpa [State.heldIds] using hheld
    refine Completes.dictWait rfl hs (by decide) fun u hu => ⟨u, ?_, .refl _ _, fun _ _ ha => ha⟩
    rw [fenceAct, hu.heldIds]
    exact if_neg hids
  case fenceTimeout =>
    intro p ids s hclk hwait
    have h : exec (.stepFenceTimeout p) s = .next (s.answer (sender p) .timeout false []) := by
      refine congrArg Host.Outcome.next ((State.clk_on hclk).trans ?_)
      rw [hwait]
    exact ⟨_, h, only_answer _ _ _ _ _, State.answered_answer _ _ _ _ _⟩
  case period =>
    intro p v s hs hlo hhi heven
    refine Completes.dictOk (only_periodAct _) rfl hs (by decide) (by decide) fun u hu _ =>
      ⟨_, periodAct_ok hlo hhi heven, fun w hw ha => ?_⟩
    refine ⟨ha, ?_, fun k hk hshort => ?_⟩
    · rw [hw.rn, State.rn_def, State.rd_setPeriod_of_ne_short _ _ (by decide)]
      exact State.rn_wn_lt u rPeriod (by omega)
    · rw [hw.rd, State.rd_setPeriod_of_ne_short _ _ hshort, State.rd_wn_ne _ _ hk, hu.rd]
  case deadline =>
    intro s hclk htimes hwarn hround hopen
    have h : exec .stepDeadline s =
        .next (s.updEng fun e => { e with timer := max e.timer (s.rn rPeriod / 2) }).placeDeadline :=
      congrArg Host.Outcome.next ((State.clk_on hclk).trans (if_pos htimes))
    refine ⟨_, h, (only_updEng _ _).trans (only_placeDeadline _), ?_⟩
    rw [State.placeDeadline_open (by exact hwarn) (by exact hround) (by exact hopen)]
    rfl
  case source =>
    intro src s hclk htime hsrc hne hdeadline hwarn hround hopen
    have h : exec (.stepSourceEvent src) s = .next s.placeDeadline := by
      refine congrArg Host.Outcome.next ((State.clk_on hclk).trans ?_)
      rw [State.stepSource_named htime hsrc hne, hdeadline]
      rfl
    refine ⟨_, h, only_placeDeadline _, ?_⟩
    rw [State.placeDeadline_open hwarn hround hopen]
    rfl
  case sourceExtra =>
    intro src s hclk htime hsrc hne hdeadline
    have h : exec (.stepSourceEvent src) s = .next (s.bump (rk 0 0x3C06 2)) := by
      refine congrArg Host.Outcome.next ((State.clk_on hclk).trans ?_)
      rw [State.stepSource_named htime hsrc hne]
      exact if_neg (by simpa using hdeadline)
    exact ⟨_, h, only_bump _ _, State.rn_bump _ _, fun k hk => State.rd_bumpBy_ne _ _ _ hk⟩

end Sys2Proof.Machine
end

section
/-! PROOF. The sequence of a step: SETTLE, its acknowledgements, OPEN, and the closure waves (02 R45, R49, R63 to R68,
    R86). -/

namespace Sys2Proof.Machine

/-! The settle round while acknowledgements come in -/

/-- A settle round is in progress, and its step, acknowledgements and peers are those of r. -/
def State.Settles (s : State) (r : Round) : Prop :=
  ∃ q : Round, s.eng.round = some q ∧ q.step = r.step ∧ q.acked = r.acked ∧ q.peers = r.peers

section
variable {s : State} {r : Round}

theorem State.Settles.of_round (h : s.eng.round = some r) : s.Settles r := ⟨r, h, rfl, rfl, rfl⟩

theorem State.Settles.of_only {W : List Part} {t : State} (h : s.Settles r) (ho : Only W s t)
    (hw : W.contains .eng = false) : t.Settles r := by
  obtain ⟨q, hq, hrest⟩ := h
  exact ⟨q, (congrArg Eng.round (ho.same .eng hw)).trans hq, hrest⟩

/-- Changing the other fields of the round. -/
theorem State.Settles.updRound (h : s.Settles r) {f : Round → Round}
    (hf : ∀ q, (f q).step = q.step ∧ (f q).acked = q.acked ∧ (f q).peers = q.peers) : (s.updRound f).Settles r := by
  obtain ⟨q, hq, hstep, hacked, hpeers⟩ := h
  obtain ⟨fstep, facked, fpeers⟩ := hf q
  exact ⟨f q, congrArg (Option.map f) hq, fstep.trans hstep, facked.trans hacked, fpeers.trans hpeers⟩

theorem State.Settles.latchCore (h : s.Settles r) (k : Nat) : (s.latchCore k).Settles r := by
  have hlate := h.updRound (f := fun q => { q with late := q.late.filter fun n => decide (n ≠ k) }) fun _ => ⟨rfl, rfl, rfl⟩
  unfold State.latchCore
  dsimp only
  split
  · exact hlate.of_only (only_updCore _ _ _) (by decide)
  · exact hlate

/-- The latches and commits that a tile's cores still take leave the round as it is. -/
theorem State.Settles.finishTile (h : s.Settles r) (t : Nat) : (s.finishTile t).Settles r := by
  unfold State.finishTile
  refine List.foldlRecOn (motive := fun u : State => u.Settles r) _ _ h fun u hu k _ => ?_
  extract_lets v
  have hv : v.Settles r := by
    unfold v
    split
    · exact hu.latchCore k
    · exact hu
  split
  · exact hv
  · exact hv.of_only (only_applyDue _ _) (by decide)

/-- Waiting for OPEN changes neither what the round has collected nor a STOP asked for. -/
theorem State.Settles.holdRound (h : s.Settles r) :
    s.holdRound.Settles r ∧ s.holdRound.eng.stopReq = s.eng.stopReq := by
  obtain ⟨q, hq, hrest⟩ := h
  unfold State.holdRound
  simp only [hq]
  split
  · split
    · refine ⟨⟨{ q with split := true }, ?_, hrest⟩, ?_⟩ <;> rw [State.eng_post] <;> rfl
    · exact ⟨⟨q, hq, hrest⟩, rfl⟩
  · exact ⟨⟨q, hq, hrest⟩, rfl⟩

theorem State.Settles.sendSack (h : s.Settles r) : s.sendSack.Settles r := by
  obtain ⟨q, hq, hrest⟩ := id h
  unfold State.sendSack
  simp only [hq]
  split
  · obtain ⟨q', hq', hrest'⟩ := (h.of_only (only_sendVc2 s _ _) (by decide)).updRound
      (f := fun p => { p with sent := some (s.ownReconf q) }) fun _ => ⟨rfl, rfl, rfl⟩
    exact ⟨q', hq', hrest'⟩
  · exact h

/-- A node whose boundary work is done joins those that have acknowledged (R68). -/
theorem State.takeSack_node (hround : s.eng.round = some r) {n : Nat} (hwork : r.work = true)
    (hready : 70 ≤ n ∨ s.tileSettled n = true) :
    (s.takeSack (.node n)).Settles { r with acked := addNew n r.acked } := by
  have hmay : (r.work && (decide (70 ≤ n) || s.tileSettled n)) = true := by simpa [hwork] using hready
  have htile : (if n < 70 then s.finishTile n else s).Settles r := by
    split
    · exact (State.Settles.of_round hround).finishTile n
    · exact .of_round hround
  have hacked : ((if n < 70 then s.finishTile n else s).updRound fun q => { q with acked := addNew n q.acked }).Settles
      { r with acked := addNew n r.acked } := by
    obtain ⟨q, hq, hstep, hacked, hpeers⟩ := htile
    exact ⟨_, congrArg (Option.map _) hq, hstep, congrArg (addNew n) hacked, hpeers⟩
  simp only [State.takeSack, hround, hmay, if_true]
  exact hacked.holdRound.1.sendSack

/-- Another member's acknowledgement enters its reconfiguration state and any divergence that it reports (R65, R86). -/
theorem State.takeSack_device (hround : s.eng.round = some r) (hlead : s.leads = true) {d : Nat}
    (hmem : s.isMember d = true) (hd : d ≠ s.dev) (rc : BitVec 2) (dv : Bool) :
    (s.takeSack (.device d rc dv)).Settles { r with peers := (d, rc) :: r.peers.filter fun q => decide (q.1 ≠ d) } ∧
      (s.takeSack (.device d rc dv)).eng.stopReq = (s.eng.stopReq || dv) := by
  have hmay : (s.leads && s.isMember d && decide (d ≠ s.dev)) = true := by simp [hlead, hmem, hd]
  simp only [State.takeSack, hround, hmay, if_true]
  exact State.Settles.holdRound ⟨_, rfl, rfl, rfl, rfl⟩

end

theorem mem_addNew_self (n : Nat) (l : List Nat) : n ∈ addNew n l := by
  unfold addNew
  split
  case isTrue h => simpa using h
  case isFalse => simp

theorem mem_addNew_of_mem {m : Nat} (n : Nat) {l : List Nat} (h : m ∈ l) : m ∈ addNew n l := by
  unfold addNew
  split
  · exact h
  · simp [h]

/-! OPEN -/

/-- The cores and the engine at OPEN(j), before FIRE may end (Table 2.8, R49). -/
def State.openAll (s : State) (j : W64) : State :=
  { s with
    cores := s.cores.map fun (q : Nat × Core) => (q.1, { openCore (s.tileLive (q.1 / 136)) q.2 with undo := none }),
    eng :=
      { s.eng with
        phase := if s.eng.deadline.isSome then .dusk else .fire, count := j, starting := false, round := none,
        heldAt := none } }

/-- What a leader sends the other members before its own units open the step. -/
def State.sendOpen (s : State) (j : W64) : State :=
  if s.leads then s.broadcast [vc2Flit 12 (j.toNat % 2 ^ 56)] else s

/-- OPEN of a round without a commit, for which nothing was held. -/
theorem State.openTo_plain {s : State} {r : Round} (j : W64) (hcommit : r.commit = none) (hheld : s.eng.heldAt = none) :
    s.openTo j r = ((s.sendOpen j).openAll j).phaseStep := by
  unfold State.openTo
  rw [hheld, hcommit]
  rfl

theorem only_sendOpen (s : State) (j : W64) : Only [.nodes] s (s.sendOpen j) := by
  unfold State.sendOpen
  split
  · exact only_broadcast _ _
  · exact .refl _ _

section
variable {s : State} {r : Round} (j : W64) (hcommit : r.commit = none) (hheld : s.eng.heldAt = none)
include hcommit hheld

theorem only_openTo_plain : Only [.eng, .cores, .nodes] s (s.openTo j r) := by
  rw [State.openTo_plain j hcommit hheld]
  exact .chain (only_phaseStep _) (by decide) <|
    .chain (Only.set_eng_cores (s.sendOpen j) _ _) (by decide) ((only_sendOpen s j).mono (by decide))

/-- The engine after OPEN(j). -/
theorem State.eng_openTo_plain :
    (s.openTo j r).eng.count = j ∧ (s.openTo j r).eng.round = none ∧ (s.openTo j r).eng.starting = false := by
  rw [State.openTo_plain j hcommit hheld, State.eng_phaseStep]
  exact ⟨rfl, rfl, rfl⟩

/-- A RUNNING or READY core of a live tile starts its pass at OPEN (03 R118, R125). -/
theorem State.core_openTo_plain {k : Nat} (hstate : (s.core k).state = .running ∨ (s.core k).state = .ready)
    (hlive : s.tileLive (k / 136) = true) :
    (s.openTo j r).core k =
      { s.core k with state := .running, pass := .run, pc := BitVec.ofNat 8 (s.core k).stbBase,
                      passDone := false, rep := none, undo := none } := by
  have hsent := only_sendOpen s j
  have hswap : (s.sendOpen j).swap = s.swap := hsent.same .swap (by decide)
  have hlive' : (s.sendOpen j).tileLive (k / 136) = true := by
    rw [State.tileLive, State.domUp, hsent.rnEq (by decide), hswap]
    exact hlive
  have hopen : ((s.sendOpen j).openAll j).core k =
      { openCore ((s.sendOpen j).tileLive (k / 136)) ((s.sendOpen j).core k) with undo := none } :=
    Tab.get_map Core.reset (fun k c => { openCore ((s.sendOpen j).tileLive (k / 136)) c with undo := none }) rfl _
  rw [State.openTo_plain j hcommit hheld, (only_phaseStep _).coreEq (by decide), hopen, hlive',
    hsent.coreEq (by decide), openCore, if_pos hstate]
  rfl

end

/-- A follower that agrees on the step reports no divergence. -/
theorem State.checkDiverge_agreed (s : State) : s.checkDiverge s.nextStep = s := if_pos rfl

/-! Closure waves -/

/-- The SENT and ACC sums of a wave of the open step, over this device and the others (R63). -/
def State.waveSent (s : State) (ps : List WaveIn) : BitVec 48 :=
  ps.foldl (fun a q => a + q.sent) (s.sumSent (s.eng.count.toNat % 4))

def State.waveAcc (s : State) (ps : List WaveIn) : BitVec 48 :=
  ps.foldl (fun a q => a + q.acc) (s.sumAcc (s.eng.count.toNat % 4))

/-- Every pass is done and the sums agree (R64). -/
def State.waveBalanced (s : State) (ps : List WaveIn) : Bool :=
  s.passesDone && ps.all (·.done) && decide (s.waveSent ps = s.waveAcc ps)

/-- The wave has been counted and, by a follower, sent to the leader. -/
def State.waveCounted (s : State) : State :=
  if (s.bump (rStep 7)).follows then
    (s.bump (rStep 7)).sendVc2 ((s.bump (rStep 7)).rn rLeader)
      ((s.bump (rStep 7)).waveFlits true (s.eng.count.toNat % 4))
  else s.bump (rStep 7)

/-- A wave of the open step has left its mark for the next one. -/
def State.waveMarked (s : State) (mark : Option (BitVec 48)) : State :=
  (s.waveCounted.updEng fun e => { e with waveCur := mark, turn := false }).phaseStep

/-- A balanced wave whose sum is that of the wave before it closes the open step (R64). -/
theorem State.runWave_open (s : State) (ps : List WaveIn) :
    s.runWave true ps =
      if s.waveBalanced ps && decide (s.eng.waveCur = some (s.waveSent ps)) then
        (s.waveMarked (if s.waveBalanced ps then some (s.waveSent ps) else none)).closeCur
      else s.waveMarked (if s.waveBalanced ps then some (s.waveSent ps) else none) := rfl

section
variable (s : State) (mark : Option (BitVec 48))

theorem only_waveCounted : Only [.regs, .nodes] s s.waveCounted := by
  have hbump := (only_bump s (rStep 7)).mono (W := [.regs, .nodes]) (by decide)
  unfold State.waveCounted
  split
  · exact .chain (only_sendVc2 _ _ _) (by decide) hbump
  · exact hbump

theorem only_waveMarked : Only [.regs, .eng, .nodes] s (s.waveMarked mark) :=
  .chain (only_phaseStep _) (by decide) <| .chain (only_updEng _ _) (by decide) ((only_waveCounted s).mono (by decide))

theorem State.eng_waveMarked :
    (s.waveMarked mark).eng =
      { s.eng with waveCur := mark, turn := false, phase := (s.waveMarked mark).eng.phase } := by
  have heng : s.waveCounted.eng = s.eng := (only_waveCounted s).same .eng (by decide)
  rw [State.waveMarked, State.eng_phaseStep, State.updEng, heng]

/-- STEP.WAVES counts the wave (R63). -/
theorem State.rn_waveMarked : (s.waveMarked mark).rn (rStep 7) = min (s.rn (rStep 7) + 1) (2 ^ 64 - 1) := by
  have hcount : s.waveCounted.rn (rStep 7) = (s.bump (rStep 7)).rn (rStep 7) := by
    unfold State.waveCounted
    split
    · exact (only_sendVc2 _ _ _).rnEq (by decide) _
    · rfl
  rw [State.waveMarked, (only_phaseStep _).rnEq (by decide), (only_updEng _ _).rnEq (by decide), hcount, State.rn_bump]

end

/-- Closure of the open step where neither VWARN nor a STOP stands in the way (R49). -/
theorem State.closeCur_clear {s : State} (hwarn : s.mon.vwarn = false) (hreq : s.eng.stopReq = false) :
    s.closeCur = s.updEng fun e =>
      { e with closed := true, phase := if e.deadline.isSome then e.phase else .quiet } := by
  unfold State.closeCur
  rw [State.holdPhase_of_clear (by exact hwarn), State.tryStop_unasked (by exact hreq)]

/-- While only the present step is open, a wave is one of it. -/
theorem exec_wave_open {s : State} (ps : List WaveIn) (hclk : s.boot.refclk = true) (hrun : s.eng.phase ≠ .stopped)
    (hround : s.eng.round = none) (hstart : s.eng.starting = false) (hopen : s.eng.closed = false)
    (hprev : s.eng.prev = false) : exec (.wave ps) s = .next (s.runWave true ps) :=
  congrArg Host.Outcome.next ((State.clk_on hclk).trans (if_pos (by simp [hrun, hround, hstart, hopen, hprev])))

/-- Settles O19: each of the four commands comes down to its operation on the engine, whose own laws give the rest. -/
theorem stepSequence : Obligations.StepSequence := by
  refine ⟨?settle, ?settleFrom, ?sackNode, ?sackDevice, ?openOwn, ?openFrom, ?closes, ?unbalanced⟩
  case settle =>
    intro s hclk hready hwarn
    have h : exec (.settle none) s = .next (s.settleTo s.nextStep) := by
      refine congrArg Host.Outcome.next ((State.clk_on hclk).trans ((if_pos hready).trans ?_))
      rw [hwarn]
      rfl
    obtain ⟨r, hstep, -, hacked, hround, hphase, hsettled, htag, htimer, hdeadline, -, -, hcount, -⟩ :=
      State.eng_settleTo s s.nextStep hwarn
    exact ⟨_, h, only_settleTo _ _, r, hround, hstep, hacked, hphase, hsettled, htag, htimer, hdeadline, hcount⟩
  case settleFrom =>
    intro j s hclk hfollow hround hwarn
    have h : exec (.settle (some j)) s =
        .next (if s.stopped then (s.settleTo j).sendJoins else s.settleTo j) :=
      congrArg Host.Outcome.next ((State.clk_on hclk).trans (if_pos (by simp [hfollow, hround])))
    have heng : (if s.stopped then (s.settleTo j).sendJoins else s.settleTo j).eng = (s.settleTo j).eng := by
      split
      · exact (only_sendJoins _).same .eng (by decide)
      · rfl
    obtain ⟨r, hstep, -, hacked, hr, hphase, hsettled, htag, htimer, hdeadline, -, -, hcount, -⟩ :=
      State.eng_settleTo s j hwarn
    refine ⟨_, h, .ite (.chain (only_sendJoins _) (by decide) (only_settleTo s j)) (only_settleTo s j), r, ?_⟩
    rw [heng]
    exact ⟨hr, hstep, hacked, hphase, hsettled, htag, htimer, hdeadline, hcount⟩
  case sackNode =>
    intro n r s hclk hround hwork hready
    have h : exec (.sack (.node n)) s = .next (s.takeSack (.node n)) := congrArg Host.Outcome.next (State.clk_on hclk)
    obtain ⟨q, hq, hstep, hacked, -⟩ := State.takeSack_node hround hwork hready
    exact ⟨_, h, only_takeSack _ _, q, hq, hstep, hacked ▸ mem_addNew_self n r.acked,
      fun m hm => hacked ▸ mem_addNew_of_mem n hm⟩
  case sackDevice =>
    intro d rc dv r s hclk hround hlead hmem hd
    have h : exec (.sack (.device d rc dv)) s = .next (s.takeSack (.device d rc dv)) :=
      congrArg Host.Outcome.next (State.clk_on hclk)
    obtain ⟨⟨q, hq, -, -, hpeers⟩, hstop⟩ := State.takeSack_device hround hlead hmem hd rc dv
    exact ⟨_, h, only_takeSack _ _, ⟨q, hq, hpeers ▸ List.mem_cons_self⟩, hstop⟩
  case openOwn =>
    intro r s hclk hround hlead hacked hloading hsplit hcommit hheld
    have h : exec (.openStep none) s = .next (s.openTo r.step r) := by
      refine congrArg Host.Outcome.next ((State.clk_on hclk).trans ?_)
      simp only [hround, hlead, hacked, hloading, hsplit, Bool.not_false, Bool.and_self, if_true]
    obtain ⟨hcount, hnone, hstart⟩ := State.eng_openTo_plain r.step hcommit hheld
    exact ⟨_, h, only_openTo_plain _ hcommit hheld, hcount, hnone, hstart,
      fun k => State.core_openTo_plain r.step hcommit hheld⟩
  case openFrom =>
    intro r s hclk hround hfollow hacked hcommit hheld
    have h : exec (.openStep (some s.nextStep)) s = .next (s.openTo s.nextStep r) := by
      refine congrArg Host.Outcome.next ((State.clk_on hclk).trans ?_)
      simp only [hround, hfollow, hacked, Bool.and_self, if_true, State.checkDiverge_agreed]
    exact ⟨_, h, only_openTo_plain _ hcommit hheld, State.eng_openTo_plain s.nextStep hcommit hheld⟩
  case closes =>
    intro ps s hclk hrun hround hstart hopen hprev hreq hwarn hdone hall sent hsum hlast
    have hbalanced : s.waveBalanced ps = true := by
      simp only [State.waveBalanced, hdone, List.all_eq_true.mpr hall, Bool.and_self, Bool.true_and]
      exact decide_eq_true hsum
    have hmark := only_waveMarked s (some sent)
    have hclose : (s.waveMarked (some sent)).closeCur = (s.waveMarked (some sent)).updEng fun e =>
        { e with closed := true, phase := if e.deadline.isSome then e.phase else .quiet } :=
      State.closeCur_clear (by rw [hmark.same .mon (by decide)]; exact hwarn) (by rw [State.eng_waveMarked]; exact hreq)
    have h : exec (.wave ps) s = .next (s.waveMarked (some sent)).closeCur := by
      rw [exec_wave_open ps hclk hrun hround hstart hopen hprev, State.runWave_open, hbalanced]
      exact congrArg Host.Outcome.next (if_pos (decide_eq_true hlast))
    rw [hclose] at h
    refine ⟨_, h, .chain (only_updEng _ _) (by decide) hmark, rfl, fun hdeadline => ?_, ?_⟩
    · have hnone : (s.waveMarked (some sent)).eng.deadline = none := by rw [State.eng_waveMarked]; exact hdeadline
      simp only [State.updEng, hnone, Option.isSome_none, Bool.false_eq_true, if_false]
    · rw [(only_updEng _ _).rnEq (by decide), State.rn_waveMarked]
  case unbalanced =>
    intro ps s hclk hrun hround hstart hopen hprev hsum
    have hbalanced : s.waveBalanced ps = false := by
      rw [State.waveBalanced, show decide (s.waveSent ps = s.waveAcc ps) = false from decide_eq_false hsum, Bool.and_false]
    have h : exec (.wave ps) s = .next (s.waveMarked none) := by
      rw [exec_wave_open ps hclk hrun hround hstart hopen hprev, State.runWave_open, hbalanced]
      rfl
    refine ⟨_, h, only_waveMarked s none, ?_, ?_, State.rn_waveMarked s none⟩ <;> rw [State.eng_waveMarked]
    exact hopen

end Sys2Proof.Machine
end

section
/-! PROOF. What a core takes in and hands out: its NI's copies and delay rings (04 R152, R155, R157), its input buffer
    (03 R111, 02 R44), its emitter (03 R109, 04 R147), the end of its pass (02 R50), and MIDNIGHT (06 R199, R207). -/

namespace Sys2Proof.Machine

/-! Delay rings and what the NI holds -/

theorem Mem.rd_wr64_out (m : Mem) {a x : Nat} (v : W64) (h : x < a ∨ a + 8 ≤ x) : (m.wr64 a v).rd x = m.rd x :=
  Mem.rd_wrBytes_out m a _ (by rw [leBytes_length]; exact h)

/-- A domain that works is not in OFF. -/
theorem State.tileOff_of_domUp {s : State} {t : Nat} (h : s.domUp t = true) : s.tileOff t = false := by
  simp only [State.domUp, Bool.or_eq_true, decide_eq_true_eq] at h
  exact decide_eq_false (by omega)

/-- A NI that holds nothing has nothing to hand on. -/
theorem State.pumpTile_nil {s : State} {t : Nat} (h : (s.tile t).copies = []) :
    s.pumpTile t = s.updTile t fun d => { d with copies := [] } := by
  rw [State.pumpTile, h]
  rfl

/-- The one copy that a NI holds goes where it belongs, and its item has ended. -/
theorem State.pumpTile_one {s u : State} {t : Nat} {q : Copy} (h : (s.tile t).copies = [q]) (hand : s.handCopy t q = some u) :
    s.pumpTile t = (u.itemEnd q.id).updTile t fun d => { d with copies := [] } := by
  rw [State.pumpTile, h, State.pump, hand]
  rfl

/-- A delay copy for a core in service goes into its ring, which has room (04 R155). -/
theorem State.handCopy_delay {s : State} {t k : Nat} {q : Copy} (hup : s.domUp t = true) (hdelay : q.delay = true)
    (hcore : s.coreOf t q.slot = some k) (hstate : (s.core k).state = .running ∨ (s.core k).state = .ready)
    (hswap : s.swappingOut t = none) (hroom : (s.ring t q.slot (flTag q.flit)).held < s.dlyDepth t) :
    s.handCopy t q = some ((s.ringPut t q).bump (rSpanCopies t)) := by
  have hserves : ¬((s.core k).state = .fenced ∨ (s.core k).state = .unconfigured ∨ s.tileOff t = true) := by
    rw [State.tileOff_of_domUp hup]
    rcases hstate with h | h <;> simp [h]
  simp only [State.handCopy, hcore, if_neg hserves, hdelay, if_true, hswap, if_pos hroom]

section
variable (s : State) (t : Nat) (q : Copy)

/-- Where the next entry of the ring of copy q stands in the TSM (04 R154). -/
def State.ringNext : Nat :=
  s.ringAddr t q.slot (flTag q.flit)
    ((s.ring t q.slot (flTag q.flit)).head + (s.ring t q.slot (flTag q.flit)).held)

/-- Tile t with copy q at the end of its ring. -/
theorem State.tile_ringPut :
    (s.ringPut t q).tile t =
      { s.tile t with
        tsm := (s.tile t).tsm.wr64 (s.ringNext t q) (slotFlit q.flit q.slot),
        poison := (s.tile t).poison.filter fun b => decide (b ≠ s.ringNext t q),
        rings := Tab.put (s.tile t).rings (4 * q.slot + flTag q.flit)
          { s.ring t q.slot (flTag q.flit) with held := (s.ring t q.slot (flTag q.flit)).held + 1 } } := by
  rw [State.ringPut, (only_flightEnd _ _ _).tileEq (by decide), (only_hwm _ _ _).tileEq (by decide),
    State.tile_updTile_same]
  rfl

theorem State.tile_ringPut_ne {j : Nat} (h : j ≠ t) : (s.ringPut t q).tile j = s.tile j := by
  rw [State.ringPut, (only_flightEnd _ _ _).tileEq (by decide), (only_hwm _ _ _).tileEq (by decide),
    State.tile_updTile_ne _ _ h]

end

/-! A copy of the input buffer -/

/-- A copy that meets no residue mismatch is applied to its end. -/
theorem Core.applyCopy_completes (c : Core) (x : FireCtx) (f : W64) : (c.applyCopy x f none).2 = false := by
  unfold Core.applyCopy
  split
  · rfl
  · rfl

theorem State.applied_completes (s : State) (k fl : Nat) {r : Core × Bool} (h : r.2 = false) :
    s.applied k fl r = (s.setCore k r.1).flightSplit fl (r.1.jobs.length - (s.core k).jobs.length) := by
  simp only [State.applied, h, Bool.false_eq_true, if_false]

/-- No flit of the spill area moves up while the last place of the input buffer holds none. -/
theorem State.refill_unspilled {s : State} {k : Nat} (h : ((s.core k).inbuf[63]?).bind Copy.spill = none) :
    s.refill k = s := by
  rw [State.refill, h]

/-- A core that releases no delay ring takes the oldest copy of its input buffer (03 R111, R116). -/
theorem State.accumulate_input {s : State} {k : Nat} {q : Copy} {rest : List Copy} (hpass : (s.core k).pass ≠ .release)
    (htake : s.takesCopy k q = true) (hbuf : (s.core k).inbuf = q :: rest) (hdense : (s.core k).dn = none) :
    s.accumulate k none =
      (((s.setCore k { s.core k with inbuf := rest }).applyOn k q.flit q.flight (s.copyCtx q) none).refill k).pumpTile
        (k / 136) := by
  have hring : ((s.slotOf k).filter fun sl => decide ((s.core k).pass = .release) &&
      decide (0 < (s.ring (k / 136) sl (s.eng.count.toNat % 4)).held)) = none := by
    simp [hpass]
  have hgrant : (s.core k).grantsEvent = true := by simp [Core.grantsEvent, hdense]
  unfold State.accumulate
  simp only [hring, hbuf, htake, hgrant, hdense, Bool.and_self, if_true, Option.isSome_none, Bool.false_and,
    Bool.false_eq_true, if_false]
  rfl

/-! The emitter -/

theorem Core.jobs_stepPc (c : Core) : c.stepPc.jobs = c.jobs := by
  unfold Core.stepPc
  split
  · rw [Core.tick_eq]
  · rfl

theorem Core.jobs_advance (c : Core) : c.advance.jobs = c.jobs := by
  unfold Core.advance
  split
  · split
    · rfl
    · exact c.jobs_stepPc
  · exact c.jobs_stepPc

theorem Core.jobs_settleEpisode (c : Core) : c.settleEpisode.jobs = c.jobs := by
  unfold Core.settleEpisode
  extract_lets blocked
  split
  · rfl
  · rfl

/-- The core whose emitter has done one emission: the pass may go on, and a stall may end. -/
def Core.emitted (c : Core) : Core :=
  (if c.pass = Pass.drain ∧ !c.passJobs then { c with emitHold := false }.advance
    else { c with emitHold := false }).settleEpisode

theorem Core.jobs_emitted (c : Core) : c.emitted.jobs = c.jobs := by
  unfold Core.emitted
  rw [Core.jobs_settleEpisode]
  split
  · rw [Core.jobs_advance]
  · rfl

section
variable (s : State) (k : Nat) (j : Job) (n : Nat)

theorem State.emitEnd_eq : ∃ fl, s.emitEnd k j n = (s.flightEnd j.flight fl).setCore k (s.core k).emitted := by
  unfold State.emitEnd
  extract_lets u c c' c''
  have hc : u.core k = s.core k := by
    unfold u
    split
    · exact State.core_flightEnd _ _ _ _
    · rfl
  have hcore : c''.settleEpisode = (s.core k).emitted := by
    unfold c'' c' c
    rw [hc]
    rfl
  rw [hcore]
  unfold u
  split
  · exact ⟨1, rfl⟩
  · exact ⟨0, by rw [State.flightEnd, if_pos (.inr rfl)]⟩

/-- What the end of an emission leaves at the nodes, and what it does to the cores. -/
theorem State.node_emitEnd (m : Nat) :
    ((s.emitEnd k j n).node m).out = (s.node m).out ∧ ((s.emitEnd k j n).node m).sent = (s.node m).sent := by
  obtain ⟨fl, h⟩ := s.emitEnd_eq k j n
  rw [h, State.node_setCore]
  exact State.node_flightEnd s j.flight fl m

theorem State.jobs_emitEnd : ((s.emitEnd k j n).core k).jobs = (s.core k).jobs := by
  obtain ⟨fl, h⟩ := s.emitEnd_eq k j n
  rw [h, State.core_setCore_same, Core.jobs_emitted]

theorem State.core_emitEnd_ne {i : Nat} (hi : i ≠ k) : (s.emitEnd k j n).core i = s.core i := by
  obtain ⟨fl, h⟩ := s.emitEnd_eq k j n
  rw [h, State.core_setCore_ne _ _ hi, State.core_flightEnd]

end

/-- A flit handed to the NI waits on VC0 of its node, and counts in SENT under its tag (02 R60). -/
theorem State.node_handEvent (s : State) (k : Nat) (f : W64) :
    Tab.get [] ((s.handEvent k f).node (k / 136)).out 0 =
        Tab.get [] (s.node (k / 136)).out 0 ++ [.event (s.ids + 1) k f] ∧
      Tab.get 0 ((s.handEvent k f).node (k / 136)).sent (flTag f) =
        Tab.get 0 (s.node (k / 136)).sent (flTag f) + 1 := by
  unfold State.handEvent State.inject State.addSent
  simp only [State.node_updNode_same, Tab.get_upd_same, Item.cut_event]
  exact ⟨rfl, rfl⟩

/-- The flit that the DST word at the position of job j gives (04 R147). -/
def State.emitFlit (s : State) (k : Nat) (j : Job) : W64 :=
  let w := (s.core k).dstWord j.pos
  buildFlit w ((j.step.toNat + fld w 61 60) % 4) (s.stamp (s.core k).cgen) j.value.toInt (j.shift + fld w 23 20)

/-- The jobs once job j, whose followers are `rest`, has emitted one position. -/
def Job.next (j : Job) (rest : List Job) : List Job :=
  if j.stop ≤ j.pos + 1 then rest else { j with pos := j.pos + 1 } :: rest

/-- A position whose word names a core, within the limit of SHIFT, emits its flit (04 R147). -/
theorem State.emitOne_event {s : State} {k : Nat} {j : Job} (rest : List Job) (hread : j.readout = false)
    (hgood : dstBad ((s.core k).dstWord j.pos) s.delayLimit = false) (hevent : bit ((s.core k).dstWord j.pos) 63 = false)
    (hshift : j.shift + fld ((s.core k).dstWord j.pos) 23 20 ≤ 15) :
    s.emitOne k j rest = (s.setCore k { s.core k with jobs := j.next rest }).handEvent k (s.emitFlit k j) := by
  have hlim : decide (15 < j.shift + fld ((s.core k).dstWord j.pos) 23 20) = false := decide_eq_false (by omega)
  have hword : ¬ j.readout = true := by simp [hread]
  unfold State.emitOne
  simp only [if_neg hword, hgood, hevent, hlim, Bool.false_and, Bool.or_false, Bool.false_eq_true, if_false,
    Nat.min_eq_left hshift, decide_eq_true_eq]
  rfl

/-! The end of the pass -/

/-- Ending FIRE passes from FIRE to DELIVER or leaves the phase (02 R49). -/
theorem State.phaseStep_changes {s : State} (h : s.phaseStep.eng.phase ≠ s.eng.phase) :
    s.eng.phase = .fire ∧ s.phaseStep.eng.phase = .deliver := by
  unfold State.phaseStep at h ⊢
  split at h
  case isTrue hfire => exact ⟨hfire.1, by rw [if_pos hfire]; rfl⟩
  case isFalse => exact absurd rfl h

/-! MIDNIGHT -/

/-- A core without a commit that waits for it takes none. -/
theorem State.applyDue_none {s : State} {k : Nat} (h : (s.core k).due = none) : s.applyDue k = s := by
  simp only [State.applyDue, h]

/-- A residue mismatch leaves the core FENCED with cause 1, and no other core changes (03 R117). -/
theorem State.residue_core (s : State) {k : Nat} (mode : Nat) (hf : (s.core k).state ≠ .fenced) :
    ((s.residue k mode).core k).state = .fenced ∧ ((s.residue k mode).core k).cause = 1 ∧
      ((s.residue k mode).core k).midnight = false ∧ ∀ j, j ≠ k → (s.residue k mode).core j = s.core j := by
  unfold State.residue
  extract_lets u lcid v
  have hv (j : Nat) : v.core j = u.core j := State.core_post ..
  have hstate : (v.core k).state ≠ .fenced := by
    rw [hv, State.core_updCore_same, Core.tick_eq]
    exact hf
  obtain ⟨c, hcore, hfenced, hcause, -, -, -, -, hnight⟩ := State.fenceCore_core v k 1 hstate
  rw [hcore, if_pos rfl]
  refine ⟨hfenced, hcause, hnight, fun j hj => ?_⟩
  rw [hcore, if_neg hj, hv, State.core_updCore_ne _ _ hj]

/-- The core that MIDNIGHT leaves after its next rows. -/
def State.nightCore (s : State) (k rows : Nat) : Core := Core.nightRowsStep (s.core k).nightRows rows (s.core k)

section
variable {s : State} {k rows : Nat}

theorem State.runMidnight_eq (bad : Bool) (ticks : Nat) :
    s.runMidnight k rows bad ticks =
      if (s.nightCore k rows).nightAll then (s.setCore k (s.nightCore k rows)).nightDone k ticks
      else if bad then (s.setCore k (s.nightCore k rows)).residue k 2 else s.setCore k (s.nightCore k rows) := by
  have hcore : (s.updCore k fun c => Core.nightRowsStep c.nightRows rows c) = s.setCore k (s.nightCore k rows) := rfl
  simp only [State.runMidnight, hcore, State.core_setCore_same]

theorem State.runMidnight_more (h : (s.nightCore k rows).nightAll = false) (bad : Bool) (ticks : Nat) :
    s.runMidnight k rows bad ticks =
      if bad then (s.setCore k (s.nightCore k rows)).residue k 2 else s.setCore k (s.nightCore k rows) := by
  rw [State.runMidnight_eq, h, if_neg Bool.false_ne_true]

/-- Behind the last row stage 5 ends MIDNIGHT (06 R199). -/
theorem State.runMidnight_last (h : (s.nightCore k rows).nightAll = true) (hdue : (s.nightCore k rows).due = none)
    (hcopies : (s.tile (k / 136)).copies = []) (bad : Bool) (ticks j : Nat) :
    (s.runMidnight k rows bad ticks).core j =
      (s.setCore k ((s.nightCore k rows).nightOff s.lrn.epoch.toNat)).core j := by
  have hdue' : (((s.setCore k (s.nightCore k rows)).updCore k fun c => c.nightOff s.lrn.epoch.toNat).core k).due = none := by
    rw [State.core_updCore_same, State.core_setCore_same]
    exact hdue
  rw [State.runMidnight_eq, if_pos h, State.nightDone, (only_nightEnd _ _).coreEq (by decide), State.lrn_setCore, State.applyDue_none hdue',
    State.pumpTile_nil (by exact hcopies), State.core_updTile]
  by_cases hj : j = k
  · subst hj
    rw [State.core_updCore_same, State.core_setCore_same, State.core_setCore_same]
  · rw [State.core_updCore_ne _ _ hj, State.core_setCore_ne _ _ hj, State.core_setCore_ne _ _ hj]

end

/-- Settles O16: each command comes down to the operation that its hypotheses leave, read core by core, tile by tile and
    node by node. -/
theorem coreTraffic : Obligations.CoreTraffic := by
  refine ⟨?place, ?accumulate, ?hold, ?emit, ?passDone, ?midnight⟩
  case place =>
    intro t k q s hup hcopies hdelay hcore hstate hswap g hroom
    have h : exec (.delayRingPlace t) s = .next (s.pumpTile t) := congrArg Host.Outcome.next (if_pos hup)
    rw [State.pumpTile_one hcopies (State.handCopy_delay hup hdelay hcore hstate hswap hroom)] at h
    have htile := ((s.ringPut t q).bump (rSpanCopies t)).tile_itemEnd q.id t
    rw [State.tile_bump, State.tile_ringPut] at htile
    refine ⟨_, h, ?_, ?_, ?_, ?_, fun j hj => ?_⟩
    · exact .chain (only_updTile _ _ _) (by decide) <| .chain (only_itemEnd _ _) (by decide) <|
        .chain (only_bump _ _) (by decide) <| (only_ringPut s t q).mono (by decide)
    · rw [State.tile_updTile_same]
    · rw [State.ring, State.tile_updTile_same, htile]
      exact Tab.get_put_same _ _ _ _
    · rw [State.tile_updTile_same, htile]
      exact ⟨Mem.rd64_wr64_same _ _ _, fun b => Mem.rd_wr64_out _ _⟩
    · rw [State.tile_updTile_ne _ _ hj, State.tile_itemEnd, State.tile_bump, State.tile_ringPut_ne _ _ _ hj]
  case accumulate =>
    intro k q rest s hup hstate hpass htake hbuf hdense hcopies c hspill
    have h : exec (.eventAccumulate k none) s = .next (s.accumulate k none) :=
      congrArg Host.Outcome.next (if_pos (by simpa [hup] using hstate))
    refine ⟨_, h, only_accumulate s k none, ?_⟩
    rw [State.accumulate_input hpass htake hbuf hdense]
    have happly : (s.setCore k { s.core k with inbuf := rest }).applyOn k q.flit q.flight (s.copyCtx q) none = _ :=
      State.applied_completes _ k q.flight (Core.applyCopy_completes _ _ _)
    rw [State.core_setCore_same] at happly
    generalize (s.setCore k { s.core k with inbuf := rest }).applyOn k q.flit q.flight (s.copyCtx q) none = u at happly
    have hcore (i : Nat) : u.core i = ((s.setCore k { s.core k with inbuf := rest }).setCore k c).core i := by
      rw [happly, (only_flightSplit _ _ _).coreEq (by decide)]
    have hempty : (u.tile (k / 136)).copies = [] := by
      rw [happly, (only_flightSplit _ _ _).tileEq (by decide), State.tile_setCore, State.tile_setCore, hcopies]
    rw [State.refill_unspilled (by rw [hcore, State.core_setCore_same]; exact hspill), State.pumpTile_nil hempty]
    refine ⟨?_, fun i hi => ?_⟩
    · rw [State.core_updTile, hcore, State.core_setCore_same]
    · rw [State.core_updTile, hcore, State.core_setCore_ne _ _ hi, State.core_setCore_ne _ _ hi]
  case hold =>
    intro k j rest s hup hjobs
    refine Completes.setCore (congrArg Host.Outcome.next ((if_pos hup).trans ?_))
    simp only [State.emit, hjobs, Bool.false_eq_true, if_false]
  case emit =>
    intro k j rest s hup hjobs hread w f hgood hevent hshift
    have h : exec (.emit k true) s = .next (s.emit k true) := congrArg Host.Outcome.next (if_pos hup)
    refine ⟨_, h, only_emit s k true, ?_⟩
    have hemit : s.emit k true = (s.emitOne k j rest).emitEnd k j (s.core k).jobs.length := by
      simp only [State.emit, hjobs, if_true]
    rw [hemit, State.emitOne_event rest hread hgood hevent hshift]
    generalize hs' : s.setCore k { s.core k with jobs := j.next rest } = s'
    obtain ⟨hout, hsent⟩ := (s'.handEvent k f).node_emitEnd k j (s.core k).jobs.length (k / 136)
    obtain ⟨hout', hsent'⟩ := s'.node_handEvent k f
    subst hs'
    refine ⟨?_, ?_, ?_, fun i hi => ?_⟩
    · exact (congrArg (Tab.get [] · 0) hout).trans hout'
    · exact (congrArg (Tab.get 0 · (flTag f)) hsent).trans hsent'
    · rw [State.jobs_emitEnd, (only_handEvent _ _ _).coreEq (by decide), State.core_setCore_same]
      rfl
    · rw [State.core_emitEnd_ne _ _ _ _ hi, (only_handEvent _ _ _).coreEq (by decide), State.core_setCore_ne _ _ hi]
  case passDone =>
    intro k s hready hround
    have h : exec (.passDone k) s =
        .next (s.updCore k fun c => { c with pass := .done, passDone := true }).phaseStep := by
      refine congrArg Host.Outcome.next ((if_pos hready).trans ?_)
      have hlate : ((s.updCore k fun c => { c with pass := .done, passDone := true }).eng.round.any fun r =>
          r.work && r.late.contains k) = false := congrArg (Option.any _) hround
      simp only [hlate, Bool.false_eq_true, if_false]
    refine ⟨_, h, .chain (only_phaseStep _) (by decide) ((only_updCore _ _ _).mono (by decide)), ?_, fun j hj => ?_,
      State.phaseStep_changes⟩
    · rw [(only_phaseStep _).coreEq (by decide), State.core_updCore_same]
    · rw [(only_phaseStep _).coreEq (by decide), State.core_updCore_ne _ _ hj]
  case midnight =>
    intro k rows ticks s hnight hwarn c
    have h (bad : Bool) : exec (.midnight k ⟨rows, bad⟩ ticks) s = .next (s.runMidnight k rows bad ticks) :=
      congrArg Host.Outcome.next (if_pos (by rw [hnight, hwarn]; rfl))
    refine ⟨fun hmore => ?_, fun hlast hdue hcopies => ?_, fun hmore hstate => ?_⟩
    · exact Completes.setCore ((h false).trans (congrArg Host.Outcome.next (State.runMidnight_more hmore false ticks)))
    · refine ⟨_, h false, only_runMidnight _ _ _ _ _, ?_, fun j hj => ?_⟩
      · rw [State.runMidnight_last hlast hdue hcopies, State.core_setCore_same]
        rfl
      · rw [State.runMidnight_last hlast hdue hcopies, State.core_setCore_ne _ _ hj]
    · obtain ⟨hfenced, hcause, hoff, hothers⟩ := (s.setCore k c).residue_core 2 (by rwa [State.core_setCore_same])
      refine ⟨_, h true, only_runMidnight _ _ _ _ _, ?_⟩
      rw [State.runMidnight_more hmore]
      exact ⟨hfenced, hcause, hoff, fun j hj => (hothers j hj).trans (State.core_setCore_ne _ _ hj)⟩

end Sys2Proof.Machine
end

section
/-! PROOF. The memories of the reset state (03 R128, 12 R398). -/

namespace Sys2Proof.Machine

/-- The memories of a core after a device reset have their canonical form. -/
theorem Core.wf_reset : Core.reset.mem.wf := by decide

/-- Settles O5: the reset state lists no unit, so each reads as its reset value, whose memories are empty but for the
    window of a core. -/
theorem resetIsCanonical : Obligations.ResetIsCanonical :=
  ⟨Mem.wf_nil, Mem.wf_nil, fun _ => Mem.wf_nil, fun _ => Core.wf_reset, fun _ => Mem.wf_nil, rfl⟩

end Sys2Proof.Machine
end

section
/-! PROOF. The commands on cores and on learning, and writes into the window of a core (03 R88, R126, R127, R482; 02 R80;
    06 R206, R209). -/

namespace Sys2Proof.Machine

section
variable {s u : State} (h : s.PathEq u)
include h

theorem State.PathEq.selCore (p : Path) : u.selCore p = s.selCore p := by obtain ⟨X, rfl⟩ := h; rfl
theorem State.PathEq.inNight : u.inNight = s.inNight := by obtain ⟨X, rfl⟩ := h; rfl
theorem State.PathEq.nightCores : u.nightCores = s.nightCores := by obtain ⟨X, rfl⟩ := h; rfl
theorem State.PathEq.lcidOf (k : Nat) : u.lcidOf k = s.lcidOf k := by obtain ⟨X, rfl⟩ := h; rfl

end

/-! CORE.CMD -/

theorem coreFenceAct_selected {s : State} {p : Path} {k : Nat} (h : s.selCore p = some k) :
    coreFenceAct p s = okAct (s.fenceCore k 4).phaseStep := by
  simp only [coreFenceAct, h]

theorem coreReleaseAct_fenced {s : State} {p : Path} {k : Nat} (h : s.selCore p = some k)
    (hf : (s.core k).state = .fenced) : coreReleaseAct p s = okAct (s.updCore k Core.released) := by
  simp only [coreReleaseAct, h]
  exact guardAct_ok (guard_nil (by simp [hf]))

/-! The start of MIDNIGHT -/

theorem State.midnight_startMidnight (s : State) (k gap : Nat) : ((s.startMidnight k gap).core k).midnight = true := by
  rw [State.startMidnight, (only_updRound _ _).coreEq rfl, State.core_updCore_same]

theorem State.core_startMidnight_ne (s : State) {k j : Nat} (gap : Nat) (h : j ≠ k) :
    (s.startMidnight k gap).core j = s.core j := by
  rw [State.startMidnight, (only_updRound _ _).coreEq rfl, State.core_updCore_ne _ _ h]

/-- MIDNIGHT begins on each core of a list, as LRN.CMD = 1 begins it on the cores that learn (R209). -/
def State.startNights (s : State) (l : List Nat) : State :=
  l.foldl (fun s k => s.startMidnight k ((s.core k).epochGap s.lrn.epoch.toNat)) s

theorem State.startNights_cons (s : State) (k : Nat) (l : List Nat) :
    s.startNights (k :: l) = (s.startMidnight k ((s.core k).epochGap s.lrn.epoch.toNat)).startNights l := by
  rw [State.startNights, List.foldl_cons, ← State.startNights]

theorem State.nightNow_eq (s : State) :
    s.nightNow = { s.startNights s.nightCores with
      lrn := { (s.startNights s.nightCores).lrn with epoch := (s.startNights s.nightCores).lrn.epoch + 1 } } := rfl

theorem State.lrn_startNights (s : State) (l : List Nat) : (s.startNights l).lrn = s.lrn :=
  (Only.foldl (.refl [.eng, .cores] s) fun _ _ h => .chain (only_startMidnight _ _ _) rfl h).same .lrn rfl

theorem State.core_startNights_notMem (l : List Nat) {s : State} {k : Nat} (h : k ∉ l) :
    (s.startNights l).core k = s.core k := by
  induction l generalizing s with
  | nil => rfl
  | cons a l ih =>
    obtain ⟨hne, hl⟩ := not_or.mp (mt List.mem_cons.mpr h)
    rw [State.startNights_cons, ih hl, State.core_startMidnight_ne s _ hne]

theorem State.midnight_startNights (l : List Nat) {s : State} {k : Nat} (h : k ∈ l) :
    ((s.startNights l).core k).midnight = true := by
  induction l generalizing s with
  | nil => cases h
  | cons a l ih =>
    rw [State.startNights_cons]
    by_cases hl : k ∈ l
    · exact ih hl
    · obtain rfl : k = a := (List.mem_cons.mp h).resolve_right hl
      rw [State.core_startNights_notMem l hl, State.midnight_startMidnight]

theorem State.lrn_nightNow (s : State) : s.nightNow.lrn = { s.lrn with epoch := s.lrn.epoch + 1 } := by
  rw [State.nightNow_eq, State.lrn_startNights]

/-- The rows that the cores do at once leave LRN as the start of MIDNIGHT has it. -/
theorem State.lrn_nightStart (s : State) (w : Work) (ticks : Nat) :
    (s.nightStart w ticks).lrn = { s.lrn with epoch := s.lrn.epoch + 1 } := by
  rw [← State.lrn_nightNow]
  unfold State.nightStart
  split
  case isTrue => rfl
  case isFalse =>
    exact (Only.foldl (.refl [.regs, .boot, .cores, .tiles, .nodes, .paths, .log, .flights, .live, .free] s.nightNow)
      fun _ _ h => .chain (only_runMidnight _ _ _ _ _) rfl h).same .lrn rfl

/-- A core in MIDNIGHT keeps the span of MIDNIGHT open (R199). -/
theorem State.inNight_of_core {s : State} {k : Nat} (h : (s.core k).midnight = true) : s.inNight = true := by
  by_contra hn
  have hcores : s.midnights = false := (Bool.or_eq_false_iff.mp (Bool.eq_false_of_not_eq_true hn)).1
  have hoff : (s.core k).midnight = false :=
    Tab.get_mem Core.reset (fun c => c.midnight = false) rfl (fun e he => by simpa using List.any_eq_false.mp hcores e he) k
  exact Bool.false_ne_true (hoff.symm.trans h)

/-- With no core to run, MIDNIGHT ends as it begins. -/
theorem State.inNight_nightNow_idle {s : State} (hnone : s.nightCores = []) (hround : s.eng.round = none)
    (hnight : s.inNight = false) : s.nightNow.inNight = false := by
  rw [State.nightNow_eq, hnone]
  refine Bool.or_eq_false_iff.mpr ⟨(Bool.or_eq_false_iff.mp hnight).1, ?_⟩
  simp only [State.nightWaits, State.startNights, List.foldl_nil, hround]

theorem State.inNight_nightNow {s : State} (h : s.nightCores ≠ []) : s.nightNow.inNight = true := by
  obtain ⟨k, hk⟩ := List.exists_mem_of_ne_nil _ h
  exact State.inNight_of_core (s := s.nightNow) (k := k) (State.midnight_startNights _ hk)

/-! LRN.CMD -/

theorem lrnMidnightAct_running {s : State} (w : Work) (ticks : Nat) (h : s.stopped = false) :
    lrnMidnightAct w ticks s = okAct { s with lrn := { s.lrn with pend := true } } := by
  simp only [lrnMidnightAct, h, Bool.not_false, if_true]

/-- On a stopped device in which no MIDNIGHT runs, VWARN holds the command, and without it MIDNIGHT begins (R206, R209). -/
theorem lrnMidnightAct_stopped {s : State} (w : Work) (ticks : Nat) (hstop : s.stopped = true) (hswap : s.swap = none)
    (hnight : s.inNight = false) :
    lrnMidnightAct w ticks s =
      if s.mon.vwarn then .wait .lrnHeld s
      else if (s.nightStart w ticks).inNight then .wait .lrn (s.nightStart w ticks) else okAct (s.nightStart w ticks) := by
  simp only [lrnMidnightAct, hstop, Bool.not_true, Bool.false_eq_true, if_false]
  rw [guardAct_ok (guard_nil (by simp [hswap]))]
  simp only [hnight, Bool.false_eq_true, if_false]

/-- LRN.CMD = 1 that begins MIDNIGHT leaves the state u in which it has begun, and answers, or waits while the span of
    MIDNIGHT is open (R209). -/
theorem completes_lrnCmdMidnight {W : List Part} {p : Path} {w : Work} {ticks : Nat} {s u : State} {Q : State → Prop}
    (hs : s.serves p false 0x4400 3 = true) (hstop : s.stopped = true) (hswap : s.swap = none)
    (hnight : s.inNight = false) (hwarn : s.mon.vwarn = false) (hu : (s.opened p 2 0x4400 3 [1]).nightStart w ticks = u)
    (hw : W.contains .paths = true) (ho : Only W (s.opened p 2 0x4400 3 [1]) u)
    (q : ∀ t, u.PathEq t → (u.inNight = false → t.answered p .ok false []) → (u.inNight = true → t.waits p .lrn) → Q t) :
    Completes W (.lrnCmdMidnight p w ticks) s Q := by
  have hact := lrnMidnightAct_stopped (s := s.opened p 2 0x4400 3 [1]) w ticks hstop hswap hnight
  rw [if_neg (by exact ne_true_of_eq_false hwarn), hu] at hact
  cases hopen : u.inNight
  case false =>
    rw [hopen] at hact
    exact Completes.done rfl hs hact hw ho (q _ ⟨⟨_, rfl⟩⟩ (fun _ => State.answered_answer ..) (by simp [hopen]))
  case true =>
    rw [hopen] at hact
    exact Completes.wait rfl hs hact hw ho (q _ ⟨⟨_, rfl⟩⟩ (by simp [hopen]) fun _ => State.waits_updPath ..)

/-! A write of one word of a window -/

/-- A write of a whole word replaces every byte of it. -/
theorem mergeWord_whole (w : W64) (a : Nat) {data : Bytes} (h : data.length = 8) :
    mergeWord w a a data = w64 (leNat data) := by
  have hbytes : ((List.range 8).map fun i =>
      let p := a + i
      if a ≤ p ∧ p < a + data.length then data.getD (p - a) 0 else BitVec.ofNat 8 (w.toNat / 2 ^ (8 * i) % 256)) = data := by
    refine List.ext_getElem (by simp [h]) fun i _ hi => ?_
    simp [hi, List.getD_eq_getElem?_getD]
  exact congrArg (fun b => w64 (leNat b)) hbytes

theorem wordsOf_aligned {a : Nat} (h : a % 8 = 0) : wordsOf a 8 = [a] := by
  have hone : (a + 8 - 1) / 8 - a / 8 + 1 = 1 := by omega
  have hbase : (a / 8 + 0) * 8 = a := by omega
  simp only [wordsOf, hone, List.range_one, List.map_cons, List.map_nil, hbase]
  rfl

theorem granules_aligned {a : Nat} (h : a % 8 = 0) : granules a 8 = [a / 64 * 64] := by
  have hone : (a + 8 - 1) / 64 - a / 64 + 1 = 1 := by omega
  simp only [granules, hone, List.range_one, List.map_cons, List.map_nil, Nat.add_zero]
  rfl

/-- A write of one aligned word whose place is the window of a core touches no other window. -/
theorem windowParts_word {s : State} {a k off : Nat} {data : Bytes} (hal : a % 8 = 0) (hlen : data.length = 8)
    (hplace : s.placeOf a = .core k off) : windowParts s a data = [(k, off, data)] := by
  have hlo : max a (a / 64 * 64 / 0x20000 * 0x20000) = a := by omega
  have hhi : min (a + 8) ((a / 64 * 64 / 0x20000 + 1) * 0x20000) = a + 8 := by omega
  have hwin : [a / 64 * 64].foldl (fun (l : List Nat) g => addNew (g / 0x20000) l) [] = [a / 64 * 64 / 0x20000] := rfl
  have hall : data.take (a + 8 - a) = data := List.take_of_length_le (by omega)
  simp only [windowParts, hlen, granules_aligned hal, hwin, List.filterMap_cons, List.filterMap_nil, hlo, hhi, hplace,
    Nat.sub_self, List.drop_zero, hall]

/-- Flat memory takes nothing of a granule that leads to the window of a core. -/
theorem State.pokeFlat_core {s : State} {a k off : Nat} (d : Bytes) (h : s.placeOf a = .core k off) :
    s.pokeFlat a d = s := by
  simp only [State.pokeFlat, h]

/-- A posted write of one aligned word lands in the window of the core that its address leads to. -/
theorem State.postWrite_word {s : State} {a k off g : Nat} {data : Bytes} (hal : a % 8 = 0) (hlen : data.length = 8)
    (hplace : s.placeOf a = .core k off) (hplaces : s.places a 8 = [.core k g]) :
    s.postWrite a data = s.windowWrite k off data := by
  have hcount : s.countWrite [.core k g] = s := rfl
  have hpoke : State.pokeGranules [a / 64 * 64] a data s = s := State.pokeFlat_core _ hplace
  simp only [State.postWrite, hlen, hplaces]
  refine (if_neg Bool.false_ne_true).trans ?_
  simp only [State.writeSpace, hlen, hplaces, hcount, granules_aligned hal, hpoke, windowParts_word hal hlen hplace,
    List.foldl_cons, List.foldl_nil]

theorem exec_coreWindowWrite_word {s : State} {l off k g : Nat} {data : Bytes} (hal : off % 8 = 0)
    (hlen : data.length = 8) (hplace : s.placeOf (windowAddr l off) = .core k off)
    (hplaces : s.places (windowAddr l off) 8 = [.core k g]) :
    exec (.coreWindowWrite l off data) s = .next (s.windowWrite k off data) :=
  congrArg Host.Outcome.next (State.postWrite_word (by unfold windowAddr; omega) hlen hplace hplaces)

/-- A core whose window has taken a write of n bytes at off (03 R88). -/
def Core.markWritten (off n : Nat) (c : Core) : Core :=
  { c with written := true, bad := c.bad.filter fun b => !(decide (off ≤ b) && decide (b + 8 ≤ off + n)) }

@[simp] theorem Core.shadow_markWritten (off n : Nat) (c : Core) : (c.markWritten off n).shadow = c.shadow := rfl

/-- A window write of one word that is not lost (03 R88). -/
theorem State.windowWrite_word {s : State} {k off : Nat} {data : Bytes} {c : Core} (hal : off % 8 = 0)
    (hlen : data.length = 8) (hqm : s.qmBound k off = false)
    (hput : (s.core k).putWord (s.setsInForce (s.core k)) off (w64 (leNat data)) = (c, false)) :
    s.windowWrite k off data =
      (if shadowed off then (s.setCore k c).shadowWrite else s.setCore k c).updCore k (Core.markWritten off 8) := by
  unfold State.windowWrite
  simp only [hlen, wordsOf_aligned hal, List.foldl_cons, List.foldl_nil, hqm, mergeWord_whole _ _ hlen, hput,
    Bool.not_false, Bool.and_true, Bool.or_self, Bool.false_eq_true, if_false]
  rfl

theorem Core.putWord_lands {c : Core} {sets : List Bool} {a : Nat} {v : W64} (hdrop : c.dropsWord sets a v = false)
    (hshadow : shadowed a = false) (hcount : counterWidth a = none) : c.putWord sets a v = (c.wr64 a v, false) := by
  simp only [Core.putWord, hdrop, hshadow, hcount, Bool.false_eq_true, if_false]

theorem Core.putWord_shadows {c : Core} {sets : List Bool} {a : Nat} {v : W64} (hdrop : c.dropsWord sets a v = false)
    (hshadow : shadowed a = true) :
    c.putWord sets a v = ({ c with shadow := Tab.set none c.shadow a (some v) }, false) := by
  simp only [Core.putWord, hdrop, hshadow, Bool.false_eq_true, if_false, if_true]

/-- Without a settle round there is no commit to take back. -/
theorem State.takeBack_idle {s : State} (h : s.eng.round = none) : s.takeBack = s := by
  simp only [State.takeBack, h, Option.filter_none]

/-- A shadow write that takes no commit back moves RECONF.STATE to LOADING outside a WINDOW (02 R80). -/
theorem State.shadowWrite_reconf {s : State} (h : s.reconf.state = .armed → s.eng.round = none) :
    ∃ r : Reconf, s.shadowWrite = s.put_reconf r ∧
      r.state = if s.reconf.state = .window then .window else .loading := by
  unfold State.shadowWrite
  cases hstate : s.reconf.state with
  | idle => exact ⟨_, rfl, rfl⟩
  | loading => exact ⟨s.reconf, rfl, hstate⟩
  | armed =>
    exact ⟨{ s.reconf with state := .loading }, by simp only [State.takeBack_idle (h hstate), State.mk_reconf], rfl⟩
  | window => exact ⟨{ s.reconf with late := true }, rfl, hstate⟩

/-- Settles O17: each dictionary command by what its entry does in the opened window, each window write by where the one
    word it writes goes. -/
theorem coreCommands : Obligations.CoreCommands := by
  refine ⟨?fence, ?release, ?nightPending, ?nightBegins, ?nightRows, ?nightHeld, ?clear, ?lands, ?shadows⟩
  case fence =>
    intro p k s hs hsel hstate
    refine Completes.dictOk (only_coreFenceAct p) rfl hs (by decide) (by decide) fun u hu _ =>
      ⟨_, coreFenceAct_selected ((hu.selCore p).trans hsel), fun w hw ha => ?_⟩
    obtain ⟨c, hcore, hfenced, hcause, hinbuf, hjobs, hpass, -, -⟩ :=
      State.fenceCore_core u k 4 (by rwa [hu.core])
    have hw' (j : Nat) : w.core j = if j = k then c else u.core j :=
      (hw.core j).trans (((only_phaseStep _).coreEq (by decide) j).trans (hcore j))
    rw [hw', if_pos rfl]
    refine ⟨ha, hfenced, hcause, hinbuf, hjobs, hpass, fun j hj => ?_⟩
    rw [hw', if_neg hj, hu.core]
  case release =>
    intro p k s hs hsel hstate
    refine Completes.dictOk (only_coreReleaseAct p) rfl hs (by decide) (by decide) fun u hu _ =>
      ⟨_, coreReleaseAct_fenced ((hu.selCore p).trans hsel) (by rwa [hu.core]), fun w hw ha => ?_⟩
    rw [hw.core, State.core_updCore_same, hu.core]
    refine ⟨ha, rfl, rfl, rfl, fun j hj => ?_⟩
    rw [hw.core, State.core_updCore_ne _ _ hj, hu.core]
  case nightPending =>
    intro p w ticks s hs hrun
    refine Completes.dict rfl hs (by decide) fun u hu =>
      ⟨_, lrnMidnightAct_running w ticks (hu.stopped.trans hrun), (Only.set_lrn u _).mono (by decide),
        fun v hv ha => ⟨ha, ?_⟩⟩
    rw [hv.lrn, ← hu.lrn]
  case nightBegins =>
    intro p bad ticks s hs hstop hswap hnight hwarn
    have hu : s.PathEq (s.opened p 2 0x4400 3 [1]) := s.pathEq_opened ..
    refine completes_lrnCmdMidnight hs hstop hswap hnight hwarn rfl (by decide) ((only_nightNow _).mono (by decide))
      fun t ht hanswer hwait => ⟨fun hnone hround => hanswer ?_, fun hsome => hwait ?_, ?_, fun k hk => ?_, fun k hk => ?_⟩
    · exact State.inNight_nightNow_idle (hu.nightCores.trans hnone) ((congrArg Eng.round hu.eng).trans hround)
        (hu.inNight.trans hnight)
    · exact State.inNight_nightNow (by rwa [hu.nightCores])
    · exact ht.lrn.trans (State.lrn_nightNow _)
    · exact (ht.core k).trans (State.core_startNights_notMem _ (by rwa [hu.nightCores]))
    · rw [ht.core k]
      exact State.midnight_startNights _ (by rwa [hu.nightCores])
  case nightRows =>
    intro p w ticks s hs hstop hswap hnight hwarn u
    exact completes_lrnCmdMidnight hs hstop hswap hnight hwarn rfl (by decide)
      ((only_nightStart _ w ticks).mono (by decide)) fun t ht hanswer hwait =>
        ⟨hanswer, hwait, ht.lrn.trans (State.lrn_nightStart _ w ticks), ht.cores, ht.tiles, ht.regs⟩
  case nightHeld =>
    intro p w ticks s hs hstop hswap hnight hwarn
    refine Completes.dictWait rfl hs (by decide) fun u hu => ⟨u, ?_, .refl _ _, fun _ _ hwait => hwait⟩
    rw [lrnMidnightAct_stopped w ticks (hu.stopped.trans hstop) (hu.swap.trans hswap) (hu.inNight.trans hnight)]
    exact if_pos ((congrArg Mon.vwarn hu.mon).trans hwarn)
  case clear =>
    intro p s hs hstop
    refine Completes.dictOk only_lrnClearAct rfl hs (by decide) (by decide) fun u hu _ =>
      ⟨_, guardAct_ok (guard_nil (by simp [hu.stopped.trans hstop])), fun w hw ha => ⟨ha, ?_⟩⟩
    rw [hw.cores, hu.cores]
    simp only [hu.lcidOf]
  case lands =>
    intro l off k data s hal hlen hplace hplaces hqm hdrop hshadow hcount
    have hwrite := State.windowWrite_word hal hlen hqm (Core.putWord_lands hdrop hshadow hcount)
    rw [hshadow, if_neg Bool.false_ne_true] at hwrite
    have h := exec_coreWindowWrite_word hal hlen hplace hplaces
    rw [hwrite] at h
    refine ⟨_, h, .chain (only_updCore _ _ _) (by decide) (only_setCore _ _ _), ?_⟩
    beta_reduce
    rw [State.core_updCore_same, State.core_setCore_same]
    refine ⟨Core.rd64_wr64_same _ _ _, rfl, fun b hb => Mem.rd_wr64_out _ _ hb, fun j hj => ?_⟩
    rw [State.core_updCore_ne _ _ hj, State.core_setCore_ne _ _ hj]
  case shadows =>
    intro l off k data s hal hlen hplace hplaces hqm hdrop hshadow harmed
    have hwrite := State.windowWrite_word hal hlen hqm (Core.putWord_shadows hdrop hshadow)
    obtain ⟨r, hreconf, hstate⟩ := State.shadowWrite_reconf (s := s.setCore k
      { s.core k with shadow := Tab.set none (s.core k).shadow off (some (w64 (leNat data))) }) harmed
    rw [hshadow, if_pos rfl, hreconf] at hwrite
    have h := exec_coreWindowWrite_word hal hlen hplace hplaces
    rw [hwrite] at h
    refine ⟨_, h, .chain (only_updCore _ _ _) (by decide)
      (.chain (Only.set_reconf _ _) (by decide) ((only_setCore _ _ _).mono (by decide))), ?_⟩
    beta_reduce
    rw [State.core_updCore_same, (Only.set_reconf _ _).coreEq rfl, State.core_setCore_same,
      Core.shadow_markWritten, Tab.get_set_same]
    refine ⟨rfl, rfl, hstate, fun j hj => ?_⟩
    rw [State.core_updCore_ne _ _ hj, (Only.set_reconf _ _).coreEq rfl, State.core_setCore_ne _ _ hj]

end Sys2Proof.Machine
end

section
/-! PROOF. Rounding to nearest with ties to even (05 R164). -/

namespace Sys2Proof.Machine

@[simp] theorem rneShr_zero (n : Int) : rneShr n 0 = n := rfl

/-- With half a unit `h` = 2^s, the quotient rounds up on a remainder above `h`, or of `h` when it is odd. -/
theorem rneShr_succ (n : Int) (s : Nat) :
    rneShr n (s + 1) =
      if 2 ^ s < n % 2 ^ (s + 1) ∨ (n % 2 ^ (s + 1) = 2 ^ s ∧ n / 2 ^ (s + 1) % 2 = 1)
      then n / 2 ^ (s + 1) + 1 else n / 2 ^ (s + 1) := by
  simp [rneShr]

/-- What rounding leaves over: the remainder of the division where the quotient stays, which is then at most half a unit,
    and the remainder less one unit where it goes up, which is then at least minus half a unit. Where exactly half a unit
    is left on either side, the result is even. -/
theorem rneShr_succ_leaves (n : Int) (s : Nat) :
    -2 ^ s ≤ n - rneShr n (s + 1) * 2 ^ (s + 1) ∧ n - rneShr n (s + 1) * 2 ^ (s + 1) ≤ 2 ^ s ∧
    (n - rneShr n (s + 1) * 2 ^ (s + 1) = 2 ^ s ∨ n - rneShr n (s + 1) * 2 ^ (s + 1) = -2 ^ s →
      rneShr n (s + 1) % 2 = 0) := by
  have hunit : (2 : Int) ^ (s + 1) = 2 * 2 ^ s := pow_succ' 2 s
  have hpos : (0 : Int) < 2 ^ (s + 1) := by positivity
  have hnonneg := Int.emod_nonneg n hpos.ne'
  have hlt := Int.emod_lt_of_pos n hpos
  have hstay : n - n / 2 ^ (s + 1) * 2 ^ (s + 1) = n % 2 ^ (s + 1) := by rw [Int.emod_def, mul_comm]
  rw [rneShr_succ]
  split
  case isTrue hup =>
    have hleft : n - (n / 2 ^ (s + 1) + 1) * 2 ^ (s + 1) = n % 2 ^ (s + 1) - 2 ^ (s + 1) := by
      rw [add_one_mul, ← hstay, sub_sub]
    rw [hleft]
    omega
  case isFalse hdown =>
    rw [hstay]
    omega

/-- Settles O12: nothing is left over at shift 0, and at most half a unit at every other shift. -/
theorem rneIsNearestEven : Obligations.RneIsNearestEven := by
  intro n s
  cases s with
  | zero => simp
  | succ s =>
    obtain ⟨hlow, hhigh, heven⟩ := rneShr_succ_leaves n s
    have hunit : (2 : Int) ^ (s + 1) = 2 * 2 ^ s := pow_succ' 2 s
    refine ⟨by omega, by omega, fun _ htie => heven ?_⟩
    omega

end Sys2Proof.Machine
end

section
/-! PROOF. SEND, RECV and COMBINE of a core (07 R223 to R225, R229). -/

namespace Sys2Proof.Machine

section
variable {s : State} {k h n i : Nat}

/-! SEND -/

theorem exec_send (hat : s.atOp k 5 = true) :
    exec (.send k) s = .next (s.send k (fld (s.core k).word 55 40) (s.core k).opSlot) :=
  congrArg Host.Outcome.next (if_pos hat)

/-- What the checks of Table 7.6 on a SEND find: those on its handle and those on its descriptor. -/
def State.sendStatus (s : State) (k h n : Nat) : Status :=
  Status.pick (pickAll (s.sendRefusal h ((s.lcidOf k).getD 0))) (descCheck ((s.core k).rdDesc (aDslot n)))

theorem State.sendStatus_ok (hhandle : pickAll (s.sendRefusal h ((s.lcidOf k).getD 0)) = .ok)
    (hdesc : descCheck ((s.core k).rdDesc (aDslot n)) = .ok) : s.sendStatus k h n = .ok := by
  rw [State.sendStatus, hhandle, hdesc]
  rfl

/-- A SEND that a check refuses ends with what the checks find. -/
theorem State.send_refused (hst : s.sendStatus k h n ≠ .ok) :
    s.send k h n = s.setCore k ((s.core k).opEnd n (s.sendStatus k h n) none) :=
  if_pos hst

/-- A SEND that its credit or its NI holds blocks (R223). -/
theorem State.send_held (hst : s.sendStatus k h n = .ok) (hheld : s.sendWaits k (h % 4096) = true) :
    s.send k h n = s.setCore k ((s.core k).block 0x5 h n 0) :=
  (if_neg (not_not.mpr hst)).trans (if_pos hheld)

/-- A SEND that nothing holds hands its descriptor to the source half (R223). -/
theorem State.send_taken (hst : s.sendStatus k h n = .ok) (hfree : s.sendWaits k (h % 4096) = false) :
    s.send k h n =
      (s.takeDesc (h % 4096) (k / 136) k ((s.lcidOf k).getD 0) true ((s.core k).rdDesc (aDslot n))).setCore k
        ((s.core k).opEnd n .ok none) :=
  (if_neg (not_not.mpr hst)).trans (if_neg (ne_true_of_eq_false hfree))

/-! RECV -/

theorem exec_recv (hat : s.atOp k 6 = true) :
    exec (.recv k) s = .next (s.recv k (fld (s.core k).word 55 40) (s.core k).opSlot) :=
  congrArg Host.Outcome.next (if_pos hat)

theorem Conn.edkind_queue {c : Conn} (hkind : c.dkind = 0) : c.edkind = 0 := by
  rw [Conn.edkind, if_neg (by omega), hkind]

/-- No check refuses a RECV on the own queue of its core (Table 7.6). -/
theorem Conn.recv_admitted {c : Conn} {l : Nat} (hkind : c.dkind = 0) (hdest : c.dest = l) (hopen : c.state = .opn) :
    pickAll [(decide (c.edkind = 0 ∧ (c.dkind ≠ 0 ∨ c.dest ≠ l)), .access), (decide (c.edkind ≠ 0), .type),
      (decide (c.state = .closing), .closed)] = .ok :=
  pickAll_ok (guard_nil (by simp [Conn.edkind_queue hkind, hkind, hdest, hopen]))

section
variable (hconn : s.connOf h = some i) (hkind : (s.conn i).dkind = 0)
  (hdest : (s.conn i).dest = (s.lcidOf k).getD 0) (hopen : (s.conn i).state = .opn)
include hconn hkind hdest hopen

/-- A RECV on an empty queue blocks (R224). -/
theorem State.recv_empty (hempty : (s.queue (k / 136) ((s.lcidOf k).getD 0 % 128) (s.conn i).q).held = 0) :
    s.recv k h n = s.setCore k ((s.core k).block 0x6 h n 0) := by
  simp only [State.recv, hconn, Conn.recv_admitted hkind hdest hopen, ne_eq, not_true_eq_false, if_false,
    hempty, if_true]

/-- A RECV takes the oldest descriptor of its queue and starts a credit back (R223, R224). -/
theorem State.recv_oldest {q : Queue} (hq : s.queue (k / 136) ((s.lcidOf k).getD 0 % 128) (s.conn i).q = q)
    (hheld : q.held ≠ 0) (hcrc : descCrcOk ((s.core k).rdDesc (aQslot (s.conn i).q q.head)) = true) :
    s.recv k h n =
      ((s.setQueue (k / 136) ((s.lcidOf k).getD 0 % 128) (s.conn i).q
          { q with head := (q.head + 1) % 32, held := q.held - 1 }).creditBack i).setCore k
        (((s.core k).wrDesc (aDslot n) ((s.core k).rdDesc (aQslot (s.conn i).q q.head))).opEnd n .ok (some true)) := by
  simp only [State.recv, hconn, Conn.recv_admitted hkind hdest hopen, ne_eq, not_true_eq_false, if_false, hq,
    hheld, hcrc,
    if_true]

end

theorem State.queue_setQueue_same (s : State) (t sl q : Nat) (x : Queue) : (s.setQueue t sl q x).queue t sl q = x := by
  rw [State.queue, State.setQueue, State.tile_updTile_same]
  exact Tab.get_set_same _ _ _ _

/-! COMBINE -/

theorem exec_combine (hat : s.atOp k 7 = true) : exec (.combine k) s = .next (s.combineEntry k) :=
  congrArg Host.Outcome.next (if_pos hat)

/-- The contribution of core k with operation word w and FIRST first at source half i (R229). -/
def State.contribution (s : State) (k i first : Nat) (w : W64) : Contrib :=
  { id := s.ids + 1, core := k, sdev := s.dev, dev := if (s.conn i).dkind = 4 then (s.conn i).rdev else s.dev,
    handle := if (s.conn i).dkind = 4 then BitVec.ofNat 16 (s.conn i).rhandle else (s.conn i).handle i,
    slot := first % 16, lanes := (s.core k).lanesAt first (fld w 47 44 + 1) }

/-- The state in which contribution m of core k has been handed to VC1 and counts at its source half i (R229). -/
def State.sendContrib (s : State) (k i : Nat) (m : Contrib) : State :=
  ((({ s with ids := s.ids + 1 }).updConn i fun c => { c with sent := w64 (satAdd 64 c.sent.toNat 1) }).await (s.ids + 1)
    k).inject (k / 136) 1 (.contrib m)

/-- No check refuses a COMBINE of as many lanes as its queue has (Table 7.6). -/
theorem Conn.combine_admitted {c : Conn} {lanes : Nat} (hkind : c.edkind = 2) (hlanes : c.elanes = lanes)
    (hopen : c.state = .opn) :
    pickAll [(decide (c.edkind ≠ 2), .type), (decide (c.edkind = 2 ∧ c.elanes + 1 ≠ lanes + 1), .range),
      (decide (c.state = .closing), .closed)] = .ok :=
  pickAll_ok (guard_nil (by simp [hkind, hlanes, hopen]))

/-- A COMBINE that no check refuses hands on its contribution and blocks until a bank accepts it (R229). -/
theorem State.combine_taken {first : Nat} {w : W64} (hconn : s.connOf (fld w 43 28) = some i)
    (hkind : (s.conn i).edkind = 2) (hlanes : (s.conn i).elanes = fld w 47 44) (hopen : (s.conn i).state = .opn) :
    s.combine k first w =
      (s.sendContrib k i (s.contribution k i first w)).setCore k
        ((s.core k).block 0x7 (fld w 43 28) (first % 16) (s.ids + 1)) := by
  simp only [State.combine, hconn, Conn.combine_admitted hkind hlanes hopen, ne_eq, not_true_eq_false, if_false]
  rfl

variable (s k i) (m : Contrib)

theorem State.core_sendContrib (j : Nat) : (s.sendContrib k i m).core j = s.core j := rfl

theorem State.sent_sendContrib :
    ((s.sendContrib k i m).conn i).sent = w64 (satAdd 64 (s.conn i).sent.toNat 1) := by
  rw [State.sendContrib, (only_inject _ _ _ _).connEq (by decide), (only_await _ _ _).connEq (by decide),
    State.conn_updConn_same]
  rfl

theorem State.out_sendContrib :
    Tab.get [] ((s.sendContrib k i m).node (k / 136)).out 1 =
      Tab.get [] (s.node (k / 136)).out 1 ++ (Item.contrib m).cut := by
  rw [State.sendContrib, State.inject, State.node_updNode_same, Tab.get_upd_same]
  rfl

theorem State.live_sendContrib : (s.sendContrib k i m).live = s.live ++ [(s.ids + 1, k)] := rfl

end

/-- Settles O15: each operation by what its checks leave, a refusal, a wait, or the message handed on. -/
theorem passMessages : Obligations.PassMessages := by
  refine ⟨?sent, ?held, ?refused, ?received, ?empty, ?combined⟩
  case sent =>
    intro k s hat c h n hhandle hdesc hfree
    have hx := exec_send hat
    rw [State.send_taken (State.sendStatus_ok hhandle hdesc) hfree] at hx
    have hconn := s.conn_takeDesc_same (h % 4096) (k / 136) k ((s.lcidOf k).getD 0) true (c.rdDesc (aDslot n))
    refine Completes.of (only_execSend k s) hx (by decide)
      ⟨State.core_setCore_same _ _ _, ?_, ?_, ?_, ?_, fun j hj => ?_, fun j hj => ?_⟩
    · rw [State.conn_setCore, hconn]
      rfl
    · rw [State.conn_setCore, hconn]
      split_ifs <;> rfl
    · exact s.node_takeDesc _ _ _ _ _ _
    · rw [State.live_setCore, State.live_takeDesc]
      exact List.mem_append_right _ List.mem_cons_self
    · rw [State.core_setCore_ne _ _ hj, State.core_takeDesc]
    · rw [State.conn_setCore, State.conn_takeDesc_ne _ _ _ _ _ _ hj]
  case held =>
    intro k s hat c h n hhandle hdesc hheld
    exact Completes.setCore
      ((exec_send hat).trans (congrArg _ (State.send_held (State.sendStatus_ok hhandle hdesc) hheld)))
  case refused =>
    intro k s hat c st hst
    exact Completes.setCore ((exec_send hat).trans (congrArg _ (State.send_refused hst)))
  case received =>
    intro k i s hat c h n sl q hconn hkind hdest hopen hheld hcrc
    have hx := exec_recv hat
    rw [State.recv_oldest hconn hkind hdest hopen rfl hheld hcrc] at hx
    refine ⟨_, hx, ?_, State.core_setCore_same _ _ _, ?_, ?_,
      fun j hj => State.core_setCore_ne _ _ hj, fun j hj => ?_⟩
    · exact .chain (only_setCore _ _ _) (by decide) <| .chain (only_creditBack _ _) (by decide) <|
        (only_setQueue _ _ _ _ _).mono (by decide)
    · exact s.queue_setQueue_same _ _ _ _
    · rw [State.conn_setCore, State.creditBack, State.conn_updConn_same]
      rfl
    · rw [State.conn_setCore, State.creditBack, State.conn_updConn_ne _ _ hj]
      rfl
  case empty =>
    intro k i s hat c h hconn hkind hdest hopen hempty
    exact Completes.setCore ((exec_recv hat).trans (congrArg _ (State.recv_empty hconn hkind hdest hopen hempty)))
  case combined =>
    intro k i s hat u c first w hconn hkind hlanes hopen
    have hx : exec (.combine k) s = _ :=
      (exec_combine hat).trans (congrArg Host.Outcome.next (State.combine_taken (s := u) hconn hkind hlanes hopen))
    refine Completes.of (only_execCombine k s) hx (by decide)
      ⟨State.core_setCore_same _ _ _, ⟨u.contribution k i first w, ?_, rfl, rfl, rfl⟩, ?_, ?_, fun j hj => ?_⟩
    · rw [State.node_setCore, State.out_sendContrib]
      rfl
    · rw [State.conn_setCore, State.sent_sendContrib]
      rfl
    · rw [State.live_setCore, State.live_sendContrib]
      exact List.mem_append_right _ List.mem_cons_self
    · rw [State.core_setCore_ne _ _ hj, State.core_sendContrib]
      exact State.core_updCore_ne _ _ hj

end Sys2Proof.Machine
end

section
/-! PROOF. Queues, records and combining queues at an NI, TICK, and FAB.LOSS_RATE (07 R222, R223, R229 to R231, R239;
    08 R273, R280). -/

namespace Sys2Proof.Machine

/-! A descriptor at its queue -/

section
variable {s : State} {t i k : Nat} {d : DescMsg}

theorem exec_queueDeliver {rest : List Item} (hup : s.domUp t = true) (hvc1 : (s.tile t).vc1 = .desc d :: rest) :
    exec (.queueDeliver t) s = .next ((s.deliverDesc t d rest).pumpVc1 t) := by
  refine congrArg Host.Outcome.next ((if_neg (by simp [hup])).trans ?_)
  simp only [hvc1]

/-- A descriptor that its open connection takes goes into a queue that has room. -/
theorem State.deliverDesc_enqueues {rest : List Item} (hconn : s.connOf d.dst.toNat = some i)
    (hstate : (s.conn i).state ≠ .closing) (haccept : (s.conn i).acceptsFrom s.dev d.dev = true)
    (hcore : s.coreOf t ((s.conn i).dest % 128) = some k)
    (hroom : (s.queue t ((s.conn i).dest % 128) (s.conn i).q).held < 32) :
    s.deliverDesc t d rest = (s.updTile t fun q => { q with vc1 := rest }).enqueue t k i d := by
  simp only [State.deliverDesc, hconn, if_neg hstate, haccept, Bool.not_true, Bool.false_eq_true, if_false, hcore,
    if_neg (Nat.not_le.mpr hroom)]

/-- The state with descriptor d in the slot after those that the queue of connection i holds (R222). -/
def State.queued (s : State) (t k i : Nat) (d : DescMsg) : State :=
  let c := s.conn i
  let x := s.queue t (c.dest % 128) c.q
  ((((s.updCore k fun e => e.wrDesc (aQslot c.q (x.head + x.held)) d.words).setQueue t (c.dest % 128) c.q
    { x with held := x.held + 1 }).updConn i fun c => { c with qhwm := max c.qhwm (x.held + 1) }).itemEnd d.id)

theorem State.core_queued (s : State) (t k i : Nat) (d : DescMsg) :
    (s.queued t k i d).core k =
      (s.core k).wrDesc (aQslot (s.conn i).q ((s.queue t ((s.conn i).dest % 128) (s.conn i).q).head +
        (s.queue t ((s.conn i).dest % 128) (s.conn i).q).held)) d.words := by
  rw [State.queued, (only_itemEnd _ _).coreEq (by decide), State.core_updConn, State.setQueue, State.core_updTile,
    State.core_updCore_same]

theorem State.queue_queued (s : State) (t k i : Nat) (d : DescMsg) :
    (s.queued t k i d).queue t ((s.conn i).dest % 128) (s.conn i).q =
      { s.queue t ((s.conn i).dest % 128) (s.conn i).q with
        held := (s.queue t ((s.conn i).dest % 128) (s.conn i).q).held + 1 } :=
  State.queue_setQueue_same _ _ _ _ _

theorem State.conn_queued (s : State) (t k i : Nat) (d : DescMsg) :
    (s.queued t k i d).conn i =
      { s.conn i with
        qhwm := max (s.conn i).qhwm ((s.queue t ((s.conn i).dest % 128) (s.conn i).q).held + 1) } := by
  rw [State.queued, (only_itemEnd _ _).connEq (by decide), State.conn_updConn_same,
    (only_setQueue _ _ _ _ _).connEq (by decide), State.conn_updCore]

theorem State.vc1_queued (s : State) (t k i : Nat) (d : DescMsg) :
    ((s.queued t k i d).tile t).vc1 = (s.tile t).vc1 := by
  rw [State.queued, (only_itemEnd _ _).tileEq (by decide), State.tile_updConn, State.setQueue, State.tile_updTile_same,
    State.tile_updCore]

/-- No RECV waits on a core that runs. -/
theorem State.enqueue_running (hpass : (s.core k).pass = .run) : s.enqueue t k i d = s.queued t k i d := by
  have hrun : ((s.queued t k i d).core k).pass = .run := by rw [State.core_queued]; exact hpass
  unfold State.enqueue
  extract_lets c sl x u v w
  have hw : w = s.queued t k i d := rfl
  rw [hw, hrun]

theorem State.queues_pumpLanes (t j : Nat) (l : List Item) (s : State) :
    ((State.pumpLanes t l s).tile j).queues = (s.tile j).queues := by
  induction l generalizing s with
  | nil => rfl
  | cons a rest ih =>
    cases a with
    | lanes q e l first vs =>
      rw [State.pumpLanes, ih, (only_writeLanes _ _ _ _ _).tileEq (by decide)]
      by_cases hj : j = t
      · rw [hj, State.tile_updTile_same]
      · rw [State.tile_updTile_ne _ _ hj]
    | _ => rfl

theorem State.queue_pumpVc1 (s : State) (t j sl q : Nat) : (s.pumpVc1 t).queue j sl q = s.queue j sl q := by
  unfold State.pumpVc1
  split
  · exact congrArg (Tab.get Queue.unbound · (4 * sl + q)) (State.queues_pumpLanes t j (s.tile t).vc1 s)
  · rfl

theorem State.pumpVc1_nil (h : (s.tile t).vc1 = []) : s.pumpVc1 t = s := by
  rw [State.pumpVc1, h]
  exact ite_self s

end

/-! A credit that comes back -/

/-- While no core is blocked and no token is pending, a credit that comes back only counts (R223). -/
theorem State.creditHome_unblocked {s : State} {i : Nat} (htokens : (s.conn i).tokens = 0)
    (hnone : ∀ e ∈ s.cores, ∀ op h n id, e.2.pass ≠ .blocked op h n id) :
    s.creditHome i = s.updConn i fun c => { c with taken := c.taken - 1, creditsBack := c.creditsBack - 1 } := by
  unfold State.creditHome
  extract_lets u h
  have htok : (u.conn i).tokens = 0 := by
    unfold u
    rw [State.conn_updConn_same]
    exact htokens
  split
  next e he =>
    split
    next hp => exact absurd hp (hnone e (List.mem_of_find?_eq_some he) _ _ _ _)
    next => rfl
  next => exact if_pos (.inl htok)

/-! A record handed to its NI -/

/-- The NI takes the oldest record that its cores handed it (R239). -/
theorem exec_recordHandoff {s : State} {t : Nat} {r : Record} {rest : List Record}
    (hrecs : (s.tile t).recs = r :: rest) :
    exec (.recordHandoff t) s = .next ((s.updTile t fun d => { d with recs := rest }).handoff t r) := by
  refine congrArg Host.Outcome.next ?_
  simp only [hrecs]

/-- A record that its connection carries counts in CONN.SENT and goes out on VC0 (R239). -/
theorem State.handoff_sent {s : State} {t i : Nat} {r : Record} (hconn : s.connOf r.handle.toNat = some i)
    (hcarry : s.carries i r = true) (hkind : (s.conn i).dkind ≠ 4) :
    s.handoff t r =
      (s.updConn i fun c => { c with sent := w64 (satAdd 64 c.sent.toNat 1) }).inject t 0
        (.record { r with ddev := s.dev }) := by
  simp only [State.handoff, hconn, Option.filter_some, hcarry, if_true, if_neg hkind]

/-- A record whose handle names no connection is dropped (R239). -/
theorem State.handoff_dropped {s : State} {t : Nat} {r : Record} (hconn : s.connOf r.handle.toNat = none) :
    s.handoff t r = s.recDrop t (.record r) := by
  simp only [State.handoff, hconn, Option.filter_none]

/-! Combining queues -/

theorem exec_combContribute_tile {s : State} {t : Nat} {c : Contrib} {rest : List Item} (hup : s.domUp t = true)
    (hvc1 : (s.tile t).vc1 = .contrib c :: rest) :
    exec (.combContribute (.tile t)) s = .next ((s.takeContrib t c rest).pumpVc1 t) := by
  refine congrArg Host.Outcome.next ((if_neg (by simp [hup])).trans ?_)
  simp only [hvc1]

theorem Comb.acc_addLanes (b : Comb) (vs : List W32) :
    (b.addLanes vs).acc =
      (List.range b.lanes).map fun j => w32 (sat32 ((b.acc.getD j 0).toInt + (vs.getD j 0).toInt)) := by
  simp only [Comb.addLanes, List.map_map]
  rfl

/-- A round that awaits further senders stays open. -/
theorem Comb.complete_open {b : Comb} (h : b.count < b.senders) : b.complete = b := if_pos h

/-- The last sender's contribution passes the bank to delivery while the other bank is free (R229). -/
theorem Comb.complete_last {b : Comb} (h : b.senders ≤ b.count) (hfree : b.deliver = none) :
    b.complete =
      { b with
        deliver := some (b.round + 1, b.acc), acc := List.replicate b.lanes 0, count := 0, round := b.round + 1 } :=
  (if_neg (by omega)).trans (if_pos (by rw [hfree]; rfl))

/-- A bank delivered while the other still accumulates leaves it alone. -/
theorem Comb.delivered_open {b : Comb} {j : W64} {vs : List W32} (hbank : b.deliver = some (j, vs))
    (h : b.count < b.senders) : b.delivered = { b with deliver := none, last := vs } := by
  have hopen : (b.bound.isSome && decide (b.senders ≤ b.count)) = false := by
    rw [decide_eq_false (by omega), Bool.and_false]
  simp only [Comb.delivered, hbank, hopen, Option.map_some, Option.getD_some, Bool.false_eq_true, if_false]

/-- Where no connection closes, no close completes after changes of other parts. -/
theorem State.closeCheck_of_only {W : List Part} {s u : State}
    (hidle : (s.conns.all fun e => decide (e.2.state ≠ .closing)) = true) (h : Only W s u)
    (hw : W.contains .conns = false) : u.closeCheck = u :=
  State.closeCheck_idle (by rw [h.same .conns hw]; exact hidle)

/-- A contribution that its queue takes is added there, and the round may complete (R229). -/
theorem State.comb_takeContrib {s : State} {t i : Nat} {c : Contrib} {rest : List Item} (hcomb : s.combOf c = some i)
    (hstate : (s.conn i).state ≠ .closing) (haccept : (s.conn i).acceptsFrom s.dev c.sdev = true)
    (hroom : (s.comb (s.conn i).combNo).full = false)
    (hidle : (s.conns.all fun e => decide (e.2.state ≠ .closing)) = true) :
    (s.takeContrib t c rest).comb (s.conn i).combNo =
      ((s.comb (s.conn i).combNo).addLanes c.lanes).complete := by
  simp only [State.takeContrib, hcomb, haccept, hstate, hroom, Bool.not_true, Bool.false_eq_true, if_false]
  generalize hu : ((s.updTile t fun q => { q with vc1 := rest }).updComb (s.conn i).combNo fun b =>
    (b.addLanes c.lanes).complete).itemEnd c.id = u
  have hbank : u.comb (s.conn i).combNo = ((s.comb (s.conn i).combNo).addLanes c.lanes).complete := by
    rw [← hu, (only_itemEnd _ _).combEq (by decide), State.comb_updComb_same, State.comb_updTile]
  have honly : Only [.tiles, .combs, .live] s u := by
    rw [← hu]
    exact .chain (only_itemEnd _ _) (by decide) <| .chain (only_updComb _ _ _) (by decide) <|
      (only_updTile _ _ _).mono (by decide)
  split
  · rw [State.closeCheck_of_only hidle honly (by decide), hbank]
  · rw [State.closeCheck_of_only hidle (W := [.cores, .tiles, .combs, .live])
      (.chain (only_combineDone _ _ _) (by decide) (honly.mono (by decide))) (by decide),
      (only_combineDone _ _ _).combEq (by decide), hbank]

/-- A COMBINE ends once a bank of another device has accepted its contribution (R229). -/
theorem State.farContrib_accepted {s : State} {k n id i : Nat} {h : BitVec 16}
    (hpass : (s.core k).pass = .blocked 0x7 h n id)
    (hconn : s.connOf h.toNat = some i) (hkind : (s.conn i).dkind = 4) (hgone : s.contribHere id = false) :
    s.farContrib k =
      (s.itemEnd id).setCore k
        ((if bit (s.core k).word 27 then (s.core k).clearLanes (s.core k).opFirst (fld (s.core k).word 47 44 + 1)
          else s.core k).opEnd n .ok none) := by
  have hfar : s.farContrib k = (s.itemEnd id).combineDone k id := by
    simp only [State.farContrib, hpass, hconn, hkind, hgone, decide_true, and_self, if_true]
  have hpass' : ((s.itemEnd id).core k).pass = .blocked 0x7 h n id := hpass
  rw [hfar]
  simp only [State.combineDone, hpass', and_self, if_true]
  rfl

/-! What one node hands on, item after item -/

/-- Steps each of which hands at most one item to VC v of node n, chosen by what no step changes, put those items there
    in their order. -/
theorem State.out_foldl {α : Type} {n v : Nat} {f : State → α → State} {g : State → α → Option Item}
    (hout : ∀ s a, Tab.get [] ((f s a).node n).out v =
      Tab.get [] (s.node n).out v ++ (g s a).toList.flatMap Item.cut)
    (hkeep : ∀ s a, g (f s a) = g s) (l : List α) (s : State) :
    Tab.get [] ((l.foldl f s).node n).out v = Tab.get [] (s.node n).out v ++ (l.filterMap (g s)).flatMap Item.cut := by
  induction l generalizing s with
  | nil => exact (List.append_nil _).symm
  | cons a l ih =>
    rw [List.foldl_cons, ih, hout, hkeep, List.append_assoc, ← List.flatMap_append, List.filterMap_cons]
    cases g s a <;> rfl

theorem State.out_inject (s : State) (n v : Nat) (i : Item) :
    Tab.get [] ((s.inject n v i).node n).out v = Tab.get [] (s.node n).out v ++ i.cut := by
  rw [State.inject, State.node_updNode_same, Tab.get_upd_same]

/-- The item that queue q delivers to a broadcast entry w (R230, R231). -/
def State.delivery (s : State) (q : Nat) (round : W64) (vs : List W32) (w : W64) : Option Item :=
  if bcastRsvd w then none
  else if bit w 63 then some (.sum q s.dev (fld w 59 56) round (fld w 55 50) (fld w 49 42) vs)
  else some (.lanes q (fld w 59 56) (BitVec.ofNat 16 (fld w 55 40)) (fld w 39 28) vs)

theorem State.out_deliverTo (s : State) (t q : Nat) (w round : W64) (vs : List W32) :
    Tab.get [] ((s.deliverTo t q w round vs).node t).out 1 =
      Tab.get [] (s.node t).out 1 ++ (s.delivery q round vs w).toList.flatMap Item.cut := by
  unfold State.deliverTo State.delivery
  split
  · exact (List.append_nil _).symm
  · split <;> rw [State.out_inject, Option.toList_some, List.flatMap_singleton]

/-- The state after queue n at tile t has delivered its bank to each broadcast entry, in list order. -/
def State.deliverAll (s : State) (t n : Nat) (round : W64) (vs : List W32) : State :=
  (List.range (s.comb n).bllen).foldl
    (fun u k => u.deliverTo t n (u.bcast t (s.comb n).blbase k) round vs) s

theorem only_deliverAll (s : State) (t n : Nat) (round : W64) (vs : List W32) :
    Only [.regs, .nodes] s (s.deliverAll t n round vs) :=
  Only.foldl (.refl _ _) fun _ _ h => h.trans (only_deliverTo _ _ _ _ _ _)

theorem State.out_deliverAll (s : State) (t n : Nat) (round : W64) (vs : List W32) :
    Tab.get [] ((s.deliverAll t n round vs).node t).out 1 =
      Tab.get [] (s.node t).out 1 ++ ((List.range (s.comb n).bllen).filterMap fun k =>
        s.delivery n round vs (s.bcast t (s.comb n).blbase k)).flatMap Item.cut := by
  refine State.out_foldl (g := fun u k => u.delivery n round vs (u.bcast t (s.comb n).blbase k))
    (fun u k => u.out_deliverTo _ _ _ _ _) (fun u k => funext fun j => ?_) _ s
  have honly := only_deliverTo u t n (u.bcast t (s.comb n).blbase k) round vs
  generalize u.deliverTo t n (u.bcast t (s.comb n).blbase k) round vs = v at honly ⊢
  have hdev : v.dev = u.dev := congrArg BitVec.toNat (honly.same .straps (by decide))
  have hword : v.bcast t (s.comb n).blbase j = u.bcast t (s.comb n).blbase j :=
    congrArg (fun d => d.tsm.rd64 ((s.comb n).blbase + 8 * j)) (honly.tileEq (by decide) t)
  rw [hword, State.delivery, hdev]
  rfl

/-- A bank whose tile works goes to each entry of its list, and is free again (R229, R230). -/
theorem State.deliverBank_eq {s : State} {n t : Nat} {j : W64} {vs : List W32}
    (hbank : (s.comb n).deliver = some (j, vs)) (htile : s.resident (n / 16) = some t) (hup : s.domUp t = true)
    (hidle : (s.conns.all fun e => decide (e.2.state ≠ .closing)) = true) :
    s.deliverBank n = (s.deliverAll t n j vs).updComb n Comb.delivered := by
  have h : s.deliverBank n = ((s.deliverAll t n j vs).updComb n Comb.delivered).closeCheck := by
    simp only [State.deliverBank, hbank, htile, hup, Bool.not_true, Bool.false_eq_true, if_false]
    rfl
  rw [h]
  exact State.closeCheck_of_only hidle (W := [.regs, .nodes, .combs])
    (.chain (only_updComb _ _ _) (by decide) ((only_deliverAll _ _ _ _ _).mono (by decide))) (by decide)

/-! The timebase -/

/-- The TICK that the leader sends over port p, which must be up and lead directly to its peer (R280). -/
def State.tickFor (s : State) (p : Nat) : Option Item :=
  if s.portUp p && decide (s.rn (pReg p 2) < 8) && decide ((s.peer (s.rn (pReg p 2))).port = some p) then
    some (.vc2 (s.rn (pReg p 2)) [vc2Flit 8 (s.dev * 2 ^ 56 + s.rn rTB % 2 ^ 56)])
  else none

/-- Send the TICK of port p. -/
def State.tickPort (s : State) (p : Nat) : State :=
  match s.tickFor p with
  | some i => s.inject 89 2 i
  | none => s

theorem exec_tickSend {s : State} (hclk : s.boot.refclk = true) (hlead : s.leads = true)
    (hmember : s.isMember s.dev = true) : exec .tickSend s = .next ((List.range 7).foldl State.tickPort s) := by
  refine congrArg Host.Outcome.next ((State.clk_on hclk).trans ((if_pos (by rw [hlead, hmember]; rfl)).trans ?_))
  refine congrArg (fun f => (List.range 7).foldl f s) (funext fun u => funext fun p => ?_)
  unfold State.tickPort State.tickFor
  dsimp only
  split <;> rfl

theorem State.out_ticks (s : State) (l : List Nat) :
    Tab.get [] ((l.foldl State.tickPort s).node 89).out 2 =
      Tab.get [] (s.node 89).out 2 ++ (l.filterMap s.tickFor).flatMap Item.cut := by
  refine State.out_foldl (g := State.tickFor) (fun u p => ?_) (fun u p => ?_) l s
  · unfold State.tickPort
    split
    next i hi => rw [State.out_inject, hi, Option.toList_some, List.flatMap_singleton]
    next hi => rw [hi]; exact (List.append_nil _).symm
  · unfold State.tickPort
    split <;> rfl

/-- No TICK is cut. -/
theorem State.cut_tickFor (s : State) (l : List Nat) :
    (l.filterMap s.tickFor).flatMap Item.cut = l.filterMap s.tickFor := by
  have h : ∀ i ∈ l.filterMap s.tickFor, i.cut = [i] := by
    intro i hi
    obtain ⟨p, -, hp⟩ := List.mem_filterMap.mp hi
    unfold State.tickFor at hp
    split at hp
    · cases hp
      exact Item.cut_vc2 _ _
    · cases hp
  rw [List.flatMap_congr h, List.flatMap_singleton']

/-- The follower's offset from the leader that TICK `tb` over port p shows, in ns (R280). -/
def State.tickOffset (s : State) (p : Nat) (tb : BitVec 56) : Int :=
  2 * sx 56 (tb.toNat + 2 ^ 56 - s.rn rTB % 2 ^ 56) + (s.rn (rk 0 (0x4820 + s.rn (pReg p 2)) 8) : Int)

section
variable {s : State} {p : Nat} {tb : BitVec 56}

/-- Below 1 µs the follower trims its rate. -/
theorem State.takeTick_trims (h : -1000 < s.tickOffset p tb ∧ s.tickOffset p tb < 1000) :
    s.takeTick p tb =
      (s.wn rTbOffset (enc 32 (sat32 (s.tickOffset p tb)))).put_slew
        (if 2 ≤ s.tickOffset p tb then some true else if s.tickOffset p tb ≤ -2 then some false else none) :=
  if_pos h

/-- From 1 µs on it steps its timebase. -/
theorem State.takeTick_steps (h : ¬(-1000 < s.tickOffset p tb ∧ s.tickOffset p tb < 1000)) :
    s.takeTick p tb =
      ((s.wn rTbOffset (enc 32 (sat32 (s.tickOffset p tb)))).wn rTB
        (enc 64 ((s.rn rTB : Int) + s.tickOffset p tb / 2))).bump32 rTbSteps :=
  if_neg h

end

/-! FAB.LOSS_RATE -/

theorem exec_lossRateUpdate {s : State} (hclk : s.boot.refclk = true) (hhkc : s.hkcUp = true)
    (hsent : s.rn rSentAll - s.lossSnap.2 ≠ 0) :
    exec .lossRateUpdate s =
      .next (({ s with lossSnap := (s.rn rLostAll, s.rn rSentAll) }).wn (rk 0 0x2000 2)
        (rneDiv ((s.rn rLostAll - s.lossSnap.1) * 1000000000000) (s.rn rSentAll - s.lossSnap.2))) :=
  congrArg Host.Outcome.next ((State.clk_on hclk).trans ((if_pos hhkc).trans (if_neg hsent)))

/-- Settles O29: each command comes down to the operation that its hypotheses leave, read part by part. -/
theorem queueTraffic : Obligations.QueueTraffic := by
  refine ⟨?descriptor, ?credit, ?record, ?dropped, ?contribution, ?far, ?bank, ?tickSend, ?tick, ?loss⟩
  case descriptor =>
    intro t i k d rest s hup hvc1 hconn hstate haccept hcore hroom hpass
    generalize hv : s.updTile t (fun q => { q with vc1 := rest }) = v
    have hvonly : Only [.tiles] s v := hv ▸ only_updTile _ _ _
    have hqueue (sl q : Nat) : v.queue t sl q = s.queue t sl q := by
      rw [← hv, State.queue, State.tile_updTile_same]
      rfl
    have hx := exec_queueDeliver hup hvc1
    rw [State.deliverDesc_enqueues hconn hstate haccept hcore hroom, hv,
      State.enqueue_running (by rw [hvonly.coreEq (by decide)]; exact hpass)] at hx
    have hconnv : v.conn i = s.conn i := hvonly.connEq (by decide) i
    refine Completes.of (only_execQueueDeliver t s) hx (by decide) ⟨?_, ?_, ?_⟩
    · rw [State.queue_pumpVc1, ← hqueue, ← hconnv]
      exact v.queue_queued t k i d
    · rw [(only_pumpVc1 _ _).connEq (by decide), State.conn_queued, hconnv, hqueue]
    · intro hrest
      have hnil : ((v.queued t k i d).tile t).vc1 = [] := by
        rw [State.vc1_queued, ← hv, State.tile_updTile_same]
        exact hrest
      rw [State.pumpVc1_nil hnil, State.core_queued, hconnv, hqueue, hvonly.coreEq (by decide)]
      exact ⟨hnil, rfl⟩
  case credit =>
    intro i s hdue htokens hblocked
    have hnone : ∀ e ∈ s.cores, ∀ op h n id, e.2.pass ≠ .blocked op h n id := by
      intro e he op h n id hp
      have := List.any_eq_false.mp hblocked e he
      simp [hp] at this
    have hx : exec (.queueCreditReturn i) s = _ :=
      congrArg Host.Outcome.next ((if_pos hdue).trans (State.creditHome_unblocked htokens hnone))
    exact Completes.of (only_execQueueCreditReturn i s) hx (by decide)
      ⟨State.conn_updConn_same _ _ _, fun j hj => State.conn_updConn_ne _ _ hj⟩
  case record =>
    intro t i r rest s hrecs hconn hcarry hkind
    have hx := exec_recordHandoff hrecs
    rw [State.handoff_sent (by exact hconn) (by exact hcarry) (by exact hkind)] at hx
    refine Completes.of (only_execRecordHandoff t s) hx (by decide) ⟨?_, ?_, ?_⟩
    · rw [(only_inject _ _ _ _).tileEq (by decide), State.tile_updConn, State.tile_updTile_same]
    · rw [(only_inject _ _ _ _).connEq (by decide), State.conn_updConn_same, State.conn_updTile]
    · rw [State.out_inject, Item.cut_record]
      rfl
  case dropped =>
    intro t r rest s hrecs hconn
    have hx := exec_recordHandoff hrecs
    rw [State.handoff_dropped (by exact hconn)] at hx
    refine Completes.of (only_execRecordHandoff t s) hx (by decide) ⟨?_, ?_, fun j => ?_⟩
    · rw [(only_recDrop _ _ _).tileEq (by decide), State.tile_updTile_same]
    · rw [State.recDrop, (only_itemGone _ _ _).rnEq (by decide), State.rn_bump]
      rfl
    · rw [(only_recDrop _ _ _).connEq (by decide), State.conn_updTile]
  case contribution =>
    intro t i c rest s hup hvc1 hcomb hstate haccept hroom hidle
    have hbank := State.comb_takeContrib (t := t) (rest := rest) hcomb hstate haccept hroom hidle
    refine Completes.of (only_execCombContribute (.tile t) s) (exec_combContribute_tile hup hvc1) (by decide) ?_
    intro q b sum acc
    have hq : ((s.takeContrib t c rest).pumpVc1 t).comb q = (b.addLanes c.lanes).complete :=
      ((only_pumpVc1 _ _).combEq (by decide) q).trans hbank
    rw [hq]
    refine ⟨fun hmore => ?_, fun hlast hfree => ?_⟩
    · rw [Comb.complete_open hmore]
      exact ⟨rfl, Comb.acc_addLanes _ _, rfl, rfl⟩
    · rw [Comb.complete_last (b := b.addLanes c.lanes) hlast hfree, Comb.acc_addLanes]
      exact ⟨rfl, rfl, rfl, rfl⟩
  case far =>
    intro k n id h i s hpass hconn hkind hgone
    have hx : exec (.combContribute (.far k)) s = _ :=
      congrArg Host.Outcome.next (State.farContrib_accepted hpass hconn hkind hgone)
    exact ⟨_, hx, .chain (only_setCore _ _ _) (by decide) ((only_itemEnd _ _).mono (by decide)),
      State.core_setCore_same _ _ _, fun l hl => State.core_setCore_ne _ _ hl⟩
  case bank =>
    intro n t j vs s hbank htile hup hmore hidle
    have hx : exec (.combDeliver n) s = _ := congrArg Host.Outcome.next (State.deliverBank_eq hbank htile hup hidle)
    refine Completes.of (only_execCombDeliver n s) hx (by decide) ⟨?_, ?_⟩
    · rw [State.comb_updComb_same, (only_deliverAll _ _ _ _ _).combEq (by decide), Comb.delivered_open hbank hmore]
    · rw [State.node_updComb]
      exact s.out_deliverAll t n j vs
  case tickSend =>
    intro s hclk hlead hmember
    refine Completes.of (only_execTickSend s) (exec_tickSend hclk hlead hmember) (by decide) ?_
    rw [State.out_ticks, State.cut_tickFor, ← List.filterMap_eq_map, List.filterMap_filter]
    rfl
  case tick =>
    intro p dev tb s hclk hfollow hdev hport hup
    have hx : exec (.tick p dev tb) s = .next (s.takeTick p tb) :=
      congrArg Host.Outcome.next ((State.clk_on hclk).trans (if_pos (by simp [hfollow, hdev.symm, hport, hup])))
    refine Completes.of (only_execTick p dev tb s) hx (by decide) ?_
    intro off
    by_cases hsmall : -1000 < off ∧ off < 1000
    · rw [State.takeTick_trims hsmall]
      refine ⟨?_, fun _ => ⟨?_, ?_, rfl⟩, fun h => absurd hsmall h⟩
      · rw [(Only.set_slew _ _).rdEq (by decide), State.rd_wn_same]
        rfl
      · rw [(Only.set_slew _ _).rnEq (by decide), State.rn_wn_ne _ _ (by decide)]
      · rw [(Only.set_slew _ _).rdEq (by decide), State.rd_wn_ne _ _ (by decide)]
    · rw [State.takeTick_steps hsmall]
      refine ⟨?_, fun h => absurd h hsmall, fun _ => ⟨?_, ?_⟩⟩
      · rw [State.bump32, State.rd_bumpBy_ne _ _ _ (by decide), State.rd_wn_ne _ _ (by decide), State.rd_wn_same]
        rfl
      · rw [State.rn_bump32, State.rn_wn_ne _ _ (by decide), State.rn_wn_ne _ _ (by decide)]
      · rw [State.bump32, State.rd_bumpBy_ne _ _ _ (by decide), State.rd_wn_same]
        rfl
  case loss =>
    intro s hclk hhkc hsent
    refine ⟨_, exec_lossRateUpdate hclk hhkc hsent, ?_, rfl, State.rd_wn_same _ _ _⟩
    exact .chain (only_wn _ _ _) (by decide) ((Only.set_lossSnap s _).mono (by decide))

end Sys2Proof.Machine
end

section
/-! PROOF. Host output rings and host descriptor rings (07 R232 to R238, R243). -/

namespace Sys2Proof.Machine

/-- Two registers of one ring differ. -/
theorem hReg_ne {r a b : Nat} (h : a < 256 ∧ b < 256 ∧ a ≠ b) : hReg r a ≠ hReg r b := rk_sub h.1 h.2.1 h.2.2

theorem dReg_ne {r a b : Nat} (h : a < 256 ∧ b < 256 ∧ a ≠ b) : dReg r a ≠ dReg r b := rk_sub h.1 h.2.1 h.2.2

/-! The producer position and the ring's vector -/

section
variable (s : State) (r n : Nat)

theorem State.rn_hAdvance : (s.hAdvance r n).rn (hReg r 8) = (s.rn (hReg r 8) + n) % 2 ^ 32 := by
  rw [State.hAdvance, State.rn_def, State.rd_hwm_ne _ _ (hReg_ne (by decide)),
    State.rd_updHring, ← State.rn_def, State.rn_wn_lt _ _ (by omega)]

theorem State.hring_hAdvance : (s.hAdvance r n).hring r = { s.hring r with seq := (s.hring r).seq + 1 } := by
  rw [State.hAdvance, (only_hwm _ _ _).hringEq (by decide), State.hring_updHring_same, State.hring_wn]

theorem State.hring_hRaise : (s.hRaise r).hring r = { s.hring r with since := 0 } := by
  rw [State.hRaise, State.hring_updHring_same, (only_raise _ _).hringEq (by decide)]

/-- Counting toward THRESH changes of the ring only what it counts (R235). -/
theorem State.hring_hCount :
    ((s.hCount r).hring r).staged = (s.hring r).staged ∧ ((s.hCount r).hring r).seq = (s.hring r).seq := by
  unfold State.hCount
  extract_lets u
  have hu : u.hring r = { s.hring r with since := (s.hring r).since + 1 } := State.hring_updHring_same _ _ _
  split
  · rw [State.hring_hRaise, hu]
    exact ⟨rfl, rfl⟩
  · rw [hu]
    exact ⟨rfl, rfl⟩

/-- Raising a vector leaves the messages that wait for their staging. -/
theorem State.wait_raise (v : Nat) : (s.raise v).pcie.wait = s.pcie.wait := by
  unfold State.raise
  split_ifs <;> rfl

theorem State.wait_hCount : (s.hCount r).pcie.wait = s.pcie.wait := by
  unfold State.hCount State.hRaise
  extract_lets u
  split
  · rw [State.pcie_updHring, State.wait_raise]
    rfl
  · rfl

end

/-! What the island writes -/

/-- The bytes of the further frames of message m (Table 7.10). -/
def HMsg.body (m : HMsg) : Bytes := if m.kind = 3 then (m.frames.map fun w => leBytes 8 w.toNat).flatten else []

theorem length_flatten_words (ws : List W64) : (ws.map fun w => leBytes 8 w.toNat).flatten.length = 8 * ws.length := by
  induction ws with
  | nil => rfl
  | cons w ws ih => rw [List.map_cons, List.flatten_cons, List.length_append, leBytes_length, ih,
      List.length_cons]; omega

theorem HMsg.length_body (m : HMsg) : m.body.length = if m.kind = 3 then 8 * m.frames.length else 0 := by
  unfold HMsg.body
  split
  · exact length_flatten_words _
  · rfl

/-- Where the next frame of ring r goes in host memory. -/
def State.hAddr (s : State) (r : Nat) : Nat := s.rn (hReg r 1) + 16 * s.hPos r

/-- The header frame of a message of ring r with these fields (Table 7.9). -/
def State.hHeader (s : State) (r word0 dev lcid neuron kind len : Nat) : Bytes :=
  leBytes 8 word0 ++ leBytes 8 (headerWord1 (s.hring r).seq.toNat dev lcid neuron kind
    (lapPhase (s.rn (hReg r 8)) (s.hFrames r)) false false len).toNat

theorem State.length_hHeader (s : State) (r word0 dev lcid neuron kind len : Nat) :
    (s.hHeader r word0 dev lcid neuron kind len).length = 16 := by
  rw [State.hHeader, List.length_append, leBytes_length, leBytes_length]

/-- The header frame of message m, neither late nor converted. -/
def State.msgHeader (s : State) (r : Nat) (m : HMsg) : Bytes :=
  s.hHeader r (m.value.toNat * 2 ^ 32 + m.step.toNat) m.dev m.lcid.toNat m.neuron.toNat m.kind m.len

/-- Message m has left the ring: what step closure and FENCE wait for (02 R60, R78). -/
def State.msgEnd (s : State) (m : HMsg) : State :=
  match m.item with
  | some (id, _, counted) => (if counted then s.addAcc 88 (m.step.toNat % 4) 1 else s).itemEnd id
  | none => s

theorem only_msgEnd (s : State) (m : HMsg) : Only [.nodes, .live] s (s.msgEnd m) := by
  unfold State.msgEnd
  split
  · exact .chain (only_itemEnd _ _) (by decide) (.ite ((only_addAcc _ _ _ _).mono (by decide)) (.refl _ _))
  · exact .refl _ _

/-- A message that needs no conversion is written as it is: further frames first, header last (R234). -/
theorem State.writeMsg_plain {s : State} {r : Nat} {m : HMsg} (hlate : s.lateMsg m = false) (hkind : m.kind ≠ 4)
    (hgroup : m.kind = 3 ∨ m.group = 0) :
    s.writeMsg r m =
      (((((s.toHost (s.hAddr r + 16) m.body).toHost (s.hAddr r) (s.msgHeader r m)).bump (hReg r 0x0A)).hAdvance r
        m.len).hCount r).msgEnd m := by
  have hplain : (if m.kind = 3 then 0 else m.group) = 0 := by
    split
    · rfl
    · exact hgroup.resolve_left ‹_›
  have hbody : (if m.kind = 3 ∨ m.kind = 4 then bodyBytes m.kind m.frames [m.value] else []) = m.body := by
    simp only [hkind, or_false, HMsg.body, bodyBytes, if_false]
  simp only [State.writeMsg, hlate, if_neg hkind, hplain, State.scaledAll, State.scaled, Bool.false_eq_true, if_false,
    if_true, hbody]
  rfl

/-- What the ring and the host's memory hold once message m has been written. -/
theorem State.writeMsg_ring {s : State} {r : Nat} {m : HMsg} (hlate : s.lateMsg m = false) (hkind : m.kind ≠ 4)
    (hgroup : m.kind = 3 ∨ m.group = 0) :
    (s.writeMsg r m).hostMem = (s.hostMem.wrBytes (s.hAddr r + 16) m.body).wrBytes (s.hAddr r) (s.msgHeader r m) ∧
      (s.writeMsg r m).rn (hReg r 8) = (s.rn (hReg r 8) + m.len) % 2 ^ 32 ∧
      ((s.writeMsg r m).hring r).staged = (s.hring r).staged ∧
      ((s.writeMsg r m).hring r).seq = (s.hring r).seq + 1 ∧
      (s.writeMsg r m).pcie.wait = s.pcie.wait := by
  rw [State.writeMsg_plain hlate hkind hgroup]
  generalize hu : ((s.toHost (s.hAddr r + 16) m.body).toHost (s.hAddr r) (s.msgHeader r m)).bump (hReg r 0x0A) = u
  have hend := only_msgEnd ((u.hAdvance r m.len).hCount r) m
  have hcount := only_hCount (u.hAdvance r m.len) r
  have hadvance := only_hAdvance u r m.len
  have hput : Only [.hostMem] s ((s.toHost (s.hAddr r + 16) m.body).toHost (s.hAddr r) (s.msgHeader r m)) :=
    (only_toHost _ _ _).trans (only_toHost _ _ _)
  have hring : u.hring r = s.hring r := by rw [← hu, State.hring_bump, hput.hringEq (by decide)]
  refine ⟨?_, ?_, ?_, ?_, ?_⟩
  · have hmem : ((u.hAdvance r m.len).hCount r).hostMem = u.hostMem :=
      (hcount.same .hostMem (by decide)).trans (hadvance.same .hostMem (by decide))
    rw [hend.same .hostMem (by decide), hmem, ← hu, State.hostMem_bump]
    rfl
  · rw [hend.rnEq (by decide), hcount.rnEq (by decide), State.rn_hAdvance, ← hu, State.bump,
      State.rn_bumpBy_ne _ _ _ (hReg_ne (by decide)), hput.rnEq (by decide)]
  · rw [hend.hringEq (by decide), (State.hring_hCount _ _).1, State.hring_hAdvance, hring]
  · rw [hend.hringEq (by decide), (State.hring_hCount _ _).2, State.hring_hAdvance, hring]
  · have hpcie : (u.hAdvance r m.len).pcie = u.pcie := hadvance.same .pcie (by decide)
    rw [hend.same .pcie (by decide), State.wait_hCount, hpcie, ← hu, State.pcie_bump, hput.same .pcie (by decide)]

/-- What the ring and the host's memory hold once a PAD has been written (R236). -/
theorem State.writePad_ring (s : State) (r tail : Nat) :
    (s.writePad r tail).hostMem = s.hostMem.wrBytes (s.hAddr r) (s.hHeader r (tail * 2 ^ 32) 0 0 0 0 1) ∧
      (s.writePad r tail).rn (hReg r 8) = (s.rn (hReg r 8) + tail) % 2 ^ 32 ∧
      (s.writePad r tail).hring r = { s.hring r with seq := (s.hring r).seq + 1 } := by
  refine ⟨?_, ?_, ?_⟩
  · have hadvance :=
      only_hAdvance ((s.toHost (s.hAddr r) (s.hHeader r (tail * 2 ^ 32) 0 0 0 0 1)).bump (hReg r 0x0B)) r tail
    exact (hadvance.same .hostMem (by decide)).trans (State.hostMem_bump _ _)
  · rw [State.writePad, State.rn_hAdvance, State.bump,
      State.rn_bumpBy_ne _ _ _ (hReg_ne (by decide)), (only_toHost _ _ _).rnEq (by decide)]
  · rw [State.writePad, State.hring_hAdvance, State.hring_bump, (only_toHost _ _ _).hringEq (by decide)]

/-! Which write comes next -/

section
variable {s : State} {r : Nat} {m : HMsg} {rest : List HMsg} (hstaged : (s.hring r).staged = m :: rest)
  (hroom : s.hBlocked r = false)
include hstaged hroom

theorem State.hringStep_message (hlate : s.lateMsg m = false) (hfits : m.len ≤ s.hFrames r - s.hPos r) :
    s.hringStep r = (s.updHring r fun h => { h with staged := rest }).writeMsg r m := by
  simp only [State.hringStep, hstaged, hroom, hlate, Bool.false_and, Bool.false_eq_true, if_false,
    if_neg (Nat.not_lt.mpr hfits)]

theorem State.hringStep_pad (hlate : s.lateMsg m = false) (hlong : s.hFrames r - s.hPos r < m.len) :
    s.hringStep r = s.writePad r (s.hFrames r - s.hPos r) := by
  simp only [State.hringStep, hstaged, hroom, hlate, Bool.false_and, Bool.false_eq_true, if_false, if_pos hlong]

/-- A late record is dropped by policy (R240). -/
theorem State.hringStep_late (hlate : s.lateMsg m = true) (hpolicy : s.rn rLateAction = 1) :
    ∃ u, s.hringStep r = u ∧
      Only [.nodes, .live] ((s.updHring r fun h => { h with staged := rest }).bump (rStep 5)) u := by
  refine ⟨_, rfl, ?_⟩
  simp only [State.hringStep, hstaged, hroom, hlate, hpolicy, Bool.true_and, decide_true, Bool.false_eq_true, if_false,
    if_true]
  split
  · exact .chain (only_itemEnd _ _) (by decide) ((only_addAcc _ _ _ _).mono (by decide))
  · exact .refl _ _

end

/-- Nothing waits to be staged. -/
theorem State.stageNext_nil {s : State} (h : s.pcie.wait = []) : s.stageNext = s := by
  have hpcie : { s.pcie with wait := [] } = s.pcie := by rw [← h]
  rw [State.stageNext, h, State.stageWait, hpcie]

/-- The island's write, while no message waits for its staging and no connection closes. -/
theorem exec_hringWrite {s : State} {r : Nat} (hclk : s.boot.refclk = true) (hon : s.hringOn r = true)
    (hok : s.hostOk = true) (hup : s.domUp 77 = true)
    (hidle : (s.conns.all fun e => decide (e.2.state ≠ .closing)) = true) (hwait : (s.hringStep r).pcie.wait = []) :
    exec (.hringWrite r) s = .next (s.hringStep r) := by
  have hrun : exec (.hringWrite r) s = .next (s.hringStep r).stageNext.closeCheck :=
    congrArg Host.Outcome.next ((State.clk_on hclk).trans (if_pos (by rw [hon, hok, hup]; rfl)))
  rw [hrun, State.stageNext_nil hwait, State.closeCheck_of_only hidle (only_hringStep s r) (by decide)]

/-! Commands of a ring -/

section
variable {s u : State} (h : s.PathEq u)
include h

theorem State.PathEq.hUsed (r : Nat) : u.hUsed r = s.hUsed r := by obtain ⟨X, rfl⟩ := h; rfl
theorem State.PathEq.hringOn (r : Nat) : u.hringOn r = s.hringOn r := by obtain ⟨X, rfl⟩ := h; rfl
theorem State.PathEq.hringNamed (r : Nat) : u.hringNamed r = s.hringNamed r := by obtain ⟨X, rfl⟩ := h; rfl
theorem State.PathEq.ringRange (a b : Nat) : u.ringRange a b = s.ringRange a b := by obtain ⟨X, rfl⟩ := h; rfl
theorem State.PathEq.dEntries (r : Nat) : u.dEntries r = s.dEntries r := by obtain ⟨X, rfl⟩ := h; rfl
theorem State.PathEq.dringLeft (r : Nat) : u.dringLeft r = s.dringLeft r := by obtain ⟨X, rfl⟩ := h; rfl

end

theorem State.hringOn_def (s : State) (r : Nat) : s.hringOn r = decide (s.rn (hReg r 7) = 1) := rfl

/-- DISABLE of an enabled ring asks that nothing names it and nothing is staged for it (R243). -/
theorem hringDisableAct_on {s : State} {r : Nat} (hon : s.hringOn r = true) :
    hringDisableAct r s =
      guardAct [(s.hringNamed r || !(s.hring r).staged.isEmpty || s.pcie.wait.any fun q => decide (q.1 = r), .busy)] s
        fun s => okAct ((s.wn (hReg r 7) 0).updHring r fun h => { h with forced := false }) :=
  if_neg (by simp [hon])

/-- One condition that holds refuses the access with its status. -/
theorem guardAct_one (st : Status) (s : State) (f : State → Reply) (hst : Status.pick st .ok ≠ .ok) :
    guardAct [(true, st)] s f = .refuse (Status.pick st .ok) :=
  if_neg hst

/-- Ring r is disabled by force, and what was staged is being discarded. -/
def State.hringCut (s : State) (r : Nat) : State :=
  (s.wn (hReg r 7) 0).updHring r fun h => { h with staged := [], forced := true }

theorem only_hringDrops (s : State) (r : Nat) (l : List HMsg) :
    Only [.regs, .nodes, .live] s (l.foldl (fun s m => s.hringDrop r m) s) :=
  Only.foldl (.refl _ _) fun _ _ h => h.trans (only_hringDrop _ _ _)

/-- Of the ring's registers, a dropped message changes HRING.DISCARD only. -/
theorem State.rd_hringDrops (r k : Nat) (hk : k ≠ hReg r 0x0E) (l : List HMsg) (s : State) :
    (l.foldl (fun s m => s.hringDrop r m) s).rd k = s.rd k :=
  foldl_rel (fun s t : State => t.rd k = s.rd k) (fun _ => rfl)
    (fun _ _ _ (hab : _ = _) (hbc : _ = _) => hbc.trans hab) _
    (fun s m => ((only_msgEnd (s.bump (hReg r 0x0E)) m).rdEq (by decide) k).trans (State.rd_bumpBy_ne _ _ _ hk)) l s

/-- FORCE_DISABLE, while no message waits for its staging and no connection closes (R243). -/
theorem State.hringForce_eq {s : State} {r : Nat} (hwait : s.pcie.wait = [])
    (hidle : (s.conns.all fun e => decide (e.2.state ≠ .closing)) = true) :
    s.hringForce r = (s.hring r).staged.foldl (fun s m => s.hringDrop r m) (s.hringCut r) := by
  have honly := only_hringDrops (s.hringCut r) r (s.hring r).staged
  have hcut : Only [.regs, .hrings] s (s.hringCut r) :=
    .chain (only_updHring _ _ _) (by decide) ((only_wn _ _ _).mono (by decide))
  have hwait' : ((s.hring r).staged.foldl (fun s m => s.hringDrop r m) (s.hringCut r)).pcie.wait = [] := by
    rw [honly.same .pcie (by decide), hcut.same .pcie (by decide), hwait]
  have hforce : s.hringForce r =
      ((s.hring r).staged.foldl (fun s m => s.hringDrop r m) (s.hringCut r)).stageNext.closeCheck := rfl
  rw [hforce, State.stageNext_nil hwait', State.closeCheck_of_only hidle (W := [.regs, .nodes, .hrings, .live])
    (.chain honly (by decide) (hcut.mono (by decide))) (by decide)]

/-! Descriptor rings -/

theorem State.posts_postDesc (s : State) (st : Status) (handle ring entry : Nat) :
    s.Posts (s.postDesc st handle ring entry) 8 st.code 0 (w64 (handle % 65536 + ring % 64 * 2 ^ 16)) (w64 entry) :=
  s.posts_post _ _ _ _ _

/-- A ring that may fetch hands on the entry, or turns it away with a DESC record (R238). -/
theorem exec_dringFetch {s : State} {r i : Nat} (d : Bytes)
    (hclk : s.boot.refclk = true) (hready : s.dringReady r = some i) :
    exec (.dringFetch r d) s = .next
      (if descCheck (descWords d) = .ok then
        (s.wn (dReg r 6) ((s.rn (dReg r 6) + 1) % 2 ^ 32)).takeDesc i 88 0 r false (descWords d)
      else ((s.wn (dReg r 6) ((s.rn (dReg r 6) + 1) % 2 ^ 32)).bump (rk 0 0x3802 3)).postDesc (descCheck (descWords d))
        ((s.conn i).handle i).toNat r (s.rn (dReg r 6))) := by
  refine congrArg Host.Outcome.next ((State.clk_on hclk).trans ?_)
  simp only [hready]

/-- Settles O30: each write of the island by which write comes next, each command of a ring by what its entry does in the
    opened window, the fetch by what the checks on the descriptor find. -/
theorem hostRings : Obligations.HostRings := by
  refine ⟨?message, ?pad, ?late, ?holdoff, ?cons, ?enable, ?disable, ?named,
    ?force, ?dEnable, ?dDisable, ?dProd, ?fetch⟩
  case message =>
    intro r m rest s hclk hon hok hup hstaged hroom hlate hkind hgroup hfits hwait hidle
    obtain ⟨hmem, hprod, hrest, hseq, hwait'⟩ :=
      State.writeMsg_ring (s := s.updHring r fun h => { h with staged := rest }) (r := r) hlate hkind hgroup
    rw [← State.hringStep_message hstaged hroom hlate hfits] at hmem hprod hrest hseq hwait'
    have hx := exec_hringWrite hclk hon hok hup hidle (hwait'.trans hwait)
    rw [State.hring_updHring_same] at hrest hseq
    have hheader : (s.updHring r fun h => { h with staged := rest }).msgHeader r m = s.msgHeader r m := by
      rw [State.msgHeader, State.hHeader, State.hring_updHring_same]
      rfl
    rw [hheader] at hmem
    have hlen : (s.msgHeader r m).length = 16 := State.length_hHeader _ _ _ _ _ _ _ _
    refine ⟨_, hx, only_hringStep s r, ?_⟩
    beta_reduce
    intro a w1
    rw [hmem]
    refine ⟨?_, fun hdesc hframes => ?_, fun x hx => ?_, hprod, hrest, hseq⟩
    · have hread := Mem.rdBytes_wrBytes_same (s.hostMem.wrBytes (a + 16) m.body) a (s.msgHeader r m)
      rw [hlen] at hread
      exact hread
    · have hbody : m.body = (m.frames.map fun w => leBytes 8 w.toNat).flatten := if_pos hdesc
      have hlen32 : m.body.length = 32 := by rw [HMsg.length_body, if_pos hdesc, hframes]
      have hread := Mem.rdBytes_wrBytes_same s.hostMem (a + 16) m.body
      rw [hlen32] at hread
      rw [← hbody]
      exact (Mem.rdBytes_wrBytes_out _ a _ (by rw [hlen]; exact .inr (Nat.le_refl _))).trans hread
    · rw [← HMsg.length_body] at hx
      exact (Mem.rd_wrBytes_out _ a _ (by rw [hlen]; omega)).trans (Mem.rd_wrBytes_out _ (a + 16) _ (by omega))
  case pad =>
    intro r m rest s hclk hon hok hup hstaged hroom hlate hlong hwait hidle
    have hstep := State.hringStep_pad hstaged hroom hlate hlong
    obtain ⟨hmem, hprod, hring⟩ := s.writePad_ring r (s.hFrames r - s.hPos r)
    have honly := only_writePad s r (s.hFrames r - s.hPos r)
    rw [← hstep] at hmem hprod hring honly
    have hx := exec_hringWrite (r := r) hclk hon hok hup hidle (by rw [honly.same .pcie (by decide)]; exact hwait)
    have hlen := s.length_hHeader r ((s.hFrames r - s.hPos r) * 2 ^ 32) 0 0 0 0 1
    refine ⟨_, hx, honly, ?_⟩
    beta_reduce
    intro a tail
    rw [hmem, hring]
    refine ⟨?_, fun x hx => Mem.rd_wrBytes_out _ a _ (by rw [hlen]; exact hx), hprod, rfl, rfl⟩
    have hread := Mem.rdBytes_wrBytes_same s.hostMem a (s.hHeader r (tail * 2 ^ 32) 0 0 0 0 1)
    rw [hlen] at hread
    exact hread
  case late =>
    intro r m rest s hclk hon hok hup hstaged hroom hlate hpolicy hwait hidle
    obtain ⟨u, hstep, honly⟩ := State.hringStep_late hstaged hroom hlate hpolicy
    have hx := exec_hringWrite (r := r) hclk hon hok hup hidle
      (by rw [hstep, honly.same .pcie (by decide)]; exact hwait)
    rw [hstep] at hx
    refine ⟨u, hx, ?_, ?_, ?_⟩
    · exact .chain honly (by decide) <| .chain (only_bump _ _) (by decide) <| (only_updHring _ _ _).mono (by decide)
    · rw [honly.hringEq (by decide), State.hring_bump, State.hring_updHring_same]
    · rw [honly.rnEq (by decide), State.rn_bump]
      rfl
  case holdoff =>
    intro r s hclk hsince
    have hx : exec (.hringHoldoffExpire r) s = .next (s.hRaise r) :=
      congrArg Host.Outcome.next ((State.clk_on hclk).trans (if_pos hsince))
    exact ⟨_, hx, only_hRaise s r, s.hring_hRaise r, rfl⟩
  case cons =>
    intro p r v s hs hle
    refine Completes.dictOk (only_hringConsAct r v.toNat) rfl hs (by decide) (by decide) fun u hu _ =>
      ⟨_, guardAct_ok (guard_nil (by simpa [hu.hUsed, hu.rn] using hle)), fun w hw ha => ⟨ha, ?_, fun k hk => ?_⟩⟩
    · rw [hw.rn, State.rn_wn_lt _ _ (by omega)]
    · rw [hw.rd, State.rd_wn_ne _ _ hk, hu.rd]
  case enable =>
    intro p r s hs hoff hrange
    refine Completes.dictOk (only_hringEnableAct r) rfl hs (by decide) (by decide) fun u hu _ =>
      ⟨_, guardAct_ok (guard_nil (by simp [hu.hringOn, hoff, hu.ringRange, hrange])),
        fun w hw ha => ⟨ha, ?_, ?_, ?_, ?_⟩⟩
    · rw [State.hringOn_def, hw.rn, State.rn_def, State.rd_updHring, ← State.rn_def,
        State.rn_wn_ne _ _ (hReg_ne (by decide)),
        State.rn_wn_ne _ _ (hReg_ne (by decide)), State.rn_wn_lt _ _ (by decide)]
      rfl
    · rw [hw.rn, State.rn_def, State.rd_updHring, ← State.rn_def,
        State.rn_wn_ne _ _ (hReg_ne (by decide)), State.rn_wn_lt _ _ (by decide)]
    · rw [hw.rn, State.rn_def, State.rd_updHring, ← State.rn_def, State.rn_wn_lt _ _ (by decide)]
    · rw [hw.hring, State.hring_updHring_same]
      rfl
  case disable =>
    intro p r s hs hon hnamed hstaged hwait
    refine Completes.dictOk (only_hringDisableAct r) rfl hs (by decide) (by decide) fun u hu _ =>
      ⟨_, (hringDisableAct_on ((hu.hringOn r).trans hon)).trans (guardAct_ok (guard_nil ?_)),
        fun w hw ha => ⟨ha, ?_, ?_, fun k hk => ?_⟩⟩
    · rw [hu.hringNamed, hnamed, hu.hring, hstaged, hu.pcie, hwait]
      rfl
    · rw [State.hringOn_def, hw.rn, State.rn_def, State.rd_updHring, ← State.rn_def, State.rn_wn_lt _ _ (by decide)]
      rfl
    · rw [hw.hring, State.hring_updHring_same, State.hring_wn, hu.hring]
    · rw [hw.rd, State.rd_updHring, State.rd_wn_ne _ _ hk, hu.rd]
  case named =>
    intro p r s hs hon hnamed
    refine Completes.dictRefuse rfl hs (by decide) rfl (fun u hu => ?_) fun w ha => ha
    rw [hringDisableAct_on ((hu.hringOn r).trans hon), hu.hringNamed, hnamed]
    exact guardAct_one .busy _ _ (by decide)
  case force =>
    intro p r s hs hon hwait hidle
    refine Completes.dict rfl hs (by decide) fun u hu =>
      ⟨(u.hring r).staged.foldl (fun s m => s.hringDrop r m) (u.hringCut r), ?_, ?_, fun w hw ha => ⟨ha, ?_, ?_⟩⟩
    · rw [hringForceAct, if_pos ((hu.hringOn r).trans hon),
        State.hringForce_eq (by rw [hu.pcie, hwait]) (by rw [hu.conns]; exact hidle)]
      rfl
    · exact .chain (only_hringDrops _ _ _) (by decide) <| .chain (only_updHring _ _ _) (by decide) <|
        (only_wn _ _ _).mono (by decide)
    · rw [State.hringOn_def, hw.rn, State.rn_def, State.rd_hringDrops _ _ (hReg_ne (by decide)),
        State.hringCut, State.rd_updHring, ← State.rn_def, State.rn_wn_lt _ _ (by decide)]
      rfl
    · rw [hw.hring, (only_hringDrops _ _ _).hringEq (by decide), State.hringCut, State.hring_updHring_same]
      exact ⟨rfl, rfl⟩
  case dEnable =>
    intro p r s hs hoff hrange
    refine Completes.dictOk (only_dringEnableAct r) rfl hs (by decide) (by decide) fun u hu _ =>
      ⟨_, guardAct_ok (guard_nil (by simp [hu.rn, hoff, hu.ringRange, hrange])), fun w hw ha => ⟨ha, ?_, ?_, ?_⟩⟩
    · rw [hw.rn, State.rn_wn_ne _ _ (dReg_ne (by decide)),
        State.rn_wn_ne _ _ (dReg_ne (by decide)), State.rn_wn_lt _ _ (by decide)]
    · rw [hw.rn, State.rn_wn_ne _ _ (dReg_ne (by decide)), State.rn_wn_lt _ _ (by decide)]
    · rw [hw.rn, State.rn_wn_lt _ _ (by decide)]
  case dDisable =>
    intro p r s hs hon hunbound
    refine Completes.dictOk (only_dringDisableAct r) rfl hs (by decide) (by decide) fun u hu _ =>
      ⟨_, (if_neg (by rw [hu.rn]; exact hon)).trans (guardAct_ok (guard_nil (by simp [hu.rn, hunbound]))),
        fun w hw ha => ⟨ha, ?_, fun k hk => ?_⟩⟩
    · rw [hw.rn, State.rn_wn_lt _ _ (by decide)]
    · rw [hw.rd, State.rd_wn_ne _ _ hk, hu.rd]
  case dProd =>
    intro p r v s hs hfits hback
    refine Completes.dictOk (only_dringProdAct r v.toNat) rfl hs (by decide) (by decide) fun u hu _ =>
      ⟨_, guardAct_ok (guard_nil (by simpa [hu.dEntries, hu.dringLeft, hu.rn] using ⟨hfits, hback⟩)),
        fun w hw ha => ⟨ha, ?_, fun k hk => ?_⟩⟩
    · rw [hw.rn, State.rn_wn_lt _ _ (by omega)]
    · rw [hw.rd, State.rd_wn_ne _ _ hk, hu.rd]
  case fetch =>
    intro r i d s hclk hready
    have hx := exec_dringFetch d hclk hready
    by_cases hok : descCheck (descWords d) = .ok
    · rw [if_pos hok] at hx
      refine Completes.of (only_execDringFetch r d s) hx (by decide) ⟨?_, fun _ => ?_, fun h => absurd hok h⟩
      · rw [(only_takeDesc _ _ _ _ _ _ _).rnEq (by decide), State.rn_wn_lt _ _ (by omega)]
      · obtain ⟨m, hout, hwords, -, -⟩ :=
          (s.wn (dReg r 6) ((s.rn (dReg r 6) + 1) % 2 ^ 32)).node_takeDesc i 88 0 r false (descWords d)
        exact ⟨m, hwords, hout, State.conn_takeDesc_same _ _ _ _ _ _ _⟩
    · rw [if_neg hok] at hx
      refine Completes.of (only_execDringFetch r d s) hx (by decide)
        ⟨?_, fun h => absurd h hok, fun _ => ⟨?_, ?_, ?_⟩⟩
      · have hkey : dReg r 6 / 256 ≠ 0x0111 := by unfold dReg rk; omega
        have hbad : dReg r 6 ≠ rk 0 0x3802 3 := rk_sub (by decide) (by decide) (by decide)
        rw [State.postDesc, State.rn_post _ _ _ _ _ _ hkey, State.bump, State.rn_bumpBy_ne _ _ _ hbad,
          State.rn_wn_lt _ _ (by omega)]
      · exact (only_postDesc _ _ _ _ _).same .conns (by decide)
      · exact (only_postDesc _ _ _ _ _).same .nodes (by decide)
      · have htb : rTB ≠ dReg r 6 := rk_sub (by decide) (by decide) (by decide)
        have honly : Only [.regs] s ((s.wn (dReg r 6) ((s.rn (dReg r 6) + 1) % 2 ^ 32)).bump (rk 0 0x3802 3)) :=
          (only_wn _ _ _).trans (only_bump _ _)
        refine (State.posts_postDesc _ _ _ _ _).congr (honly.same .log (by decide))
          (honly.same .straps (by decide)) ?_ rfl
        rw [State.bump, State.rd_bumpBy_ne _ _ _ (by decide), State.rd_wn_ne _ _ htb]

end Sys2Proof.Machine
end

section
/-! PROOF. The step on an empty queue: one 2 ns tick of the timebase (08 R280, 10 R347, 14 R470; log 1). -/

namespace Sys2Proof.Machine

/-! What leaves SYS.TB as it reads -/

/-- SYS.TB reads the same in both states. -/
def State.KeepsTB (s t : State) : Prop := t.rd rTB = s.rd rTB

namespace State.KeepsTB

theorem refl (s : State) : s.KeepsTB s := rfl

theorem trans {s t u : State} (h : s.KeepsTB t) (g : t.KeepsTB u) : s.KeepsTB u := Eq.trans g h

/-- SYS.TB is a register. -/
theorem of {W : List Part} {s t : State} (h : Only W s t) (hw : W.contains .regs = false) : s.KeepsTB t :=
  h.rdEq hw rTB

/-- SYS.TB has subindex 7. -/
theorem wn (s : State) {bank idx sub : Nat} (v : Nat) (h : sub < 256 ∧ 7 ≠ sub) : s.KeepsTB (s.wn (rk bank idx sub) v) :=
  State.rd_wn_ne s v (rk_sub (by decide) h.1 h.2)

theorem bumpBy (s : State) {bank idx sub : Nat} (w n : Nat) (h : sub < 256 ∧ 7 ≠ sub) :
    s.KeepsTB (s.bumpBy w (rk bank idx sub) n) :=
  wn s _ h

theorem foldl {α : Type} {f : State → α → State} (h : ∀ s a, KeepsTB s (f s a)) (l : List α) (s : State) :
    s.KeepsTB (l.foldl f s) :=
  foldl_rel KeepsTB refl (fun _ _ _ => trans) f h l s

theorem ite {s t u : State} {c : Prop} [Decidable c] (h : s.KeepsTB t) (g : s.KeepsTB u) :
    s.KeepsTB (if c then t else u) := by
  split
  · exact h
  · exact g

/-! The timers -/

theorem trigger (s : State) (hits : List Nat) (m : Nat) : s.KeepsTB (s.trigger hits m) := by
  unfold State.trigger
  refine ite ?_ (ite ?_ (ite ?_ (refl s)))
  · exact ((wn s 0 (by decide)).trans (wn _ 0 (by decide))).trans (bumpBy _ 32 1 (by decide))
  · exact (wn s 1 (by decide)).trans (wn _ _ (by decide))
  · exact (wn s 0 (by decide)).trans (wn _ 0 (by decide))

theorem triggers (s : State) (hits : List Nat) : s.KeepsTB (s.triggers hits) := foldl (fun s m => trigger s hits m) _ s

theorem setFlag (s : State) (n b : Nat) : s.KeepsTB (s.setFlag n b) :=
  (wn s _ (by decide)).trans (of (Only.set_hits _ _) (by decide))

theorem stepSource (s : State) (src : Nat) : s.KeepsTB (s.stepSource src) :=
  ite (refl s) (ite (of (only_placeDeadline s) (by decide)) (bumpBy s 64 1 (by decide)))

theorem matched (s : State) (n k : Nat) : s.KeepsTB (s.matched n k) := by
  have hraise : s.KeepsTB ((s.setFlag n (k + 1)).raise ((s.setFlag n (k + 1)).rn (tmr n (7 + k)))) :=
    (setFlag s n (k + 1)).trans (of (only_raise _ _) (by decide))
  exact ite (hraise.trans (stepSource _ _)) hraise

/-- What comes with the matches of a tick leaves SYS.TB as it reads. A structure of its own keeps the kernel from
    evaluating the pair when it compares two projections of it. -/
structure Fst (s : State) (r : State × List Nat) : Prop where
  keeps : s.KeepsTB r.1

theorem compare (s : State) (n k : Nat) (wrapped : Bool) (hits : List Nat) : Fst s (s.compare n k wrapped hits) := by
  unfold State.compare
  extract_lets now was t
  have ht : s.KeepsTB t := of (Only.set_was _ _) (by decide)
  split
  · exact ⟨ht.trans (matched t n k)⟩
  · exact ⟨ht⟩

theorem tickFrom (fuel n : Nat) (s : State) (hits : List Nat) : Fst s (State.tickFrom fuel n s hits) := by
  induction fuel generalizing n s hits with
  | zero => exact ⟨refl s⟩
  | succ fuel ih =>
    rw [State.tickFrom]
    split
    · exact ⟨refl s⟩
    generalize s.rn (tmr n 3) = count, s.rn (tmr n 4) = reload
    extract_lets _ _ wrapped s1 s2 r1 r2
    have h1 : s.KeepsTB s1 := ite ((setFlag s n 0).trans (bumpBy _ 32 1 (by decide))) (refl s)
    have h2 : s.KeepsTB s2 := h1.trans (wn s1 _ (by decide))
    clear_value s2
    have h3 : Fst s r1 := by
      unfold r1
      split
      · exact ⟨h2.trans (ih _ _ _).keeps⟩
      · exact ⟨h2⟩
    clear_value r1
    have h4 : Fst s r2 := ⟨h3.keeps.trans (compare _ _ _ _ _).keeps⟩
    clear_value r2
    exact ⟨h4.keeps.trans (compare _ _ _ _ _).keeps⟩

theorem tickTimers (s : State) : s.KeepsTB s.tickTimers := by
  unfold State.tickTimers
  extract_lets r s1
  have hr : Fst s r := by
    refine List.foldlRecOn (motive := Fst s) _ _ ⟨refl s⟩ fun q hq n _ => ?_
    split
    · exact ⟨hq.keeps.trans (tickFrom _ _ _ _).keeps⟩
    · exact hq
  clear_value r
  refine (hr.keeps.trans (triggers _ _)).trans (foldl (fun u m => ?_) _ _)
  exact ite (refl u) (ite ((wn u 0 (by decide)).trans (wn _ 0 (by decide))) (wn u _ (by decide)))

/-! The counters of a tick -/

/-- Every counter of 2 ns telemetry ticks has another subindex than SYS.TB or another bank. -/
theorem tickWhere (s : State) (l : List Nat) (f : Nat → Bool) {key : Nat → Nat} (h : ∀ n, rTB ≠ key n) :
    s.KeepsTB (s.tickWhere l f key) :=
  foldl (fun t n => ite (State.rd_bumpBy_ne t 64 1 (h n)) (refl t)) l s

theorem telemetry (s : State) : s.KeepsTB s.telemetry := by
  unfold State.telemetry
  extract_lets s1 s2 s3 s4 s5 s6 s7 s8 s9 s10
  have h1 : s.KeepsTB s1 := tickWhere s _ _ fun _ => rk_sub (by decide) (by decide) (by decide)
  have h2 : s1.KeepsTB s2 := tickWhere s1 _ _ fun _ => rk_sub (by decide) (by decide) (by decide)
  have h3 : s2.KeepsTB s3 := tickWhere s2 _ _ fun _ => rk_sub (by decide) (by decide) (by decide)
  have h4 : s3.KeepsTB s4 := tickWhere s3 _ _ fun _ => rk_sub (by decide) (by decide) (by decide)
  have h5 : s4.KeepsTB s5 := tickWhere s4 _ _ fun _ => rk_sub (by decide) (by decide) (by decide)
  have h6 : s5.KeepsTB s6 := tickWhere s5 _ _ fun n => by unfold rTB niCtr rk; omega
  have h7 : s6.KeepsTB s7 :=
    foldl (fun t _ => tickWhere t _ _ fun _ => rk_sub (by decide) (by decide) (by decide)) _ s6
  have h8 : s7.KeepsTB s8 := tickWhere s7 _ _ fun _ => rk_sub (by decide) (by decide) (by decide)
  have h9 : s8.KeepsTB s9 := tickWhere s8 _ _ fun _ => rk_sub (by decide) (by decide) (by decide)
  have h10 : s9.KeepsTB s10 := foldl (fun t _ => ite (of (only_updConn _ _ _) (by decide)) (refl t)) _ s9
  have h11 := ((((((((h1.trans h2).trans h3).trans h4).trans h5).trans h6).trans h7).trans h8).trans h9).trans h10
  exact h11.trans (foldl (fun t _ => ite (of (only_updComb _ _ _) (by decide)) (refl t)) _ s10)

/-- A round that stays held may post a record, whose counters stand at another index. -/
theorem holdRound (s : State) : s.KeepsTB s.holdRound := by
  unfold State.holdRound
  split
  · refine ite (ite ?_ ?_) (refl s)
    · exact State.rd_post _ _ _ _ _ _ (by decide)
    · exact refl s
  · exact refl s

theorem residencyTick (s : State) : s.KeepsTB s.residencyTick := by
  refine ite (foldl (fun t d => ?_) _ s) (refl s)
  have hkey : rTB ≠ t.residency d := by
    unfold State.residency
    split
    · exact rk_sub (by decide) (by decide) (by decide)
    · exact rk_sub (by decide) (by decide) (by decide)
    · split
      · exact rk_sub (by decide) (by decide) (by decide)
      · exact rk_sub (by decide) (by decide) (by decide)
    · exact rk_sub (by decide) (by decide) (by decide)
  exact State.rd_bumpBy_ne t 64 1 hkey

end State.KeepsTB

/-! One tick -/

theorem State.rd_timebaseTick (s : State) : s.timebaseTick.rd rTB = s.rd rTB + 1 := by
  unfold State.timebaseTick
  extract_lets s1 s2
  have h1 : s1.rd rTB = s.rd rTB + 1 := State.rd_wr_same s rTB _
  have h2 : s1.KeepsTB s2 := .ite (.refl s1) (.of (only_updEng _ _) (by decide))
  have h3 : s2.KeepsTB (if s2.timesStep && decide (s2.rn rPeriod / 2 ≤ s2.eng.timer) then s2.placeDeadline else s2) :=
    .ite (.of (only_placeDeadline s2) (by decide)) (.refl s2)
  exact Eq.trans ((h2.trans h3).trans (.tickTimers _)) h1

theorem State.slew_timebase (s : State) : s.timebase.slew = none := by
  unfold State.timebase
  split
  · exact (only_timebaseTick _).same .slew (by decide)
  · exact ((only_timebaseTick _).trans (only_timebaseTick _)).same .slew (by decide)
  · rfl

/-- What SYS.TB gains in one tick: a follower that trims its rate counts one more or leaves one out (08 R280). -/
def slewGain : Option Bool → W64
  | none => 1
  | some true => 2
  | some false => 0

theorem State.rd_timebase (s : State) : s.timebase.rd rTB = s.rd rTB + slewGain s.slew := by
  unfold State.timebase
  extract_lets t
  have ht : t.rd rTB = s.rd rTB := (Only.set_slew s none).rdEq (by decide) rTB
  split <;> rename_i hslew <;> rw [hslew]
  · rw [State.rd_timebaseTick, ht]
    rfl
  · rw [State.rd_timebaseTick, State.rd_timebaseTick, ht, BitVec.add_assoc]
    rfl
  · exact ht.trans (BitVec.add_zero _).symm

/-- Settles O2: of what a tick runs, only the timebase advances SYS.TB and clears the trim. -/
theorem anEmptyQueueTicks : Obligations.AnEmptyQueueTicks := by
  intro s hq
  have hstep : step s = .next s.clockTick := by rw [step, hq]
  refine ⟨fun hoff => ?_, fun hon => ⟨s.clockTick, hstep, only_clockTick s, ?_⟩⟩
  · rw [hstep, State.clockTick, State.clk, hoff]
    rfl
  have htick : s.clockTick = (s.withNow (s.now + 1)).timebase.telemetry.holdRound.sendSack.residencyTick :=
    State.clk_on hon
  rw [htick]
  generalize hu : (s.withNow (s.now + 1)).timebase = u
  have htb : u.KeepsTB u.telemetry.holdRound.sendSack.residencyTick :=
    (((State.KeepsTB.telemetry u).trans (.holdRound _)).trans (.of (only_sendSack _) (by decide))).trans (.residencyTick _)
  have hframe : Only [.regs, .eng, .nodes, .conns, .combs, .log] u u.telemetry.holdRound.sendSack.residencyTick :=
    .chain (only_residencyTick _) (by decide) <| .chain (only_sendSack _) (by decide) <|
      .chain (only_holdRound _) (by decide) <| (only_telemetry u).mono (by decide)
  refine ⟨?_, ?_, ?_⟩
  · rw [htb, ← hu]
    exact State.rd_timebase _
  · rw [hframe.same .now (by decide), ← hu]
    exact (only_timebase _).same .now (by decide)
  · rw [hframe.same .slew (by decide), ← hu]
    exact State.slew_timebase _

end Sys2Proof.Machine
end

section
/-! PROOF. Acknowledgement, retransmission, SKIP and credits of a segment (08 R249, R256 to R258). -/

namespace Sys2Proof.Machine

/-! What leaves every sending stream as it is -/

theorem State.TxSame.foldl {α : Type} {f : State → α → State} (h : ∀ s a, State.TxSame s (f s a)) (l : List α)
    (s : State) : s.TxSame (l.foldl f s) :=
  foldl_rel State.TxSame State.TxSame.refl (fun _ _ _ => State.TxSame.trans) f h l s

theorem State.TxSame.keepAgain (s : State) (g : Seg) (v : Nat) : s.TxSame (s.keepAgain g v) := by
  cases g with
  | node n => exact .refl s
  | port p => exact .updPort s p _ fun _ => rfl

theorem State.TxSame.transmit (s : State) (n m : Nat) (pk : Packet) : s.TxSame (s.transmit n m pk) :=
  .updNode s n _ fun _ => rfl

theorem State.TxSame.sendSkip (s : State) (g : Seg) (m v seq : Nat) : s.TxSame (s.sendSkip g m v seq) := by
  cases g with
  | node n => exact .updNode s n _ fun _ => rfl
  | port p => exact .updPort s p _ fun _ => rfl

theorem State.TxSame.itemGone (s : State) (n : Nat) (i : Item) : s.TxSame (s.itemGone n i) := by
  unfold State.itemGone
  extract_lets t
  have ht : s.TxSame t := by
    unfold t
    split
    · exact .updNode s n _ fun _ => rfl
    · exact .refl s
  exact ht.trans (.of (only_itemEnd t _) (by decide) (by decide))

theorem State.TxSame.losePk (s : State) (g : Seg) (pk : Packet) : s.TxSame (s.losePk g pk) := by
  unfold State.losePk
  extract_lets n t u
  have ht : s.TxSame t := by
    unfold t
    split
    · exact .of (only_bumpBy _ _ _ _) (by decide) (by decide)
    · exact .trans (.of (only_bumpBy _ _ _ _) (by decide) (by decide)) (.of (only_bumpBy _ _ _ _) (by decide) (by decide))
  have hu : t.TxSame u := .of (only_bumpBy _ _ _ _) (by decide) (by decide)
  exact (ht.trans hu).trans <| .foldl (fun w i =>
    .trans (.of (only_lostItem w i) (by decide) (by decide)) (.itemGone _ _ i)) _ u

/-! Packets that leave a stream -/

section
variable {s : State}

/-- Without a route hold, a release takes the packets out of its own stream, and no stream changes otherwise. -/
theorem State.releasePk_unheld (g : Seg) (m v : Nat) (f : Packet → Bool) (h : s.routes = []) :
    Only [.nodes, .ports, .live] s (s.releasePk g m v f) ∧
      (s.releasePk g m v f).segTx g m v =
        { s.segTx g m v with buf := (s.segTx g m v).buf.filter fun r => !f r.pk } := by
  unfold State.releasePk
  extract_lets gone a b
  have ha : a.segTx g m v = { s.segTx g m v with buf := (s.segTx g m v).buf.filter fun r => !f r.pk } :=
    State.segTx_updSegTx s g m v _
  have hab : a.TxSame b := .keepAgain a g v
  have hb : Only [.nodes, .ports, .live] s b :=
    .chain (only_keepAgain a g v) (by decide) ((only_updSegTx s g m v _).mono (by decide))
  clear_value a b
  have hend (t : State) (hbt : b.TxSame t) (ht : Only [.nodes, .ports, .live] s t) :
      Only [.nodes, .ports, .live] s t.routeCheck ∧
        t.routeCheck.segTx g m v = { s.segTx g m v with buf := (s.segTx g m v).buf.filter fun r => !f r.pk } := by
    rw [State.routeCheck_idle ((ht.same .routes (by decide)).trans h)]
    exact ⟨ht, (hab.trans hbt g m v).trans ha⟩
  cases g with
  | node n =>
    refine hend _ ?_ (.ite (.chain (only_answerDrains b _) (by decide) hb) hb)
    split
    · exact .answerDrains b _
    · exact .refl b
  | port p =>
    exact hend _ (.foldl (fun w (r : Rtx) => .of (only_leftPort w r.pk) (by decide) (by decide)) _ b)
      (.foldl hb fun w r hw => .chain (only_leftPort w r.pk) (by decide) hw)

/-! Packets put on the way again -/

/-- A packet counts one attempt more where it is among those of l. -/
def Rtx.again (l : List Rtx) (q : Rtx) : Rtx :=
  if (l.any fun r => decide (r.pk.seq = q.pk.seq)) then { q with attempts := q.attempts + 1 } else q

/-- A node sends at once: each packet has one attempt more (R257). -/
theorem State.resend_node (n m v : Nat) (l : List Rtx) :
    s.resend (.node n) m v l =
      (l.foldl (fun s r => s.transmit n m r.pk) (s.updSegTx (.node n) m v fun t =>
        { t with buf := t.buf.map (Rtx.again l) })).bumpBy 48 (niCtr n 1) l.length := rfl

theorem State.segTx_resend_node (n m v : Nat) (l : List Rtx) :
    (s.resend (.node n) m v l).segTx (.node n) m v =
      { s.segTx (.node n) m v with buf := (s.segTx (.node n) m v).buf.map (Rtx.again l) } := by
  have hsent (t : State) : t.TxSame ((l.foldl (fun s r => s.transmit n m r.pk) t).bumpBy 48 (niCtr n 1) l.length) :=
    .trans (.foldl (fun w (r : Rtx) => .transmit w n m r.pk) l t) (.of (only_bumpBy _ _ _ _) (by decide) (by decide))
  rw [State.resend_node]
  exact (hsent _ (.node n) m v).trans (State.segTx_updSegTx s (.node n) m v _)

/-- A port notes the numbers, and sends them in their turn (R248, R257). -/
theorem State.segTx_resend_port (p m v : Nat) (l : List Rtx) :
    (s.resend (.port p) m v l).segTx (.port p) m v = s.segTx (.port p) m v :=
  State.TxSame.updPort s p (fun q => { q with again := Tab.set [] q.again v (l.map fun r => r.pk.seq) }) (fun _ => rfl)
    (.port p) m v

theorem State.again_resend_port (p m v : Nat) (l : List Rtx) :
    Tab.get [] ((s.resend (.port p) m v l).port p).again v = l.map fun r => r.pk.seq := by
  unfold State.resend
  rw [State.port_updPort_same, Tab.get_set_same]

theorem State.segTx_resend_nil (g : Seg) (m v : Nat) : (s.resend g m v []).segTx g m v = s.segTx g m v := by
  cases g with
  | node n =>
    have hid : Rtx.again [] = id := rfl
    rw [State.segTx_resend_node, hid, List.map_id]
  | port p => exact State.segTx_resend_port p m v []

section
variable {g : Seg} {m v seq : Nat} {r : Rtx} {rest : List Rtx}
  (hlate : ((s.segTx g m v).buf.filter fun q => !seqBefore (segBits g) q.pk.seq seq) = r :: rest)
include hlate

/-- The named packet and the later ones go again, up to the first that has had its eight attempts. -/
theorem State.retryFrom_resends (hr : r.attempts < 8) :
    s.retryFrom g m v seq = s.resend g m v ((r :: rest).takeWhile fun q => decide (q.attempts < 8)) := by
  unfold State.retryFrom
  simp only [hlate]
  exact if_neg (by omega)

/-- A packet whose eighth attempt has failed is given up: a PATH record, and the stream's SKIP goes out (R258). -/
theorem State.retryFrom_gives_up (hr : 8 ≤ r.attempts) :
    s.retryFrom g m v seq =
      (((s.updSegTx g m v fun t => { t with skip := some r.pk.seq }).resend g m v []).postPath g m v
        r.pk.seq).sendSkip g m v r.pk.seq := by
  unfold State.retryFrom
  simp only [hlate]
  exact if_pos hr

end

theorem State.seq_postPath (g : Seg) (m v seq : Nat) : (s.postPath g m v seq).log.seq = s.log.seq + 1 := by
  cases g <;> exact State.seq_post ..

/-! The commands -/

theorem State.only_of_takeCtl {e : LinkAt} {kind : Nat} {o : Option (Nat × Nat × Nat)} {u : State}
    (h : s.takeCtl e kind = (o, u)) : Only [.regs, .nodes] s u := by
  have hu := only_takeCtl s e kind
  rwa [h] at hu

section
variable {e : LinkAt} {v m seq : Nat} {u : State}

theorem exec_ack (h : s.takeCtl e 1 = (some (v, m, seq), u)) :
    exec (.ack e) s = .next (u.releasePk (LinkAt.seg e) m v fun pk =>
      decide (pk.seq = seq) || seqBefore (segBits (LinkAt.seg e)) pk.seq seq).closeCheck := by
  show execAck e s = _
  rw [execAck, h]

theorem exec_nak (h : s.takeCtl e 2 = (some (v, m, seq), u)) (hskip : (u.segTx (LinkAt.seg e) m v).skip = none) :
    exec (.nak e) s = .next (u.retryFrom (LinkAt.seg e) m v seq) := by
  show execNak e s = _
  simp only [execNak, h, hskip, Option.isSome_none, Bool.false_eq_true, if_false]

theorem exec_retransmitTimeout {g : Seg} {r : Rtx} {rest : List Rtx} (hskip : (s.segTx g m v).skip = none)
    (hbuf : (s.segTx g m v).buf = r :: rest) :
    exec (.retransmitTimeout g m v) s = .next (s.retryFrom g m v r.pk.seq) := by
  show execRetransmitTimeout g m v s = _
  simp only [execRetransmitTimeout, hskip, hbuf]

theorem exec_skip (h : s.takeCtl e 3 = (some (v, m, seq), u)) :
    exec (.skip e) s = .next (if seqBefore (segBits (LinkAt.seg e)) seq (u.rxExp e m v) then u.answerSeg e m v 4 seq
      else (u.setRxExp e m v (seq + 1)).answerSeg e m v 5 seq) := by
  show execSkip e s = _
  rw [execSkip, h]

theorem exec_haveAns (h : s.takeCtl e 4 = (some (v, m, seq), u))
    (hskip : (u.segTx (LinkAt.seg e) m v).skip = some seq) :
    exec (.haveAns e) s = .next ((u.updSegTx (LinkAt.seg e) m v fun t => { t with skip := none }).releasePk
      (LinkAt.seg e) m v fun pk => decide (pk.seq = seq)).closeCheck := by
  show execHave e s = _
  simp only [execHave, h, hskip, if_true]

/-- The state after the packet given up has left its stream and been counted as lost (R258). -/
def State.passOver (u : State) (g : Seg) (m v seq : Nat) : State :=
  ((u.segTx g m v).buf.filter fun r => decide (r.pk.seq = seq)).foldl (fun s r => s.losePk g r.pk)
    (u.updSegTx g m v fun t => { t with skip := none, buf := t.buf.filter fun r => decide (r.pk.seq ≠ seq) })

theorem only_passOver (u : State) (g : Seg) (m v seq : Nat) :
    Only [.regs, .nodes, .ports, .chans, .live] u (u.passOver g m v seq) :=
  .foldl ((only_updSegTx u g m v _).mono (by decide)) fun w r hw => .chain (only_losePk w g r.pk) (by decide) hw

theorem State.segTx_passOver (u : State) (g : Seg) (m v seq : Nat) :
    (u.passOver g m v seq).segTx g m v =
      { u.segTx g m v with
        skip := none, buf := (u.segTx g m v).buf.filter fun r => decide (r.pk.seq ≠ seq) } :=
  (State.TxSame.foldl (fun w (r : Rtx) => .losePk w g r.pk) _ _ g m v).trans (State.segTx_updSegTx u g m v _)

/-- What an ingress bridge does once packets have left its streams: it sends the DRAINED answers that it owes and that wait
    for nothing more (R272). -/
def State.answerOwed (s : State) : Seg → State
  | .node n => if 70 ≤ n ∧ n ≤ 76 then s.answerDrains (n - 70) else s
  | .port _ => s

theorem only_answerOwed (s : State) (g : Seg) : Only [.nodes, .ports] s (s.answerOwed g) := by
  cases g with
  | node n => exact .ite (only_answerDrains s _) (.refl _ s)
  | port p => exact .refl _ s

theorem State.TxSame.answerOwed (s : State) (g : Seg) : s.TxSame (s.answerOwed g) := by
  cases g with
  | node n =>
    simp only [State.answerOwed]
    split
    · exact .answerDrains s _
    · exact .refl s
  | port p => exact .refl s

theorem exec_absent (h : s.takeCtl e 5 = (some (v, m, seq), u))
    (hskip : (u.segTx (LinkAt.seg e) m v).skip = some seq) :
    exec (.absent e) s =
      .next ((u.passOver (LinkAt.seg e) m v seq).routeCheck.closeCheck.answerOwed (LinkAt.seg e)) := by
  show execAbsent e s = _
  simp only [execAbsent, h, hskip, if_true]
  cases e <;> rfl

theorem exec_credit {p : Nat} {w : W64} (htype : fld w 63 62 = 2) (hkind : fld w 61 58 = 6) (hcrc : crc8Ok w = true) :
    exec (.credit p w) s =
      .next (s.updPort p fun q => { q with taken := Tab.upd 0 q.taken (fld w 57 56) (· - fld w 40 25) }) := by
  show execCredit p w s = _
  rw [execCredit, State.takeCtl_port htype hkind hcrc (by decide) (by decide)]

end

end

/-- Settles O24: each command comes down to the operation on its stream that the message asks for. -/
theorem segmentControl : Obligations.SegmentControl := by
  refine ⟨?ack, ?nak, ?timeout, ?giveUp, ?skipHave, ?skipAbsent, ?have_, ?absent, ?credit⟩
  case ack =>
    intro e v m seq s u hctl hroutes hconns
    have hu := State.only_of_takeCtl hctl
    obtain ⟨honly, htx⟩ := State.releasePk_unheld (LinkAt.seg e) m v
      (fun pk => decide (pk.seq = seq) || seqBefore (segBits (LinkAt.seg e)) pk.seq seq)
      ((hu.same .routes (by decide)).trans hroutes)
    have hframe := Only.chain (W := [.regs, .nodes, .ports, .live]) honly (by decide) (hu.mono (by decide))
    have hx := exec_ack hctl
    rw [State.closeCheck_of_only hconns hframe (by decide)] at hx
    exact ⟨_, hx, hframe, htx⟩
  case nak =>
    intro e v m seq r rest s u hctl g x hskip hlate hr l
    have hx := exec_nak hctl hskip
    rw [State.retryFrom_resends hlate hr] at hx
    refine ⟨_, hx, .chain (only_resend u g m v l) (by decide) ((State.only_of_takeCtl hctl).mono (by decide)), ?_⟩
    cases e with
    | node n => exact State.segTx_resend_node n m v l
    | port p w => exact ⟨State.segTx_resend_port p m v l, State.again_resend_port p m v l⟩
  case timeout =>
    intro g v m r rest s x hskip hbuf hfirst hr l
    have hx := exec_retransmitTimeout hskip hbuf
    rw [State.retryFrom_resends (hfirst.trans hbuf) hr] at hx
    refine ⟨_, hx, only_resend s g m v l, ?_⟩
    cases g with
    | node n => exact State.segTx_resend_node n m v l
    | port p => exact ⟨State.segTx_resend_port p m v l, State.again_resend_port p m v l⟩
  case giveUp =>
    intro g v m r rest s x hskip hbuf hfirst hr
    have hx := exec_retransmitTimeout hskip hbuf
    have honly := only_retryFrom s g m v r.pk.seq
    rw [State.retryFrom_gives_up (hfirst.trans hbuf) hr] at hx honly
    refine ⟨_, hx, honly, ?_⟩
    generalize hheld : (s.updSegTx g m v fun t => { t with skip := some r.pk.seq }).resend g m v [] = held
    have htx : held.segTx g m v = { x with skip := some r.pk.seq } := by
      rw [← hheld, State.segTx_resend_nil]
      exact State.segTx_updSegTx s g m v _
    have hlog : held.log = s.log := by
      rw [← hheld]
      exact ((only_updSegTx s g m v _).mono (by decide)).trans (only_resend _ g m v []) |>.same .log (by decide)
    have hsame : held.TxSame ((held.postPath g m v r.pk.seq).sendSkip g m v r.pk.seq) :=
      .trans (.of (only_postPath held g m v _) (by decide) (by decide)) (.sendSkip _ g m v _)
    rw [hsame g m v, htx]
    refine ⟨rfl, rfl, rfl, ?_⟩
    rw [(only_sendSkip _ g m v _).same .log (by decide), State.seq_postPath, hlog]
  case skipHave =>
    intro e v m seq s u hctl hbefore
    have hx := exec_skip hctl
    rw [if_pos hbefore] at hx
    exact ⟨_, hx, .chain (only_answerSeg u e m v 4 seq) (by decide) ((State.only_of_takeCtl hctl).mono (by decide)), rfl⟩
  case skipAbsent =>
    intro e v m seq s u hctl hbefore
    have hx := exec_skip hctl
    rw [if_neg (ne_true_of_eq_false hbefore)] at hx
    exact ⟨_, hx, .chain (only_answerSeg _ e m v 5 seq) (by decide) <| .chain (only_setRxExp u e m v _) (by decide) <|
      (State.only_of_takeCtl hctl).mono (by decide), rfl⟩
  case have_ =>
    intro e v m seq s u hctl hroutes hconns hskip
    have hu := (State.only_of_takeCtl hctl).mono (W := [.regs, .nodes, .ports, .live]) (by decide)
    have hended := Only.chain (only_updSegTx u (LinkAt.seg e) m v fun t => { t with skip := none }) (by decide) hu
    obtain ⟨honly, htx⟩ := State.releasePk_unheld (LinkAt.seg e) m v (fun pk => decide (pk.seq = seq))
      ((hended.same .routes (by decide)).trans hroutes)
    have hframe := Only.chain honly (by decide) hended
    have hx := exec_haveAns hctl hskip
    rw [State.closeCheck_of_only hconns hframe (by decide)] at hx
    rw [State.segTx_updSegTx] at htx
    exact ⟨_, hx, hframe, htx⟩
  case absent =>
    intro e v m seq s u hctl hroutes hconns hskip
    have hpass := Only.chain (W := [.regs, .nodes, .ports, .chans, .live]) (only_passOver u (LinkAt.seg e) m v seq)
      (by decide) ((State.only_of_takeCtl hctl).mono (by decide))
    have hx := exec_absent hctl hskip
    rw [State.routeCheck_idle ((hpass.same .routes (by decide)).trans hroutes),
      State.closeCheck_of_only hconns hpass (by decide)] at hx
    exact ⟨_, hx, .chain (only_answerOwed _ _) (by decide) hpass,
      (State.TxSame.answerOwed _ _ _ m v).trans (State.segTx_passOver u _ m v seq)⟩
  case credit =>
    intro p w s htype hkind hcrc
    exact ⟨_, exec_credit htype hkind hcrc, only_updPort _ _ _, State.port_updPort_same s p _,
      fun _ => State.port_updPort_ne s _⟩

end Sys2Proof.Machine
end

section
/-! PROOF. Receiving a packet at a mesh node or a port (08 R253, R256, R260, Table 8.7), and an event at the NI of its tile
    (04 R152). -/

namespace Sys2Proof.Machine

/-! The receiving end of a stream -/

section
variable {s : State}

theorem State.node_answerSeg (n m v kind seq : Nat) :
    (s.answerSeg (.node n) m v kind seq).node n =
      { s.node n with
        inj := Tab.upd [] (s.node n).inj 2 (· ++ [meshFlit 2 m 2 (.ctl (ctlFlit kind v n m seq 0))]) } :=
  State.node_updNode_same s n _

theorem State.port_answerSeg (p m v kind seq : Nat) (w : W64) :
    (s.answerSeg (.port p w) m v kind seq).port p =
      { s.port p with line := (s.port p).line ++ [.link (linkWord kind v seq 0 0 0)] } :=
  State.port_updPort_same s p _

theorem State.port_putLink (p kind vc seq nfl credits ln : Nat) :
    (s.putLink p kind vc seq nfl credits ln).port p =
      { s.port p with line := (s.port p).line ++ [.link (linkWord kind vc seq nfl credits ln)] } :=
  State.port_updPort_same s p _

theorem only_answerSeg_node (n m v kind seq : Nat) : Only [.nodes] s (s.answerSeg (.node n) m v kind seq) :=
  only_sendCtl ..

theorem only_answerSeg_port (p m v kind seq : Nat) (w : W64) : Only [.ports] s (s.answerSeg (.port p w) m v kind seq) :=
  only_putLink ..

theorem State.node_noteNak (n m v : Nat) :
    (s.noteNak (.node n) m v).node n = { s.node n with naked := Tab.set 0 (s.node n).naked (4 * m + v) (s.now + 1) } :=
  State.node_updNode_same s n _

theorem State.rxExp_node (n m v : Nat) : s.rxExp (.node n) m v = Tab.get 0 (s.node n).rxNext (4 * m + v) := rfl

theorem State.rxExp_port (p m v : Nat) (w : W64) : s.rxExp (.port p w) m v = Tab.get 0 (s.port p).rxNext v := rfl

theorem State.lastNak_node (n m v : Nat) : s.lastNak (.node n) m v = Tab.get 0 (s.node n).naked (4 * m + v) := rfl

theorem State.lastNak_port (p m v : Nat) (w : W64) : s.lastNak (.port p w) m v = Tab.get 0 (s.port p).naked v := rfl

theorem State.rtoTicks_node (n : Nat) : s.rtoTicks (.node n) = 500 * s.rn (rk 0 0x2000 1) := rfl

theorem State.rtoTicks_port (p : Nat) (w : W64) : s.rtoTicks (.port p w) = 500 * s.rn (pReg p 4) := rfl

/-- Whether a NAK may go out turns on the last one, on RTO and on the time (Table 8.7). -/
theorem State.mayNak_iff (e : LinkAt) (m v : Nat) :
    s.mayNak e m v = true ↔ s.lastNak e m v = 0 ∨ s.lastNak e m v + s.rtoTicks e ≤ s.now + 1 := by
  rw [State.mayNak, Bool.or_eq_true, decide_eq_true_eq, decide_eq_true_eq]

/-- OOS stands behind DUP (08 Table 8.13). -/
theorem niCtr_add_one (n sub : Nat) : niCtr n sub + 1 = niCtr n (sub + 1) := Nat.add_assoc _ _ _

theorem pReg_add_one (p sub : Nat) : pReg p sub + 1 = pReg p (sub + 1) := Nat.add_assoc _ _ _

section
variable {e : LinkAt} {m v seq : Nat} (c : Nat) (accept : State → State)

/-- The expected packet is taken and acknowledged. -/
theorem State.receive_expected (h : seq = s.rxExp e m v) :
    s.receive e m v seq c accept = (accept (s.setRxExp e m v (seq + 1))).answerSeg e m v 1 seq := by
  subst h
  exact if_pos rfl

/-- One already accepted is counted, and the last accepted one acknowledged again. -/
theorem State.receive_dup (hne : seq ≠ s.rxExp e m v)
    (hbefore : seqBefore (segBits (LinkAt.seg e)) seq (s.rxExp e m v) = true) :
    s.receive e m v seq c accept =
      (s.bumpBy 32 c 1).answerSeg e m v 1
        ((s.rxExp e m v + 2 ^ segBits (LinkAt.seg e) - 1) % 2 ^ segBits (LinkAt.seg e)) :=
  (if_neg hne).trans (if_pos hbefore)

/-- One beyond the expected is counted, and answered by a NAK if one may go out. -/
theorem State.receive_ahead (hne : seq ≠ s.rxExp e m v)
    (hbefore : seqBefore (segBits (LinkAt.seg e)) seq (s.rxExp e m v) = false) :
    s.receive e m v seq c accept =
      if (s.bumpBy 32 (c + 1) 1).mayNak e m v then
        ((s.bumpBy 32 (c + 1) 1).noteNak e m v).answerSeg e m v 2 (s.rxExp e m v)
      else s.bumpBy 32 (c + 1) 1 :=
  (if_neg hne).trans (if_neg (ne_true_of_eq_false hbefore))

end

/-! A packet at a mesh node -/

/-- Node n after its receive queue of v has been cut to `rest`. -/
def State.cutRx (s : State) (n v : Nat) (rest : List MeshFlit) : State :=
  s.updNode n fun d => { d with rx := Tab.set [] d.rx v rest }

theorem State.node_cutRx (n v : Nat) (rest : List MeshFlit) :
    (s.cutRx n v rest).node n = { s.node n with rx := Tab.set [] (s.node n).rx v rest } := State.node_updNode_same s n _

theorem State.rxExp_cutRx (n m v : Nat) (rest : List MeshFlit) :
    (s.cutRx n v rest).rxExp (.node n) m v = s.rxExp (.node n) m v := by
  rw [State.rxExp_node, State.node_cutRx, State.rxExp_node]

theorem State.rn_cutRx (n v : Nat) (rest : List MeshFlit) (k : Nat) : (s.cutRx n v rest).rn k = s.rn k := rfl

theorem State.now_cutRx (n v : Nat) (rest : List MeshFlit) : (s.cutRx n v rest).now = s.now := rfl

/-- Node n with a packet cut off its receive queue and a counter of its NI advanced. -/
theorem State.node_cutRx_counted (n v a : Nat) (rest : List MeshFlit) :
    ((s.cutRx n v rest).bumpBy 32 (niCtr n a) 1).node n =
        { s.node n with rx := Tab.set [] (s.node n).rx v rest } ∧
      ((s.cutRx n v rest).bumpBy 32 (niCtr n a) 1).rn (niCtr n a) = min (s.rn (niCtr n a) + 1) (2 ^ 32 - 1) := by
  rw [State.node_bumpBy, State.node_cutRx, State.rn_bumpBy _ _ _ (by decide)]
  exact ⟨rfl, rfl⟩

theorem only_cutRx_counted (n v a : Nat) (rest : List MeshFlit) :
    Only [.regs, .nodes] s ((s.cutRx n v rest).bumpBy 32 (niCtr n a) 1) :=
  .chain (only_bumpBy _ _ _ _) (by decide) ((only_updNode s n _).mono (by decide))

/-- A whole packet stands at node n on v, and neither the NI nor the endpoint keeps it waiting. -/
structure State.PacketAt (s : State) (n v : Nat) (body : List MeshFlit) (f : MeshFlit) (rest : List MeshFlit) : Prop where
  queue : Tab.get [] (s.node n).rx v = body ++ f :: rest
  inner : ∀ g ∈ body, g.isLast = false
  last : f.isLast = true
  alive : s.boot.deadNis.contains n = false
  room : s.nodeHolds n v = false

namespace State.PacketAt

variable {n v : Nat} {body rest : List MeshFlit} {f : MeshFlit} (h : s.PacketAt n v body f rest)
include h

theorem receiveNode_eq : s.receiveNode n v = s.takePacket n v body f rest := by
  have hbody : (body ++ f :: rest).takeWhile (fun g => !g.isLast) = body := by
    rw [List.takeWhile_append_of_pos fun g hg => by simp [h.inner g hg], List.takeWhile_cons_of_neg (by simp [h.last]),
      List.append_nil]
  unfold State.receiveNode
  simp only [h.queue, hbody, h.alive, h.room, Bool.false_eq_true, if_false, List.drop_left]

theorem exec_eq : exec (.packetReceive (.node n v)) s = .next (s.takePacket n v body f rest).closeCheck := by
  rw [← h.receiveNode_eq]
  rfl

/-- While no close is in progress, the command ends as the packet leaves the node. -/
theorem completes {W : List Part} {Q : State → Prop}
    (hconns : (s.conns.all fun e => decide (e.2.state ≠ .closing)) = true)
    (honly : Only [.regs, .nodes] s (s.takePacket n v body f rest)) (hw : W = [.regs, .nodes])
    (hq : Q (s.takePacket n v body f rest)) : Completes W (.packetReceive (.node n v)) s Q := by
  have hx := h.exec_eq
  rw [State.closeCheck_of_only hconns honly (by decide)] at hx
  exact ⟨_, hx, hw ▸ honly, hq⟩

end State.PacketAt

section
variable {n v : Nat} {body : List MeshFlit} {f : MeshFlit} (rest : List MeshFlit)

theorem MeshFlit.isLast_of_trailer (h : f.pos = 1) : f.isLast = true := by
  unfold MeshFlit.isLast
  rw [h]
  rfl

/-- A packet that passes its check is handled by Table 8.7. -/
theorem State.takePacket_ok (hpos : f.pos = 1) (hok : packetOk n v body f = true) :
    s.takePacket n v body f rest =
      (s.cutRx n v rest).receive (.node n) (fld f.word 15 9) v (fld f.word 31 16) (niCtr n 3) fun s =>
        (payloadItems body).foldl (fun s i => s.arriveItem n v i) s :=
  (if_pos hpos).trans (if_pos hok)

/-- One that fails it, or that ends without a trailer, is counted and discarded; the flit that no packet led to stays. -/
theorem State.takePacket_bad (h : f.pos = 1 ∧ packetOk n v body f = false ∨ f.pos ≠ 1 ∧ body ≠ []) :
    s.takePacket n v body f rest =
      (s.cutRx n v (if f.pos = 1 then rest else f :: rest)).bumpBy 32 (niCtr n 2) 1 := by
  obtain ⟨hpos, hok⟩ | ⟨hpos, hbody⟩ := h
  · rw [if_pos hpos]
    exact (if_pos hpos).trans (if_neg (ne_true_of_eq_false hok))
  · rw [if_neg hpos]
    exact (if_neg hpos).trans (if_pos (by simpa using hbody))

end

/-! A packet on a port -/

section
variable {p : Nat} {head : W64} {flits : List W64} {what : List Item}

theorem exec_packetReceive_port :
    exec (.packetReceive (.port p head flits what)) s = .next (s.receivePort p head flits what) := rfl

theorem State.putCredit_pos (p v n : Nat) : s.putCredit p v (1 + n) = s.putLink p 6 v 0 0 (1 + n) 0 :=
  if_neg (by omega)

/-- A word of TYPE 3 is discarded and counted (R260). -/
theorem State.receivePort_reserved (htype : fld head 63 62 = 3) :
    s.receivePort p head flits what = s.bumpBy 32 (pReg p 0x1A) 1 :=
  if_pos htype

/-- A packet that fails its CRC or its length is counted, its credits return, and every stream asks for what it expects. -/
theorem State.receivePort_bad (htype : fld head 63 62 = 1) (hcarries : s.portCarries p (fld head 61 60) = true)
    (hbad : portCrc head flits ≠ fld head 31 0 ∨ fld head 59 57 + 1 ≠ flits.length) :
    s.receivePort p head flits what =
      (List.range 4).foldl (fun s v => s.answerSeg (.port p 0) 0 v 2 (s.rxExp (.port p 0) 0 v))
        ((s.bumpBy 32 (pReg p 0x16) 1).putLink p 6 (fld head 61 60) 0 0 (1 + flits.length) 0) := by
  have hvc : (portPacket head flits what).vc = fld head 61 60 := rfl
  unfold State.receivePort
  simp only [hvc, htype, hcarries, hbad, State.putCredit_pos]
  rfl

section
variable (htype : fld head 63 62 = 1) (hcarries : s.portCarries p (fld head 61 60) = true)
  (hcrc : portCrc head flits = fld head 31 0) (hlen : fld head 59 57 + 1 = flits.length)
include htype hcarries hcrc hlen

/-- A packet that passes both is handled by Table 8.7. -/
theorem State.receivePort_checked {pk : Packet} (hpk : portPacket head flits what = pk) {t : State}
    (ht : s.receive (.port p 0) 0 pk.vc pk.seq (pReg p 0x17) (fun s => s.acceptPort p flits.length pk) = t) :
    s.receivePort p head flits what =
      if pk.seq = s.rxExp (.port p 0) 0 pk.vc then t else t.putLink p 6 pk.vc 0 0 (1 + flits.length) 0 := by
  subst hpk ht
  have hcarries' : s.portCarries p (portPacket head flits what).vc = true := hcarries
  simp [State.receivePort, htype, hcarries', hcrc, hlen, State.putCredit_pos]

/-- The expected packet is taken, and its credits return as its payload goes on. -/
theorem State.receivePort_expected {pk : Packet} (hpk : portPacket head flits what = pk)
    (hseq : pk.seq = s.rxExp (.port p 0) 0 pk.vc) :
    s.receivePort p head flits what =
      ((s.setRxExp (.port p 0) 0 pk.vc (pk.seq + 1)).acceptPort p flits.length pk).answerSeg (.port p 0) 0 pk.vc 1
        pk.seq :=
  ((State.receivePort_checked htype hcarries hcrc hlen hpk rfl).trans (if_pos hseq)).trans
    (State.receive_expected _ _ hseq)

/-- Of one beyond the expected, which no NAK answers, the credits return. -/
theorem State.receivePort_ahead {pk : Packet} (hpk : portPacket head flits what = pk)
    (hne : pk.seq ≠ s.rxExp (.port p 0) 0 pk.vc)
    (hbefore : seqBefore 12 pk.seq (s.rxExp (.port p 0) 0 pk.vc) = false)
    (hnak : s.mayNak (.port p 0) 0 pk.vc = false) :
    s.receivePort p head flits what =
      (s.bumpBy 32 (pReg p 0x18) 1).putLink p 6 pk.vc 0 0 (1 + flits.length) 0 := by
  have hrto : pReg p 4 ≠ pReg p 0x18 := rk_sub (by decide) (by decide) (by decide)
  have hnak' : ¬(s.bumpBy 32 (pReg p 0x18) 1).mayNak (.port p 0) 0 pk.vc = true := by
    rw [← Bool.not_eq_true, State.mayNak_iff] at hnak
    rwa [State.mayNak_iff, State.lastNak_port, State.port_bumpBy, State.rtoTicks_port, State.rn_bumpBy_ne _ _ _ hrto]
  have hreceive := State.receive_ahead (pReg p 0x17) (fun s => s.acceptPort p flits.length pk) hne hbefore
  rw [pReg_add_one] at hreceive
  exact (State.receivePort_checked htype hcarries hcrc hlen hpk (hreceive.trans (if_neg hnak'))).trans (if_neg hne)

end

/-- The NAKs of all four streams on the line. -/
theorem State.port_naks (p : Nat) (l : List Nat) (s : State) :
    (l.foldl (fun s v => s.answerSeg (.port p 0) 0 v 2 (s.rxExp (.port p 0) 0 v)) s).port p =
      { s.port p with
        line := (s.port p).line ++ l.map fun v => .link (linkWord 2 v (s.rxExp (.port p 0) 0 v) 0 0 0) } := by
  induction l generalizing s with
  | nil => rw [List.foldl_nil, List.map_nil, List.append_nil]
  | cons a l ih =>
    rw [List.foldl_cons, ih]
    simp only [State.rxExp_port, State.port_answerSeg, List.map_cons, List.append_assoc, List.singleton_append]

theorem only_naks (p : Nat) (l : List Nat) (s : State) :
    Only [.ports] s (l.foldl (fun s v => s.answerSeg (.port p 0) 0 v 2 (s.rxExp (.port p 0) 0 v)) s) :=
  .foldl (.refl _ s) fun _ v hu => hu.trans (only_answerSeg_port p 0 v 2 _ 0)

end

/-! An event at the NI of its tile -/

/-- At a tile that works, an event of the present generation that is not late becomes copies that the NI hands on. -/
theorem State.arriveEvent_taken {t : Nat} (id : Nat) {f : W64} (hdom : s.rn (rDomain t) = 1)
    (hgen : s.reconf.win ≠ none ∨ flCgen f = s.reconf.cgen) (hmode : s.deadlineMode = false) :
    ∃ u : State, s.arriveEvent t id f = u.pumpTile t ∧
      (u.tile t).copies = (s.tile t).copies ++
        copiesOf id (s.ids + 1) f (decide ((flTag f + 4 - s.eng.tagRef.toNat) % 4 ≠ 0)) false s.eng.tagRef := by
  have hgen' : ¬(s.reconf.win.isNone = true ∧ flCgen f ≠ s.reconf.cgen) := fun h =>
    hgen.elim (fun hw => hw (Option.isNone_iff_eq_none.mp h.1)) h.2
  unfold State.arriveEvent
  extract_lets i r late fl copies s1 s2 s3
  have hlate : late = false := by simp only [late, hmode, Bool.false_and]
  have hdeaf : s1.deafTile t = false := by
    have hdeaf' : s1.deafTile t = s.deafTile t := rfl
    rw [hdeaf', State.deafTile, hdom]
    rfl
  clear_value late
  subst hlate
  have hs3 : s3 = s1.updTile t fun d => { d with copies := d.copies ++ copies } := rfl
  have hup : s3.domUp t = true := by
    have hup' : s3.domUp t = s.domUp t := rfl
    rw [hup', State.domUp, hdom]
    rfl
  rw [if_neg hgen', if_neg (by rw [Bool.false_and]; decide), if_neg (ne_true_of_eq_false hdeaf), if_pos hup]
  refine ⟨s3, rfl, ?_⟩
  rw [hs3, State.tile_updTile_same]
  simp only [copies, fl, r, Bool.not_false, Bool.and_true]
  rfl

end

/-- Settles O25: each form by the line of Table 8.7 that its packet meets, and the event by the copies of its span. -/
theorem packetReceive : Obligations.PacketReceive := by
  refine ⟨?expected, ?duplicate, ?ahead, ?bad, ?portExpected, ?portAhead, ?portBad, ?portReserved, ?event⟩
  case expected =>
    intro n v body rest f s hq hinner hpos hok halive hroom m seq hseq _
    have h : s.PacketAt n v body f rest := ⟨hq, hinner, f.isLast_of_trailer hpos, halive, hroom⟩
    have hx := h.exec_eq
    rw [State.takePacket_ok rest hpos hok, State.receive_expected _ _ (by rw [State.rxExp_cutRx]; exact hseq)] at hx
    exact Completes.of (A := rxParts) (only_execPacketReceive (.node n v) s) hx (by decide) rfl
  case duplicate =>
    intro n v body rest f s hq hinner hpos hok halive hroom hconns m exp hne hbefore
    have h : s.PacketAt n v body f rest := ⟨hq, hinner, f.isLast_of_trailer hpos, halive, hroom⟩
    have htake := State.takePacket_ok (s := s) rest hpos hok
    rw [State.receive_dup _ _ (by rw [State.rxExp_cutRx]; exact hne) (by rw [State.rxExp_cutRx]; exact hbefore),
      State.rxExp_cutRx] at htake
    obtain ⟨hnode, hctr⟩ := s.node_cutRx_counted n v 3 rest
    have hans := only_answerSeg_node (s := (s.cutRx n v rest).bumpBy 32 (niCtr n 3) 1) n m v 1
      ((exp + 2 ^ 16 - 1) % 2 ^ 16)
    refine h.completes hconns ?_ rfl ?_ <;> rw [htake]
    · exact .chain hans (by decide) (only_cutRx_counted n v 3 rest)
    · refine ⟨(hans.rnEq (by decide) _).trans hctr, ?_, ?_⟩
      · rw [State.node_answerSeg, hnode, Tab.get_set_same]
      · rw [State.node_answerSeg, hnode, Tab.get_upd_same]
        rfl
  case ahead =>
    intro n v body rest f s hq hinner hpos hok halive hroom hconns m exp hne hbefore
    have h : s.PacketAt n v body f rest := ⟨hq, hinner, f.isLast_of_trailer hpos, halive, hroom⟩
    have htake := State.takePacket_ok (s := s) rest hpos hok
    rw [State.receive_ahead _ _ (by rw [State.rxExp_cutRx]; exact hne) (by rw [State.rxExp_cutRx]; exact hbefore),
      State.rxExp_cutRx, niCtr_add_one] at htake
    obtain ⟨hnode, hctr⟩ := s.node_cutRx_counted n v 4 rest
    have honly := only_cutRx_counted (s := s) n v 4 rest
    have hmay : ((s.cutRx n v rest).bumpBy 32 (niCtr n 4) 1).mayNak (.node n) m v = true ↔
        s.lastNak (.node n) m v = 0 ∨ s.lastNak (.node n) m v + 500 * s.rn (rk 0 0x2000 1) ≤ s.now + 1 := by
      have hrto : rk 0 0x2000 1 ≠ niCtr n 4 := by unfold niCtr rk; omega
      rw [State.mayNak_iff, State.lastNak_node, hnode, State.rtoTicks_node, State.rn_bumpBy_ne _ _ _ hrto,
        State.now_bumpBy, State.rn_cutRx, State.now_cutRx, State.lastNak_node]
    generalize (s.cutRx n v rest).bumpBy 32 (niCtr n 4) 1 = t at htake hnode hctr honly hmay
    by_cases hnak : s.lastNak (.node n) m v = 0 ∨ s.lastNak (.node n) m v + 500 * s.rn (rk 0 0x2000 1) ≤ s.now + 1
    · have hans : Only [.nodes] t ((t.noteNak (.node n) m v).answerSeg (.node n) m v 2 exp) :=
        (only_updNode t n _).trans (only_answerSeg_node n m v 2 exp)
      rw [if_pos (hmay.mpr hnak)] at htake
      refine h.completes hconns ?_ rfl ?_ <;> rw [htake]
      · exact .chain hans (by decide) honly
      · refine ⟨(hans.rnEq (by decide) _).trans hctr, ?_, ?_⟩ <;> rw [State.node_answerSeg, State.node_noteNak, hnode]
        · exact Tab.get_set_same _ _ _ _
        · rw [Tab.get_upd_same, if_pos hnak]
    · rw [if_neg (mt hmay.mp hnak)] at htake
      refine h.completes hconns ?_ rfl ?_ <;> rw [htake]
      · exact honly
      · refine ⟨hctr, ?_, ?_⟩ <;> rw [hnode]
        · exact Tab.get_set_same _ _ _ _
        · rw [if_neg hnak, List.append_nil]
  case bad =>
    intro n v body rest f s hq hinner hlast hbad halive hroom hconns
    have h : s.PacketAt n v body f rest := ⟨hq, hinner, hlast, halive, hroom⟩
    have htake := State.takePacket_bad (s := s) rest hbad
    obtain ⟨hnode, hctr⟩ := s.node_cutRx_counted n v 2 (if f.pos = 1 then rest else f :: rest)
    refine h.completes hconns ?_ rfl ?_ <;> rw [htake]
    · exact only_cutRx_counted n v 2 _
    · refine ⟨hctr, ?_, ?_⟩ <;> rw [hnode]
      exact Tab.get_set_same _ _ _ _
  case portExpected =>
    intro p head flits what s pk htype hcarries hcrc hlen hseq
    have hx := exec_packetReceive_port (s := s) (p := p) (head := head) (flits := flits) (what := what)
    rw [State.receivePort_expected htype hcarries hcrc hlen rfl hseq] at hx
    exact ⟨_, hx, .chain (only_answerSeg _ _ _ _ _ _) (by decide) <| .chain (only_acceptPort _ _ _ _) (by decide) <|
      (only_setRxExp _ _ _ _ _).mono (by decide), rfl⟩
  case portAhead =>
    intro p head flits what s pk htype hcarries hcrc hlen hne hbefore hnak
    have hx := exec_packetReceive_port (s := s) (p := p) (head := head) (flits := flits) (what := what)
    rw [State.receivePort_ahead htype hcarries hcrc hlen rfl hne hbefore hnak] at hx
    have hlink := only_putLink (s.bumpBy 32 (pReg p 0x18) 1) p 6 pk.vc 0 0 (1 + flits.length) 0
    refine ⟨_, hx, .chain hlink (by decide) ((only_bumpBy _ _ _ _).mono (by decide)), ?_, ?_⟩
    · exact (hlink.rnEq (by decide) _).trans (State.rn_bumpBy _ _ _ (by decide))
    · rw [State.port_putLink, State.port_bumpBy]
  case portBad =>
    intro p head flits what s v htype hcarries hbad
    have hx := exec_packetReceive_port (s := s) (p := p) (head := head) (flits := flits) (what := what)
    rw [State.receivePort_bad htype hcarries hbad] at hx
    have hlink := only_putLink (s.bumpBy 32 (pReg p 0x16) 1) p 6 v 0 0 (1 + flits.length) 0
    have hnaks := only_naks p (List.range 4) ((s.bumpBy 32 (pReg p 0x16) 1).putLink p 6 v 0 0 (1 + flits.length) 0)
    have hans := hlink.trans hnaks
    refine ⟨_, hx, .chain hans (by decide) ((only_bumpBy _ _ _ _).mono (by decide)), ?_, ?_⟩
    · exact (hans.rnEq (by decide) _).trans (State.rn_bumpBy _ _ _ (by decide))
    · rw [State.port_naks]
      simp only [State.rxExp_port, State.port_putLink, State.port_bumpBy]
      rfl
  case portReserved =>
    intro p head flits what s htype
    have hx := exec_packetReceive_port (s := s) (p := p) (head := head) (flits := flits) (what := what)
    rw [State.receivePort_reserved htype] at hx
    exact ⟨_, hx, only_bumpBy _ _ _ _, State.rn_bumpBy _ _ _ (by decide), fun k hk => State.rd_bumpBy_ne _ _ _ hk⟩
  case event =>
    intro n id f s hn hdom hcopies hgen hmode htag
    obtain ⟨u, hu, hcop⟩ := State.arriveEvent_taken id hdom hgen hmode
    refine ⟨u, (if_pos hn).trans hu, ?_⟩
    rw [hcop, hcopies]
    rfl

end Sys2Proof.Machine
end

section
/-! PROOF. The tile map, the core map, the routes, the join of the system and the run-time marks (08 R266, R268, R272,
    R274 to R278; 12 R410). -/

namespace Sys2Proof.Machine

/-! What the maps and the join read of a state is none of its paths -/

section
variable {s u : State} (h : s.PathEq u)
include h

theorem State.PathEq.mapTile (v : Nat) : u.mapTile v = s.mapTile v := by obtain ⟨X, rfl⟩ := h; rfl
theorem State.PathEq.tileKind (v : Nat) : u.tileKind v = s.tileKind v := by obtain ⟨X, rfl⟩ := h; rfl
theorem State.PathEq.tileBad (t : Nat) : u.tileBad t = s.tileBad t := by obtain ⟨X, rfl⟩ := h; rfl
theorem State.PathEq.tileTaken (t v : Nat) : u.tileTaken t v = s.tileTaken t v := by obtain ⟨X, rfl⟩ := h; rfl
theorem State.PathEq.residents : u.residents = s.residents := by obtain ⟨X, rfl⟩ := h; rfl
theorem State.PathEq.comingIn : u.comingIn = s.comingIn := by obtain ⟨X, rfl⟩ := h; rfl
theorem State.PathEq.coreBad (c : Nat) : u.coreBad c = s.coreBad c := by obtain ⟨X, rfl⟩ := h; rfl
theorem State.PathEq.mapCore (t slot : Nat) : u.mapCore t slot = s.mapCore t slot := by obtain ⟨X, rfl⟩ := h; rfl
theorem State.PathEq.queuesBound (l : Nat) : u.queuesBound l = s.queuesBound l := by obtain ⟨X, rfl⟩ := h; rfl
theorem State.PathEq.routePort (e : Nat) : u.routePort e = s.routePort e := by obtain ⟨X, rfl⟩ := h; rfl
theorem State.PathEq.ringsHold : u.ringsHold = s.ringsHold := by obtain ⟨X, rfl⟩ := h; rfl
theorem State.PathEq.follows : u.follows = s.follows := by obtain ⟨X, rfl⟩ := h; rfl
theorem State.PathEq.reaches (e : Nat) : u.reaches e = s.reaches e := by obtain ⟨X, rfl⟩ := h; rfl
theorem State.PathEq.argFailed (v : Nat) : u.argFailed v = s.argFailed v := by obtain ⟨X, rfl⟩ := h; rfl

end

/-! MAP.TILE -/

section
variable {s : State} {v : Nat}

/-- No swap and no map write of virtual tile v is under way. -/
structure State.MapFree (s : State) (v : Nat) : Prop where
  swap : s.swap = none
  drains : (s.drains.any fun d => decide (d.v = v)) = false

theorem State.MapFree.of_pathEq {u : State} (h : s.MapFree v) (hu : s.PathEq u) : u.MapFree v :=
  ⟨hu.swap.trans h.swap, by rw [hu.drains]; exact h.drains⟩

/-- A tile that was mapped NONE goes to a physical tile that is free and works, while fewer than 64 are RESIDENT: the entry
    takes effect at once (R266). -/
theorem mapTileAct_maps {x : W64} (hfree : s.MapFree v) (hwas : s.tileKind v = 0) (hkind : fld x 15 14 = 1)
    (hpt : fld x 13 7 ≤ 69) (hrsvd : fld x 6 0 = 0) (hbad : s.tileBad (fld x 13 7) = false)
    (htaken : s.tileTaken (fld x 13 7) v = false)
    (hroom : (s.residents.filter fun u => decide (u ≠ v)).length + s.comingIn < 64) :
    mapTileAct v x s = okAct (s.wr (rk 0 (0x2200 + v) 0) x) := by
  have hpt' : ¬69 < fld x 13 7 := by omega
  have hroom' : ¬64 < (s.residents.filter fun u => decide (u ≠ v)).length + 1 + s.comingIn := by omega
  unfold mapTileAct
  extract_lets kind pt was range state busy
  have hrange : range = false := by
    simpa [range, kind, pt, hkind, hpt', hbad, htaken] using hroom'
  have hstate : state = false := by simp [state, was, kind, hwas, hkind]
  have hbusy : busy = false := by simp only [busy, hfree.drains, hfree.swap, Bool.or_self]
  rw [guardAct_ok (guard_nil (by simp [hrange, hstate, hbusy, hrsvd]))]
  simp only [was, hwas, Nat.reduceEqDiff, false_and, if_false]

/-- A RESIDENT tile whose physical tile bears no mark leaves it for NONE: the write waits for a DRAIN of each of the 77
    holders (R265, R266). -/
theorem mapTileAct_drains {x : W64} (hfree : s.MapFree v) (hwas : s.tileKind v = 1) (hkind : fld x 15 14 = 0)
    (hrsvd : fld x 6 0 = 0) (hmark : s.boot.markTiles.contains (s.tilePt v) = false) :
    mapTileAct v x s = .wait (.mapDrain v)
      (({ s.wr (rk 0 (0x2200 + v) 0) x with
          drains := s.drains ++ [{ v := v, old := s.tilePt v, wait := mapHolders, got := [] }] } : State).sendMarks v
        (s.tilePt v) 0) := by
  unfold mapTileAct
  extract_lets kind pt was range state busy
  have hrange : range = false := by simp [range, kind, hkind]
  have hstate : state = false := by simp [state, was, kind, hwas, hkind]
  have hbusy : busy = false := by simp only [busy, hfree.drains, hfree.swap, Bool.or_self]
  rw [guardAct_ok (guard_nil (by simp [hrange, hstate, hbusy, hrsvd]))]
  simp only [was, hwas, hmark, Nat.reduceEqDiff, false_and, if_false, Bool.not_false, and_self, if_true]
  rfl

end

/-! The DRAIN of a map holder -/

section
variable {s : State} {h v : Nat} {d : MapDrain} (hfind : (s.drains.find? fun d => decide (d.v = v)) = some d)
  (hwait : h ∈ d.wait) (hgot : h ∈ d.got)
include hfind hwait hgot

theorem exec_drain :
    exec (.drain h v) s = .next (
      if (d.wait.filter fun k => decide (k ≠ h)).isEmpty then
        senders.foldl (fun s n => s.finish n (.mapDrain v) false .ok)
          { s with drains := s.drains.filter fun q => decide (q.v ≠ v) }
      else
        { s with
          drains := (s.drains.filter fun q => decide (q.v ≠ v)) ++
            [{ d with wait := d.wait.filter fun k => decide (k ≠ h) }] }) := by
  have hdue : (d.wait.contains h && d.got.contains h) = true := by simp [hwait, hgot]
  show execDrain h v s = _
  simp only [execDrain, hfind, hdue, if_true]

end

/-! JOIN -/

section
variable {s : State} {p : Nat} {r : JoinRec}

theorem Only.peerEq {W : List Part} {t : State} (h : Only W s t) (hw : W.contains .peers = false) (k : Nat) :
    t.peer k = s.peer k :=
  congrArg (fun x => Tab.get PeerInfo.reset x k) (h.same .peers hw)

/-- The state after a JOIN record that agrees has been noted: what it says of its device, and the session of its path. -/
def State.welcome (s : State) (p : Nat) (r : JoinRec) : State :=
  ((s.notePeer p r .agreed).updPort p fun q => { q with joined := true }).openPeer r.devnum .agreed

theorem only_welcome (s : State) (p : Nat) (r : JoinRec) : Only [.regs, .ports, .paths, .peers] s (s.welcome p r) :=
  .chain (only_openPeer _ _ _) (by decide) <| .chain (only_updPort _ _ _) (by decide) <|
    (only_notePeer s p r .agreed).mono (by decide)

/-- The entries of SYS.PEER that a record writes. -/
def State.noteRegs (s : State) (r : JoinRec) (why : JoinReason) : State :=
  let k := fun (sub : Nat) => rk 0 (0x4820 + r.devnum) sub
  let st := if why ≠ .agreed then 3 else if r.agreed.getLsbD r.devnum then 2 else 1
  let s := (((s.wn (k 1) st).wn (k 2) why.code).wr (k 3) r.serial).wn (k 4) r.fwver.toNat
  ((s.wn (k 5) r.schema.toNat).wr (k 7) r.step).wn (k 8) r.delayNs

/-- What a record says of who agrees with its sender. -/
def State.noteAgrees (s : State) (r : JoinRec) (n : Nat) : State :=
  (List.range n).foldl (fun s d => s.updPeer d fun q => { q with agrees := r.agreed.getLsbD d }) s

theorem State.notePeer_def (s : State) (p : Nat) (r : JoinRec) (why : JoinReason) :
    s.notePeer p r why =
      (((s.noteRegs r why).noteAgrees r 8).updPeer r.devnum fun q =>
        { q with hash := r.hash, stopped := !r.running }).updPort p fun q =>
          { q with facing := r.port, found := r.devnum } := rfl

theorem only_noteRegs (s : State) (r : JoinRec) (why : JoinReason) : Only [.regs] s (s.noteRegs r why) := by
  unfold State.noteRegs
  exact .chain (only_wn _ _ _) (by decide) <| .chain (only_wr _ _ _) (by decide) <|
    .chain (only_wn _ _ _) (by decide) <| .chain (only_wn _ _ _) (by decide) <| .chain (only_wr _ _ _) (by decide) <|
    .chain (only_wn _ _ _) (by decide) (only_wn _ _ _)

theorem only_noteAgrees (s : State) (r : JoinRec) (n : Nat) : Only [.peers] s (s.noteAgrees r n) :=
  Only.foldl (.refl _ s) fun u d hu => hu.trans (only_updPeer u d _)

theorem State.rd_noteRegs {k : Nat} {why : JoinReason} (hk : k / 256 ≠ 0x4820 + r.devnum) :
    (s.noteRegs r why).rd k = s.rd k := by
  have hne : ∀ sub, sub < 256 → k ≠ rk 0 (0x4820 + r.devnum) sub := fun sub hsub => by unfold rk; omega
  unfold State.noteRegs
  rw [State.rd_wn_ne _ _ (hne 8 (by decide)), State.rd_wr_ne _ _ (hne 7 (by decide)),
    State.rd_wn_ne _ _ (hne 5 (by decide)), State.rd_wn_ne _ _ (hne 4 (by decide)),
    State.rd_wr_ne _ _ (hne 3 (by decide)), State.rd_wn_ne _ _ (hne 2 (by decide)),
    State.rd_wn_ne _ _ (hne 1 (by decide))]

/-- STATE and REASON are the first two that a record writes, and nothing writes them again. -/
theorem State.rd_noteRegs_verdict {sub : Nat} {why : JoinReason} (hsub : sub < 3) :
    (s.noteRegs r why).rd (rk 0 (0x4820 + r.devnum) sub) =
      ((s.wn (rPeerState r.devnum) (if why ≠ .agreed then 3 else if r.agreed.getLsbD r.devnum then 2 else 1)).wn
        (rPeerReason r.devnum) why.code).rd (rk 0 (0x4820 + r.devnum) sub) := by
  have hne : ∀ n, 2 < n → rk 0 (0x4820 + r.devnum) sub ≠ rk 0 (0x4820 + r.devnum) n := fun n hn => by unfold rk; omega
  unfold State.noteRegs
  rw [State.rd_wn_ne _ _ (hne 8 (by decide)), State.rd_wr_ne _ _ (hne 7 (by decide)),
    State.rd_wn_ne _ _ (hne 5 (by decide)), State.rd_wn_ne _ _ (hne 4 (by decide)),
    State.rd_wr_ne _ _ (hne 3 (by decide))]
  rfl

theorem State.peerReason_noteRegs (s : State) (r : JoinRec) : (s.noteRegs r .agreed).rn (rPeerReason r.devnum) = 0 :=
  (rn_ofrd (State.rd_noteRegs_verdict (by decide))).trans (State.rn_wn_lt _ _ (by decide))

theorem State.peerState_noteRegs (s : State) (r : JoinRec) :
    (s.noteRegs r .agreed).rn (rPeerState r.devnum) = if r.agreed.getLsbD r.devnum then 2 else 1 := by
  refine (rn_ofrd (State.rd_noteRegs_verdict (by decide))).trans ?_
  refine (State.rn_wn_ne _ _ (rk_sub (by decide) (by decide) (by decide))).trans ?_
  rw [if_neg (by decide)]
  exact State.rn_wn_lt _ _ (by split <;> decide)

/-- Each of the first n devices gets its own mark. -/
theorem State.peer_noteAgrees (s : State) (r : JoinRec) (n e : Nat) :
    (s.noteAgrees r n).peer e =
      if e < n then { s.peer e with agrees := r.agreed.getLsbD e } else s.peer e := by
  unfold State.noteAgrees
  induction n with
  | zero => rfl
  | succ n ih =>
    rw [List.range_succ, List.foldl_append, List.foldl_cons, List.foldl_nil]
    rcases Nat.lt_trichotomy e n with hlt | rfl | hgt
    · rw [State.peer_updPeer_ne _ _ (by omega), ih, if_pos hlt, if_pos (by omega)]
    · rw [State.peer_updPeer_same, ih, if_neg (Nat.lt_irrefl e), if_pos (Nat.lt_succ_self e)]
    · rw [State.peer_updPeer_ne _ _ (by omega), ih, if_neg (by omega), if_neg (by omega)]

theorem State.rd_openPeer {e k : Nat} {why : JoinReason} (hk : k ≠ rSessions (8 + e)) :
    (s.openPeer e why).rd k = s.rd k := by
  unfold State.openPeer State.openSession
  split
  · rfl
  · exact ((only_updPathN _ _ _).rdEq (by decide) k).trans (State.rd_bumpBy_ne _ _ _ hk)

theorem State.rd_welcome_noteRegs {k : Nat} (hk : k ≠ rSessions (8 + r.devnum)) :
    (s.welcome p r).rd k = (s.noteRegs r .agreed).rd k := by
  unfold State.welcome
  rw [State.rd_openPeer hk, (only_updPort _ _ _).rdEq (by decide), State.notePeer_def,
    (only_updPort _ _ _).rdEq (by decide), (only_updPeer _ _ _).rdEq (by decide),
    (only_noteAgrees _ _ _).rdEq (by decide)]

/-- Welcoming a record writes the entries of its device and the sessions of the paths only. -/
theorem State.rd_welcome {k : Nat} (hpeer : k / 256 ≠ 0x4820 + r.devnum) (hsession : k ≠ rSessions (8 + r.devnum)) :
    (s.welcome p r).rd k = s.rd k :=
  (State.rd_welcome_noteRegs hsession).trans (State.rd_noteRegs hpeer)

theorem State.port_welcome (s : State) (p : Nat) (r : JoinRec) :
    (s.welcome p r).port p = { s.port p with facing := r.port, found := r.devnum, joined := true } := by
  unfold State.welcome
  rw [(only_openPeer _ _ _).portEq (by decide), State.port_updPort_same, State.notePeer_def, State.port_updPort_same,
    (only_updPeer _ _ _).portEq (by decide), (only_noteAgrees _ _ _).portEq (by decide),
    (only_noteRegs _ _ _).portEq (by decide)]

theorem State.peer_welcome (hdev : r.devnum < 8) :
    (s.welcome p r).peer r.devnum =
      { hash := r.hash, agrees := r.agreed.getLsbD r.devnum, port := (s.peer r.devnum).port,
        stopped := !r.running } := by
  unfold State.welcome
  rw [(only_openPeer _ _ _).peerEq (by decide), (only_updPort _ _ _).peerEq (by decide), State.notePeer_def,
    (only_updPort _ _ _).peerEq (by decide), State.peer_updPeer_same, State.peer_noteAgrees, if_pos hdev,
    (only_noteRegs _ _ _).peerEq (by decide)]

/-- The entries of the system and of the ports are none of a device's, nor do they count sessions. -/
theorem State.rn_welcome_sys {i n : Nat} (hdev : r.devnum < 8) (hi : i < 0x3000 ∨ 0x4800 = i) (hn : n < 256) :
    (s.welcome p r).rn (rk 0 i n) = s.rn (rk 0 i n) :=
  rn_ofrd (State.rd_welcome (by unfold rk; omega) (by unfold rSessions rk; omega))

theorem State.portState_welcome {q : Nat} (hdev : r.devnum < 8) (hq : q ≤ 6) :
    (s.welcome p r).portState q = s.portState q :=
  State.rn_welcome_sys hdev (by omega) (by decide)

theorem State.follows_welcome (hdev : r.devnum < 8) : (s.welcome p r).follows = s.follows := by
  have hleader : (s.welcome p r).rn rLeader = s.rn rLeader := State.rn_welcome_sys hdev (.inr rfl) (by decide)
  have hmembers : (s.welcome p r).rn rMembers = s.rn rMembers := State.rn_welcome_sys hdev (.inr rfl) (by decide)
  have hself : (s.welcome p r).dev = s.dev := congrArg BitVec.toNat ((only_welcome s p r).same .straps (by decide))
  simp only [State.follows, State.leads, State.isMember, hleader, hmembers, hself]

/-- A record that agrees makes port p the direct port to its device; one of a leader that has stopped stops a follower
    first (R275 to R277, R279). -/
theorem State.join_agreed (hp : p ≤ 6) (hdev : r.devnum < 8) (hds : s.disagreements p r = [])
    (hup : s.portState p ≠ 5) :
    s.join p r =
      (if s.follows && decide (r.devnum = s.rn rLeader) && !r.running then (s.welcome p r).stopWithLeader
        else s.welcome p r).findPeer p r.devnum := by
  have hleader : (s.welcome p r).rn rLeader = s.rn rLeader := State.rn_welcome_sys hdev (.inr rfl) (by decide)
  unfold State.join
  rw [hds]
  simp only [List.head?_nil, List.foldl_nil, JoinReason.fences, decide_false, Bool.false_and, Bool.or_self,
    Bool.false_eq_true, if_false, ne_eq, not_true, reduceCtorEq]
  show (let s' := if (s.welcome p r).follows && decide (r.devnum = (s.welcome p r).rn rLeader) && !r.running then
      (s.welcome p r).stopWithLeader else s.welcome p r
    if s'.portState p = 5 then s'.unfencePort p r.devnum else s'.findPeer p r.devnum) = _
  rw [State.follows_welcome hdev, hleader]
  have hstate : (s.welcome p r).portState p ≠ 5 := by rwa [State.portState_welcome hdev hp]
  refine if_neg ?_
  split
  · rwa [State.portState, (only_stopWithLeader _).rnEq (by decide)]
  · exact hstate

theorem exec_join (hp : p ≤ 6) (hup : s.portState p = 3 ∨ s.portState p = 4) (hdev : r.devnum < 8)
    (hds : s.disagreements p r = []) :
    exec (.join p r) s = .next
      ((if s.follows && decide (r.devnum = s.rn rLeader) && !r.running then (s.welcome p r).stopWithLeader
        else s.welcome p r).findPeer p r.devnum) := by
  show execJoin p r s = _
  rw [execJoin, if_pos ⟨by omega, hdev⟩, State.join_agreed hp hdev hds (by omega)]

theorem State.peerState_welcome (hdev : r.devnum < 8) :
    (s.welcome p r).rn (rPeerState r.devnum) = if r.agreed.getLsbD r.devnum then 2 else 1 :=
  (rn_ofrd (State.rd_welcome_noteRegs (by unfold rPeerState rSessions rk; omega))).trans (State.peerState_noteRegs s r)

theorem State.peerReason_welcome (hdev : r.devnum < 8) : (s.welcome p r).rn (rPeerReason r.devnum) = 0 :=
  (rn_ofrd (State.rd_welcome_noteRegs (by unfold rPeerReason rSessions rk; omega))).trans (State.peerReason_noteRegs s r)

/-! The direct port to a device -/

theorem State.rn_findPeer (s : State) (p : Nat) {e : Nat} (he : e < 2 ^ 64) : (s.findPeer p e).rn (pReg p 2) = e :=
  ((only_updPeer _ _ _).rnEq (by decide) _).trans (State.rn_wn_lt _ _ he)

theorem State.peer_findPeer (s : State) (p e : Nat) : (s.findPeer p e).peer e = { s.peer e with port := some p } := by
  rw [State.findPeer, State.peer_updPeer_same, (only_wn _ _ _).peerEq (by decide)]

theorem State.rn_findPeer_ne (s : State) {p e k : Nat} (hk : k ≠ pReg p 2) : (s.findPeer p e).rn k = s.rn k :=
  ((only_updPeer _ _ _).rnEq (by decide) _).trans (State.rn_wn_ne _ _ hk)

end

/-! MAP.CORE and SYS.ROUTE -/

section
variable {s : State}

/-- A core that exists, works and is in no other slot takes the slot, where no connection of its tile binds its queues. -/
theorem mapCoreAct_ok {p : Path} {slot c : Nat}
    (hbound : ∀ v, s.vtOf (s.rn (rTsel p)) = some v → s.queuesBound (128 * v + slot) = false) (hc : c ≤ 135)
    (hbad : s.coreBad (136 * s.rn (rTsel p) + c) = false)
    (htaken : ((List.range 128).any fun k => decide (k ≠ slot) && decide (s.mapCore (s.rn (rTsel p)) k = c)) = false) :
    mapCoreAct p slot c s = okAct (s.wn (rk (16 + s.rn (rTsel p)) 0x2401 slot) c) := by
  have hc' : ¬135 < c := by omega
  unfold mapCoreAct
  extract_lets t busy taken range
  have hbusy : busy = false := by
    simp only [busy]
    split
    next v hv => exact hbound v hv
    next => rfl
  have hrange : range = false := by simp [range, t, taken, hc', hbad, htaken]
  exact guardAct_ok (guard_nil (by simp [hbusy, hrange]))

/-- A route that no port carries is set at once. -/
theorem routeAct_free {e : Nat} {x : W64} (hroute : s.routePort e = none) (hkind : fld x 15 14 ≤ 2)
    (hport : fld x 13 10 ≤ 7) (hrsvd : fld x 9 0 = 0) : routeAct e x s = okAct (s.wr (rRoute e) x) := by
  have hkind' : fld x 15 14 ≠ 3 := by omega
  have hport' : ¬7 < fld x 13 10 := by omega
  unfold routeAct
  rw [guardAct_ok (guard_nil (by simp [hkind', hport', hrsvd]))]
  simp only [hroute]

end

/-! DEFECT.CMD -/

theorem State.boot_mark_on (s : State) (v : Nat) :
    (s.mark v true).boot =
      if argWhole v then { s.boot with markTiles := addNew (argTile v) s.boot.markTiles }
      else { s.boot with markCores := addNew (136 * argTile v + v % 256) s.boot.markCores } := by
  unfold State.mark
  cases argWhole v <;> rfl

theorem State.boot_mark_off (s : State) (v : Nat) :
    (s.mark v false).boot =
      if argWhole v then { s.boot with markTiles := s.boot.markTiles.filter fun m => decide (m ≠ argTile v) }
      else { s.boot with
        markCores := s.boot.markCores.filter fun m => decide (m ≠ 136 * argTile v + v % 256) } := by
  unfold State.mark
  cases argWhole v <;> rfl

theorem not_mem_filter_ne (n : Nat) (l : List Nat) : n ∉ l.filter fun m => decide (m ≠ n) := by
  simp [List.mem_filter]

/-- Settles O27: each dictionary command by what its entry does in the opened window, each of the others by what it finds
    in the maps. -/
theorem systemMaps : Obligations.SystemMaps := by
  refine ⟨?maps, ?leaves, ?drainMore, ?drainLast, ?core, ?route, ?drained, ?join, ?joinStopped, ?rejoin, ?adopt, ?mark,
    ?unmark⟩
  case maps =>
    intro p v x s hs hswap hdrains hwas hkind hpt hrsvd hbad htaken hroom
    refine Completes.dict rfl hs (by decide) fun u hu =>
      ⟨_, mapTileAct_maps (.of_pathEq ⟨hswap, hdrains⟩ hu) ((hu.tileKind v).trans hwas) hkind hpt hrsvd
        ((hu.tileBad _).trans hbad) ((hu.tileTaken _ _).trans htaken) (by rw [hu.residents, hu.comingIn]; exact hroom),
        (only_wr _ _ _).mono (by decide), fun w hw ha => ⟨ha, ?_, fun k hk => ?_⟩⟩
    · exact (hw.rd _).trans (State.rd_wr_same _ _ _)
    · rw [hw.rd, State.rd_wr_ne _ _ hk, hu.rd]
  case leaves =>
    intro p v s hs hswap hdrains hwas hmark
    refine Completes.dictWait rfl hs (by decide) fun u hu =>
      ⟨_, mapTileAct_drains (.of_pathEq ⟨hswap, hdrains⟩ hu) ((hu.tileKind v).trans hwas) rfl rfl
        (by rw [hu.boot, hu.tilePt, hmark]), ?_, fun w hw ha => ⟨ha, ?_, ?_⟩⟩
    · exact .chain (only_sendMarks _ _ _ _) (by decide) <| .chain (Only.set_drains _ _) (by decide) <|
        (only_wr u _ _).mono (by decide)
    · refine (hw.rd _).trans (((only_sendMarks _ _ _ _).rdEq (by decide) _).trans ?_)
      exact State.rd_wr_same u _ _
    · rw [hw.drains, (only_sendMarks _ _ _ _).same .drains (by decide), hu.drains, hu.tilePt]
      rfl
  case drainMore =>
    intro h v d s hfind hwait hgot hrest
    have hx := exec_drain hfind hwait hgot
    rw [if_neg (by rw [List.isEmpty_iff]; exact hrest)] at hx
    exact ⟨_, hx, Only.set_drains _ _, rfl⟩
  case drainLast =>
    intro p h v d s hfind hwait hgot hrest hsender hpath
    have hx := exec_drain hfind hwait hgot
    rw [if_pos (by rw [List.isEmpty_iff]; exact hrest)] at hx
    have hfinish : Only [.paths] _ _ := Only.foldl (f := fun s n => s.finish n (.mapDrain v) false .ok) (l := senders)
      (.refl _ { s with drains := s.drains.filter fun q => decide (q.v ≠ v) }) fun u n hu =>
        hu.trans (only_finish u n _ _ _)
    refine ⟨_, hx, .chain hfinish (by decide) ((Only.set_drains s _).mono (by decide)), ?_,
      hfinish.same .drains (by decide)⟩
    exact State.finish_all _ _ _ _ hsender hpath
  case core =>
    intro p slot x s hs hbound hx hbad htaken
    refine Completes.dictOk (only_mapCoreAct p slot x.toNat) rfl hs (by decide) (by decide) fun u hu _ =>
      ⟨_, mapCoreAct_ok ?_ hx ?_ ?_, fun w hw ha => ⟨ha, ?_, fun k hk => ?_⟩⟩
    · rw [hu.rn]
      intro v hv
      rw [hu.vtOf] at hv
      rw [hv] at hbound
      exact (hu.queuesBound _).trans hbound
    · rw [hu.rn, hu.coreBad, hbad]
    · simpa only [hu.rn, hu.mapCore] using htaken
    · rw [State.mapCore, hw.rn, hu.rn, State.rn_wn_lt _ _ (x.isLt.trans (by decide))]
    · rw [hw.rd, hu.rn, State.rd_wn_ne _ _ hk, hu.rd]
  case route =>
    intro p e x s hs hroute hkind hport hrsvd
    refine Completes.dict rfl hs (by decide) fun u hu =>
      ⟨_, routeAct_free ((hu.routePort e).trans hroute) hkind hport hrsvd, (only_wr _ _ _).mono (by decide),
        fun w hw ha => ⟨ha, (hw.rd _).trans (State.rd_wr_same _ _ _), fun k hk => ?_⟩⟩
    rw [hw.rd, State.rd_wr_ne _ _ hk, hu.rd]
  case drained =>
    intro e p s hheld
    have hx : exec (.drained e) s = .next { s with routes := Tab.set none s.routes e none } := by
      show execDrained e s = _
      rw [execDrained, hheld]
    exact ⟨_, hx, Only.set_routes _ _, Tab.get_set_same none s.routes e none,
      fun k hk => Tab.get_set_ne none none s.routes none hk⟩
  case join =>
    intro p r s hp hup hdev hds hrunning
    have hx := exec_join hp hup hdev hds
    rw [if_neg (by
      simp only [Bool.and_eq_true, decide_eq_true_eq, Bool.not_eq_true', not_and, Bool.not_eq_false]
      exact fun h => hrunning h.1 h.2)] at hx
    refine ⟨_, hx, .chain (only_findPeer _ _ _) (by decide) ((only_welcome s p r).mono (by decide)),
      State.rn_findPeer _ p (by omega), ?_, ?_, ?_, ?_⟩
    · rw [(only_findPeer _ _ _).portEq (by decide), State.port_welcome]
    · rw [State.peer_findPeer, State.peer_welcome hdev]
    · exact (State.rn_findPeer_ne _ (rk_idx (by decide) (by decide) (by omega))).trans (State.peerState_welcome hdev)
    · exact (State.rn_findPeer_ne _ (rk_idx (by decide) (by decide) (by omega))).trans (State.peerReason_welcome hdev)
  case joinStopped =>
    intro p r s hp hup hdev hds hfollows hleader hrunning hstopped hround
    have hx := exec_join hp hup hdev hds
    have hsteps : (s.welcome p r).stopWithLeader = (s.welcome p r).stopSteps := if_neg (by
      rw [State.stopped, (only_welcome s p r).same .eng (by decide), hround, ← State.stopped, hstopped]
      decide)
    rw [if_pos (by simp [hfollows, hrunning, ← hleader]), hsteps] at hx
    have heng := (only_findPeer (s.welcome p r).stopSteps p r.devnum).same .eng (by decide)
    refine ⟨_, hx, .chain (only_findPeer _ _ _) (by decide) <| .chain (only_stopSteps _) (by decide) <|
      (only_welcome s p r).mono (by decide), ?_, ?_, State.rn_findPeer _ p (by omega)⟩
    · rw [heng, State.eng_stopSteps]
    · rw [heng, State.eng_stopSteps, (only_welcome s p r).same .eng (by decide)]
  case rejoin =>
    intro p s hs
    refine Completes.dictOk only_rejoinAct rfl hs (by decide) (by decide) fun u hu _ =>
      ⟨_, rfl, fun w hw ha => ⟨ha, fun k hk hup => ?_⟩⟩
    obtain ⟨m, hm, hout⟩ := State.sendJoins_out u hk ((hu.portState k).symm ▸ hup)
    exact ⟨m, hm, by rw [hw.port, hout, hu.port]⟩
  case adopt =>
    intro p j s hs hrings hstop hfollows hreaches
    refine Completes.dictOk (only_adoptAct j) rfl hs (by decide) (by decide) fun u hu _ =>
      ⟨_, guardAct_ok (guard_nil (by simp [hu.ringsHold, hu.stopped, hu.follows, hu.reaches, hu.rn, hrings, hstop,
        hfollows, hreaches])), fun w hw ha => ⟨ha, ?_⟩⟩
    rw [hw.eng, (only_sendJoins _).same .eng (by decide), ← hu.eng]
    rfl
  case mark =>
    intro p s hs hfailed
    refine Completes.dictOk (only_markAct p true) rfl hs (by decide) (by decide) fun u hu _ =>
      ⟨_, guardAct_ok (guard_nil (by simp [hu.argFailed, hu.rn, hfailed])), fun w hw ha => ⟨ha, ?_⟩⟩
    rw [hw.boot, State.boot_mark_on, hu.boot, hu.rn]
  case unmark =>
    intro p s hs hfailed
    refine Completes.dictOk (only_markAct p false) rfl hs (by decide) (by decide) fun u hu _ =>
      ⟨_, guardAct_ok (guard_nil (by simp [hu.argFailed, hu.rn, hfailed])), fun w hw ha => ⟨ha, ?_⟩⟩
    rw [hw.boot, State.boot_mark_off, hu.boot, hu.rn]
    by_cases hwhole : argWhole (s.rn (rDefectArg p)) = true
    · rw [if_pos hwhole]
      exact ⟨rfl, rfl, fun _ => not_mem_filter_ne _ _, fun hno => by simp [hwhole] at hno⟩
    · rw [if_neg hwhole]
      exact ⟨rfl, rfl, fun hyes => absurd hyes hwhole, fun _ => not_mem_filter_ne _ _⟩

end Sys2Proof.Machine
end

section
/-! PROOF. The timers and their triggers (10 R343 to R348). -/

namespace Sys2Proof.Machine

/-! One pass of a fold -/

/-- A fold over distinct elements, of which every one but a keeps what R compares, passes a state that R relates to the
    first, acts on it with a, and keeps the outcome. -/
theorem foldl_visits {σ α : Type} {f : σ → α → σ} {a : α} (R : σ → σ → Prop) (hrefl : ∀ s, R s s)
    (htrans : ∀ {s t u}, R s t → R t u → R s u) (hkeep : ∀ s b, b ≠ a → R s (f s b)) {l : List α} (hnodup : l.Nodup)
    (ha : a ∈ l) (s : σ) : ∃ u, R s u ∧ R (f u a) (l.foldl f s) := by
  induction l generalizing s with
  | nil => cases ha
  | cons b l ih =>
    obtain ⟨hb, hl⟩ := List.nodup_cons.mp hnodup
    rcases List.mem_cons.mp ha with rfl | hmem
    · exact ⟨s, hrefl s, List.foldlRecOn (motive := R (f s a)) l f (hrefl _) fun t ht c hc =>
        htrans ht (hkeep t c fun h => hb (h ▸ hc))⟩
    · obtain ⟨u, hu, hend⟩ := ih hl hmem (f s b)
      exact ⟨u, htrans (hkeep s b fun h => hb (h ▸ hmem)) hu, hend⟩

/-! The registers of timers and triggers -/

theorem tmr_ne {n a b : Nat} (h : a < 256 ∧ b < 256 ∧ a ≠ b) : tmr n a ≠ tmr n b := rk_sub h.1 h.2.1 h.2.2

theorem tmr_ne_tmr {n m a b : Nat} (ha : a < 256) (hb : b < 256) (h : n ≠ m) : tmr n a ≠ tmr m b :=
  rk_idx ha hb (by omega)

theorem trg_ne {m a b : Nat} (h : a < 256 ∧ b < 256 ∧ a ≠ b) : trg m a ≠ trg m b := rk_sub h.1 h.2.1 h.2.2

theorem trg_ne_trg {l m a b : Nat} (ha : a < 256) (hb : b < 256) (h : l ≠ m) : trg l a ≠ trg m b :=
  rk_idx ha hb (by omega)

theorem trg_ne_tmr {n : Nat} (m : Nat) {a b : Nat} (hn : n < 32) (ha : a < 256) (hb : b < 256) : trg m a ≠ tmr n b :=
  rk_idx ha hb (by omega)

/-- STEP.SRC_EXTRA, the register in which a step source counts. -/
def rSrcExtra : Nat := rk 0 0x3C06 2

theorem tmr_ne_srcExtra (n sub : Nat) : tmr n sub ≠ rSrcExtra := by unfold tmr rSrcExtra rk; omega

theorem trg_ne_srcExtra (m sub : Nat) : trg m sub ≠ rSrcExtra := by unfold trg rSrcExtra rk; omega

/-! Flags, vectors and step sources -/

section
variable (s : State)

theorem State.rn_setFlag (n : Nat) {b : Nat} (h : b < 64) :
    (s.setFlag n b).rn (tmr n 9) = Nat.lor (s.rn (tmr n 9)) (2 ^ b) :=
  State.rn_wn_lt s _ (Nat.or_lt_two_pow (s.rd (tmr n 9)).isLt (Nat.pow_lt_pow_right (by decide) h))

theorem State.testBit_setFlag (n : Nat) {b : Nat} (h : b < 64) (j : Nat) :
    ((s.setFlag n b).rn (tmr n 9)).testBit j = ((s.rn (tmr n 9)).testBit j || decide (b = j)) := by
  rw [State.rn_setFlag s n h]
  exact (Nat.testBit_or _ _ _).trans (congrArg _ Nat.testBit_two_pow)

theorem State.rd_setFlag {n b k : Nat} (h : k ≠ tmr n 9) : (s.setFlag n b).rd k = s.rd k := State.rd_wn_ne s _ h

theorem State.rd_stepSource {src k : Nat} (h : k ≠ rSrcExtra) : (s.stepSource src).rd k = s.rd k := by
  unfold State.stepSource
  split
  · rfl
  · split
    · exact (only_placeDeadline s).rdEq (by decide) k
    · exact State.rd_bumpBy_ne s 64 1 h

/-- Of the registers a match writes its flag and STEP.SRC_EXTRA. -/
theorem State.rd_matched (n k : Nat) {j : Nat} (h : j ≠ rSrcExtra) :
    (s.matched n k).rd j = (s.setFlag n (k + 1)).rd j := by
  unfold State.matched
  extract_lets u v
  have hv : v.rd j = u.rd j := (only_raise _ _).rdEq (by decide) j
  split
  · exact (v.rd_stepSource h).trans hv
  · exact hv

end

/-! Triggers -/

/-- Trigger m writes its LEVEL, its CONFLICT and the rest of its pulse. -/
theorem State.rd_trigger (s : State) {hits : List Nat} {m k : Nat}
    (h : k ≠ trg m 5 ∧ k ≠ trg m 6 ∧ k ≠ trg m 0x20) : (s.trigger hits m).rd k = s.rd k := by
  obtain ⟨hlevel, hconflict, hpulse⟩ := h
  unfold State.trigger
  extract_lets sets clears
  split_ifs
  · rw [State.bump32, State.rd_bumpBy_ne _ _ _ hconflict, State.rd_wn_ne _ _ hpulse, State.rd_wn_ne _ _ hlevel]
  · rw [State.rd_wn_ne _ _ hpulse, State.rd_wn_ne _ _ hlevel]
  · rw [State.rd_wn_ne _ _ hpulse, State.rd_wn_ne _ _ hlevel]
  · rfl

theorem State.rd_triggers (s : State) {hits : List Nat} {k : Nat}
    (h : ∀ m, k ≠ trg m 5 ∧ k ≠ trg m 6 ∧ k ≠ trg m 0x20) : (s.triggers hits).rd k = s.rd k :=
  foldl_rel (fun s t : State => t.rd k = s.rd k) (fun _ => rfl) (fun _ _ _ hab hbc => hbc.trans hab) _
    (fun s m => s.rd_trigger (h m)) _ s

/-- LEVEL of a trigger falls when its CLR_SRC has matched, and rises when its SET_SRC alone has (R348). -/
theorem State.level_trigger (s : State) (hits : List Nat) (m : Nat) :
    (s.trigger hits m).rn (trg m 5) =
      if hits.contains (s.rn (trg m 2)) then 0 else if hits.contains (s.rn (trg m 1)) then 1 else s.rn (trg m 5) := by
  have hpulse : trg m 5 ≠ trg m 0x20 := trg_ne (by decide)
  have hconflict : trg m 5 ≠ trg m 6 := trg_ne (by decide)
  unfold State.trigger
  generalize hits.contains (s.rn (trg m 1)) = sets, hits.contains (s.rn (trg m 2)) = clears
  cases clears
  case true =>
    cases sets
    · exact (State.rn_wn_ne _ _ hpulse).trans (State.rn_wn_lt s _ (by decide))
    · exact (State.rn_bumpBy_ne _ _ _ hconflict).trans
        ((State.rn_wn_ne _ _ hpulse).trans (State.rn_wn_lt s _ (by decide)))
  case false =>
    cases sets
    · rfl
    · exact (State.rn_wn_ne _ _ hpulse).trans (State.rn_wn_lt s _ (by decide))

theorem State.level_triggers (s : State) (hits : List Nat) {m : Nat} (hm : m < 8) :
    (s.triggers hits).rn (trg m 5) =
      if hits.contains (s.rn (trg m 2)) then 0 else if hits.contains (s.rn (trg m 1)) then 1 else s.rn (trg m 5) := by
  obtain ⟨u, hu, hend⟩ := foldl_visits (f := fun s l => State.trigger s hits l) (a := m)
    (fun s t : State => ∀ sub, sub < 256 → t.rd (trg m sub) = s.rd (trg m sub)) (fun _ _ _ => rfl)
    (fun h g sub hsub => (g sub hsub).trans (h sub hsub))
    (fun s l hl sub hsub => s.rd_trigger ⟨trg_ne_trg hsub (by decide) hl.symm, trg_ne_trg hsub (by decide) hl.symm,
      trg_ne_trg hsub (by decide) hl.symm⟩)
    List.nodup_range (List.mem_range.mpr hm) s
  have hlevel := u.level_trigger hits m
  rw [rn_ofrd (hu 1 (by decide)), rn_ofrd (hu 2 (by decide)), rn_ofrd (hu 5 (by decide))] at hlevel
  exact (rn_ofrd (hend 5 (by decide))).trans hlevel

/-! What a tick of one timer leaves of another -/

/-- The registers of timer n read the same in both states, but for flags set meanwhile. -/
structure State.TimerKept (n : Nat) (s t : State) : Prop where
  rd : ∀ sub, sub < 256 → sub ≠ 9 → t.rd (tmr n sub) = s.rd (tmr n sub)
  flags : ∀ b, (s.rn (tmr n 9)).testBit b = true → (t.rn (tmr n 9)).testBit b = true

namespace State.TimerKept

variable {n : Nat}

theorem of_rd {s t : State} (h : ∀ sub, sub < 256 → t.rd (tmr n sub) = s.rd (tmr n sub)) : s.TimerKept n t :=
  ⟨fun sub hsub _ => h sub hsub, fun b hb => by rwa [rn_ofrd (h 9 (by decide))]⟩

theorem refl (s : State) : s.TimerKept n s := of_rd fun _ _ => rfl

theorem trans {s t u : State} (h : s.TimerKept n t) (g : t.TimerKept n u) : s.TimerKept n u :=
  ⟨fun sub hsub hne => (g.rd sub hsub hne).trans (h.rd sub hsub hne), fun b hb => g.flags b (h.flags b hb)⟩

theorem wn_other (s : State) {m sub : Nat} (v : Nat) (hm : n ≠ m) (hsub : sub < 256) :
    s.TimerKept n (s.wn (tmr m sub) v) :=
  of_rd fun _ h => State.rd_wn_ne s v (tmr_ne_tmr h hsub hm)

theorem setFlag (s : State) (m : Nat) {b : Nat} (hb : b < 64) : s.TimerKept n (s.setFlag m b) := by
  by_cases hm : n = m
  · subst hm
    refine ⟨fun sub hsub hne => s.rd_setFlag (tmr_ne ⟨hsub, by decide, hne⟩), fun j hj => ?_⟩
    rw [State.testBit_setFlag s n hb, hj, Bool.true_or]
  · exact of_rd fun sub hsub => s.rd_setFlag (tmr_ne_tmr hsub (by decide) hm)

theorem matched (s : State) (m : Nat) {k : Nat} (hk : k < 2) : s.TimerKept n (s.matched m k) :=
  (setFlag s m (b := k + 1) (by omega)).trans (of_rd fun sub _ => s.rd_matched m k (tmr_ne_srcExtra n sub))

/-- What comes with the matches of a tick leaves timer n. As in KeepsTB.Fst, a structure of its own keeps the kernel from
    evaluating the pair. -/
structure Fst (n : Nat) (s : State) (r : State × List Nat) : Prop where
  kept : s.TimerKept n r.1

theorem compare (s : State) (m : Nat) {k : Nat} (wrapped : Bool) (hits : List Nat) (hk : k < 2) :
    Fst n s (s.compare m k wrapped hits) := by
  unfold State.compare
  generalize decide ((s.rn (tmr m 3) + 2 ^ 32 - s.rn (tmr m (5 + k))) % 2 ^ 32 < 2 ^ 31) = reached
  extract_lets now was t
  have ht : s.TimerKept n t := of_rd fun sub _ => (Only.set_was s _).rdEq (by decide) (tmr n sub)
  split
  · exact ⟨ht.trans (matched t m hk)⟩
  · exact ⟨ht⟩

theorem Fst.compare {s : State} {r : State × List Nat} (h : Fst n s r) (m : Nat) {k : Nat} (wrapped : Bool)
    (hk : k < 2) : Fst n s (r.1.compare m k wrapped r.2) :=
  ⟨h.kept.trans (TimerKept.compare r.1 m wrapped r.2 hk).kept⟩

/-- A tick of timer m reaches timers from m on only (R345). -/
theorem tickFrom (fuel : Nat) {m : Nat} (s : State) (hits : List Nat) (hm : n < m) :
    Fst n s (State.tickFrom fuel m s hits) := by
  induction fuel generalizing m s hits with
  | zero => exact ⟨refl s⟩
  | succ fuel ih =>
    rw [State.tickFrom]
    split
    · exact ⟨refl s⟩
    generalize s.rn (tmr m 3) = count, s.rn (tmr m 4) = reload
    extract_lets _ _ wrapped s1 s2 r1 r2
    have h1 : s.TimerKept n s1 := by
      unfold s1
      split
      · exact (setFlag s m (by decide)).trans (wn_other _ _ (by omega) (by decide))
      · exact refl s
    have h2 : s.TimerKept n s2 := h1.trans (wn_other s1 _ (by omega) (by decide))
    clear_value s2
    have h3 : Fst n s r1 := by
      unfold r1
      split
      · exact ⟨h2.trans (ih s2 hits (by omega)).kept⟩
      · exact ⟨h2⟩
    clear_value r1
    have h4 : Fst n s r2 := h3.compare m wrapped (by decide)
    clear_value r2
    exact h4.compare m wrapped (by decide)

theorem triggers (s : State) (hits : List Nat) (hn : n < 32) : s.TimerKept n (s.triggers hits) :=
  of_rd fun sub hsub => s.rd_triggers fun m =>
    ⟨(trg_ne_tmr m hn (by decide) hsub).symm, (trg_ne_tmr m hn (by decide) hsub).symm,
      (trg_ne_tmr m hn (by decide) hsub).symm⟩

end State.TimerKept

/-! A wrap -/

/-- Timer n starts its count again from 0; a RELOAD below the count counts as short (R343). -/
def State.restart (s : State) (n : Nat) : State :=
  (if s.rn (tmr n 4) < s.rn (tmr n 3) then (s.setFlag n 0).bump32 (tmr n 0x0A) else s).wn (tmr n 3) 0

section
variable {s : State} {n : Nat}

theorem State.count_restart (s : State) (n : Nat) : (s.restart n).rn (tmr n 3) = 0 := State.rn_wn_lt _ _ (by decide)

theorem State.shorts_restart (s : State) (n : Nat) :
    (s.restart n).rn (tmr n 0x0A) =
      if s.rn (tmr n 4) < s.rn (tmr n 3) then min (s.rn (tmr n 0x0A) + 1) (2 ^ 32 - 1) else s.rn (tmr n 0x0A) := by
  rw [State.restart, State.rn_wn_ne _ _ (tmr_ne (by decide))]
  split
  · rw [State.rn_bump32, rn_ofrd (s.rd_setFlag (tmr_ne (by decide)))]
  · rfl

/-- A short RELOAD sets SHORT, bit 0 of FLAGS (R343). -/
theorem State.flag_restart (h : s.rn (tmr n 4) < s.rn (tmr n 3)) :
    ((s.restart n).rn (tmr n 9)).testBit 0 = true := by
  rw [State.restart, if_pos h, State.rn_wn_ne _ _ (tmr_ne (by decide)), State.bump32,
    State.rn_bumpBy_ne _ _ _ (tmr_ne (by decide)), State.testBit_setFlag s n (by decide)]
  exact Bool.or_true _

/-- The rest of a tick of timer n once its count has advanced: the timers cascaded on it, then its compares (R345). -/
def State.tickRest (s : State) (fuel n : Nat) (wrapped : Bool) (hits : List Nat) : State × List Nat :=
  let r := if wrapped && decide (n + 1 < 32) && decide (s.rn (tmr (n + 1) 2) = 1) then
    State.tickFrom fuel (n + 1) s hits else (s, hits)
  let r := r.1.compare n 0 wrapped r.2
  r.1.compare n 1 wrapped r.2

/-- A timer that counts and stands at or above RELOAD restarts. -/
theorem State.tickFrom_restarts (fuel : Nat) (hits : List Nat) (hon : s.rn (tmr n 1) ≠ 0)
    (hreached : s.rn (tmr n 4) ≤ s.rn (tmr n 3)) :
    State.tickFrom (fuel + 1) n s hits = (s.restart n).tickRest fuel n true hits := by
  have hwrapped := decide_eq_true hreached
  rw [State.tickFrom, if_neg hon, State.restart]
  generalize s.rn (tmr n 3) = count, s.rn (tmr n 4) = reload at hwrapped ⊢
  simp only [hwrapped, if_true]
  rfl

theorem State.TimerKept.tickRest (s : State) (fuel : Nat) (wrapped : Bool) (hits : List Nat) :
    Fst n s (s.tickRest fuel n wrapped hits) := by
  unfold State.tickRest
  extract_lets r1 r2
  have h1 : Fst n s r1 := by
    unfold r1
    split
    · exact State.TimerKept.tickFrom fuel s hits (by omega)
    · exact ⟨.refl s⟩
  clear_value r1
  have h2 : Fst n s r2 := h1.compare n wrapped (by decide)
  clear_value r2
  exact h2.compare n wrapped (by decide)

theorem State.TimerKept.tickTimer_restart (hn : n < 32) (hon : s.rn (tmr n 1) ≠ 0)
    (hreached : s.rn (tmr n 4) ≤ s.rn (tmr n 3)) : (s.restart n).TimerKept n (s.tickTimer n) := by
  obtain ⟨fuel, hfuel⟩ : ∃ fuel, 32 - n = fuel + 1 := ⟨31 - n, by omega⟩
  have h := State.TimerKept.tickRest (n := n) (s.restart n) fuel true []
  unfold State.tickTimer
  rw [hfuel, State.tickFrom_restarts fuel [] hon hreached]
  generalize (s.restart n).tickRest fuel n true [] = r at h
  exact h.kept.trans (.triggers _ _ hn)

end

/-! A match -/

/-- Compare k of timer n matches: what it has matched before, with the flag, the vector and the step source (R343). -/
def State.matchState (s : State) (n k : Nat) : State :=
  (s.put_was (Tab.set false s.was (2 * n + k) true)).matched n k

section
variable {s : State} {n k : Nat}

theorem State.compare_match (hwas : Tab.get false s.was (2 * n + k) = false)
    (hreached : (s.rn (tmr n 3) + 2 ^ 32 - s.rn (tmr n (5 + k))) % 2 ^ 32 < 2 ^ 31) :
    s.compare n k false [] = (s.matchState n k, [2 * n + k]) := by
  have hnow := decide_eq_true hreached
  unfold State.compare
  rw [hnow, hwas]
  rfl

theorem exec_timerMatch (hclk : s.boot.refclk = true) (hon : s.rn (tmr n 1) ≠ 0)
    (hwas : Tab.get false s.was (2 * n + k) = false)
    (hreached : (s.rn (tmr n 3) + 2 ^ 32 - s.rn (tmr n (5 + k))) % 2 ^ 32 < 2 ^ 31) :
    exec (.timerMatch n k) s = .next ((s.matchState n k).triggers [2 * n + k]) := by
  refine congrArg Host.Outcome.next ((State.clk_on hclk).trans ((if_neg hon).trans ?_))
  rw [State.compare_match hwas hreached]

theorem State.rd_matchState {j : Nat} (hflag : j ≠ tmr n 9) (hextra : j ≠ rSrcExtra) :
    (s.matchState n k).rd j = s.rd j :=
  (State.rd_matched _ n k hextra).trans (State.rd_setFlag _ hflag)

theorem State.flag_matchState (hk : k < 2) : ((s.matchState n k).rn (tmr n 9)).testBit (k + 1) = true := by
  have hset := (s.put_was (Tab.set false s.was (2 * n + k) true)).testBit_setFlag n (b := k + 1) (by omega) (k + 1)
  rw [State.matchState, rn_ofrd (State.rd_matched _ n k (tmr_ne_srcExtra n 9))]
  exact hset.trans (by simp)

theorem State.was_matchState : (s.matchState n k).was = Tab.set false s.was (2 * n + k) true :=
  (only_matched _ _ _).same .was (by decide)

end

/-! Writes -/

theorem State.PathEq.freshFlags {s u : State} (h : s.PathEq u) (n : Nat) : u.freshFlags n = s.freshFlags n := by
  obtain ⟨X, rfl⟩ := h; rfl

/-- The state after EN of timer n has taken v: a write of 1 lets both compares match anew (R344). -/
def State.setEnable (s : State) (n v : Nat) : State :=
  if v = 1 then (s.wn (tmr n 1) v).put_was (Tab.set false (Tab.set false s.was (2 * n) false) (2 * n + 1) false)
  else s.wn (tmr n 1) v

theorem tmrEnAct_ok (n : Nat) {v : Nat} (s : State) (h : v ≤ 1) : tmrEnAct n v s = okAct (s.setEnable n v) :=
  guardAct_ok (guard_nil (by simpa using h))

theorem State.rd_setEnable (s : State) (n v k : Nat) : (s.setEnable n v).rd k = (s.wn (tmr n 1) v).rd k := by
  unfold State.setEnable
  split <;> rfl

theorem State.was_setEnable (s : State) (n v : Nat) :
    (s.setEnable n v).was =
      if v = 1 then Tab.set false (Tab.set false s.was (2 * n) false) (2 * n + 1) false else s.was := by
  unfold State.setEnable
  split <;> rfl

/-- A write that sets one register to a value in its range completes with OK, and changes no other. -/
theorem Completes.dictReg {W : List Part} {c : Instr} {s : State} {p : Path} {idx sub k v : Nat} {data : Bytes}
    {act : Act} {Q : State → Prop} (hx : exec c s = .next (operate p false 2 idx sub data act s))
    (hs : s.serves p false idx sub = true) (hw : W.contains .paths = true) (hr : W.contains .regs = true)
    (hact : ∀ u, s.PathEq u → act u = okAct (u.wn k v)) (hv : v < 2 ^ 64)
    (q : ∀ t : State, t.answered p .ok false [] → t.rn k = v → (∀ j, j ≠ k → t.rd j = s.rd j) → Q t) :
    Completes W c s Q :=
  Completes.dict hx hs hw fun u hu => ⟨u.wn k v, hact u hu, (only_wn _ _ _).mono (by simpa using hr),
    fun w hw ha => q w ha (by rw [hw.rn, State.rn_wn_lt _ _ hv])
      fun j hj => by rw [hw.rd, State.rd_wn_ne _ _ hj, hu.rd]⟩

/-- Settles O36: a wrap by what the tick leaves of a timer once restarted, a match by what its triggers leave of it, each
    write by what its entry does in the opened window. -/
theorem timers : Obligations.Timers := by
  refine ⟨?wrap, ?isMatch, ?count, ?cmp, ?en, ?flags, ?force, ?pulseEnd⟩
  case wrap =>
    intro n s hn hclk hon hsource hreached
    have hx : exec (.timerWrap n) s = .next (s.tickTimer n) :=
      congrArg Host.Outcome.next ((State.clk_on hclk).trans (if_pos ⟨hon, hsource, hreached⟩))
    obtain ⟨hrd, hflags⟩ := State.TimerKept.tickTimer_restart hn hon hreached
    refine Completes.of (only_execTimerWrap n s) hx (by decide) ⟨?_, ?_, fun hshort => ?_⟩
    · rw [rn_ofrd (hrd 3 (by decide) (by decide)), State.count_restart]
    · rw [rn_ofrd (hrd 0x0A (by decide) (by decide)), State.shorts_restart]
    · exact hflags 0 (State.flag_restart hshort)
  case isMatch =>
    intro n k s hn hk hclk hon hwas hreached
    have hsrc (m : Nat) {sub : Nat} (hsub : sub < 256) : (s.matchState n k).rn (trg m sub) = s.rn (trg m sub) :=
      rn_ofrd (State.rd_matchState (trg_ne_tmr m hn hsub (by decide)) (trg_ne_srcExtra m sub))
    refine Completes.of (only_execTimerMatch n k s) (exec_timerMatch hclk hon hwas hreached) (by decide)
      ⟨?_, ?_, fun j => ?_, fun m hm hset hclr => ?_, fun m hm hclr => ?_⟩
    · exact (State.TimerKept.triggers _ _ hn).flags _ (State.flag_matchState hk)
    · rw [(only_triggers _ _).same .was (by decide), State.was_matchState, Tab.get_set_same]
    · exact (State.rd_triggers _ fun m => ⟨rk_sub (by decide) (by decide) (by decide),
        rk_sub (by decide) (by decide) (by decide), rk_sub (by decide) (by decide) (by decide)⟩).trans
        (State.rd_matchState (rk_sub (by decide) (by decide) (by decide)) (tmr_ne_srcExtra j 3))
    · rw [State.level_triggers _ _ hm, hsrc m (by decide), hsrc m (by decide), hset]
      rw [if_neg (by simpa using hclr), if_pos (by simp)]
    · rw [State.level_triggers _ _ hm, hsrc m (by decide), hclr, if_pos (by simp)]
  case count =>
    intro p n v s hs
    exact .dictReg rfl hs (by decide) (by decide) (fun _ _ => rfl) (by omega) fun t ha hv hk => ⟨ha, hv, hk⟩
  case cmp =>
    intro p n k v s hs
    refine Completes.dictOk (only_tmrCmpAct n k v.toNat) rfl hs (by decide) (by decide) fun u hu _ =>
      ⟨_, rfl, fun w hw ha => ?_⟩
    have hwas : w.was = Tab.set false s.was (2 * n + k) false :=
      hw.was.trans (congrArg (Tab.set false · (2 * n + k) false) hu.was)
    refine ⟨ha, ?_, fun j hj => ?_, ?_, fun j hj => ?_⟩
    · exact (hw.rn _).trans (State.rn_wn_lt u _ (by omega))
    · exact (hw.rd j).trans ((State.rd_wn_ne u _ hj).trans (hu.rd j))
    · rw [hwas, Tab.get_set_same]
    · rw [hwas, Tab.get_set_ne _ _ _ _ hj]
  case en =>
    intro p n v s hs hv
    refine Completes.dictOk (only_tmrEnAct n v.toNat) rfl hs (by decide) (by decide) fun u hu _ =>
      ⟨_, tmrEnAct_ok n u hv, fun w hw ha => ⟨ha, ?_, fun j hj => ?_, fun h1 => ?_, fun h0 => ?_⟩⟩
    · rw [hw.rn, rn_ofrd (u.rd_setEnable n _ _), State.rn_wn_lt _ _ (by omega)]
    · rw [hw.rd, State.rd_setEnable, State.rd_wn_ne _ _ hj, hu.rd]
    · rw [hw.was, State.was_setEnable, if_pos h1, Tab.get_set_same, Tab.get_set_ne _ _ _ _ (by omega),
        Tab.get_set_same]
      exact ⟨rfl, rfl⟩
    · rw [hw.was, State.was_setEnable, if_neg (by omega), hu.was]
  case flags =>
    intro p n v s hs hv
    refine Completes.dictOk (only_tmrFlagsAct n v.toNat) rfl hs (by decide) (by decide) fun u hu _ =>
      ⟨_, guardAct_ok (guard_nil (by simpa using hv)), fun w hw ha => ⟨ha, fun j hj => ?_, ?_⟩⟩
    · rw [hw.rd, State.rd_wn_ne _ _ hj, hu.rd]
    · rw [hw.rn, State.rn_wn_same, hu.rn, hu.freshFlags]
  case force =>
    intro p m v s hs hv
    exact .dictReg rfl hs (by decide) (by decide) (fun u _ => guardAct_ok (guard_nil (by simpa using hv))) (by omega)
      fun t ha hv hk => ⟨ha, hv, hk⟩
  case pulseEnd =>
    intro m s hclk hpulse
    have hx : exec (.trgPulseEnd m) s = .next ((s.wn (trg m 0x20) 0).wn (trg m 5) 0) :=
      congrArg Host.Outcome.next ((State.clk_on hclk).trans (if_neg hpulse))
    refine ⟨_, hx, (only_wn _ _ _).trans (only_wn _ _ _), ?_, State.rn_wn_lt _ _ (by decide), fun j hj hj' => ?_⟩
    · rw [State.rn_wn_ne _ _ (trg_ne (by decide)), State.rn_wn_lt _ _ (by decide)]
    · rw [State.rd_wn_ne _ _ hj', State.rd_wn_ne _ _ hj]

end Sys2Proof.Machine
end

section
/-! PROOF. The capture inputs (10 R349 to R352). -/

namespace Sys2Proof.Machine

theorem capin_ne {k a b : Nat} (h : a < 256 ∧ b < 256 ∧ a ≠ b) : capin k a ≠ capin k b := rk_sub h.1 h.2.1 h.2.2

theorem tmr_ne_capin {n k a b : Nat} (hn : n < 32) (ha : a < 256) (hb : b < 256) : tmr n a ≠ capin k b :=
  rk_idx ha hb (by omega)

theorem capin_ne_srcExtra (k sub : Nat) : capin k sub ≠ rSrcExtra := by unfold capin rSrcExtra rk; omega

/-! One capture -/

/-- The key is of no register that a capture on timer n writes: CAPT, CAP_EVENTS and CAP_OVR. -/
structure ClearOfCapture (n k : Nat) : Prop where
  capt : k ≠ tmr n 0x0C
  events : k ≠ tmr n 0x0D
  ovr : k ≠ tmr n 0x0E

theorem ClearOfCapture.of_tmr {n m sub : Nat} (hm : m ≠ n) (hsub : sub < 256) : ClearOfCapture n (tmr m sub) :=
  ⟨tmr_ne_tmr hsub (by decide) hm, tmr_ne_tmr hsub (by decide) hm, tmr_ne_tmr hsub (by decide) hm⟩

theorem ClearOfCapture.of_capin {n k sub : Nat} (h : sub < 0x0C) : ClearOfCapture n (capin k sub) :=
  ⟨rk_sub (by omega) (by decide) (by omega), rk_sub (by omega) (by decide) (by omega),
    rk_sub (by omega) (by decide) (by omega)⟩

section
variable (s : State) {n src : Nat}

/-- The state of a first capture of the tick before it latches: counted, and what stood there kept (R351, R352). -/
def State.latching (s : State) (n : Nat) : State :=
  let v := (s.bump (tmr n 0x0D)).put_capOld (Tab.set (0, 0) s.capOld n (s.now + 1, s.rd (tmr n 0x0C)))
  if bit (s.rd (tmr n 0x0C)) 32 then v.bump32 (tmr n 0x0E) else v

/-- The first capture of a tick latches the count; a NEW that nobody has read makes it an overrun (R351). -/
theorem State.capture_first (h : (Tab.get (0, 0) s.capOld n).1 ≠ s.now + 1) :
    s.capture n src = (s.latching n).wn (tmr n 0x0C)
      (src * 2 ^ 34 + (if bit (s.rd (tmr n 0x0C)) 32 then 2 ^ 33 else 0) + 2 ^ 32 + (s.latching n).rn (tmr n 3)) := by
  have hsame : decide ((Tab.get (0, 0) s.capOld n).1 = s.now + 1) = false := decide_eq_false h
  unfold State.capture
  rw [hsame]
  rfl

/-- A further capture of a tick adds its source. -/
theorem State.capture_again (h : (Tab.get (0, 0) s.capOld n).1 = s.now + 1) :
    s.capture n src = (s.bump (tmr n 0x0D)).wr (tmr n 0x0C)
      (putFld (s.rd (tmr n 0x0C)) 35 34 (Nat.lor (fld (s.rd (tmr n 0x0C)) 35 34) src)) := by
  have hsame : decide ((Tab.get (0, 0) s.capOld n).1 = s.now + 1) = true := decide_eq_true h
  unfold State.capture
  rw [hsame]
  rfl

theorem State.rd_latching {k : Nat} (hevents : k ≠ tmr n 0x0D) (hovr : k ≠ tmr n 0x0E) :
    (s.latching n).rd k = s.rd k := by
  have hcount : (s.bump (tmr n 0x0D)).rd k = s.rd k := State.rd_bumpBy_ne s 64 1 hevents
  unfold State.latching
  split
  · exact (State.rd_bumpBy_ne _ 32 1 hovr).trans hcount
  · exact hcount

theorem State.rd_capture {k : Nat} (h : ClearOfCapture n k) : (s.capture n src).rd k = s.rd k := by
  by_cases hsame : (Tab.get (0, 0) s.capOld n).1 = s.now + 1
  · rw [s.capture_again hsame, State.rd_wr_ne _ _ h.capt]
    exact State.rd_bumpBy_ne s 64 1 h.events
  · rw [s.capture_first hsame, State.rd_wn_ne _ _ h.capt, s.rd_latching h.events h.ovr]

theorem State.capOld_latching :
    (s.latching n).capOld = Tab.set (0, 0) s.capOld n (s.now + 1, s.rd (tmr n 0x0C)) := by
  unfold State.latching
  split <;> rfl

theorem State.capOld_capture_ne {m : Nat} (h : m ≠ n) :
    Tab.get (0, 0) (s.capture n src).capOld m = Tab.get (0, 0) s.capOld m := by
  by_cases hsame : (Tab.get (0, 0) s.capOld n).1 = s.now + 1
  · rw [s.capture_again hsame, State.capOld_wr, State.capOld_bump]
  · rw [s.capture_first hsame, State.capOld_wn, State.capOld_latching, Tab.get_set_ne _ _ _ _ h]

end

/-! The registers of the timer after the first capture of a tick -/

section
variable {s : State} {n : Nat} (h : (Tab.get (0, 0) s.capOld n).1 ≠ s.now + 1)
include h

theorem State.capt_capture_first (hcount : s.rn (tmr n 3) < 2 ^ 32) :
    (s.capture n 1).rn (tmr n 0x0C) =
      2 ^ 34 + (if bit (s.rd (tmr n 0x0C)) 32 then 2 ^ 33 else 0) + 2 ^ 32 + s.rn (tmr n 3) := by
  rw [s.capture_first h, rn_ofrd (s.rd_latching (tmr_ne (by decide)) (tmr_ne (by decide))), Nat.one_mul,
    State.rn_wn_lt _ _ (by split <;> omega)]

theorem State.events_capture_first :
    (s.capture n 1).rn (tmr n 0x0D) = min (s.rn (tmr n 0x0D) + 1) (2 ^ 64 - 1) := by
  rw [s.capture_first h, State.rn_wn_ne _ _ (tmr_ne (by decide)), ← State.rn_bump]
  unfold State.latching
  split
  · exact State.rn_bumpBy_ne _ 32 1 (tmr_ne (by decide))
  · rfl

theorem State.ovr_capture_first :
    (s.capture n 1).rn (tmr n 0x0E) =
      if bit (s.rd (tmr n 0x0C)) 32 then min (s.rn (tmr n 0x0E) + 1) (2 ^ 32 - 1) else s.rn (tmr n 0x0E) := by
  have hbump : (s.bump (tmr n 0x0D)).rn (tmr n 0x0E) = s.rn (tmr n 0x0E) :=
    State.rn_bumpBy_ne s 64 1 (tmr_ne (by decide))
  rw [s.capture_first h, State.rn_wn_ne _ _ (tmr_ne (by decide)), ← hbump]
  unfold State.latching
  split
  · exact State.rn_bump32 _ _
  · rfl

end

/-! A capture event of an input -/

/-- What a capture on timer n reads and writes is the same in both states. -/
structure State.CaptKept (n : Nat) (s t : State) : Prop where
  rd : ∀ sub, sub < 256 → t.rd (tmr n sub) = s.rd (tmr n sub)
  old : Tab.get (0, 0) t.capOld n = Tab.get (0, 0) s.capOld n
  now : t.now = s.now

theorem State.CaptKept.refl (n : Nat) (s : State) : s.CaptKept n s := ⟨fun _ _ => rfl, rfl, rfl⟩

theorem State.CaptKept.trans {n : Nat} {s t u : State} (h : s.CaptKept n t) (g : t.CaptKept n u) : s.CaptKept n u :=
  ⟨fun sub hsub => (g.rd sub hsub).trans (h.rd sub hsub), g.old.trans h.old, g.now.trans h.now⟩

theorem State.CaptKept.capture {n m : Nat} (s : State) (src : Nat) (h : m ≠ n) : s.CaptKept n (s.capture m src) :=
  ⟨fun _ hsub => s.rd_capture (.of_tmr h.symm hsub), s.capOld_capture_ne h.symm,
    (only_capture s m src).same .now (by decide)⟩

/-- Timer n captures an event of input k when its CAPSRC names that input (R351). -/
def State.captureNamed (k : Nat) (s : State) (n : Nat) : State :=
  if s.rn (tmr n 0x0B) = 0x10 + k then s.capture n 1 else s

theorem State.captureInput_def (s : State) (k : Nat) :
    s.captureInput k = ((List.range 32).foldl (State.captureNamed k) s).stepSource (0x60 + k) := rfl

theorem State.CaptKept.captureNamed {n m k : Nat} (s : State) (h : m ≠ n) : s.CaptKept n (s.captureNamed k m) := by
  unfold State.captureNamed
  split
  · exact .capture s 1 h
  · exact .refl n s

theorem State.rd_captureInput (s : State) (k : Nat) {j : Nat} (hclear : ∀ n, ClearOfCapture n j)
    (hextra : j ≠ rSrcExtra) : (s.captureInput k).rd j = s.rd j := by
  rw [State.captureInput_def, State.rd_stepSource _ hextra]
  refine foldl_rel (fun s t : State => t.rd j = s.rd j) (fun _ => rfl) (fun _ _ _ hab hbc => hbc.trans hab) _
    (fun u n => ?_) _ s
  unfold State.captureNamed
  split
  · exact u.rd_capture (hclear n)
  · rfl

/-- A timer that names the input holds its capture once the event has passed. -/
theorem State.captureInput_named {s : State} {k n : Nat} (hn : n < 32) (hnamed : s.rn (tmr n 0x0B) = 0x10 + k) :
    ∃ u, s.CaptKept n u ∧ ∀ sub, sub < 256 → (s.captureInput k).rn (tmr n sub) = (u.capture n 1).rn (tmr n sub) := by
  obtain ⟨u, hu, hend⟩ := foldl_visits (f := State.captureNamed k) (a := n) (State.CaptKept n) (.refl n)
    .trans (fun s m hm => .captureNamed s hm) List.nodup_range (List.mem_range.mpr hn) s
  have hcapture : u.captureNamed k n = u.capture n 1 := if_pos ((rn_ofrd (hu.rd 0x0B (by decide))).trans hnamed)
  rw [hcapture] at hend
  refine ⟨u, hu, fun sub hsub => ?_⟩
  rw [State.captureInput_def, rn_ofrd (State.rd_stepSource _ (tmr_ne_srcExtra n sub)), rn_ofrd (hend.rd sub hsub)]

/-! A selected edge -/

section
variable {s : State} {k : Nat}

theorem State.selectEdge_passes (h : s.rn (capin k 4) ≤ Tab.get 0 s.capPre k + 1) :
    s.selectEdge k = ((s.bump (capin k 6)).put_capPre (Tab.set 0 s.capPre k 0)).captureInput k := by
  refine if_pos ?_
  rw [State.bump, State.rn_bumpBy_ne _ _ _ (capin_ne (by decide))]
  exact h

theorem State.selectEdge_counts (h : Tab.get 0 s.capPre k + 1 < s.rn (capin k 4)) :
    s.selectEdge k = (s.bump (capin k 6)).put_capPre (Tab.set 0 s.capPre k (Tab.get 0 s.capPre k + 1)) := by
  refine if_neg ?_
  rw [State.bump, State.rn_bumpBy_ne _ _ _ (capin_ne (by decide))]
  exact Nat.not_le.mpr h

/-- EDGE of input k selects a change to this level (R349). -/
def State.Selects (s : State) (k : Nat) (level : Bool) : Prop :=
  s.rn (capin k 1) = 3 ∨ (s.rn (capin k 1) = 1 ∧ level = true) ∨ (s.rn (capin k 1) = 2 ∧ level = false)

/-- Input k takes a level. -/
def State.setLevel (s : State) (k : Nat) (level : Bool) : State := s.wn (capin k 5) (if level then 1 else 0)

theorem State.level_setLevel (s : State) (k : Nat) (level : Bool) :
    (s.setLevel k level).rn (capin k 5) = if level then 1 else 0 :=
  State.rn_wn_lt s _ (by split <;> decide)

theorem State.rd_setLevel_ne (s : State) {k : Nat} (level : Bool) {j : Nat} (h : j ≠ capin k 5) :
    (s.setLevel k level).rd j = s.rd j :=
  State.rd_wn_ne s _ h

/-- A new level is an event of the input where EDGE selects its edge. -/
theorem exec_captureFilterAccept {level : Bool} (hclk : s.boot.refclk = true)
    (hnew : decide (s.rn (capin k 5) = 1) ≠ level) :
    (s.Selects k level → exec (.captureFilterAccept k level) s = .next ((s.setLevel k level).selectEdge k)) ∧
    (¬s.Selects k level → exec (.captureFilterAccept k level) s = .next (s.setLevel k level)) := by
  have hedge : (s.setLevel k level).rn (capin k 1) = s.rn (capin k 1) :=
    rn_ofrd (s.rd_setLevel_ne level (capin_ne (by decide)))
  have hsel : s.Selects k level ↔ (s.setLevel k level).rn (capin k 1) = 3 ∨
      ((s.setLevel k level).rn (capin k 1) = 1 ∧ level) ∨ ((s.setLevel k level).rn (capin k 1) = 2 ∧ !level) := by
    rw [State.Selects, hedge, Bool.not_eq_true']
  exact ⟨fun h => congrArg Host.Outcome.next
      ((State.clk_on hclk).trans ((if_neg hnew).trans (if_pos (hsel.mp h)))),
    fun h => congrArg Host.Outcome.next
      ((State.clk_on hclk).trans ((if_neg hnew).trans (if_neg (mt hsel.mpr h))))⟩

end

/-! PRESCALE and EDGE -/

/-- The subindex of a field of CAPIN. -/
def capinSub : CapField → Nat
  | .prescale => 4
  | .edge => 1

/-- A value that a field of CAPIN admits is set, and the prescaler starts at zero (R349). -/
theorem Completes.capinField {p : Path} {k : Nat} {v : BitVec 16} {s : State} (f : CapField)
    (hs : s.serves p false (0x3C40 + k) (capinSub f) = true)
    (hact : ∀ u, capinAct k f v.toNat u =
      okAct ((u.wn (capin k (capinSub f)) v.toNat).put_capPre (Tab.set 0 u.capPre k 0))) :
    Completes [.regs, .capPre, .paths] (.capinConfigWrite p k f v) s fun t =>
      t.answered p .ok false [] ∧ t.rn (capin k (capinSub f)) = v.toNat ∧ Tab.get 0 t.capPre k = 0 ∧
      ∀ j, j ≠ capin k (capinSub f) → t.rd j = s.rd j := by
  have hx : exec (.capinConfigWrite p k f v) s = .next (operate p false 2 (0x3C40 + k) (capinSub f)
      (leBytes (match f with | .prescale => 2 | .edge => 1) v.toNat) (capinAct k f v.toNat) s) := by
    cases f
    case prescale => rfl
    case edge => rfl
  refine Completes.dictOk (only_capinAct k f v.toNat) hx hs (by decide) (by decide) fun u hu _ =>
    ⟨_, hact u, fun w hw ha => ⟨ha, ?_, ?_, fun j hj => ?_⟩⟩
  · exact (hw.rn _).trans (State.rn_wn_lt u _ (by omega))
  · rw [hw.capPre]
    exact Tab.get_set_same 0 u.capPre k 0
  · exact (hw.rd j).trans ((State.rd_wn_ne u _ hj).trans (hu.rd j))

/-! A read of CAPT -/

theorem State.PathEq.capOld {s u : State} (h : s.PathEq u) : u.capOld = s.capOld := by obtain ⟨X, rfl⟩ := h; rfl
theorem State.PathEq.now {s u : State} (h : s.PathEq u) : u.now = s.now := by obtain ⟨X, rfl⟩ := h; rfl

/-- A read outside the tick of a capture returns CAPT as it stands. -/
theorem tmrCaptAct_first {s u : State} {n : Nat} (hu : s.PathEq u) (h : (Tab.get (0, 0) s.capOld n).1 ≠ s.now + 1) :
    tmrCaptAct n u = .done .ok (leBytes 8 (s.rn (tmr n 0x0C)))
      (u.wr (tmr n 0x0C) (putFld (s.rd (tmr n 0x0C)) 33 32 0)) := by
  rw [tmrCaptAct, if_neg (by rw [hu.capOld, hu.now]; exact h), hu.rd, State.rn_def]

/-- In the tick of a capture a read returns what stood before it (R352). -/
theorem tmrCaptAct_same {s u : State} {n : Nat} (hu : s.PathEq u) (h : (Tab.get (0, 0) s.capOld n).1 = s.now + 1) :
    tmrCaptAct n u = .done .ok (leBytes 8 (Tab.get (0, 0) s.capOld n).2.toNat)
      (u.readBefore n (Tab.get (0, 0) s.capOld n).2) := by
  rw [tmrCaptAct, if_pos (by rw [hu.capOld, hu.now]; exact h), hu.capOld]

theorem State.capt_readBefore (s : State) (n : Nat) (old : W64) :
    (s.readBefore n old).rd (tmr n 0x0C) = putFld (s.rd (tmr n 0x0C)) 33 33 0 := by
  unfold State.readBefore
  extract_lets s1 s2 k
  have h1 : s1.rd (tmr n 0x0C) = putFld (s.rd (tmr n 0x0C)) 33 33 0 := State.rd_wr_same s _ _
  have h2 : s2.rd (tmr n 0x0C) = putFld (s.rd (tmr n 0x0C)) 33 33 0 :=
    ((Only.set_capOld s1 _).rdEq (by decide) _).trans h1
  split
  · exact (State.rd_wn_ne s2 _ (tmr_ne (by decide))).trans h2
  · exact h2

/-- The state in which a selected edge to this level has been counted, and the prescaler reads c. -/
def State.edgeSeen (s : State) (k : Nat) (level : Bool) (c : Nat) : State :=
  ((s.setLevel k level).bump (capin k 6)).put_capPre (Tab.set 0 s.capPre k c)

section
variable (s : State) (k : Nat) (level : Bool) (c : Nat)

theorem State.rd_edgeSeen {j : Nat} (hlevel : j ≠ capin k 5) (hedges : j ≠ capin k 6) :
    (s.edgeSeen k level c).rd j = s.rd j :=
  (State.rd_bumpBy_ne _ 64 1 hedges).trans (s.rd_setLevel_ne level hlevel)

theorem State.level_edgeSeen : (s.edgeSeen k level c).rn (capin k 5) = if level then 1 else 0 :=
  (State.rn_bumpBy_ne _ 64 1 (capin_ne (by decide))).trans (s.level_setLevel k level)

theorem State.edges_edgeSeen :
    (s.edgeSeen k level c).rn (capin k 6) = min (s.rn (capin k 6) + 1) (2 ^ 64 - 1) := by
  rw [← rn_ofrd (s.rd_setLevel_ne (k := k) level (j := capin k 6) (capin_ne (by decide)))]
  exact State.rn_bump _ _

theorem State.capPre_edgeSeen : Tab.get 0 (s.edgeSeen k level c).capPre k = c := Tab.get_set_same 0 s.capPre k c

theorem State.only_edgeSeen : Only [.regs, .capPre] s (s.edgeSeen k level c) :=
  .chain (Only.set_capPre _ _) (by decide) <| .chain (only_bump _ _) (by decide) <| (only_wn s _ _).mono (by decide)

theorem State.CaptKept.edgeSeen {n : Nat} (hn : n < 32) : s.CaptKept n (s.edgeSeen k level c) :=
  ⟨fun _ hsub => s.rd_edgeSeen k level c (tmr_ne_capin hn hsub (by decide)) (tmr_ne_capin hn hsub (by decide)), rfl, rfl⟩

end

/-- Settles O37: an accepted level by whether EDGE selects it and the prescaler passes it, each of the others by the one
    register that it writes. -/
theorem captures : Obligations.Captures := by
  refine ⟨?passes, ?counts, ?unselected, ?glitch, ?prescale, ?edge, ?read, ?readBefore⟩
  case passes =>
    intro k level s hk hclk hnew hselects hpass
    have hx := (exec_captureFilterAccept hclk hnew).1 hselects
    rw [State.selectEdge_passes
      (by rw [rn_ofrd (s.rd_setLevel_ne level (capin_ne (by decide)))]; exact hpass)] at hx
    change _ = Host.Outcome.next ((s.edgeSeen k level 0).captureInput k) at hx
    have hinput {sub : Nat} (hsub : sub < 0x0C) := rn_ofrd <|
      (s.edgeSeen k level 0).rd_captureInput k (fun n => .of_capin (k := k) hsub) (capin_ne_srcExtra k sub)
    refine Completes.of (only_execCaptureFilterAccept k level s) hx (by decide)
      ⟨(hinput (by decide)).trans (s.level_edgeSeen k level 0), (hinput (by decide)).trans (s.edges_edgeSeen k level 0),
        ?_, fun n hn hnamed hfirst hcount => ?_⟩
    · rw [(only_captureInput _ _).same .capPre (by decide), State.capPre_edgeSeen]
    · have hseen := State.CaptKept.edgeSeen s k level 0 hn
      obtain ⟨u, hu, hcapture⟩ := State.captureInput_named hn ((rn_ofrd (hseen.rd 0x0B (by decide))).trans hnamed)
      obtain ⟨hrd, hold, hnow⟩ := hseen.trans hu
      have hfirst' : (Tab.get (0, 0) u.capOld n).1 ≠ u.now + 1 := by rw [hold, hnow]; exact hfirst
      have hcount' := rn_ofrd (hrd 3 (by decide))
      rw [hcapture 0x0C (by decide), hcapture 0x0D (by decide), hcapture 0x0E (by decide),
        State.capt_capture_first hfirst' (hcount' ▸ hcount), State.events_capture_first hfirst',
        State.ovr_capture_first hfirst', hcount', hrd 0x0C (by decide), rn_ofrd (hrd 0x0D (by decide)),
        rn_ofrd (hrd 0x0E (by decide))]
      exact ⟨rfl, rfl, rfl⟩
  case counts =>
    intro k level s hclk hnew hselects hmore
    have hx := (exec_captureFilterAccept hclk hnew).1 hselects
    rw [State.selectEdge_counts
      (by rw [rn_ofrd (s.rd_setLevel_ne level (capin_ne (by decide)))]; exact hmore)] at hx
    exact ⟨s.edgeSeen k level (Tab.get 0 s.capPre k + 1), hx, s.only_edgeSeen k level _, s.level_edgeSeen k level _,
      s.edges_edgeSeen k level _, s.capPre_edgeSeen k level _⟩
  case unselected =>
    intro k level s hclk hnew hselects
    exact ⟨_, (exec_captureFilterAccept hclk hnew).2 hselects, only_wn _ _ _, s.level_setLevel k level,
      fun j hj => s.rd_setLevel_ne level hj⟩
  case glitch =>
    intro k s hclk
    exact ⟨_, congrArg Host.Outcome.next (State.clk_on hclk), only_bump _ _, s.rn_bump _,
      fun j hj => State.rd_bumpBy_ne s 64 1 hj⟩
  case prescale =>
    intro p k v s hs hpos hmax
    exact .capinField .prescale hs fun u => guardAct_ok (guard_nil (by simpa using ⟨hpos, hmax⟩))
  case edge =>
    intro p k v s hs hmax
    exact .capinField .edge hs fun u => guardAct_ok (guard_nil (by simpa using hmax))
  case read =>
    intro p n s hs hfirst
    refine Completes.dict rfl hs (by decide) fun u hu => ⟨_, tmrCaptAct_first hu hfirst,
      (only_wr _ _ _).mono (by decide), fun w hw ha => ⟨ha, ?_, fun j hj => ?_⟩⟩
    · rw [hw.rd, State.rd_wr_same]
    · rw [hw.rd, State.rd_wr_ne _ _ hj, hu.rd]
  case readBefore =>
    intro p n s hs hsame
    refine Completes.dict rfl hs (by decide) fun u hu => ⟨_, tmrCaptAct_same hu hsame,
      (only_readBefore _ _ _).mono (by decide), fun w hw ha => ⟨ha, ?_⟩⟩
    rw [hw.rd, State.capt_readBefore, hu.rd]

end Sys2Proof.Machine
end

section
/-! PROOF. The commands of stream contexts and links (10 R323, R330 to R332, R341). -/

namespace Sys2Proof.Machine

theorem sp_ne {p a b : Nat} (h : a < 256 ∧ b < 256 ∧ a ≠ b) : sp p a ≠ sp p b := rk_sub h.1 h.2.1 h.2.2

theorem scx_ne {x a b : Nat} (h : a < 256 ∧ b < 256 ∧ a ≠ b) : scx x a ≠ scx x b := rk_sub h.1 h.2.1 h.2.2

theorem sp_ne_scx {p x a b : Nat} (h : a < 256 ∧ b < 256 ∧ a ≠ b) : sp p a ≠ scx x b := rk_sub h.1 h.2.1 h.2.2

theorem scx_ne_sp {p x a b : Nat} (h : a < 256 ∧ b < 256 ∧ a ≠ b) : scx x a ≠ sp p b := rk_sub h.1 h.2.1 h.2.2

/-! What a context and a port read of a state is none of its paths -/

section
variable {s u : State} (h : s.PathEq u)
include h

theorem State.PathEq.spUp (p : Nat) : u.spUp p = s.spUp p := by obtain ⟨X, rfl⟩ := h; rfl
theorem State.PathEq.sctxCfg (x : Nat) : u.sctxCfg x = s.sctxCfg x := by obtain ⟨X, rfl⟩ := h; rfl
theorem State.PathEq.sctxOut (x : Nat) : u.sctxOut x = s.sctxOut x := by obtain ⟨X, rfl⟩ := h; rfl
theorem State.PathEq.sctxPort (x : Nat) : u.sctxPort x = s.sctxPort x := by obtain ⟨X, rfl⟩ := h; rfl
theorem State.PathEq.sctxRange (x : Nat) : u.sctxRange x = s.sctxRange x := by obtain ⟨X, rfl⟩ := h; rfl
theorem State.PathEq.sctxRsvd (x : Nat) : u.sctxRsvd x = s.sctxRsvd x := by obtain ⟨X, rfl⟩ := h; rfl
theorem State.PathEq.converting (p : Nat) : u.converting p = s.converting p := by obtain ⟨X, rfl⟩ := h; rfl
theorem State.PathEq.anyConn (f : Conn → Bool) : u.anyConn f = s.anyConn f := by obtain ⟨X, rfl⟩ := h; rfl
theorem State.PathEq.schOwned (i : Nat) : u.schOwned i = s.schOwned i := by obtain ⟨X, rfl⟩ := h; rfl

end

/-! PAUSE toward the link partner, and frames dropped -/

section
variable (s : State) (p : Nat)

/-- Sending PAUSE counts in PAUSE_TX and writes no other register (R325). -/
theorem State.rd_pauseCheck {k : Nat} (h : k ≠ sp p 0x17) : (s.pauseCheck p).rd k = s.rd k := by
  unfold State.pauseCheck
  extract_lets q send
  split
  · exact State.rd_bumpBy_ne _ 64 1 h
  · split
    · split
      · exact State.rd_bumpBy_ne _ 64 1 h
      · rfl
    · rfl

theorem State.frames_pauseCheck : ((s.pauseCheck p).sport p).frames = (s.sport p).frames := by
  unfold State.pauseCheck
  extract_lets q send
  have hsend (on : Bool) : ((send s on).sport p).frames = (s.sport p).frames := by
    unfold send
    rw [State.sport_bump, State.sport_updSport_same]
  split
  · exact hsend true
  · split
    · split
      · exact hsend false
      · rw [State.sport_updSport_same]
    · rfl

theorem State.frames_dropFrames (x keep : Nat) :
    ((s.dropFrames p x keep).sport p).frames = keepFrames x keep (s.sport p).frames := by
  rw [State.dropFrames, State.frames_pauseCheck]
  exact congrArg SPort.frames ((State.sport_bumpBy _ _ _ _ p).trans (State.sport_updSport_same s p _))

/-- Frames dropped at a port count there only. -/
theorem State.rd_dropFrames (x keep : Nat) {k : Nat} (hdrop : k ≠ sp p 0x15) (hpause : k ≠ sp p 0x17) :
    (s.dropFrames p x keep).rd k = s.rd k := by
  rw [State.dropFrames, State.rd_pauseCheck _ _ hpause]
  exact State.rd_bumpBy_ne _ 64 _ hdrop

end

/-! DISABLE -/

section
variable {s : State} {x : Nat}

theorem sctxDisableAct_off (h : s.rn (scx x 8) = 0) : sctxDisableAct x s = okAct s := if_pos h

/-- An OUT context to which a connection leads is BUSY (R332). -/
theorem sctxDisableAct_named (hon : s.rn (scx x 8) ≠ 0) (hout : s.sctxOut x = true)
    (hnamed : (s.anyConn fun c => decide (c.dkind = 3) && decide (c.stream = x)) = true) :
    sctxDisableAct x s = .refuse .busy := by
  unfold sctxDisableAct
  rw [if_neg hon, if_pos hout, hnamed]
  exact guardAct_one .busy _ _ (by decide)

/-- An IN context with no frame in conversion is DISABLED at once. -/
theorem sctxDisableAct_ends (hon : s.rn (scx x 8) = 1) (hin : s.sctxOut x = false)
    (hidle : (s.converting (s.sctxPort x)).contains x = false) :
    sctxDisableAct x s = okAct ((s.wn (scx x 8) 0).dropFrames (s.sctxPort x) x 0) := by
  unfold sctxDisableAct
  simp only [hon, hin, hidle, Nat.reduceEqDiff, Bool.false_eq_true, or_self, if_false]

/-- One whose oldest frame is in conversion waits for its end. -/
theorem sctxDisableAct_waits (hon : s.rn (scx x 8) = 1) (hin : s.sctxOut x = false)
    (hconv : (s.converting (s.sctxPort x)).contains x = true) :
    sctxDisableAct x s = .wait (.sctx x) ((s.wn (scx x 8) 2).dropFrames (s.sctxPort x) x 1) := by
  unfold sctxDisableAct
  simp only [hon, hin, hconv, Nat.reduceEqDiff, Bool.false_eq_true, or_true, if_false, if_true]

end

/-! A link that is no longer UP -/

/-- What a lost link does to its contexts and their records: their STATE and their LINK_DROP change, no other register and
    no port. -/
structure State.Shed (s t : State) : Prop where
  only : Only [.regs, .nodes, .sctxs, .paths, .live] s t
  rd : ∀ k, (∀ x, k ≠ scx x 8 ∧ k ≠ scx x 0x18) → t.rd k = s.rd k

namespace State.Shed

theorem refl (s : State) : s.Shed s := ⟨.refl _ s, fun _ _ => rfl⟩

theorem trans {s t u : State} (h : s.Shed t) (g : t.Shed u) : s.Shed u :=
  ⟨h.only.trans g.only, fun k hk => (g.rd k hk).trans (h.rd k hk)⟩

theorem foldl {α : Type} {f : State → α → State} (h : ∀ s a, Shed s (f s a)) (l : List α) (s : State) :
    s.Shed (l.foldl f s) :=
  foldl_rel Shed refl (fun _ _ _ => trans) f h l s

theorem sctxRecDrop (s : State) (p x : Nat) (r : Record) : s.Shed (s.sctxRecDrop p x r) :=
  ⟨(only_sctxRecDrop s p x r).mono (by decide),
    fun k hk => ((only_recEnd _ _ _).rdEq (by decide) k).trans (State.rd_bumpBy_ne s 64 1 (hk x).2)⟩

theorem sctxRecDrops {α : Type} (s : State) (p x : Nat) (rec : α → Record) (l : List α) :
    s.Shed (l.foldl (fun s a => s.sctxRecDrop p x (rec a)) s) :=
  foldl (fun s a => sctxRecDrop s p x (rec a)) l s

end State.Shed

theorem State.rd_sctxOff (s : State) (x : Nat) {k : Nat} (h : k ≠ scx x 8) : (s.sctxOff x).rd k = s.rd k := by
  have honly : Only [.paths] (s.wn (scx x 8) 0) (s.sctxOff x) :=
    Only.foldl (.refl _ _) fun u n hu => hu.trans (only_finish u n _ _ _)
  exact (honly.rdEq (by decide) k).trans (State.rd_wn_ne s 0 h)

theorem State.rd_outDone (s : State) (x : Nat) {k : Nat} (h : k ≠ scx x 8) : (s.outDone x).rd k = s.rd k := by
  unfold State.outDone
  split
  · exact s.rd_sctxOff x h
  · rfl

theorem State.Shed.outDone (s : State) (x : Nat) : s.Shed (s.outDone x) :=
  ⟨(only_outDone s x).mono (by decide), fun _ hk => s.rd_outDone x (hk x).1⟩

/-- Of a port whose link is lost, what waited to be sent is gone, and the frames that have arrived stay (R341). -/
theorem State.spLost_sheds (s : State) (p : Nat) :
    State.Shed (s.updSport p fun q => { q with staged := [], hold := false, paused := false }) (s.spLost p) := by
  unfold State.spLost
  extract_lets q s1 s2
  have hstaged : s1.Shed s2 := by
    refine .foldl (fun u f => ?_) _ s1
    exact (State.Shed.sctxRecDrops u p f.1 (fun r => r) f.2.1).trans (.outDone _ f.1)
  refine hstaged.trans (.foldl (fun u e => ?_) _ s2)
  split
  · have hcut : u.Shed (u.updSctx e.1 fun c => { c with build := [] }) :=
      ⟨(only_updSctx _ _ _).mono (by decide), fun _ _ => rfl⟩
    exact (hcut.trans (.sctxRecDrops _ p e.1 Prod.fst _)).trans (.outDone _ e.1)
  · exact .refl u

theorem State.rn_spLost (s : State) (p : Nat) {l sub : Nat} (h : sub < 8) : (s.spLost p).rn (sp l sub) = s.rn (sp l sub) :=
  rn_ofrd (((s.spLost_sheds p).rd (sp l sub) fun x => ⟨sp_ne_scx ⟨by omega, by decide, by omega⟩,
    sp_ne_scx ⟨by omega, by decide, by omega⟩⟩).trans (State.rd_updSport s p _ _))

theorem State.sport_spLost (s : State) (p : Nat) :
    (s.spLost p).sport p = { s.sport p with staged := [], hold := false, paused := false } :=
  ((s.spLost_sheds p).only.sportEq (by decide) p).trans (State.sport_updSport_same s p _)

/-- Settles O35: each dictionary command by what its entry does in the opened window, a link's change by what a lost link
    sheds. -/
theorem streamCommands : Obligations.StreamCommands := by
  refine ⟨?enable, ?off, ?ends, ?waits, ?named, ?entry, ?up, ?down, ?linkUp, ?linkDown⟩
  case enable =>
    intro p x s hs hoff hup hrange hrsvd hversion
    refine Completes.dictOk (only_sctxEnableAct x) rfl hs (by decide) (by decide) fun u hu _ =>
      ⟨_, guardAct_ok (guard_nil (by simp [hu.rn, hu.spUp, hu.sctxPort, hu.sctxRange, hu.sctxRsvd, hu.sctxCfg, hoff, hup,
        hrange, hrsvd, hversion])), fun w hw ha => ⟨ha, ?_, fun k hk => ?_, ?_⟩⟩
    · exact (hw.rn _).trans (State.rn_wn_lt u _ (by decide))
    · rw [hw.rd, State.rd_updSctx, State.rd_wn_ne _ _ hk, hu.rd]
    · rw [hw.sctx, State.sctx_updSctx_same]
      rfl
  case off =>
    intro p x s hs hoff
    refine Completes.dict rfl hs (by decide) fun u hu =>
      ⟨u, sctxDisableAct_off ((hu.rn _).trans hoff), .refl _ u, fun w _ ha => ha⟩
  case ends =>
    intro p x s hs hon hin hidle
    refine Completes.dict rfl hs (by decide) fun u hu =>
      ⟨_, sctxDisableAct_ends ((hu.rn _).trans hon) ((hu.sctxOut x).trans hin)
        (by rw [hu.sctxPort, hu.converting, hidle]), ?_, fun w hw ha => ⟨ha, ?_, ?_⟩⟩
    · exact .chain (only_dropFrames _ _ _ _) (by decide) ((only_wn _ _ _).mono (by decide))
    · rw [hw.rn, rn_ofrd (State.rd_dropFrames _ _ x 0 (scx_ne_sp (by decide)) (scx_ne_sp (by decide))),
        State.rn_wn_lt _ _ (by decide)]
    · rw [hw.sport, hu.sctxPort, State.frames_dropFrames, State.sport_wn, hu.sport]
  case waits =>
    intro p x s hs hon hin hconv
    refine Completes.dictWait rfl hs (by decide) fun u hu =>
      ⟨_, sctxDisableAct_waits ((hu.rn _).trans hon) ((hu.sctxOut x).trans hin)
        (by rw [hu.sctxPort, hu.converting, hconv]), ?_, fun w hw ha => ⟨ha, ?_, ?_⟩⟩
    · exact .chain (only_dropFrames _ _ _ _) (by decide) ((only_wn _ _ _).mono (by decide))
    · rw [hw.rn, rn_ofrd (State.rd_dropFrames _ _ x 1 (scx_ne_sp (by decide)) (scx_ne_sp (by decide))),
        State.rn_wn_lt _ _ (by decide)]
    · rw [hw.sport, hu.sctxPort, State.frames_dropFrames, State.sport_wn, hu.sport]
  case named =>
    intro p x s hs hon hout hnamed
    exact Completes.dictRefuse rfl hs (by decide) rfl (fun u hu => sctxDisableAct_named ((hu.rn _).symm ▸ hon)
      ((hu.sctxOut x).trans hout) ((hu.anyConn _).trans hnamed)) fun w ha => ha
  case entry =>
    intro p v s hs hfree hrsvd
    refine Completes.dictOk (only_schEntryAct p v) rfl hs (by decide) (by decide) fun u hu _ =>
      ⟨_, guardAct_ok (guard_nil (by simp [hu.rn, hu.schOwned, hfree, hrsvd])), fun w hw ha => ⟨ha, ?_, fun i hi => ?_⟩⟩
    · rw [State.schAt, hw.sch, hu.rn]
      exact Tab.get_set_same 0 u.sch _ v
    · rw [State.schAt, hw.sch, hu.rn]
      exact (Tab.get_set_ne 0 0 u.sch v hi).trans (congrArg (Tab.get 0 · i) hu.sch)
  case up =>
    intro p l s hs hdown
    exact .dictReg rfl hs (by decide) (by decide) (fun u hu => congrArg okAct (if_pos ((hu.rn _).trans hdown))) (by decide)
      fun t ha hv hk => ⟨ha, hv, hk⟩
  case down =>
    intro p l s hl hs
    refine Completes.dictOk (only_spDownAct l) rfl hs (by decide) (by decide) fun u hu _ =>
      ⟨_, rfl, fun w hw ha => ⟨?_, ?_⟩⟩
    · rw [hw.rn, State.rn_spLost _ _ (by decide), State.rn_wn_lt _ _ (by decide)]
    · rw [hw.sport, State.sport_spLost, State.sport_wn, hu.sport]
      exact ⟨rfl, rfl, rfl⟩
  case linkUp =>
    intro l s hclk hdom htrain
    have hx : exec (.spLinkChange l true) s = .next (s.wn (sp l 2) 2) :=
      congrArg Host.Outcome.next ((State.clk_on hclk).trans (if_pos (And.intro htrain hdom)))
    exact ⟨_, hx, only_wn _ _ _, State.rn_wn_lt _ _ (by decide), fun k hk => State.rd_wn_ne _ _ hk⟩
  case linkDown =>
    intro l s hl hclk hon
    have hx : exec (.spLinkChange l false) s = .next ((s.wn (sp l 2) 0).spLost l) :=
      congrArg Host.Outcome.next ((State.clk_on hclk).trans (if_neg hon))
    refine Completes.of (only_execSpLinkChange l false s) hx (by decide) ⟨?_, ?_⟩
    · rw [State.rn_spLost _ _ (by decide), State.rn_wn_lt _ _ (by decide)]
    · rw [State.sport_spLost, State.sport_wn]
      exact ⟨rfl, rfl, rfl⟩

end Sys2Proof.Machine
end

section
/-! PROOF. The frames, samples and records of the stream ports (10 R323 to R328, R334 to R341). -/

namespace Sys2Proof.Machine

/-! Ingress -/

section
variable {s : State} {p : Nat}

/-- A PAUSE frame is counted and, while PAUSE_EN is 1, holds the transmitter (R323). -/
theorem State.takePause_enabled {quanta : Nat} (h : s.rn (sp p 7) = 1) :
    s.takePause p quanta = (s.bump (sp p 0x18)).updSport p fun q => { q with hold := decide (quanta ≠ 0) } := by
  refine if_pos ?_
  rw [State.bump, State.rn_bumpBy_ne _ _ _ (sp_ne (by decide))]
  exact h

/-- SEQ of an accepted frame sets the next one expected, and counts what is missing or behind (R328). -/
theorem State.rd_checkSeq (s : State) (x : Nat) (seq : BitVec 16) {k : Nat} (hlost : k ≠ scx x 0x14)
    (hbehind : k ≠ scx x 0x15) : (s.checkSeq x seq).rd k = s.rd k := by
  unfold State.checkSeq
  extract_lets t
  split
  · rfl
  · extract_lets d
    split_ifs
    · rfl
    · exact State.rd_bumpBy_ne t 64 _ hlost
    · exact State.rd_bumpBy_ne t 64 1 hbehind

theorem State.sctx_checkSeq (s : State) (x : Nat) (seq : BitVec 16) :
    (s.checkSeq x seq).sctx x = { s.sctx x with expect := some (seq + 1) } := by
  unfold State.checkSeq
  extract_lets t
  have ht : t.sctx x = { s.sctx x with expect := some (seq + 1) } := State.sctx_updSctx_same s x _
  split
  · exact ht
  · extract_lets d
    split_ifs
    · exact ht
    · rw [State.sctx_bumpBy, ht]
    · rw [State.sctx_bump, ht]

end

/-- What the 16 bytes h of a stream header say: context x, nset sets of nch samples, and the timestamp (Table 10.1). -/
structure HeaderOf (h : Bytes) (x nch nset : Nat) : Prop where
  ctx : beNat h / 2 ^ 112 % 128 = x
  channels : beNat h / 2 ^ 80 % 256 = nch
  sets : beNat h / 2 ^ 64 % 65536 = nset

/-- Port p takes a stream frame with header h, whose samples are w bytes each, before `room` bytes of payload (R327). -/
structure State.Takes (s : State) (p x nch nset w : Nat) (h : Bytes) (room : Nat) : Prop where
  enabled : s.rn (scx x 8) = 1
  isIn : s.sctxOut x = false
  port : s.sctxPort x = p
  stype : stypeBytes (beNat h / 2 ^ 92 % 16) = some w
  whole : 16 ≤ h.length
  version : beNat h / 2 ^ 124 = 0
  rsvd : beNat h / 2 ^ 120 % 16 = 0
  channels : nch = fld (s.sctxCfg x) 41 34
  size : nset * nch * w ≤ room

/-- LAST_TS and the expected SEQ of context x are set by the header h (R328). -/
def State.noteHeader (s : State) (x : Nat) (h : Bytes) : State :=
  (s.wn (scx x 9) (beNat h % 2 ^ 64)).checkSeq x (BitVec.ofNat 16 (beNat h / 2 ^ 96))

theorem State.only_noteHeader (s : State) (x : Nat) (h : Bytes) : Only [.regs, .sctxs] s (s.noteHeader x h) :=
  .chain (only_checkSeq _ _ _) (by decide) ((only_wn _ _ _).mono (by decide))

/-- Frame g joins the ingress buffer of port p (R324, R325). -/
def State.joinFrame (s : State) (p : Nat) (g : InFrame) : State :=
  let s := s.updSport p fun q => { q with frames := q.frames ++ [g] }
  (s.hwm (sp p 0x1B) (s.sport p).bytes).pauseCheck p

theorem State.only_joinFrame (s : State) (p : Nat) (g : InFrame) : Only [.regs, .sports] s (s.joinFrame p g) :=
  .chain (only_pauseCheck _ _) (by decide) <| .chain (only_hwm _ _ _) (by decide) <|
    (only_updSport _ _ _).mono (by decide)

theorem State.rd_joinFrame (s : State) (p : Nat) (g : InFrame) {k : Nat} (hhigh : k ≠ sp p 0x1B)
    (hpause : k ≠ sp p 0x17) : (s.joinFrame p g).rd k = s.rd k :=
  (State.rd_pauseCheck _ p hpause).trans (State.rd_hwm_ne _ _ hhigh)

theorem State.frames_joinFrame (s : State) (p : Nat) (g : InFrame) :
    ((s.joinFrame p g).sport p).frames = (s.sport p).frames ++ [g] := by
  rw [State.joinFrame, State.frames_pauseCheck, (only_hwm _ _ _).sportEq (by decide), State.sport_updSport_same]

theorem State.takeFrame_joins {s : State} {p x nch nset w len : Nat} {h body : Bytes} (hh : HeaderOf h x nch nset)
    (hok : s.Takes p x nch nset w h body.length) (hrun : s.stopped = false) (hne : samplesOf w (nset * nch) body ≠ []) :
    s.takeFrame p h body len =
      (s.noteHeader x h).joinFrame p
        { ctx := x, bytes := len, samples := samplesOf w (nset * nch) body, chan := 0 } := by
  obtain ⟨hctx, hnch, hnset⟩ := hh
  obtain ⟨henabled, hin, hport, hstype, hwhole, hversion, hrsvd, hchannels, hsize⟩ := hok
  have hmine : ¬(s.rn (scx x 8) ≠ 1 ∨ s.sctxOut x = true ∨ s.sctxPort x ≠ p) := by simp [henabled, hin, hport]
  have hformed : ¬(h.length < 16 ∨ beNat h / 2 ^ 124 ≠ 0 ∨ beNat h / 2 ^ 120 % 16 ≠ 0 ∨
      nch ≠ fld (s.sctxCfg x) 41 34 ∨ body.length < nset * nch * w) := by omega
  have hrun' : (s.noteHeader x h).stopped = false := by
    rw [State.stopped, (s.only_noteHeader x h).same .eng (by decide)]
    exact hrun
  have hne' : (samplesOf w (nset * nch) body).isEmpty = false := by simpa using hne
  rw [State.noteHeader] at hrun' ⊢
  unfold State.takeFrame
  simp only [hctx, hnch, hnset, if_neg hmine, hstype, if_neg hformed, hrun', hne', Bool.false_eq_true, if_false]
  rfl

/-- A stream frame for the port's own address that fits is counted and taken (R324, R326). -/
theorem State.frameIn_stream {s : State} {p : Nat} {f : Bytes} {tag : Bool} {at' : Nat}
    (htag : decide (beNat ((f.drop 12).take 2) = 0x8100) = tag) (hat : (if tag then 18 else 14) = at')
    (hmac : beNat (f.take 6) = s.rn (sp p 3)) (htype : beNat ((f.drop (if tag then 16 else 12)).take 2) = 0x88B5)
    (hmin : 64 ≤ f.length) (hmax : f.length ≤ s.rn (sp p 6)) (hroom : (s.sport p).bytes + f.length ≤ 0x40000) :
    s.frameIn p f true = (s.bump (sp p 0x10)).takeFrame p (((f.drop at').take (f.length - at' - 4)).take 16)
      (((f.drop at').take (f.length - at' - 4)).drop 16) f.length := by
  have hlen : ¬(f.length < 64 ∨ s.rn (sp p 6) < f.length) := by omega
  have hfits : ¬0x40000 < (s.sport p).bytes + f.length := by omega
  have hpause : ¬((0x88B5 : Nat) = 0x8808 ∧ (!tag) = true ∧ beNat ((f.drop 14).take 2) = 1) := by simp
  unfold State.frameIn
  simp only [htag, htype, hmac, hat, if_neg hpause, if_neg hlen, if_neg hfits, decide_true, Bool.true_or, Bool.not_true,
    Bool.false_eq_true, if_false, ne_eq, not_true]

/-! Conversion -/

/-- The channel entry of the next sample of frame f (R335). -/
def State.convEntry (s : State) (f : InFrame) : Nat := fld (s.sctxCfg f.ctx) 33 21 + f.chan

/-- What the converter makes of sample v of frame f. -/
def State.convOf (s : State) (f : InFrame) (v : Int) : Conv :=
  convert (s.sctxCfg f.ctx) (s.schAt (s.convEntry f)) (s.rn (scx f.ctx 3)) (s.rn (scx f.ctx 4)) v

/-- The frame once a sample has been taken: its other samples, and the channel of the next. -/
def State.nextSample (s : State) (f : InFrame) (rest : List Int) (g : InFrame) : InFrame :=
  { g with samples := rest, chan := if f.chan + 1 = fld (s.sctxCfg f.ctx) 41 34 then 0 else f.chan + 1 }

/-- The conversion r of a sample of context x is stored in entry i and counted. -/
def State.convCounted (s : State) (x i : Nat) (r : Conv) : State :=
  if r.sat then ((s.setSch i r.entry).bump (scx x 0x11)).bump (scx x 0x13) else (s.setSch i r.entry).bump (scx x 0x11)

/-- The event of a conversion, if any, starts (R336). -/
def State.convSent (s : State) (p x c : Nat) : Option Int → State
  | some v => s.convEmit p x c v
  | none => s

/-- A converter that the bridge does not hold takes a sample that leaves others, L staying in its field (R335). -/
theorem State.convertOne_more {s : State} {p : Nat} {f : InFrame} {v w : Int} {rest : List Int}
    (hcredit : s.convCredit p = true) (hout : (s.convOf f v).out = false) :
    s.convertOne p f v (w :: rest) =
      ((s.convCounted f.ctx (s.convEntry f) (s.convOf f v)).convSent p f.ctx f.chan (s.convOf f v).ev).updSport p fun q =>
        { q with
          stuck := q.stuck.filter fun y => decide (y ≠ f.ctx),
          frames := onFrame f.ctx (fun g => some (s.nextSample f (w :: rest) g)) q.frames } := by
  have hstore : s.storeConv (s.convEntry f) (s.convOf f v) = s.setSch (s.convEntry f) (s.convOf f v).entry :=
    if_neg (by rw [hout]; decide)
  unfold State.convertOne
  extract_lets cfg i r s1 s2 s3 chan
  have h1 : s1 = (s.setSch i r.entry).bump (scx f.ctx 0x11) := congrArg (State.bump · (scx f.ctx 0x11)) hstore
  have h2 : s2 = s.convCounted f.ctx i r := by
    unfold s2 State.convCounted
    rw [h1]
  have h3 : s3 = s2.convSent p f.ctx f.chan r.ev := by
    unfold s3
    generalize r.ev = ev
    cases ev <;> rfl
  refine (if_neg (by simp [hcredit])).trans ((if_neg (by simp)).trans ?_)
  rw [h3, h2]
  rfl

theorem exec_sampleConvert {s : State} {p x : Nat} {f : InFrame} {v : Int} {rest : List Int}
    (hclk : s.boot.refclk = true) (hdom : s.domUp 87 = true) (hrun : s.stopped = false)
    (hframe : s.frameOf p x = some f) (hsamples : f.samples = v :: rest)
    (hserved : (s.converting p).contains x = true) :
    exec (.sampleConvert p x) s = .next (s.convertOne p f v rest) := by
  refine congrArg Host.Outcome.next ((State.clk_on hclk).trans ?_)
  simp only [hdom, hframe, hrun, hserved, hsamples, Bool.not_true, Bool.false_eq_true, if_false]

section
variable (s : State) (x i : Nat) (r : Conv)

theorem State.only_convCounted : Only [.regs, .sch] s (s.convCounted x i r) := by
  have h : Only [.regs, .sch] s ((s.setSch i r.entry).bump (scx x 0x11)) :=
    .chain (only_bump _ _) (by decide) ((only_setSch _ _ _).mono (by decide))
  exact .ite (.chain (only_bump _ _) (by decide) h) h

theorem State.schAt_convCounted : (s.convCounted x i r).schAt i = r.entry := by
  unfold State.convCounted
  split <;> exact Tab.get_set_same 0 s.sch i r.entry

theorem State.rd_convCounted {k : Nat} (hcount : k ≠ scx x 0x11) (hsat : k ≠ scx x 0x13) :
    (s.convCounted x i r).rd k = s.rd k := by
  have h : ((s.setSch i r.entry).bump (scx x 0x11)).rd k = s.rd k :=
    (State.rd_bumpBy_ne _ 64 1 hcount).trans ((only_setSch s i r.entry).rdEq (by decide) k)
  unfold State.convCounted
  split
  · exact (State.rd_bumpBy_ne _ 64 1 hsat).trans h
  · exact h

theorem State.samples_convCounted :
    (s.convCounted x i r).rn (scx x 0x11) = min (s.rn (scx x 0x11) + 1) (2 ^ 64 - 1) := by
  have h : ((s.setSch i r.entry).bump (scx x 0x11)).rn (scx x 0x11) = min (s.rn (scx x 0x11) + 1) (2 ^ 64 - 1) := by
    rw [State.rn_bump, (only_setSch s i r.entry).rnEq (by decide)]
  unfold State.convCounted
  split
  · exact (State.rn_bumpBy_ne _ 64 1 (scx_ne (by decide))).trans h
  · exact h

/-- A flit carries what the configuration of its context, the tag reference and the generation say (R336). -/
theorem State.convFlit_convCounted (c : Nat) (v : Int) : (s.convCounted x i r).convFlit x c v = s.convFlit x c v := by
  have honly := s.only_convCounted x i r
  have hcfg : (s.convCounted x i r).sctxCfg x = s.sctxCfg x := s.rd_convCounted x i r (scx_ne (by decide)) (scx_ne (by decide))
  have hdest : (s.convCounted x i r).rd (scx x 2) = s.rd (scx x 2) :=
    s.rd_convCounted x i r (scx_ne (by decide)) (scx_ne (by decide))
  unfold State.convFlit
  rw [hcfg, hdest, honly.same .eng (by decide), honly.same .reconf (by decide)]

theorem State.only_convSent (p c : Nat) (ev : Option Int) : Only [.regs, .nodes] s (s.convSent p x c ev) := by
  cases ev with
  | none => exact .refl _ s
  | some v => exact only_convEmit s p x c v

theorem State.rd_convSent (p c : Nat) (ev : Option Int) {k : Nat} (h : k ≠ scx x 0x12) :
    (s.convSent p x c ev).rd k = s.rd k := by
  cases ev with
  | none => rfl
  | some v =>
    exact ((only_inject _ _ _ _).rdEq (by decide) k).trans
      ((State.rd_bumpBy_ne _ 64 1 h).trans ((only_addSent s _ _ _).rdEq (by decide) k))

theorem State.events_convEmit (p c : Nat) (v : Int) :
    (s.convEmit p x c v).rn (scx x 0x12) = min (s.rn (scx x 0x12) + 1) (2 ^ 64 - 1) := by
  rw [State.convEmit, (only_inject _ _ _ _).rnEq (by decide), State.rn_bump, (only_addSent _ _ _ _).rnEq (by decide)]

theorem State.out_convEmit (p c : Nat) (v : Int) :
    Tab.get [] ((s.convEmit p x c v).node (spNode p)).out 0 =
      Tab.get [] (s.node (spNode p)).out 0 ++ [.event 0 0 (s.convFlit x c v)] := by
  rw [State.convEmit, State.out_inject, Item.cut_event, State.node_bump, State.addSent, State.node_updNode_same]

end

/-- The frame found first is the one that a change of the frames of its context meets. -/
theorem find_onFrame {x : Nat} {g : InFrame → InFrame} {f : InFrame} {l : List InFrame}
    (hfind : (l.find? fun f => decide (f.ctx = x)) = some f) (hctx : (g f).ctx = x) :
    ((onFrame x (fun f => some (g f)) l).find? fun f => decide (f.ctx = x)) = some (g f) := by
  induction l with
  | nil => cases hfind
  | cons a l ih =>
    by_cases ha : a.ctx = x
    · rw [List.find?_cons_of_pos (by simpa using ha)] at hfind
      cases hfind
      rw [onFrame, if_pos ha, List.find?_cons_of_pos (by simpa using hctx)]
    · rw [List.find?_cons_of_neg (by simpa using ha)] at hfind
      rw [onFrame, if_neg ha, List.find?_cons_of_neg (by simpa using ha), ih hfind]

/-! Egress -/

section
variable {s : State} {p x : Nat}

/-- Record r joins the frame that context x builds, in time. -/
def State.addRecord (s : State) (x : Nat) (r : Record) : State :=
  s.updSctx x fun q => { q with build := q.build ++ [(r, false)] }

theorem State.sctx_addRecord (s : State) (x : Nat) (r : Record) :
    (s.addRecord x r).sctx x = { s.sctx x with build := (s.sctx x).build ++ [(r, false)] } :=
  State.sctx_updSctx_same s x _

/-- An OUT context takes a record in time; its frame stays open below MAXREC under a HOLDOFF (R339, R340). -/
theorem State.egressTake_joins {r : Record} (hup : s.spUp p = true) (hout : s.sctxOut x = true)
    (hon : s.rn (scx x 8) ≠ 0) (hport : s.sctxPort x = p) (hlate : s.lateRec r.step = false)
    (hmore : (s.sctx x).build.length + 1 < s.rn (scx x 5)) (hhold : s.rn (scx x 6) ≠ 0) :
    s.egressTake p x r = s.addRecord x r := by
  have hopen : ¬((s.addRecord x r).rn (scx x 5) ≤ ((s.addRecord x r).sctx x).build.length ∨
      (s.addRecord x r).rn (scx x 6) = 0) := by
    rw [State.sctx_addRecord, List.length_append, List.length_singleton]
    exact not_or.mpr ⟨Nat.not_le.mpr hmore, hhold⟩
  unfold State.egressTake
  simp only [hup, hout, hon, hport, hlate, Bool.not_true, Bool.false_and, Bool.false_eq_true, decide_false, ne_eq, not_true,
    Bool.or_self, if_false]
  exact if_neg hopen

theorem exec_egressRecord {i : Nat} {r : Record} {rest : List Record} (hclk : s.boot.refclk = true)
    (hrecs : (s.sport p).recs = r :: rest) (hconn : s.connOf r.handle.toNat = some i)
    (hheld : s.streamHeld p = false) :
    exec (.egressRecord p) s =
      .next ((s.updSport p fun q => { q with recs := rest }).egressTake p (s.conn i).stream r) := by
  refine congrArg Host.Outcome.next ((State.clk_on hclk).trans ?_)
  simp only [hrecs, hconn, hheld, Bool.and_false, Bool.false_eq_true, if_false]

/-- A context closes the frame that it builds, for its port to send (R340). -/
theorem State.closeFrame_built (h : (s.sctx x).build ≠ []) :
    s.closeFrame x =
      (s.updSport (s.sctxPort x) fun q =>
        { q with
          staged := q.staged ++ [(x, (s.sctx x).build.map Prod.fst, s.egressFrame x (s.sctx x).build)] }).updSctx x fun q =>
            { q with build := [], seq := q.seq + 1 } :=
  if_neg (by simpa using h)

/-- The oldest closed frame of port p has gone, and its records have ended. -/
def State.transmitted (s : State) (p : Nat) (rs : List Record) (f : Bytes) (rest : List (Nat × List Record × Bytes)) :
    State :=
  rs.foldl (fun s r => s.recEnd p r) (s.updSport p fun q => { q with staged := rest, sent := q.sent ++ [f] })

theorem State.only_transmitted (s : State) (p : Nat) (rs : List Record) (f : Bytes)
    (rest : List (Nat × List Record × Bytes)) :
    Only [.nodes, .live] (s.updSport p fun q => { q with staged := rest, sent := q.sent ++ [f] })
      (s.transmitted p rs f rest) :=
  Only.foldl (.refl _ _) fun u r hu => hu.trans (only_recEnd u p r)

theorem exec_egressFrameTransmit {rs : List Record} {f : Bytes} {rest : List (Nat × List Record × Bytes)}
    (hclk : s.boot.refclk = true) (hup : s.spUp p = true) (hfree : s.txHeld p = false)
    (hstaged : (s.sport p).staged = (x, rs, f) :: rest) :
    exec (.egressFrameTransmit p) s =
      .next ((((s.transmitted p rs f rest).bumpBy 64 (scx x 0x17) rs.length).bump (sp p 0x11)).outDone x) := by
  refine congrArg Host.Outcome.next ((State.clk_on hclk).trans ((if_neg (by simp [hup, hfree])).trans ?_))
  simp only [hstaged]
  rfl

end

/-- Settles O34: each command by the operation that its hypotheses leave, read register by register. -/
theorem streamTraffic : Obligations.StreamTraffic := by
  refine ⟨?pause, ?pauseEnds, ?badFcs, ?frame, ?convert, ?record, ?holdoff, ?transmit⟩
  case pause =>
    intro p q s hclk hup henabled
    have hx : exec (.pauseFrameReceive p q) s = _ := congrArg Host.Outcome.next
      ((State.clk_on hclk).trans ((if_pos hup).trans (State.takePause_enabled (quanta := q.toNat) henabled)))
    refine Completes.of (only_execPauseFrameReceive p q s) hx (by decide) ⟨?_, fun k hk => ?_, ?_⟩
    · exact s.rn_bump _
    · exact State.rd_bumpBy_ne s 64 1 hk
    · rw [State.sport_updSport_same, State.sport_bump]
  case pauseEnds =>
    intro p s hclk
    exact ⟨_, congrArg Host.Outcome.next (State.clk_on hclk), only_updSport _ _ _, s.sport_updSport_same p _⟩
  case badFcs =>
    intro p f s hclk hup
    have hx : exec (.frameReceive p f false) s = .next (s.bump (sp p 0x12)) :=
      congrArg Host.Outcome.next ((State.clk_on hclk).trans (if_pos hup))
    exact ⟨_, hx, only_bump _ _, s.rn_bump _, fun k hk => State.rd_bumpBy_ne s 64 1 hk⟩
  case frame =>
    intro p w f s hp hclk hup tag pay n x nch nset l hmac htype hmin hmax hroom hon hin hport hstype hwhole hversion hrsvd
      hchannels hsize hrun hne
    have hh : HeaderOf (pay.take 16) x nch nset := ⟨rfl, rfl, rfl⟩
    have hreg {y sub : Nat} (hsub : sub < 0x10) : (s.bump (sp p 0x10)).rd (scx y sub) = s.rd (scx y sub) :=
      State.rd_bumpBy_ne s 64 1 (scx_ne_sp ⟨by omega, by decide, by omega⟩)
    have hcfg (y : Nat) : (s.bump (sp p 0x10)).sctxCfg y = s.sctxCfg y := hreg (by decide)
    have htakes : (s.bump (sp p 0x10)).Takes p x nch nset w (pay.take 16) (pay.drop 16).length :=
      ⟨(rn_ofrd (hreg (by decide))).trans hon, by rw [State.sctxOut, hcfg]; exact hin,
        by rw [State.sctxPort, hcfg]; exact hport, hstype, hwhole, hversion, hrsvd, by rw [hcfg]; exact hchannels, hsize⟩
    have hx : exec (.frameReceive p f true) s = .next _ :=
      congrArg Host.Outcome.next ((State.clk_on hclk).trans ((if_pos hup).trans
        ((State.frameIn_stream rfl rfl hmac htype hmin hmax hroom).trans (State.takeFrame_joins hh htakes hrun hne))))
    have hnote := State.only_noteHeader (s.bump (sp p 0x10)) x (pay.take 16)
    refine ⟨_, hx, ?_, ?_, ?_, ?_, ?_⟩
    · exact .chain (State.only_joinFrame _ _ _) (by decide) <| .chain hnote (by decide) <|
        (only_bump _ _).mono (by decide)
    · rw [State.frames_joinFrame, hnote.sportEq (by decide), State.sport_bump]
    · rw [(State.only_joinFrame _ _ _).sctxEq (by decide), State.noteHeader, State.sctx_checkSeq]
    · rw [rn_ofrd (State.rd_joinFrame _ _ _ (scx_ne_sp (by decide)) (scx_ne_sp (by decide))), State.noteHeader,
        rn_ofrd (State.rd_checkSeq _ _ _ (scx_ne (by decide)) (scx_ne (by decide))),
        State.rn_wn_lt _ _ (Nat.mod_lt _ (by decide))]
    · rw [rn_ofrd (State.rd_joinFrame _ _ _ (sp_ne (by decide)) (sp_ne (by decide))), State.noteHeader,
        rn_ofrd (State.rd_checkSeq _ _ _ (sp_ne_scx (by decide)) (sp_ne_scx (by decide))),
        State.rn_wn_ne _ _ (sp_ne_scx (by decide)), State.rn_bump]
  case convert =>
    intro p x f v w rest s hp hx hctx hclk hdom hrun hframe hsamples hserved hcredit cfg i r chan hout
    subst hctx
    have hx := exec_sampleConvert hclk hdom hrun hframe hsamples hserved
    rw [State.convertOne_more hcredit hout] at hx
    change exec _ s = .next (State.updSport ((s.convCounted f.ctx i r).convSent p f.ctx f.chan r.ev) p _) at hx
    have hcount := s.only_convCounted f.ctx i r
    have hsent := State.only_convSent (s.convCounted f.ctx i r) f.ctx p f.chan r.ev
    refine ⟨_, hx, ?_, ?_, ?_, ?_, fun hnone => ?_, fun e he => ?_⟩
    · exact .chain (only_updSport _ _ _) (by decide) <| .chain hsent (by decide) <| hcount.mono (by decide)
    · exact (congrArg (Tab.get 0 · i) (hsent.same .sch (by decide))).trans (s.schAt_convCounted f.ctx i r)
    · rw [State.rn_def, State.rd_updSport, State.rd_convSent _ _ _ _ _ (scx_ne (by decide)), ← State.rn_def,
        State.samples_convCounted]
    · rw [State.frameOf, State.sport_updSport_same, hsent.sportEq (by decide), hcount.sportEq (by decide)]
      exact find_onFrame (g := s.nextSample f (w :: rest)) hframe rfl
    · rw [hnone]
      exact hcount.same .nodes (by decide)
    · rw [he, State.convSent, State.rn_def, State.rd_updSport, ← State.rn_def, State.node_updSport]
      refine ⟨?_, ?_⟩
      · rw [State.events_convEmit, rn_ofrd (s.rd_convCounted _ _ _ (scx_ne (by decide)) (scx_ne (by decide)))]
      · rw [State.out_convEmit, State.convFlit_convCounted, hcount.nodeEq (by decide)]
  case record =>
    intro p x i r rest s hp hx hclk hrecs hconn hstream hup hheld hout hon hport hlate hmore hhold
    have hx := exec_egressRecord hclk hrecs hconn hheld
    rw [hstream, State.egressTake_joins (by exact hup) (by exact hout) (by exact hon) (by exact hport) (by exact hlate)
      (by exact hmore) (by exact hhold)] at hx
    refine ⟨_, hx, .chain (only_updSctx _ _ _) (by decide) ((only_updSport _ _ _).mono (by decide)), ?_, ?_⟩
    · rw [State.addRecord, State.sport_updSctx, State.sport_updSport_same]
    · rw [State.sctx_addRecord, State.sctx_updSport]
  case holdoff =>
    intro x s hclk hdom hbuild
    have hx : exec (.egressHoldoffExpire x) s = .next _ :=
      congrArg Host.Outcome.next ((State.clk_on hclk).trans ((if_pos hdom).trans (State.closeFrame_built hbuild)))
    refine ⟨_, hx, .chain (only_updSctx _ _ _) (by decide) ((only_updSport _ _ _).mono (by decide)), ?_, ?_⟩
    · rw [State.sctx_updSctx_same, State.sctx_updSport]
    · rw [State.sport_updSctx, State.sport_updSport_same]
  case transmit =>
    intro p x rs f rest s hp hx hclk hup hfree hstaged
    have hx := exec_egressFrameTransmit hclk hup hfree hstaged
    have honly := s.only_transmitted p rs f rest
    have hrn (k : Nat) : (s.transmitted p rs f rest).rn k = s.rn k := honly.rnEq (by decide) k
    refine Completes.of (only_execEgressFrameTransmit p s) hx (by decide) ⟨?_, ?_, ?_⟩
    · rw [(only_outDone _ _).sportEq (by decide), State.sport_bump, State.sport_bumpBy, honly.sportEq (by decide),
        State.sport_updSport_same]
    · rw [rn_ofrd (State.rd_outDone _ _ (scx_ne (by decide))), State.bump, State.rn_bumpBy_ne _ _ _ (scx_ne_sp (by decide)),
        State.rn_bumpBy _ _ _ (by decide), hrn]
    · rw [rn_ofrd (State.rd_outDone _ _ (sp_ne_scx (by decide))), State.rn_bump,
        State.rn_bumpBy_ne _ _ _ (sp_ne_scx (by decide)), hrn]

end Sys2Proof.Machine
end

section
/-! PROOF. Mailboxes, their locks and doorbells, and notices (11 R382 to R391). -/

namespace Sys2Proof.Machine

/-! The registers of a mailbox -/

theorem mb_ne {i a b : Nat} (h : a < 256 ∧ b < 256 ∧ a ≠ b) : mb i a ≠ mb i b := rk_sub h.1 h.2.1 h.2.2

/-- The registers of mailboxes lie above those of the power domains. -/
theorem mb_above_domains (i : Nat) {a : Nat} (h : a < 256) : 0x0500 ≤ mb i a / 256 := by unfold mb rk; omega

theorem mb_ne_rNotice {i a n d : Nat} (hi : i < 24) (ha : a < 256) : mb i a ≠ rNotice n d := by
  unfold mb rNotice rk; omega

section
variable {s u : State} (h : s.PathEq u)
include h

theorem State.PathEq.mbUsed (i : Nat) : u.mbUsed i = s.mbUsed i := by obtain ⟨X, rfl⟩ := h; rfl
theorem State.PathEq.mbUnread (i : Nat) : u.mbUnread i = s.mbUnread i := by obtain ⟨X, rfl⟩ := h; rfl

end

/-- The number of a sender fits a register. -/
theorem lt_of_mem_senders {n : Nat} (h : n ∈ senders) : n < 2 ^ 64 :=
  of_decide_eq_true (List.all_eq_true.mp (show senders.all (fun n => decide (n < 2 ^ 64)) = true from rfl) n h)

/-! Doorbells -/

/-- Beside its counter a doorbell writes registers of power domains only (R387). -/
theorem State.rd_doorbell (s : State) (i : Nat) {k : Nat} (h : 0x0500 ≤ k / 256) :
    (s.doorbell i).rd k = (s.bump (mb i 0x0B)).rd k := by
  unfold State.doorbell
  extract_lets u
  split
  · exact ((only_raise _ _).rdEq (by decide) k).trans (State.rd_wake u 77 5 k (by omega))
  · exact (Only.set_sdio u _).rdEq (by decide) k
  · exact State.rd_wake u 88 5 k (by omega)

/-- A doorbell of a mailbox that the SDIO host receives sets its bit of INT_PEND (R387). -/
theorem State.doorbell_sdio {s : State} {i : Nat} (h : s.rn (mb i 1) = 2) :
    s.doorbell i = (s.bump (mb i 0x0B)).put_sdio { s.sdio with intPend := s.sdio.intPend ||| 2 } := by
  have hreceiver : (s.bump (mb i 0x0B)).rn (mb i 1) = 2 := (State.rn_bumpBy_ne s 64 1 (mb_ne (by decide))).trans h
  unfold State.doorbell
  extract_lets u
  rw [show u.rn (mb i 1) = 2 from hreceiver]
  rfl

/-! A message written behind PROD -/

/-- The units that message b takes, its header among them (R385). -/
def mbUnits (b : Bytes) : Nat := 1 + (b.length + 15) / 16

theorem Mem.wrBytes_append (m : Mem) (a : Nat) (bs cs : Bytes) :
    m.wrBytes a (bs ++ cs) = (m.wrBytes a bs).wrBytes (a + bs.length) cs := by
  induction bs generalizing m a with
  | nil => rfl
  | cons b bs ih =>
    rw [List.cons_append, Mem.wrBytes, ih, Mem.wrBytes, List.length_cons, Nat.add_right_comm, Nat.add_assoc]

/-- The first bytes of what has been written are read back. -/
theorem Mem.rdBytes_wrBytes_leading (m : Mem) (a : Nat) (bs cs : Bytes) :
    (m.wrBytes a (bs ++ cs)).rdBytes a bs.length = bs := by
  rw [Mem.wrBytes_append, Mem.rdBytes_wrBytes_out _ _ _ (.inl (Nat.le_refl _)), Mem.rdBytes_wrBytes_same]

section
variable (s : State) (i n : Nat) (b : Bytes)

/-- Where the next message of mailbox i starts in its ring. -/
def State.mbPlace : Nat := 16 * (s.rn (mb i 5) % 1024)

/-- The header unit of message b of path number n at PROD of mailbox i (Table 11.11). -/
def State.mbHeader : Bytes :=
  leBytes 8 (mbWord0 (s.mbox i).seq.toNat n 1 (lapPhase (s.rn (mb i 5)) 1024) (mbUnits b) b.length).toNat ++
    leBytes 8 (s.rn rTB)

theorem State.length_mbHeader : (s.mbHeader i n b).length = 16 := by
  rw [State.mbHeader, List.length_append, leBytes_length, leBytes_length]

/-- Writing message b of path number n at PROD of mailbox i. -/
def State.mbMessage : State := s.mbPut i n 1 (mbUnits b) b

theorem State.mbox_mbMessage : ∃ pad, (s.mbMessage i n b).mbox i = { s.mbox i with
    ring := ((s.mbox i).ring.wrBytes (s.mbPlace i + 16) (b ++ pad)).wrBytes (s.mbPlace i) (s.mbHeader i n b)
    seq := (s.mbox i).seq + 1
    msgs := (s.mbox i).msgs ++ [(s.rn (mb i 5), n)] } := by
  refine ⟨List.replicate (16 * (mbUnits b - 1) - b.length) 0, ?_⟩
  unfold State.mbMessage State.mbPut
  rw [(only_hwm _ _ _).mboxEq (by decide), State.mbox_wn, State.mbox_updMbox_same]
  rfl

theorem State.prod_mbMessage : (s.mbMessage i n b).rn (mb i 5) = (s.rn (mb i 5) + mbUnits b) % 2 ^ 32 := by
  unfold State.mbMessage State.mbPut
  rw [rn_ofrd (State.rd_hwm_ne _ _ (mb_ne (by decide))), State.rn_wn_lt _ _ (by omega)]

theorem State.rd_mbMessage {k : Nat} (hprod : k ≠ mb i 5) (hhwm : k ≠ mb i 0x11) :
    (s.mbMessage i n b).rd k = s.rd k := by
  unfold State.mbMessage State.mbPut
  rw [State.rd_hwm_ne _ _ hhwm, State.rd_wn_ne _ _ hprod, State.rd_updMbox]

/-- Sending message b of path number n: it is written and counted, the staging is empty, and the doorbell rings. -/
def State.mbSent : State :=
  (((s.mbMessage i n b).bump (mb i 9)).updMbox i fun q => { q with staged := none, waiting := none }).doorbell i

theorem State.mbox_mbSent :
    (s.mbSent i n b).mbox i = { (s.mbMessage i n b).mbox i with staged := none, waiting := none } := by
  rw [State.mbSent, (only_doorbell _ _).mboxEq (by decide), State.mbox_updMbox_same, State.mbox_bump]

theorem State.rd_mbSent {k : Nat} (hk : 0x0500 ≤ k / 256) (hbell : k ≠ mb i 0x0B) :
    (s.mbSent i n b).rd k = ((s.mbMessage i n b).bump (mb i 9)).rd k := by
  rw [State.mbSent, State.rd_doorbell _ _ hk, State.bump, State.rd_bumpBy_ne _ _ _ hbell, State.rd_updMbox]

theorem State.prod_mbSent : (s.mbSent i n b).rn (mb i 5) = (s.rn (mb i 5) + mbUnits b) % 2 ^ 32 := by
  rw [rn_ofrd (s.rd_mbSent i n b (mb_above_domains i (by decide)) (mb_ne (by decide))), State.bump,
    State.rn_bumpBy_ne _ _ _ (mb_ne (by decide)), State.prod_mbMessage]

theorem State.sent_mbSent : (s.mbSent i n b).rn (mb i 9) = min (s.rn (mb i 9) + 1) (2 ^ 64 - 1) := by
  rw [rn_ofrd (s.rd_mbSent i n b (mb_above_domains i (by decide)) (mb_ne (by decide))), State.rn_bump,
    rn_ofrd (s.rd_mbMessage i n b (mb_ne (by decide)) (mb_ne (by decide)))]

theorem State.doorbells_mbSent : (s.mbSent i n b).rn (mb i 0x0B) = min (s.rn (mb i 0x0B) + 1) (2 ^ 64 - 1) := by
  rw [State.mbSent, rn_ofrd (State.rd_doorbell _ _ (mb_above_domains i (by decide))), State.rn_bump, State.rn_def,
    State.rd_updMbox, State.bump, State.rd_bumpBy_ne _ _ _ (mb_ne (by decide)),
    s.rd_mbMessage i n b (mb_ne (by decide)) (mb_ne (by decide)), ← State.rn_def]

end

/-! SEND -/

/-- Path p owns mailbox i and has staged message b, which fits before the end of the ring. -/
structure State.MayPost (s : State) (p : Path) (i : Nat) (b : Bytes) : Prop where
  owner : s.rn (mb i 8) = sender p
  staged : (s.mbox i).staged = some b
  fits : mbUnits b ≤ 1024 - s.rn (mb i 5) % 1024

section
variable {s u : State} {p : Path} {i : Nat} {b : Bytes} (h : s.MayPost p i b)
include h

theorem State.MayPost.of_pathEq (hu : s.PathEq u) : u.MayPost p i b :=
  ⟨(hu.rn _).trans h.owner, (congrArg Mbox.staged (hu.mbox i)).trans h.staged, by rw [hu.rn]; exact h.fits⟩

/-- No PAD is written before a message that fits. -/
theorem State.MayPost.mbTry_eq (n : Nat) :
    s.mbTry i n b = if mbUnits b ≤ 1024 - s.mbUsed i then (s.mbSent i n b, true) else (s, false) := by
  unfold State.mbTry
  extract_lets m tail free padded tail' free' sent
  have hpad : padded = s := if_neg fun hshort => absurd hshort.1 (Nat.not_lt.mpr h.fits)
  have htail : m ≤ tail' := by unfold tail'; rw [hpad]; exact h.fits
  have hfree : free' = 1024 - s.mbUsed i := by unfold free'; rw [hpad]
  have hsent : sent = (s.mbMessage i n b).bump (mb i 9) := by unfold sent; rw [hpad]; rfl
  rw [hsent, hpad, hfree]
  by_cases hroom : mbUnits b ≤ 1024 - s.mbUsed i
  · exact (if_pos ⟨htail, hroom⟩).trans (if_pos hroom).symm
  · exact (if_neg fun hboth => hroom hboth.2).trans (if_neg hroom).symm

theorem State.MayPost.mbSendAct_eq :
    mbSendAct p i s = if mbUnits b ≤ 1024 - s.mbUsed i then okAct (s.mbSent i (sender p) b)
      else .wait (.mbSend i) (s.updMbox i fun q => { q with waiting := some (sender p) }) := by
  refine (guardAct_ok (guard_nil ?_)).trans ?_
  · simp [State.notOwner, h.owner, h.staged]
  · have hb : (s.mbox i).staged.getD [] = b := congrArg (Option.getD · []) h.staged
    simp only [hb, h.mbTry_eq]
    by_cases hroom : mbUnits b ≤ 1024 - s.mbUsed i
    · simp only [if_pos hroom, if_true]
    · simp only [if_neg hroom, Bool.false_eq_true, if_false]

end

/-! RESET -/

section
variable (s : State) (i : Nat)

/-- Mailbox i emptied by its receiver, its unread messages counted (R388). -/
def State.mbEmptied : State :=
  let u := (s.bumpBy 64 (mb i 0x0C) (s.mbUnread i).length).updMbox i fun _ => .reset
  ((u.wn (mb i 5) 0).wn (mb i 6) 0).wn (mb i 8) 0

theorem State.mbox_mbEmptied : (s.mbEmptied i).mbox i = .reset := by
  rw [State.mbEmptied, State.mbox_wn, State.mbox_wn, State.mbox_wn, State.mbox_updMbox_same]

theorem State.aborted_mbEmptied :
    (s.mbEmptied i).rn (mb i 0x0C) = min (s.rn (mb i 0x0C) + (s.mbUnread i).length) (2 ^ 64 - 1) := by
  rw [State.mbEmptied, State.rn_wn_ne _ _ (mb_ne (by decide)), State.rn_wn_ne _ _ (mb_ne (by decide)),
    State.rn_wn_ne _ _ (mb_ne (by decide)), State.rn_def, State.rd_updMbox, ← State.rn_def,
    State.rn_bumpBy _ _ _ (Nat.le_refl 64)]

theorem State.positions_mbEmptied :
    (s.mbEmptied i).rn (mb i 5) = 0 ∧ (s.mbEmptied i).rn (mb i 6) = 0 ∧ (s.mbEmptied i).rn (mb i 8) = 0 := by
  refine ⟨?_, ?_, State.rn_wn_lt _ _ (by decide)⟩
  · rw [State.mbEmptied, State.rn_wn_ne _ _ (mb_ne (by decide)), State.rn_wn_ne _ _ (mb_ne (by decide)),
      State.rn_wn_lt _ _ (by decide)]
  · rw [State.mbEmptied, State.rn_wn_ne _ _ (mb_ne (by decide)), State.rn_wn_lt _ _ (by decide)]

/-- Beside the notices, a notification writes NOTICE_LOST of the mailbox only (R390). -/
theorem State.rd_notify_mb {a : Nat} (n : Nat) (hi : i < 24) (ha : a < 256 ∧ a ≠ 0x0F) :
    (s.notify i n).rd (mb i a) = s.rd (mb i a) := by
  unfold State.notify
  split
  · exact State.rd_noticeLocal _ _ _ _ (mb_ne_rNotice hi ha.1)
  · split
    · exact (only_sendMsg _ _).rdEq (by decide) _
    · exact State.rd_bumpBy_ne _ 32 1 (mb_ne ⟨ha.1, by decide, ha.2⟩)

end

/-- Without a SEND that waits, a reset empties the mailbox and notifies the senders of what was unread. -/
theorem State.mbReset_idle {s : State} {i : Nat} (h : (s.mbox i).waiting = none) :
    ∃ l : List Nat, s.mbReset i = l.foldl (fun s n => s.notify i n) (s.mbEmptied i) := by
  unfold State.mbReset
  simp only [h]
  exact ⟨_, rfl⟩

/-- Settles O32: each command on a mailbox by what its entry does in the opened window, register by register. -/
theorem mailboxes : Obligations.Mailboxes := by
  refine ⟨?notice, ?noticeRead, ?send, ?sendWaits, ?notOwner, ?timeout, ?doorbell, ?lockRead, ?lockWrite, ?msg, ?cons,
    ?reset, ?receiver⟩
  case notice =>
    intro dev m s hclk
    have hx : exec (.notice dev m) s = .next (State.raise _ _) := congrArg Host.Outcome.next (State.clk_on hclk)
    refine ⟨_, hx, .chain (only_raise _ _) (by decide) ((only_wn _ _ _).mono (by decide)), ?_, fun k hk => ?_⟩
    · exact ((only_raise _ _).rdEq (by decide) _).trans (State.rd_wn_same _ _ _)
    · exact ((only_raise _ _).rdEq (by decide) k).trans (State.rd_wn_ne _ _ hk)
  case noticeRead =>
    intro p d s hs
    refine Completes.dict (d := leBytes 4 (s.rn (rNotice (sender p) d))) rfl hs (by decide) fun u hu => ⟨_,
      by rw [mbNoticeAct, hu.rn], (only_wn _ _ _).mono (by decide), fun w hw ha => ⟨ha, ?_, fun k hk => ?_⟩⟩
    · rw [hw.rn, State.rn_wn_lt _ _ (by decide)]
    · rw [hw.rd, State.rd_wn_ne _ _ hk, hu.rd]
  case send =>
    intro p i b s hs howner hstaged hfits hroom
    refine Completes.dictOk (only_mbSendAct p i) rfl hs (by decide) (by decide) fun u hu _ => ⟨u.mbSent i (sender p) b,
      (State.MayPost.of_pathEq ⟨howner, hstaged, hfits⟩ hu).mbSendAct_eq.trans (if_pos (by rw [hu.mbUsed]; exact hroom)),
      fun w hw ha => ?_⟩
    obtain ⟨pad, hbox⟩ := u.mbox_mbMessage i (sender p) b
    have hlen := u.length_mbHeader i (sender p) b
    have hring : (w.mbox i).ring = ((u.mbox i).ring.wrBytes (u.mbPlace i + 16) (b ++ pad)).wrBytes (u.mbPlace i)
        (u.mbHeader i (sender p) b) := by
      rw [hw.mbox, State.mbox_mbSent, hbox]
    have hplace : 16 * (s.rn (mb i 5) % 1024) = u.mbPlace i := by rw [State.mbPlace, hu.rn]
    have hread := Mem.rdBytes_wrBytes_same ((u.mbox i).ring.wrBytes (u.mbPlace i + 16) (b ++ pad)) (u.mbPlace i)
      (u.mbHeader i (sender p) b)
    rw [hlen] at hread
    refine ⟨ha, ?_, ?_, ?_, ?_, ?_, ?_, ?_⟩
    · rw [hw.rn, State.prod_mbSent, hu.rn]
      rfl
    · rw [hw.mbox, State.mbox_mbSent]
    · rw [hw.mbox, State.mbox_mbSent, hbox, hu.mbox]
    · rw [hring, hplace, ← hu.rn, ← hu.rn, ← hu.mbox]
      exact hread
    · rw [hring, hplace]
      exact (Mem.rdBytes_wrBytes_out _ _ _ (by rw [hlen]; exact .inr (Nat.le_refl _))).trans
        (Mem.rdBytes_wrBytes_leading _ _ b pad)
    · rw [hw.rn, State.sent_mbSent, hu.rn]
    · rw [hw.rn, State.doorbells_mbSent, hu.rn]
  case sendWaits =>
    intro p i b s hs howner hstaged hfits hfull
    refine Completes.dictWait rfl hs (by decide) fun u hu => ⟨_,
      (State.MayPost.of_pathEq ⟨howner, hstaged, hfits⟩ hu).mbSendAct_eq.trans
        (if_neg (by rw [hu.mbUsed]; exact Nat.not_le.mpr hfull)),
      (only_updMbox _ _ _).mono (by decide), fun w hw ha => ⟨ha, ?_⟩⟩
    rw [hw.mbox, State.mbox_updMbox_same, hu.mbox]
  case notOwner =>
    intro p i s hs howner hstaged
    refine Completes.dictRefuse rfl hs (by decide) rfl (fun u hu => ?_) fun w ha => ha
    have hother : u.notOwner p i = true := decide_eq_true (by rw [hu.rn]; exact howner)
    have hfull : (u.mbox i).staged.isNone = false := by
      rw [hu.mbox, Option.isNone_eq_false_iff, Option.isSome_iff_ne_none]
      exact hstaged
    unfold mbSendAct
    rw [hother, hfull]
    exact if_neg (by decide)
  case timeout =>
    intro i n s hclk hwaits hop
    have hx : exec (.mbSendTimeout i) s =
        .next ((s.updMbox i fun q => { q with waiting := none }).answer n .timeout false []) := by
      refine congrArg Host.Outcome.next ((State.clk_on hclk).trans ?_)
      rw [hwaits]
      exact if_pos hop
    refine ⟨_, hx, .chain (only_answer _ _ _ _ _) (by decide) ((only_updMbox _ _ _).mono (by decide)), ?_, ?_⟩
    · rw [State.answer, State.pathN_updPathN_same]
    · exact ((only_answer _ _ _ _ _).mboxEq (by decide) i).trans (State.mbox_updMbox_same s i _)
  case doorbell =>
    intro p i s hs
    refine Completes.dictOk (only_mbDoorbellAct i) rfl hs (by decide) (by decide) fun u hu _ => ⟨u.doorbell i, rfl,
      fun w hw ha => ⟨ha, ?_, fun hsdio => ?_⟩⟩
    · rw [hw.rn, rn_ofrd (u.rd_doorbell i (mb_above_domains i (by decide))), State.rn_bump, hu.rn]
    · rw [hw.sdio, hw.pcie, State.doorbell_sdio ((hu.rn _).trans hsdio), ← hu.sdio, ← hu.pcie]
      exact ⟨rfl, rfl⟩
  case lockRead =>
    intro p i s hs hsender
    refine Completes.dictR (d := [BitVec.ofNat 8 (s.rn (mb i 8))]) (only_mbLockReadAct p i) rfl hs (by decide) (by decide)
      fun u hu _ => ⟨_, by rw [mbLockReadAct, hu.rn], fun w hw ha => ⟨ha, ?_, fun k hk => ?_⟩⟩
    · rw [hw.rn]
      split
      · exact State.rn_wn_lt _ _ (lt_of_mem_senders hsender)
      · exact hu.rn _
    · rw [hw.rd]
      split
      · rw [State.rd_wn_ne _ _ hk, hu.rd]
      · exact hu.rd k
  case lockWrite =>
    intro p i v s hs
    refine Completes.dictOk (only_mbLockWriteAct p i v.toNat) rfl hs (by decide) (by decide) fun u hu _ => ⟨_, rfl,
      fun w hw ha => ⟨ha, fun hown => ?_, fun hother => ?_⟩⟩
    · rw [hw.rn, hw.rn, if_pos (by rw [hu.rn]; exact hown), State.rn_wn_lt _ _ (by decide),
        State.rn_wn_ne _ _ (mb_ne (by decide)), hu.rn]
      exact ⟨rfl, rfl⟩
    · rw [hw.rn, hw.rn, if_neg (by rw [hu.rn]; exact hother), State.rn_bump32, State.bump32,
        State.rn_bumpBy_ne _ _ _ (mb_ne (by decide)), hu.rn, hu.rn]
      exact ⟨rfl, rfl⟩
  case msg =>
    intro p i d s hs howner hne hle
    refine Completes.dictOk (only_mbMsgAct p i d) rfl hs (by decide) (by decide) fun u hu _ => ⟨_,
      guardAct_ok (guard_nil (by simp [State.notOwner, hu.rn, howner, List.length_eq_zero_iff.not.mp hne, hle])),
      fun w hw ha => ⟨ha, ?_, fun j hj => ?_⟩⟩
    · rw [hw.mbox, State.mbox_updMbox_same, hu.mbox]
    · rw [hw.mbox, State.mbox_updMbox_ne _ _ hj, hu.mbox]
  case cons =>
    intro p i v s hs hreceiver hle hidle
    have hidle' {u : State} (hu : s.PathEq u) : (u.mbox i).waiting = none :=
      (congrArg Mbox.waiting (hu.mbox i)).trans hidle
    refine Completes.dict rfl hs (by decide) fun u hu => ⟨(u.wn (mb i 6) v.toNat).updMbox i fun q =>
        { q with msgs := (u.wn (mb i 6) v.toNat).mbUnread i },
      (guardAct_ok (guard_nil (by simpa [hu.rn, hu.mbUsed, hreceiver] using hle))).trans ?_,
      .chain (only_updMbox _ _ _) (by decide) ((only_wn _ _ _).mono (by decide)),
      fun w hw ha => ⟨ha, ?_, fun k hk => ?_, ?_⟩⟩
    · simp only [State.mbox_updMbox_same, State.mbox_wn, hidle' hu]
      rfl
    · rw [hw.rn, State.rn_def, State.rd_updMbox, ← State.rn_def, State.rn_wn_lt _ _ (by omega)]
    · rw [hw.rd, State.rd_updMbox, State.rd_wn_ne _ _ hk, hu.rd]
    · rw [hw.mbox, State.mbox_updMbox_same, State.mbox_wn, hu.mbox]
      exact ⟨rfl, rfl⟩
  case reset =>
    intro p i s hs hi hreceiver hidle
    refine Completes.dictOk (only_mbResetAct p i) rfl hs (by decide) (by decide) fun u hu _ => ⟨u.mbReset i,
      guardAct_ok (guard_nil (by simp [hu.rn, hreceiver])), fun w hw ha => ?_⟩
    obtain ⟨l, hreset⟩ := State.mbReset_idle ((congrArg Mbox.waiting (hu.mbox i)).trans hidle)
    have honly : Only [.regs, .nodes, .sdio, .pcie] (u.mbEmptied i) (u.mbReset i) :=
      hreset ▸ .foldl (.refl _ _) fun v n hv => hv.trans (only_notify v i n)
    have hrn {a : Nat} (ha : a < 256 ∧ a ≠ 0x0F) : w.rn (mb i a) = (u.mbEmptied i).rn (mb i a) := by
      rw [hw.rn, hreset]
      exact rn_ofrd (foldl_rel (fun v t : State => t.rd (mb i a) = v.rd (mb i a)) (fun _ => rfl)
        (fun _ _ _ h g => g.trans h) _ (fun v n => v.rd_notify_mb i n hi ha) l _)
    obtain ⟨hprod, hcons, hlock⟩ := u.positions_mbEmptied i
    refine ⟨ha, ?_, (hrn (by decide)).trans hprod, (hrn (by decide)).trans hcons, (hrn (by decide)).trans hlock, ?_⟩
    · rw [hw.mbox, honly.mboxEq (by decide), State.mbox_mbEmptied]
      rfl
    · rw [hrn (by decide), State.aborted_mbEmptied, hu.rn, hu.mbUnread]
  case receiver =>
    intro p i v s hs hempty hfree hidle hmin hmax
    refine Completes.dictReg rfl hs (by decide) (by decide) (fun u hu => guardAct_ok (guard_nil ?_)) (by omega)
      fun t ha hset hkeep => ⟨ha, hset, hkeep⟩
    simpa [hu.mbUsed, hempty, hu.rn, hfree, hu.mbox, hidle] using ⟨Nat.ne_of_gt hmin, hmax⟩

end Sys2Proof.Machine
end

section
/-! PROOF. The SDIO function (11 R374, R375, R377 to R379). -/

namespace Sys2Proof.Machine

/-! The bytes of function 1 (Table 11.9) -/

section
variable {s : State} {a : Nat}

theorem State.sdioByte_window (h : a < 0x18) : s.sdioByte a = ((s.path .sdio).regBytes.drop a).headD 0 := if_pos h

theorem State.sdioByte_intPend (s : State) : s.sdioByte 0x20 = s.sdio.intPend := rfl
theorem State.sdioByte_intEn (s : State) : s.sdioByte 0x28 = s.sdio.intEn := rfl
theorem State.sdioByte_mbsel (s : State) : s.sdioByte 0x30 = s.sdio.mbsel := rfl

theorem State.sdioByte_data (h : 0x1000 ≤ a ∧ a < 0x2000) :
    s.sdioByte a = ((s.path .sdio).data.drop (a - 0x1000)).headD 0 := by
  unfold State.sdioByte
  rw [if_neg (by omega), if_neg (by omega), if_neg (by omega), if_neg (by omega), if_pos h]

theorem State.sdioByte_ring (h : 0x10000 ≤ a ∧ a < 0x14000) :
    s.sdioByte a = (s.mbox s.sdio.mbsel.toNat).ring.rd (a - 0x10000) := by
  unfold State.sdioByte
  rw [if_neg (by omega), if_neg (by omega), if_neg (by omega), if_neg (by omega), if_neg (by omega), if_pos h]

theorem State.sdioByte_reserved (hwindow : 0x18 ≤ a) (hregs : a ≠ 0x20 ∧ a ≠ 0x28 ∧ a ≠ 0x30)
    (hdata : a < 0x1000 ∨ 0x2000 ≤ a) (hring : a < 0x10000 ∨ 0x14000 ≤ a) : s.sdioByte a = 0 := by
  unfold State.sdioByte
  rw [if_neg (by omega), if_neg hregs.1, if_neg hregs.2.1, if_neg hregs.2.2, if_neg (by omega), if_neg (by omega)]

theorem State.sdioStore_reg (b : Byte) (h : a < 0x10) : s.sdioStore a b = s.updPath .sdio fun q => q.putReg a [b] :=
  if_pos h

theorem State.sdioStore_data (b : Byte) (h : 0x1000 ≤ a ∧ a < 0x2000) :
    s.sdioStore a b = s.updPath .sdio fun q => { q with data := putBytes q.data (a - 0x1000) [b] } := by
  unfold State.sdioStore
  rw [if_neg (by omega), if_neg (by omega), if_neg (by omega), if_neg (by omega), if_pos h]

theorem sdioWindow_iff : sdioWindow a = true ↔ a < 0x10 ∨ 0x1000 ≤ a ∧ a < 0x2000 := by
  simp only [sdioWindow, Bool.or_eq_true, Bool.and_eq_true, decide_eq_true_eq]

end

/-! One write of several bytes -/

section
variable {s : State} {l : List (Nat × Byte)}

/-- The bytes l stored one after the other. -/
def State.sdioStores (s : State) (l : List (Nat × Byte)) : State := l.foldl (fun s e => s.sdioStore e.1 e.2) s

theorem State.only_sdioStores (s : State) (l : List (Nat × Byte)) : Only [.paths, .sdio] s (s.sdioStores l) :=
  .foldl (.refl _ _) fun u e hu => hu.trans (only_sdioStore u e.1 e.2)

/-- A free window takes every byte; byte 0 of CTL then starts the operation (R375, R378). -/
theorem State.sdioWrite_free (hfree : (s.path .sdio).op = none) :
    s.sdioWrite l =
      if l.any (fun e => decide (e.1 = 8)) then (s.sdioStores l).windowOp .sdio else s.sdioStores l := by
  simp only [State.sdioWrite, hfree, Option.isSome_none, Bool.false_and, Bool.not_false, List.filter_true,
    Bool.false_eq_true, if_false]
  rfl

/-- A busy window drops its part of the write and counts it once. -/
theorem State.sdioWrite_busy (hbusy : (s.path .sdio).op.isSome = true) (hhits : l.any (fun e => sdioWindow e.1) = true) :
    s.sdioWrite l = (s.sdioStores (l.filter fun e => !sdioWindow e.1)).bump32 rWinOverrun := by
  simp only [State.sdioWrite, hbusy, hhits, Bool.true_and, if_true]
  rfl

/-- A byte outside the window is stored whether the window is busy or not. -/
theorem State.sdioWrite_outside {a : Nat} (v : Byte) (h : sdioWindow a = false) :
    s.sdioWrite [(a, v)] = s.sdioStore a v := by
  have hctl : a ≠ 8 := by rintro rfl; cases h
  simp [State.sdioWrite, h, hctl]

theorem State.overruns_sdioWrite_busy (hbusy : (s.path .sdio).op.isSome = true)
    (hhits : l.any (fun e => sdioWindow e.1) = true) :
    (s.sdioWrite l).rn rWinOverrun = min (s.rn rWinOverrun + 1) (2 ^ 32 - 1) := by
  rw [State.sdioWrite_busy hbusy hhits, State.rn_bump32, (State.only_sdioStores _ _).rnEq (by decide)]

/-- A write of one byte to a busy window is dropped and counted. -/
theorem State.sdioWrite_dropped {a : Nat} (v : Byte) (hbusy : (s.path .sdio).op.isSome = true)
    (h : sdioWindow a = true) : s.sdioWrite [(a, v)] = s.bump32 rWinOverrun := by
  rw [State.sdioWrite_busy hbusy (by simp [h]), List.filter_cons_of_neg (by simp [h])]
  rfl

/-- A write of one byte other than byte 0 of CTL to a free window is stored. -/
theorem State.sdioWrite_one {a : Nat} (v : Byte) (hfree : (s.path .sdio).op = none) (h : a ≠ 8) :
    s.sdioWrite [(a, v)] = s.sdioStore a v :=
  (State.sdioWrite_free hfree).trans (if_neg (by simp [h]))

end

/-! The commands -/

/-- The addresses of a CMD53 of `count` bytes from a (R378). -/
def cmd53Places (a count : Nat) (incr : Bool) : List Nat := (List.range count).map fun i => if incr then a + i else a

/-- The state in which a CMD53 transfer is in progress. -/
def State.transferring (s : State) : State := s.put_sdio { s.sdio with xfer := true }

section
variable {s : State} (hclk : s.boot.refclk = true)
include hclk

theorem exec_cmd52_read (a : Nat) (v : Byte) :
    exec (.cmd52 false a v) s = .next (s.put_sdio { s.sdio with resp := [s.sdioByte a] }) :=
  congrArg Host.Outcome.next (State.clk_on hclk)

theorem exec_cmd52_write (a : Nat) (v : Byte) : exec (.cmd52 true a v) s = .next (s.sdioWrite [(a, v)]) :=
  congrArg Host.Outcome.next (State.clk_on hclk)

theorem exec_cmd53_read (a count : Nat) (incr : Bool) (d : Bytes) :
    exec (.cmd53 false a incr count d) s =
      .next (s.put_sdio { s.sdio with xfer := true, resp := (cmd53Places a count incr).map s.sdioByte }) := by
  refine congrArg Host.Outcome.next ((State.clk_on hclk).trans ?_)
  rw [cmd53Places, List.map_map]
  rfl

theorem exec_cmd53_write (a count : Nat) (incr : Bool) (d : Bytes) :
    exec (.cmd53 true a incr count d) s = .next (s.transferring.sdioWrite ((cmd53Places a count incr).zip d)) :=
  congrArg Host.Outcome.next (State.clk_on hclk)

end

/-! RES -/

/-- From s to t the SDIO function has at most been given a notice (R390). -/
def State.SdioNoticed (s t : State) : Prop :=
  t.sdio = s.sdio ∨ t.sdio = { s.sdio with intPend := s.sdio.intPend ||| 4 }

namespace State.SdioNoticed

theorem refl (s : State) : s.SdioNoticed s := .inl rfl

theorem trans {s t u : State} (h : s.SdioNoticed t) (g : t.SdioNoticed u) : s.SdioNoticed u := by
  unfold State.SdioNoticed at *
  rcases h with h | h
  · rwa [h] at g
  · rw [h] at g
    refine .inr (g.elim id fun g => ?_)
    rw [g]
    simp only [BitVec.or_assoc, BitVec.or_self]

theorem of {W : List Part} {s t : State} (h : Only W s t) (hw : W.contains .sdio = false) : s.SdioNoticed t :=
  .inl (h.same .sdio hw)

theorem foldl {α : Type} (f : State → α → State) (h : ∀ (s : State) a, s.SdioNoticed (f s a)) (l : List α) (s : State) :
    s.SdioNoticed (l.foldl f s) := foldl_rel State.SdioNoticed refl (fun _ _ _ => trans) f h l s

theorem noticeLocal (s : State) (n d m : Nat) : s.SdioNoticed (s.noticeLocal n d m) := by
  unfold State.noticeLocal
  extract_lets u
  have hu : u.sdio = s.sdio := State.sdio_wn _ _ _
  clear_value u
  split
  · exact .inl (((only_raise _ _).same .sdio (by decide)).trans hu)
  · split
    · exact .inr (by rw [← hu])
    · exact .inl hu

theorem notify (s : State) (i n : Nat) : s.SdioNoticed (s.notify i n) := by
  unfold State.notify
  split
  · exact noticeLocal _ _ _ _
  · split
    · exact .of (only_sendMsg _ _) (by decide)
    · exact .of (only_bump32 _ _) (by decide)

theorem mbReset (s : State) (i : Nat) : s.SdioNoticed (s.mbReset i) := by
  unfold State.mbReset
  extract_lets l u c x
  have hu : s.SdioNoticed u := by
    unfold u
    split
    · exact .of (only_finish _ _ _ _ _) (by decide)
    · exact refl s
  have hx : u.SdioNoticed x := .inl rfl
  exact (hu.trans hx).trans (foldl _ (fun v n => notify v i n) _ x)

theorem resetPath (s : State) (n : Nat) : s.SdioNoticed (s.resetPath n) := by
  unfold State.resetPath
  extract_lets u v
  have hu : s.SdioNoticed u := (of (only_abortOp s n) (by decide)).trans (.of (only_updPathN _ _ _) (by decide))
  have hv : u.SdioNoticed v := (of (only_clearBank u n) (by decide)).trans (.of (only_breakLocks _ _) (by decide))
  refine (hu.trans hv).trans (foldl _ (fun w i => ?_) _ v)
  split
  · exact mbReset w i
  · exact refl w

end State.SdioNoticed

/-- Settles O44: reads by the byte that an address holds, writes by whether the window is busy, and RES by the notices
    that the reset of the path can leave. -/
theorem sdioFunction : Obligations.SdioFunction := by
  refine ⟨?cmd5, ?cmd11, ?cmd19, ?read, ?write, ?reads, ?writes, ?abort, ?res, ?intPend⟩
  case cmd5 => exact fun s => ⟨_, rfl, Only.set_sdio s _, rfl⟩
  case cmd11 => exact fun s => ⟨_, rfl, Only.set_sdio s _, rfl⟩
  case cmd19 => exact fun s => ⟨_, rfl, Only.set_sdio s _, rfl⟩
  case read =>
    intro a v s hclk
    refine ⟨_, exec_cmd52_read hclk a v, (Only.set_sdio s _).mono (by decide), rfl, rfl, rfl, s.sdioByte a, rfl,
      State.sdioByte_window, ?_, ?_, ?_, fun hlo hhi => State.sdioByte_data ⟨hlo, hhi⟩,
      fun hlo hhi => State.sdioByte_ring ⟨hlo, hhi⟩,
      fun hwindow hpend hen hsel hdata hring => State.sdioByte_reserved hwindow ⟨hpend, hen, hsel⟩ hdata hring⟩
    · rintro rfl; exact s.sdioByte_intPend
    · rintro rfl; exact s.sdioByte_intEn
    · rintro rfl; exact s.sdioByte_mbsel
  case write =>
    intro a v s hclk
    refine Completes.of (only_execCmd52 true a v s) (exec_cmd52_write hclk a v) (by decide)
      ⟨?_, ?_, ?_, fun hwindow hbusy => ?_, fun hreg hctl hfree => ?_, ?_, fun hlo hhi hfree => ?_⟩
    · rintro rfl; rw [State.sdioWrite_outside v rfl]; exact ⟨rfl, rfl, rfl⟩
    · rintro rfl; rw [State.sdioWrite_outside v rfl]; exact ⟨rfl, rfl, rfl⟩
    · rintro rfl; rw [State.sdioWrite_outside v rfl]; exact ⟨rfl, rfl, rfl⟩
    · rw [State.sdioWrite_dropped v hbusy (sdioWindow_iff.mpr hwindow)]
      exact ⟨rfl, rfl, State.rn_bump32 _ _⟩
    · rw [State.sdioWrite_one v hfree hctl, State.sdioStore_reg v hreg]
      exact ⟨State.path_updPath _ _ _, rfl, rfl⟩
    · rintro rfl hfree
      exact (State.sdioWrite_free hfree).trans (if_pos rfl)
    · rw [State.sdioWrite_one v hfree (by omega), State.sdioStore_data v ⟨hlo, hhi⟩]
      exact ⟨State.path_updPath _ _ _, rfl, rfl⟩
  case reads =>
    intro a count incr d s hclk
    refine ⟨_, exec_cmd53_read hclk a count incr d, (Only.set_sdio s _).mono (by decide), rfl, rfl, rfl, rfl, ?_,
      fun i hi => ?_⟩
    · change ((cmd53Places a count incr).map s.sdioByte).length = count
      simp [cmd53Places]
    · have hbyte : ((cmd53Places a count incr).map s.sdioByte).getD i 0 = s.sdioByte (if incr then a + i else a) := by
        simp [cmd53Places, List.getD_eq_getElem?_getD, hi]
      rw [exec_cmd52_read hclk, ← hbyte]
      rfl
  case writes =>
    intro a count incr d s hclk
    refine Completes.of (only_execCmd53 true a incr count d s) (exec_cmd53_write hclk a count incr d) (by decide)
      ⟨fun hhits hbusy => ?_, fun hfree hctl => ?_, fun hfree hctl => ?_⟩
    · exact State.overruns_sdioWrite_busy (s := s.transferring) hbusy hhits
    · exact (State.sdioWrite_free (s := s.transferring) hfree).trans (if_neg (Bool.eq_false_iff.mp hctl))
    · exact (State.sdioWrite_free (s := s.transferring) hfree).trans (if_pos hctl)
  case abort => exact fun s => ⟨_, rfl, Only.set_sdio s _, rfl⟩
  case res =>
    intro s hclk
    have hx : exec .sdioRes s = .next ((s.put_sdio .reset).resetPath 2) := congrArg Host.Outcome.next (State.clk_on hclk)
    obtain ⟨-, hsession, hblobs, hattest⟩ := State.resetPath_is (s.put_sdio .reset) 2 (by decide)
    refine Completes.of (only_execSdioRes s) hx (by decide) ⟨?_, hsession, hblobs, hattest⟩
    rcases State.SdioNoticed.resetPath (s.put_sdio .reset) 2 with hquiet | hnotice
    · exact ⟨0, hquiet, by decide⟩
    · exact ⟨0 ||| 4, hnotice, by decide⟩
  case intPend =>
    intro v s hclk
    exact ⟨_, congrArg Host.Outcome.next (State.clk_on hclk), only_sdioStore s 0x20 v, rfl, rfl⟩

end Sys2Proof.Machine
end

section
/-! PROOF. The PCIe function of the host: its resets, BAR0, BAR2, WINBASE and MSI-X (11 R356 to R366, R487). -/

namespace Sys2Proof.Machine

/-! Resets of the function and the link (R359, R360) -/

/-- While the host takes requests, or while nothing is staged for it and nothing closes, nothing is dropped (R359). -/
theorem State.hostLost_idle {s : State} (h : s.hostOk = true ∨
    (s.hrings = [] ∧ s.pcie.wait = [] ∧ (s.conns.all fun e => decide (e.2.state ≠ .closing)) = true)) :
    s.hostLost = s := by
  unfold State.hostLost
  rcases h with hok | ⟨hrings, hwait, hidle⟩
  · exact if_pos hok
  · split
    · rfl
    · extract_lets l off u
      have hl : l = [] := by unfold l; rw [hrings, hwait]; rfl
      have hmap : s.hrings.map (fun (e : Nat × HRing) => (e.1, { e.2 with staged := [] })) = s.hrings := by
        rw [hrings]
        rfl
      have hpcie : ({ s.pcie with wait := [] } : Pcie) = s.pcie := by rw [← hwait]
      have hu : u = s := by
        unfold u
        rw [State.mk_hrings_pcie, hmap, hpcie]
        rfl
      rw [hl, hu]
      exact State.closeCheck_idle hidle

theorem State.rn_showLink (s : State) (up : Bool) {speed width : Nat} (hs : speed < 2 ^ 64) (hw : width < 2 ^ 64) :
    (s.showLink up speed width).rn (rk 0 0x3001 2) = (if up then speed else 0) ∧
      (s.showLink up speed width).rn (rk 0 0x3001 3) = (if up then width else 0) := by
  refine ⟨?_, State.rn_wn_lt _ _ (by split <;> omega)⟩
  rw [State.showLink, State.rn_wn_ne _ _ (rk_sub (by decide) (by decide) (by decide)),
    State.rn_wn_lt _ _ (by split <;> omega)]

/-- The state of the function and of the link as the host sets them (R359). -/
def State.hostSets (s : State) (bme d3 up : Bool) (speed width : Nat) : State :=
  (s.put_pcie { s.pcie with bme := bme, d3 := d3, link := up, training := s.pcie.training && !up }).showLink up speed width

theorem State.pcie_hostSets (s : State) (bme d3 up : Bool) (speed width : Nat) : (s.hostSets bme d3 up speed width).pcie =
    { s.pcie with bme := bme, d3 := d3, link := up, training := s.pcie.training && !up } :=
  (only_showLink _ _ _ _).same .pcie (by decide)

theorem State.link_hostSets (s : State) (bme d3 up : Bool) {speed width : Nat} (hs : speed < 2 ^ 64)
    (hw : width < 2 ^ 64) : (s.hostSets bme d3 up speed width).rn (rk 0 0x3001 2) = (if up then speed else 0) ∧
      (s.hostSets bme d3 up speed width).rn (rk 0 0x3001 3) = (if up then width else 0) :=
  State.rn_showLink _ up hs hw

/-- While nothing is dropped, the state is set, and leaving D3hot wakes the PCIE domain. -/
theorem exec_busMasterEnableChange {s : State} {bme d3 link up : Bool} {speed width : Byte}
    (hclk : s.boot.refclk = true) (hup : (link && !s.pcie.perst && s.domUp 77) = up)
    (hlost : (s.hostSets bme d3 up speed.toNat width.toNat).hostLost = s.hostSets bme d3 up speed.toNat width.toNat) :
    exec (.busMasterEnableChange bme d3 link speed width) s =
      .next (if s.pcie.d3 && !d3 then (s.hostSets bme d3 up speed.toNat width.toNat).wake 77 4
        else s.hostSets bme d3 up speed.toNat width.toNat) := by
  subst hup
  exact congrArg Host.Outcome.next ((State.clk_on hclk).trans
    (congrArg (fun u : State => if s.pcie.d3 && !d3 then u.wake 77 4 else u) hlost))

/-- The host side has ended, its rings and connections with it, and the PCIe path is reset (R360). -/
def State.hostEnded (s : State) : State := ((s.put_pcie { s.pcie with bme := false }).hostLost.hostDetach).resetPath 1

/-- What a reset of the function, by PERST# or not, leaves of its own state. -/
def Pcie.functionReset (p : Pcie) (perst : Bool) : Pcie :=
  { p with
    d3 := false, msixEn := false, msixMask := false, table := [], heldRd := [], cfg := .reset,
    perst := p.perst || perst, link := p.link && !perst, training := p.training && !perst }

/-- PERST# ends the link. -/
theorem Pcie.functionReset_perst (p : Pcie) : (p.functionReset true).perst = true ∧
    (p.functionReset true).link = false ∧ (p.functionReset true).training = false :=
  ⟨Bool.or_true _, Bool.and_false _, Bool.and_false _⟩

/-- The function is reset, and a link that PERST# ends is shown as down. -/
def State.functionReset (s : State) (perst : Bool) : State :=
  let u := s.put_pcie (s.pcie.functionReset perst)
  if perst then u.showLink false 0 0 else u

theorem State.only_functionReset (s : State) (perst : Bool) : Only [.regs, .pcie] s (s.functionReset perst) :=
  .ite (.chain (only_showLink _ _ _ _) (by decide) ((Only.set_pcie s _).mono (by decide)))
    ((Only.set_pcie s _).mono (by decide))

theorem State.pcie_functionReset (s : State) (perst : Bool) :
    (s.functionReset perst).pcie = s.pcie.functionReset perst := by
  cases perst with
  | true => exact (only_showLink _ _ _ _).same .pcie (by decide)
  | false => rfl

theorem State.link_functionReset (s : State) :
    (s.functionReset true).rn (rk 0 0x3001 2) = 0 ∧ (s.functionReset true).rn (rk 0 0x3001 3) = 0 :=
  State.rn_showLink (s.put_pcie (s.pcie.functionReset true)) false (speed := 0) (width := 0) (by decide) (by decide)

/-- WINBASE cleared, and the reset counted with the n messages and descriptors that it discarded. -/
def State.resetCounted (s : State) (n : Nat) : State :=
  ((s.wn rWinbase 0).bump32 (rk 0 0x3002 4)).bumpBy 64 (rk 0 0x3002 5) n

theorem State.rn_resetCounted (s : State) (n : Nat) {sub : Nat} (h : sub < 256 ∧ sub ≠ 1) :
    (s.resetCounted n).rn (rk 0 0x3001 sub) = s.rn (rk 0 0x3001 sub) := by
  rw [State.resetCounted, State.rn_bumpBy_ne _ _ _ (rk_idx h.1 (by decide) (by decide)), State.bump32,
    State.rn_bumpBy_ne _ _ _ (rk_idx h.1 (by decide) (by decide)),
    State.rn_wn_ne _ _ (show rk 0 0x3001 sub ≠ rWinbase from rk_sub h.1 (by decide) h.2)]

theorem State.winbase_resetCounted (s : State) (n : Nat) : (s.resetCounted n).rn rWinbase = 0 := by
  rw [State.resetCounted, State.rn_bumpBy_ne _ _ _ (by decide), State.bump32, State.rn_bumpBy_ne _ _ _ (by decide),
    State.rn_wn_lt _ _ (by decide)]

theorem exec_pcieFlr {s : State} (perst : Bool) (hclk : s.boot.refclk = true) :
    ∃ n, exec (.pcieFlr perst) s = .next ((s.hostEnded.functionReset perst).resetCounted n) := by
  refine ⟨(s.put_pcie { s.pcie with bme := false }).hostLoad, congrArg Host.Outcome.next ((State.clk_on hclk).trans ?_)⟩
  extract_lets off u n v off' reset shown
  have hended : v = s.hostEnded := rfl
  have hreset : reset = v.put_pcie (v.pcie.functionReset perst) := rfl
  have hshown : shown = s.hostEnded.functionReset perst := by
    unfold shown
    rw [hreset, hended]
    rfl
  rw [hshown]
  rfl

/-! Reads of BAR0 -/

theorem State.pcie_complete (s : State) (d : Bytes) (bad : Bool) :
    (s.complete d bad).pcie = { s.pcie with cpl := d, poisoned := bad } := by
  unfold State.complete
  split <;> rfl

section
variable {s : State} {off n : Nat} (hclk : s.boot.refclk = true)
include hclk

theorem exec_bar0Read_value {d : Bytes} (h : (if bar0Aligned off n then s.bar0Value off n else none) = some d) :
    exec (.bar0Read off n) s = .next (s.complete d false) := by
  refine congrArg Host.Outcome.next ((State.clk_on hclk).trans ?_)
  rw [h]

theorem exec_bar0Read_miss (h : (if bar0Aligned off n then s.bar0Value off n else none) = none) :
    exec (.bar0Read off n) s = .next ((s.bump rBar0Miss).complete (List.replicate n 0) false) := by
  refine congrArg Host.Outcome.next ((State.clk_on hclk).trans ?_)
  rw [h]

end

/-! Reads and writes of BAR2 -/

/-- An access within one granule. -/
theorem granules_within {a n : Nat} (hn : 0 < n) (h : a % 64 + n ≤ 64) : granules a n = [a / 64 * 64] := by
  have hone : (a + n - 1) / 64 - a / 64 + 1 = 1 := by omega
  simp only [granules, hone, if_neg (Nat.ne_of_gt hn), List.range_one, List.map_cons, List.map_nil, Nat.add_zero]

section
variable {s : State} {a x y : Nat} {data : Bytes} (hne : data ≠ []) (hfits : a % 64 + data.length ≤ 64)
  (hplace : s.placeOf a = .lp x)
include hne hfits hplace

theorem windowParts_lp : windowParts s a data = [] := by
  have hlo : max a (a / 64 * 64 / 0x20000 * 0x20000) = a := by omega
  have hwin : [a / 64 * 64].foldl (fun (l : List Nat) g => addNew (g / 0x20000) l) [] = [a / 64 * 64 / 0x20000] := rfl
  simp only [windowParts, granules_within (List.length_pos_of_ne_nil hne) hfits, hwin, List.filterMap_cons,
    List.filterMap_nil, hlo, hplace]

/-- A posted write within one granule of LPDDR5X writes its bytes there and nothing else. -/
theorem State.postWrite_lp (hgranule : s.placeOf (a / 64 * 64) = .lp y) :
    s.postWrite a data = s.put_lpddr (s.lpddr.wrBytes x data) := by
  have hgran := granules_within (List.length_pos_of_ne_nil hne) hfits
  have hplaces : s.places a data.length = [.lp y] := by
    rw [State.places, hgran, List.map_singleton, hgranule]
  have hcount : s.countWrite [.lp y] = s := rfl
  have hall : data.take (a / 64 * 64 + 64 - a) = data := List.take_of_length_le (by omega)
  have hpoke : State.pokeGranules [a / 64 * 64] a data s = s.put_lpddr (s.lpddr.wrBytes x data) := by
    simp only [State.pokeGranules, hall, State.pokeFlat, hplace]
    rfl
  simp only [State.postWrite, hplaces]
  refine (if_neg Bool.false_ne_true).trans ?_
  simp only [State.writeSpace, hplaces, hcount, hgran, hpoke, windowParts_lp hne hfits hplace, List.foldl_nil]

end

/-- A posted write that a place holds waits under a new identity (R487). -/
theorem State.postWrite_held {s : State} {a : Nat} {data : Bytes} (h : holds (s.places a data.length) = true) :
    s.postWrite a data = (s.holdAccess (s.places a data.length)).put_pcie_ids
      { s.pcie with held := s.pcie.held ++ [(s.ids + 1, a, data)] } (s.ids + 1) := by
  have honly := only_holdAccess s (s.places a data.length)
  have hpcie : (s.holdAccess (s.places a data.length)).pcie = s.pcie := honly.same .pcie (by decide)
  have hids : (s.holdAccess (s.places a data.length)).ids = s.ids := honly.same .ids (by decide)
  rw [← hpcie, ← hids]
  exact if_pos h

section
variable {s : State} (hclk : s.boot.refclk = true)
include hclk

theorem exec_bar2Read_early (off n : Nat) (ecc : Ecc) (hstage : s.boot.stage ≠ .noon) :
    exec (.bar2Read off n ecc) s = .next ((s.bump rAddrMiss).complete (List.replicate n 0) false) :=
  congrArg Host.Outcome.next ((State.clk_on hclk).trans (if_pos hstage))

theorem exec_bar2Read_held {off n : Nat} (ecc : Ecc) (hstage : s.boot.stage = .noon)
    (hheld : holds (s.placesRd (s.rn rWinbase + off) n) = true) :
    exec (.bar2Read off n ecc) s = .next ((s.holdAccess (s.placesRd (s.rn rWinbase + off) n)).put_pcie
      { s.pcie with heldRd := s.pcie.heldRd ++ [(s.rn rWinbase + off, n, ecc)] }) := by
  have hpcie : (s.holdAccess (s.placesRd (s.rn rWinbase + off) n)).pcie = s.pcie :=
    (only_holdAccess _ _).same .pcie (by decide)
  rw [← hpcie]
  exact congrArg Host.Outcome.next ((State.clk_on hclk).trans ((if_neg (not_not.mpr hstage)).trans (if_pos hheld)))

theorem exec_bar2Read_free {off n : Nat} (ecc : Ecc) (hstage : s.boot.stage = .noon)
    (hfree : holds (s.placesRd (s.rn rWinbase + off) n) = false) :
    exec (.bar2Read off n ecc) s = .next ((s.readEcc (s.rn rWinbase + off) n ecc).2.complete
      (s.readEcc (s.rn rWinbase + off) n ecc).1.1 (s.readEcc (s.rn rWinbase + off) n ecc).1.2) :=
  congrArg Host.Outcome.next ((State.clk_on hclk).trans ((if_neg (not_not.mpr hstage)).trans
    (if_neg (Bool.eq_false_iff.mp hfree))))

theorem exec_bar2Write_early (off : Nat) (data : Bytes) (hstage : s.boot.stage ≠ .noon) :
    exec (.bar2Write off data) s = .next (s.bump rAddrMiss) :=
  congrArg Host.Outcome.next ((State.clk_on hclk).trans (if_pos hstage))

theorem exec_bar2Write_noon (off : Nat) (data : Bytes) (hstage : s.boot.stage = .noon) :
    exec (.bar2Write off data) s = .next (s.postWrite (s.rn rWinbase + off) data) :=
  congrArg Host.Outcome.next ((State.clk_on hclk).trans (if_neg (not_not.mpr hstage)))

end

/-! MSI-X -/

/-- A vector that can be sent goes out as one message (R366). -/
theorem State.raise_sends {s : State} {v : Nat} (hv : v ≤ 255) (hok : s.hostOk = true) (hup : s.domUp 77 = true)
    (hmask : s.vecMasked v = false) :
    s.raise v = s.put_pcie { s.pcie with sent := Tab.upd 0 s.pcie.sent v (· + 1) } := by
  unfold State.raise
  rw [if_neg (Nat.not_lt.mpr hv), hok, hup, hmask]
  rfl

/-- Settles O42: each command by the branch that its hypotheses leave, a reset of the function by what follows the reset of
    its path. -/
theorem hostInterface : Obligations.HostInterface := by
  refine ⟨?reset, ?busMaster, ?winbase, ?winbaseOk, ?winbaseBad, ?bar0Read, ?bar2Read, ?bar2Write, ?unsupported, ?pending⟩
  case reset =>
    intro perst s hclk
    obtain ⟨n, hx⟩ := exec_pcieFlr perst hclk
    obtain ⟨-, hsession, hblobs, hattest⟩ :=
      State.resetPath_is (s.put_pcie { s.pcie with bme := false }).hostLost.hostDetach 1 (by decide)
    have hpcie : ((s.hostEnded.functionReset perst).resetCounted n).pcie = s.hostEnded.pcie.functionReset perst :=
      State.pcie_functionReset _ perst
    have hpath : ((s.hostEnded.functionReset perst).resetCounted n).path .pcie = s.hostEnded.pathN 1 :=
      (State.only_functionReset s.hostEnded perst).pathEq (by decide) 1
    refine Completes.of (only_execPcieFlr perst s) hx (by decide) ⟨State.winbase_resetCounted _ _, ?_⟩
    rw [hpcie, hpath]
    refine ⟨rfl, rfl, rfl, rfl, rfl, rfl, ?_, hsession, hblobs, hattest⟩
    rintro rfl
    rw [State.rn_resetCounted _ _ (by decide), State.rn_resetCounted _ _ (by decide)]
    obtain ⟨hperst, hlink, htraining⟩ := s.hostEnded.pcie.functionReset_perst
    exact ⟨hperst, hlink, htraining, s.hostEnded.link_functionReset⟩
  case busMaster =>
    intro bme d3 link speed width s hclk hidle
    have hspeed : speed.toNat < 2 ^ 64 := by omega
    have hwidth : width.toNat < 2 ^ 64 := by omega
    generalize hup : (link && !s.pcie.perst && s.domUp 77) = up at hidle
    have hlost : (s.hostSets bme d3 up speed.toNat width.toNat).hostLost = s.hostSets bme d3 up speed.toNat width.toNat :=
      State.hostLost_idle (hidle.imp (fun ⟨hbme, hd3, hlink⟩ => by subst hbme hd3 hlink; rfl) id)
    have hx := exec_busMasterEnableChange hclk hup hlost
    have hpcie := s.pcie_hostSets bme d3 up speed.toNat width.toNat
    have hlink := s.link_hostSets bme d3 up hspeed hwidth
    refine Completes.of (only_execBusMasterEnableChange bme d3 link speed width s) hx (by decide) ?_
    extract_lets up'
    split
    · refine ⟨((only_wake _ _ _).same .pcie (by decide)).trans hpcie, ?_, ?_⟩
      · exact (rn_ofrd (State.rd_wake _ _ _ _ (by decide))).trans hlink.1
      · exact (rn_ofrd (State.rd_wake _ _ _ _ (by decide))).trans hlink.2
    · exact ⟨hpcie, hlink⟩
  case winbase =>
    intro v s hclk
    have hx : exec (.winbaseWrite .bar0 v) s = .next (if badWinbase v.toNat then s.bump rBar0Miss else s.wr rWinbase v) :=
      congrArg Host.Outcome.next (State.clk_on hclk)
    refine ⟨_, hx, .ite (only_bump _ _) (only_wr _ _ _), fun hgood => ?_, fun hbad => ?_⟩
    · rw [if_neg (Bool.eq_false_iff.mp hgood)]
      exact ⟨State.rd_wr_same _ _ _, fun k hk => State.rd_wr_ne _ _ hk⟩
    · rw [if_pos hbad]
      exact ⟨State.rn_bump _ _, fun k hk => State.rd_bumpBy_ne _ _ _ hk⟩
  case winbaseOk =>
    intro p v s hs hgood
    refine Completes.dictOk (only_winbaseAct v.toNat) rfl hs (by decide) (by decide) fun u _ _ =>
      ⟨_, guardAct_ok (guard_nil (by simpa using hgood)), fun w hw ha => ⟨ha, ?_⟩⟩
    rw [hw.rd, State.rd_wn_same]
    exact (BitVec.ofNat_toNat 64 v).trans (BitVec.setWidth_eq v)
  case winbaseBad =>
    intro p v s hs hbad
    refine Completes.dictRefuse rfl hs (by decide) rfl (fun u _ => ?_) fun w ha => ha
    rw [winbaseAct, hbad]
    exact guardAct_one .range _ _ (by decide)
  case bar0Read =>
    intro off n s hclk
    cases hvalue : if bar0Aligned off n then s.bar0Value off n else none with
    | some d =>
      exact Completes.of (only_execBar0Read off n s) (exec_bar0Read_value hclk hvalue) (by decide)
        ⟨rfl, s.pcie_complete d false⟩
    | none =>
      exact Completes.of (only_execBar0Read off n s) (exec_bar0Read_miss hclk hvalue) (by decide)
        ⟨State.pcie_complete _ _ _, State.rn_bump s rBar0Miss⟩
  case bar2Read =>
    intro off n ecc s hclk
    by_cases hstage : s.boot.stage = .noon
    · cases hheld : holds (s.placesRd (s.rn rWinbase + off) n) with
      | true =>
        exact Completes.of (only_execBar2Read off n ecc s) (exec_bar2Read_held hclk ecc hstage hheld) (by decide)
          ⟨fun h => absurd hstage h, fun _ _ => rfl, fun _ h => absurd (hheld.symm.trans h) (by decide)⟩
      | false =>
        have hcomplete := (s.readEcc (s.rn rWinbase + off) n ecc).2.pcie_complete
          (s.readEcc (s.rn rWinbase + off) n ecc).1.1 (s.readEcc (s.rn rWinbase + off) n ecc).1.2
        exact Completes.of (only_execBar2Read off n ecc s) (exec_bar2Read_free hclk ecc hstage hheld) (by decide)
          ⟨fun h => absurd hstage h, fun _ h => absurd (hheld.symm.trans h) (by decide),
            fun _ _ => ⟨congrArg Pcie.cpl hcomplete, congrArg Pcie.poisoned hcomplete⟩⟩
    · exact Completes.of (only_execBar2Read off n ecc s) (exec_bar2Read_early hclk off n ecc hstage) (by decide)
        ⟨fun _ => ⟨State.pcie_complete _ _ _, State.rn_bump _ _⟩, fun h => absurd h hstage, fun h => absurd h hstage⟩
  case bar2Write =>
    intro off data s hclk
    by_cases hstage : s.boot.stage = .noon
    · refine Completes.of (only_execBar2Write off data s) (exec_bar2Write_noon hclk off data hstage) (by decide)
        ⟨fun h => absurd hstage h, fun _ hheld => ?_, fun x y _ hne hfits hplace hgranule => ?_⟩
      · have honly := only_holdAccess s (s.places (s.rn rWinbase + off) data.length)
        rw [State.postWrite_held hheld]
        exact ⟨rfl, honly.same .lpddr (by decide), honly.same .cores (by decide), honly.same .tiles (by decide)⟩
      · rw [State.postWrite_lp hne hfits hplace hgranule]
        exact ⟨rfl, rfl, rfl, rfl, rfl⟩
    · exact Completes.of (only_execBar2Write off data s) (exec_bar2Write_early hclk off data hstage) (by decide)
        ⟨fun _ => ⟨State.rn_bump _ _, rfl, rfl, rfl, rfl⟩, fun h => absurd h hstage, fun _ _ h => absurd h hstage⟩
  case unsupported =>
    intro bar s
    refine Completes.of (only_execUnsupportedRequest bar s) (t := if bar = 0 ∨ bar = 2 then _ else _) rfl (by decide) ?_
    split <;> rfl
  case pending =>
    intro v s hclk
    have hx : exec (.msixPendingSend v) s = .next (if Tab.get false s.pcie.pend v then
        (s.put_pcie { s.pcie with pend := Tab.set false s.pcie.pend v false }).raise v else s) :=
      congrArg Host.Outcome.next (State.clk_on hclk)
    refine Completes.of (only_execMsixPendingSend v s) hx (by decide) ⟨fun hnone => ?_, fun hpend hv hok hup hmask => ?_⟩
    · rw [if_neg (Bool.eq_false_iff.mp hnone)]
    · rw [if_pos hpend, State.raise_sends hv (by exact hok) (by exact hup) (by exact hmask)]
      exact ⟨Tab.get_set_same false s.pcie.pend v false, Tab.get_upd_same 0 s.pcie.sent v (· + 1)⟩

end Sys2Proof.Machine
end

section
/-! PROOF. The device reset and the commands that start one (12 R398, R399, R411; 14 R468, R470). -/

namespace Sys2Proof.Machine

theorem causeCode_lt (c : ResetCause) : causeCode c < 4 := by cases c <;> decide

/-- `State.deviceReset` leaves the device right after a device reset (12 R398, 14 R472). -/
theorem State.isResetOf_deviceReset (s : State) (c : ResetCause) (d : BitVec 3) (cc : Bool) :
    s.IsResetOf (s.deviceReset c d cc) c d cc where
  units := by
    refine ⟨fun p hp => ?_⟩
    cases p
    case oneWay => exact .refl _
    any_goals rfl
    all_goals exact absurd hp (by decide)
  cause := State.rn_wn_lt _ _ ((causeCode_lt c).trans (by decide))
  regs _ hk := State.rd_wn_ne _ _ hk
  pcie := rfl
  mon := rfl
  host := ⟨rfl, rfl⟩

/-- A reset command of BOOT.CMD that is accepted: the reset is pending (R399). -/
def State.resetPending (s : State) : State := s.put_boot { s.boot with pending := true }

/-- BOOT.CMD = 1 is refused while stepping runs, a DMA channel works or a swap is in progress (R399). -/
theorem bootResetAct_idle {s : State} (hstop : s.stopped = true)
    (hchans : s.chans.any (fun e => decide (e.2.state = .running) || decide (e.2.state = .stopping)) = false)
    (hswap : s.swap = none) : bootResetAct s = okAct s.resetPending := by
  unfold bootResetAct
  rw [hstop, hchans, hswap]
  exact guardAct_ok (guard_nil rfl)

theorem bootResetAct_stepping {s : State} (hrun : s.stopped = false) : bootResetAct s = .refuse .busy := by
  unfold bootResetAct
  rw [hrun]
  exact guardAct_one .busy _ _ (by decide)

/-- Settles O21: each cause by the reset that it starts, each BOOT.CMD by what its entry does in the opened window. -/
theorem resetCommands : Obligations.ResetCommands := by
  refine ⟨?reset, ?pulse, ?glitch, ?supply, ?dip, ?delay, ?refclk, ?command, ?busy, ?force, ?perst⟩
  case reset => exact fun c d cc s => ⟨_, rfl, s.isResetOf_deviceReset c d cc⟩
  case pulse =>
    intro ns d cc s hlong
    exact ⟨_, congrArg Host.Outcome.next (if_pos hlong), s.isResetOf_deviceReset .pin d cc⟩
  case glitch =>
    intro ns d cc s hshort
    exact congrArg Host.Outcome.next ((if_neg (by omega)).trans (if_pos hshort))
  case supply =>
    intro mv d cc s hlow
    exact ⟨_, congrArg Host.Outcome.next (if_pos hlow), s.isResetOf_deviceReset .supply d cc⟩
  case dip =>
    intro mv d cc s hdip
    exact congrArg Host.Outcome.next (if_neg (by omega))
  case delay =>
    intro d cc s hclk hpending
    exact ⟨_, congrArg Host.Outcome.next ((State.clk_on hclk).trans (if_pos hpending)),
      s.isResetOf_deviceReset .command d cc⟩
  case refclk => exact fun s => Completes.of (only_execRefclkLoss s) rfl (by decide) rfl
  case command =>
    intro p s hs hstop hchans hswap
    refine Completes.dictOk only_bootResetAct rfl hs (by decide) (by decide) fun u hu _ =>
      ⟨_, bootResetAct_idle (hu.stopped.trans hstop) (by rw [hu.chans]; exact hchans) (hu.swap.trans hswap),
        fun w hw ha => ⟨ha, ?_⟩⟩
    rw [hw.boot, State.resetPending, hu.boot]
    rfl
  case busy =>
    intro p s hs hrun
    exact Completes.dictRefuse rfl hs (by decide) rfl
      (fun u hu => bootResetAct_stepping (hu.stopped.trans hrun)) fun w ha => ha
  case force =>
    intro p s hs
    refine Completes.dictOk only_bootForceAct rfl hs (by decide) (by decide) fun u hu _ => ⟨_, rfl, fun w hw ha => ⟨ha, ?_⟩⟩
    rw [hw.boot, ← hu.boot]
  case perst => exact fun s => Completes.of (only_execPerstRelease s) rfl (by decide) rfl

end Sys2Proof.Machine
end

section
/-! PROOF. What every step keeps: the canonical form of the host's memory, and fuses that are only ever blown (12 R405, R432). -/

namespace Sys2Proof.Machine

/-- The commands that may reset the device: every other one has a frame of its own. -/
def Instr.mayReset : Instr → Bool
  | .deviceReset .. | .porstPulse .. | .resetDelayExpire .. | .supplyReset .. => true
  | _ => false

/-- What a step that is no device reset may change: neither the straps nor the form of the host's memory, and fuses only by
    blowing them. -/
def steadyParts : List Part := allParts.filter fun p => !([.straps, .cc, .oneWay, .hostForm] : List Part).contains p

theorem changes_steady {c : Instr} (h : Instr.mayReset c = false) :
    ((changes c).all fun p => steadyParts.contains p) = true := by
  cases c
  case deviceReset | porstPulse | resetDelayExpire | supplyReset => cases h
  all_goals rfl

/-- A command that may reset the device resets it, or draws a free value at most. -/
theorem exec_mayReset {c : Instr} {s t : State} (hc : Instr.mayReset c = true) (h : exec c s = .next t) :
    (∃ k d cc, s.IsResetOf t k d cc) ∨ Only [.free] s t := by
  cases c
  case deviceReset k d cc =>
    cases h
    exact .inl ⟨k, d, cc, s.isResetOf_deviceReset k d cc⟩
  case porstPulse ns d cc =>
    cases h
    split
    · exact .inl ⟨.pin, d, cc, s.isResetOf_deviceReset .pin d cc⟩
    split
    · exact .inr (.refl _ _)
    extract_lets u
    split
    · have hreset := u.isResetOf_deviceReset .pin d cc
      exact .inl ⟨.pin, d, cc, hreset.units, hreset.cause, hreset.regs, hreset.pcie, hreset.mon, hreset.host⟩
    · exact .inr (Only.set_free s _)
  case resetDelayExpire d cc =>
    cases h
    unfold State.clk
    dsimp only
    split
    · split
      · exact .inl ⟨.command, d, cc, s.isResetOf_deviceReset .command d cc⟩
      · exact .inr (.refl _ _)
    · exact .inr (.refl _ _)
  case supplyReset mv d cc =>
    cases h
    split
    · exact .inl ⟨.supply, d, cc, s.isResetOf_deviceReset .supply d cc⟩
    · exact .inr (.refl _ _)
  all_goals cases hc

/-- A step is a tick, or the front command run on the rest of the queue. -/
theorem step_cases {s t : State} (h : step s = .next t) :
    t = s.clockTick ∨ ∃ c q, exec c { s with pending := q } = .next t := by
  unfold step at h
  split at h
  · exact .inl (Host.Outcome.next.inj h).symm
  · exact .inr ⟨_, _, h⟩

/-- From s to t the device has been reset, whatever of the queue has been taken. -/
def State.ResetsTo (s t : State) : Prop := ∃ q c d cc, ({ s with pending := q } : State).IsResetOf t c d cc

/-- Every step is a device reset or stays within `steadyParts`. -/
theorem step_steady {s t : State} (h : step s = .next t) : s.ResetsTo t ∨ Only steadyParts s t := by
  rcases step_cases h with rfl | ⟨c, q, hx⟩
  · exact .inr ((only_clockTick s).mono (by decide))
  · have hpop : Only steadyParts s { s with pending := q } := (Only.set_pending s q).mono (by decide)
    cases hc : Instr.mayReset c with
    | true => exact (exec_mayReset hc hx).imp (fun hreset => ⟨q, hreset⟩) fun ho => hpop.trans (ho.mono (by decide))
    | false =>
      obtain ⟨u, hu, ho⟩ := exec_answers_changes { s with pending := q } c
      cases hx.symm.trans hu
      exact .inr (hpop.trans (ho.mono (changes_steady hc)))

/-- Settles O6: a device reset leaves the host's memory alone, and no other step breaks its form. -/
theorem hostMemoryStaysCanonical : Obligations.HostMemoryStaysCanonical := by
  intro s t h hwf
  rcases step_steady h with ⟨q, c, d, cc, hreset⟩ | ho
  · rw [hreset.host.1]
    exact hwf
  · exact ho.same .hostForm (by decide) hwf

/-- While the customer key hash holds a nonzero byte it stays, and signed-configuration mode with it (R432). -/
theorem Fuses.Blown.signed {s t : State} (h : s.fuses.Blown t.fuses) (hs : s.signedMode = true) : t.signedMode = true := by
  unfold State.signedMode at *
  rw [h.cust hs]
  exact hs

/-- Settles O8: a device reset reads the fuses as they are, and every other step only blows them. -/
theorem fusesAreOnlyBlown : Obligations.FusesAreOnlyBlown := by
  intro s t h
  have hblown : s.fuses.Blown t.fuses := by
    rcases step_steady h with ⟨q, c, d, cc, hreset⟩ | ho
    · rw [show t.fuses = s.fuses from hreset.units.same .fuses (by decide)]
      exact .refl _
    · exact ho.same .oneWay (by decide)
  exact ⟨hblown, hblown.signed⟩

end Sys2Proof.Machine
end

section
/-! PROOF. The boot stages and their time limits, and the order in which BOOT.STAGE moves (12 R397, R400, R401, R404, R406 to
    R408, R413, R414). -/

namespace Sys2Proof.Machine

/-! FAULT (R401) -/

theorem State.boot_bootFault (s : State) (code : Nat) (detail : W64) :
    (s.bootFault code detail).boot = { s.boot with stage := .fault } := (only_post _ _ _ _ _ _).same .boot (by decide)

theorem State.faultCode_bootFault (s : State) {code : Nat} (detail : W64) (hcode : code < 2 ^ 64) :
    (s.bootFault code detail).rn (rBoot 3) = code :=
  (State.rn_post _ _ _ _ _ _ (by decide)).trans (State.rn_wn_lt _ _ hcode)

theorem State.rd_bootFault (s : State) (code : Nat) (detail : W64) {k : Nat} (hk : k ≠ rBoot 3) (hwhy : k / 256 ≠ 0x0111) :
    (s.bootFault code detail).rd k = s.rd k :=
  (State.rd_post _ _ _ _ _ _ hwhy).trans (State.rd_wn_ne _ _ hk)

/-- A record posted from a state with the log, the device number and the timebase of s is posted from s. -/
theorem State.posts_post_of {s : State} (u : State) (hlog : u.log = s.log) (hdev : u.straps = s.straps) (htb : u.rd rTB = s.rd rTB)
    (kind status aux : Nat) (loc detail : W64) :
    s.Posts (u.post kind status aux loc detail) kind status aux loc detail :=
  (u.posts_post kind status aux loc detail).congr hlog hdev htb rfl

/-- FAULT entered from a state u that has the log, the device number and the timebase of s (R401). -/
theorem State.bootFault_is {s u : State} {B : Boot} {n code : Nat} (detail : W64) (hboot : u.boot = B)
    (hst : B.stage.code = n) (hlog : u.log = s.log) (hdev : u.straps = s.straps) (htb : u.rd rTB = s.rd rTB)
    (hcode : code < 2 ^ 64) :
    (u.bootFault code detail).boot = { B with stage := .fault } ∧ (u.bootFault code detail).rn (rBoot 3) = code ∧
      s.Posts (u.bootFault code detail) 13 0 (n + code * 256) 0 detail := by
  subst hboot hst
  exact ⟨u.boot_bootFault code detail, u.faultCode_bootFault detail hcode,
    State.posts_post_of ((u.put_boot { u.boot with stage := .fault }).wn (rBoot 3) code) (s := s) hlog hdev
      ((State.rd_wn_ne _ _ (by decide)).trans htb) _ _ _ _ _⟩

/-- A command that takes the device from a stage into FAULT. -/
theorem completes_bootFault {W : List Part} {c : Instr} {s : State} {n code : Nat} {detail : W64}
    (hst : s.boot.stage.code = n) (hx : exec c s = .next (s.bootFault code detail)) (hcode : code < 2 ^ 64)
    (hw : (([.regs, .stage, .boot, .log] : List Part).all fun p => W.contains p) = true) :
    Completes W c s fun t => t.boot = { s.boot with stage := .fault } ∧ t.rn (rBoot 3) = code ∧
      s.Posts t 13 0 (n + code * 256) 0 detail := by
  exact ⟨_, hx, (only_bootFault s code detail).mono hw, State.bootFault_is detail rfl hst rfl rfl rfl hcode⟩

/-! The ROM (R403, R404) -/

/-- The state in which the image of slot n runs; slot 1 does only when slot 0 has failed at step a, which is posted. -/
def State.romBooted (s : State) (n : Nat) (i : Image) (a : Nat) : State :=
  if n = 1 then (s.bootImage n i).post 13 0 (0 + 3 * 256) 0 (w64 a) else s.bootImage n i

theorem State.romBoot_some {s : State} {i0 i1 i : Image} {n a b : Nat}
    (h : romPick s.fuses i0 i1 = (some (n, i), a, b)) : s.romBoot i0 i1 = some (s.romBooted n i a) := by
  unfold State.romBoot
  rw [h]
  rfl

theorem State.romBoot_none {s : State} {i0 i1 : Image} {r : Nat × Nat} (h : romPick s.fuses i0 i1 = (none, r)) :
    s.romBoot i0 i1 = none := by
  unfold State.romBoot
  rw [h]

/-- The slots have the numbers 0 and 1. -/
theorem romPick_slot {f : Fuses} {i0 i1 i : Image} {n a b : Nat} (h : romPick f i0 i1 = (some (n, i), a, b)) : n ≤ 1 := by
  unfold romPick at h
  dsimp only at h
  split at h
  · cases h
    exact Nat.zero_le 1
  · split at h
    · cases h
      exact le_rfl
    · cases h

section
variable (s : State) (n : Nat) (i : Image) (a : Nat)

theorem State.boot_romBooted : (s.romBooted n i a).boot = (s.bootImage n i).boot := by
  unfold State.romBooted
  split
  · exact (only_post _ _ _ _ _ _).same .boot (by decide)
  · rfl

theorem State.rd_bootImage {k : Nat} (hfw : k ≠ rFw) (hslot : k ≠ rBoot 5) : (s.bootImage n i).rd k = s.rd k :=
  (State.rd_wn_ne _ _ hslot).trans (State.rd_wn_ne _ _ hfw)

theorem State.rd_romBooted {k : Nat} (hwhy : k / 256 ≠ 0x0111) : (s.romBooted n i a).rd k = (s.bootImage n i).rd k := by
  unfold State.romBooted
  split
  · exact State.rd_post _ _ _ _ _ _ hwhy
  · rfl

theorem State.slot_romBooted : (s.romBooted n i a).rn (rBoot 5) = n % 2 ^ 64 :=
  (rn_ofrd (s.rd_romBooted n i a (by decide))).trans (State.rn_wn_same _ _ _)

theorem State.posts_romBooted (h : n = 1) : s.Posts (s.romBooted n i a) 13 0 (0 + 3 * 256) 0 (w64 a) := by
  unfold State.romBooted
  rw [if_pos h]
  exact State.posts_post_of (s.bootImage n i) (s := s) rfl rfl (s.rd_bootImage n i (by decide) (by decide)) _ _ _ _ _

theorem State.log_romBooted (h : n ≠ 1) : (s.romBooted n i a).log = s.log := by
  unfold State.romBooted
  rw [if_neg h]
  rfl

end

/-! DAWN -/

theorem State.rd_readFuses (s : State) {k : Nat} (hmac0 : k ≠ sp 0 3) (hmac1 : k ≠ sp 1 3) (hfeat : k ≠ rFeatures) :
    s.readFuses.rd k = s.rd k :=
  (State.rd_wn_ne _ _ hfeat).trans ((State.rd_wn_ne _ _ hmac1).trans (State.rd_wn_ne _ _ hmac0))

theorem State.rd_bootTime (s : State) (n us : Nat) {k : Nat} (hk : k ≠ rBootTime n) : (s.bootTime n us).rd k = s.rd k :=
  State.rd_wn_ne _ _ hk

theorem State.rn_bootTime (s : State) (n us : Nat) : (s.bootTime n us).rn (rBootTime n) = min us (2 ^ 32 - 1) :=
  State.rn_wn_lt _ _ (by omega)

/-- SUNRISE begins once the fuses are read. -/
def State.enterSunrise (s : State) : State := s.readFuses.put_boot { s.readFuses.boot with stage := .sunrise }

theorem State.rd_enterSunrise (s : State) {k : Nat} (hmac0 : k ≠ sp 0 3) (hmac1 : k ≠ sp 1 3) (hfeat : k ≠ rFeatures) :
    s.enterSunrise.rd k = s.rd k := s.rd_readFuses hmac0 hmac1 hfeat

/-- DAWN has ended after `us` microseconds with the image of slot n running. -/
def State.dawnBooted (s : State) (us n : Nat) (i : Image) (a : Nat) : State :=
  ((s.bootTime 1 us).romBooted n i a).enterSunrise

section
variable (s : State) (us n : Nat) (i : Image) (a : Nat)

theorem State.boot_dawnBooted : ∃ sum, (s.dawnBooted us n i a).boot =
    { (s.bootImage n i).boot with stage := .sunrise, fuseSum := sum } := by
  have hboot := (s.bootTime 1 us).boot_romBooted n i a
  have henter : (s.dawnBooted us n i a).boot =
      { ((s.bootTime 1 us).romBooted n i a).boot with
        stage := .sunrise, fuseSum := (s.dawnBooted us n i a).boot.fuseSum } := rfl
  rw [hboot] at henter
  exact ⟨_, henter⟩

theorem State.time_dawnBooted : (s.dawnBooted us n i a).rn (rBootTime 1) = min us (2 ^ 32 - 1) := by
  have henter := ((s.bootTime 1 us).romBooted n i a).rd_enterSunrise (k := rBootTime 1) (by decide) (by decide) (by decide)
  have hrom := (s.bootTime 1 us).rd_romBooted n i a (k := rBootTime 1) (by decide)
  have himage := (s.bootTime 1 us).rd_bootImage n i (k := rBootTime 1) (by decide) (by decide)
  exact (rn_ofrd (henter.trans (hrom.trans himage))).trans (s.rn_bootTime 1 us)

theorem State.slot_dawnBooted : (s.dawnBooted us n i a).rn (rBoot 5) = n % 2 ^ 64 :=
  (rn_ofrd (State.rd_enterSunrise _ (by decide) (by decide) (by decide))).trans
    ((s.bootTime 1 us).slot_romBooted n i a)

theorem State.posts_dawnBooted (h : n = 1) : s.Posts (s.dawnBooted us n i a) 13 0 (0 + 3 * 256) 0 (w64 a) := by
  have htb : (s.bootTime 1 us).rd rTB = s.rd rTB := s.rd_bootTime 1 us (by decide)
  exact ((s.bootTime 1 us).posts_romBooted n i a h).congr (s := s) (t := s.dawnBooted us n i a) rfl rfl htb rfl

theorem State.log_dawnBooted (h : n ≠ 1) : (s.dawnBooted us n i a).log = s.log :=
  (s.bootTime 1 us).log_romBooted n i a h

end

section
variable {s : State} {i0 i1 : Image} (hclk : s.boot.refclk = true) (hst : s.boot.stage = .dawn)
include hclk hst

theorem exec_dawnEnd_boots {i : Image} {n a b : Nat} (us : Nat) (h : romPick s.fuses i0 i1 = (some (n, i), a, b)) :
    exec (.dawnEnd i0 i1 us) s = .next (s.dawnBooted us n i a) := by
  refine congrArg Host.Outcome.next ((State.clk_on hclk).trans ((if_neg (not_not.mpr hst)).trans ?_))
  extract_lets u
  rw [State.romBoot_some (s := u) h]
  rfl

theorem exec_dawnEnd_fails {a b : Nat} (us : Nat) (h : romPick s.fuses i0 i1 = (none, a, b)) :
    exec (.dawnEnd i0 i1 us) s = .next ((s.bootTime 1 us).bootFault 3 (w64 (a + b * 16))) := by
  refine congrArg Host.Outcome.next ((State.clk_on hclk).trans ((if_neg (not_not.mpr hst)).trans ?_))
  extract_lets u
  rw [State.romBoot_none (s := u) h]
  show u.bootFault 3 (w64 ((romPick s.fuses i0 i1).2.1 + (romPick s.fuses i0 i1).2.2 * 16)) = _
  rw [h]

end

/-! SUNRISE -/

theorem exec_sunriseEnd {s : State} (r : Sunrise) (us : Nat) (hclk : s.boot.refclk = true) (hst : s.boot.stage = .sunrise) :
    exec (.sunriseEnd r us) s = .next ((s.bootTime 2 us).sunrise r) :=
  congrArg Host.Outcome.next ((State.clk_on hclk).trans (if_neg (not_not.mpr hst)))

/-- What the self-test and the training of LPDDR5X leave (R406, R407). -/
def State.tested (s : State) (r : Sunrise) : State := (s.trainMem r.density r.untrained).selfTest r

theorem State.only_tested (s : State) (r : Sunrise) : Only [.regs, .boot] s (s.tested r) :=
  .chain (only_selfTest _ _) (by decide) ((only_trainMem _ _ _).mono (by decide))

/-- The self-test reads the fuses and the bring-up state, no register. -/
theorem State.boot_tested (s : State) (r : Sunrise) (us : Nat) :
    ((s.bootTime 2 us).tested r).boot = (s.selfTest r).boot := rfl

theorem State.rd_tested (s : State) (r : Sunrise) {k : Nat} (hmem : k / 256 ≠ 0x3500) (hrows : k ≠ rRowsUsed) :
    (s.tested r).rd k = s.rd k := by
  have hne {sub : Nat} (h : sub < 256) : k ≠ rMem sub := by
    unfold rMem rk
    omega
  have htrain : (s.trainMem r.density r.untrained).rd k = s.rd k := by
    unfold State.trainMem
    extract_lets size bad u
    rw [State.rd_wn_ne _ _ (hne (by decide)), State.rd_wn_ne _ _ (hne (by decide))]
    exact (State.rd_wn_ne _ _ (hne (by decide))).trans (State.rd_wn_ne _ _ (hne (by decide)))
  exact (State.rd_wn_ne _ _ hrows).trans htrain

/-- A router that fails its self-test takes the device into FAULT with code 6 (Table 12.2). -/
theorem State.sunrise_router {s : State} {r : Sunrise} {n : Nat} (h : r.router = some n) :
    s.sunrise r = (s.tested r).bootFault 6 (w64 (n % 128)) := by
  unfold State.sunrise
  rw [h]
  rfl

/-- So does a device without a healthy tile, with code 5. -/
theorem State.sunrise_noTile {s : State} {r : Sunrise} (h : r.router = none)
    (hbad : (List.range 70).all (s.tested r).tileBad = true) : s.sunrise r = (s.tested r).bootFault 5 0 := by
  unfold State.sunrise
  rw [h]
  exact if_pos hbad

theorem State.boot_startMorning (s : State) : s.startMorning.boot = { s.boot with stage := .morning } := by
  have ho : Only [.regs, .ports, .log] (s.put_boot { s.boot with stage := .morning }) s.startMorning :=
    Only.foldl (.refl _ _) fun u p hu => .ite (hu.trans (only_train u p none)) hu
  exact ho.same .boot (by decide)

/-- The maps are written, what they and LPDDR5X lack shows in BOOT.DEGRADED, and the scrubber starts if it is enabled (R401,
    R408, R417). -/
def State.surveyed (s : State) : State :=
  let m := s.mapTiles
  let d := (m.degrade 0 (decide (m.rn (rMem 1) = 2))).degrade 1 (decide (0 < m.rn rTilesShort))
  if d.rn (rScrub 1) = 1 then d.startScrub else d

theorem State.only_surveyed (s : State) : Only [.regs, .scrub] s s.surveyed := by
  unfold State.surveyed
  extract_lets m d
  have hd : Only [.regs, .scrub] s d :=
    ((only_mapTiles s).trans ((only_degrade m _ _).trans (only_degrade _ _ _))).mono (by decide)
  exact .ite (.chain (only_startScrub d) (by decide) hd) hd

/-- While the mesh is whole and a tile works, MORNING begins. -/
theorem State.sunrise_whole {s : State} {r : Sunrise} (h : r.router = none)
    (hgood : (List.range 70).all (s.tested r).tileBad = false) : s.sunrise r = (s.tested r).surveyed.startMorning := by
  unfold State.sunrise
  rw [h]
  exact if_neg (Bool.eq_false_iff.mp hgood)

theorem State.boot_sunrise_whole {s : State} {r : Sunrise} (h : r.router = none)
    (hgood : (List.range 70).all (s.tested r).tileBad = false) :
    (s.sunrise r).boot = { (s.tested r).boot with stage := .morning } := by
  rw [State.sunrise_whole h hgood, State.boot_startMorning, (s.tested r).only_surveyed.same .boot (by decide)]

/-! MORNING -/

theorem State.rd_degrade (s : State) (n : Nat) (b : Bool) {k : Nat} (hk : k ≠ rBoot 4) : (s.degrade n b).rd k = s.rd k := by
  unfold State.degrade
  split
  · exact State.rd_wn_ne _ _ hk
  · rfl

/-- MORNING has taken `us` microseconds, and a port or a link that is not up shows in BOOT.DEGRADED (R401). -/
def State.morningMarked (s : State) (us : Nat) : State :=
  let m := s.bootTime 3 us
  let d := m.degrade 2 ((List.range 7).any fun p => m.inMask p && decide (m.portState p ≠ 3))
  d.degrade 3 (!d.pcie.link)

theorem State.boot_morningMarked (s : State) (us : Nat) : (s.morningMarked us).boot = s.boot :=
  (((only_bootTime s 3 us).trans (only_degrade _ _ _)).trans (only_degrade _ _ _)).same .boot (by decide)

theorem State.rn_morningMarked (s : State) (us : Nat) :
    (s.morningMarked us).rn (rBootTime 3) = min us (2 ^ 32 - 1) :=
  (rn_ofrd ((State.rd_degrade _ _ _ (by decide)).trans (State.rd_degrade _ _ _ (by decide)))).trans (s.rn_bootTime 3 us)

theorem exec_morningEnd {s : State} (us : Nat) (hclk : s.boot.refclk = true) (hst : s.boot.stage = .morning)
    (hdone : s.morningDone = true) : exec (.morningEnd us) s =
      .next ((s.morningMarked us).put_boot { (s.morningMarked us).boot with stage := .noon }) :=
  congrArg Host.Outcome.next ((State.clk_on hclk).trans (if_pos ⟨hst, hdone⟩))

/-- A port that did not reach training is DOWN, and its qualification reads as failed (R413). -/
theorem State.trainingFailed_is (s : State) {p : Nat} (hp : p < 7) :
    (s.trainingFailed p).portState p = 0 ∧
    ((s.trainingFailed p).port p).qual = qualBytes 3 (s.port p).windows (s.port p).swapped [] 0 ∧
    ((s.trainingFailed p).port p).joined = false := by
  obtain ⟨hstate, hjoined, hqual, -⟩ :=
    (s.updPort p fun t => { t with qual := qualBytes 3 t.windows t.swapped [] 0 }).downPort_is p hp
  rw [State.port_updPort_same] at hqual
  exact ⟨hstate, hqual, hjoined⟩

/-- Settles O22: DAWN by what the ROM finds in the two slots, SUNRISE by its self-test, each time limit by its failure. -/
theorem bootStages : Obligations.BootStages := by
  refine ⟨?dawn, ?sunrise, ?router, ?memory, ?morning, ?supply, ?fuse, ?image, ?lockstep, ?port⟩
  case dawn =>
    intro i0 i1 us s hclk hst
    have hcode : s.boot.stage.code = 0 := by rw [hst]; rfl
    rcases hpick : romPick s.fuses i0 i1 with ⟨_ | ⟨n, i⟩, a, b⟩
    · refine ⟨_, exec_dawnEnd_fails hclk hst us hpick,
        .chain (only_bootFault _ _ _) (by decide) ((only_bootTime s 1 us).mono (by decide)), ?_, ?_⟩
      · exact (rn_ofrd (State.rd_bootFault _ _ _ (by decide) (by decide))).trans (s.rn_bootTime 1 us)
      · dsimp only
        exact State.bootFault_is _ rfl hcode rfl rfl (s.rd_bootTime 1 us (by decide)) (by decide)
    · obtain ⟨sum, hboot⟩ := s.boot_dawnBooted us n i a
      refine Completes.of (only_execDawnEnd i0 i1 us s) (exec_dawnEnd_boots hclk hst us hpick) (by decide)
        ⟨s.time_dawnBooted us n i a, ?_⟩
      dsimp only
      rw [hboot]
      exact ⟨rfl, rfl, rfl, s.slot_dawnBooted us n i a, rfl, s.posts_dawnBooted us n i a, s.log_dawnBooted us n i a⟩
  case sunrise =>
    intro r us s hclk hst hrouter hgood
    have hboot := s.boot_tested r us
    have hgood' : (List.range 70).all ((s.bootTime 2 us).tested r).tileBad = false := hgood
    exact Completes.of (only_execSunriseEnd r us s) (exec_sunriseEnd r us hclk hst) (by decide)
      (State.boot_sunrise_whole hrouter hgood')
  case router =>
    intro r n us s hclk hst hrouter
    have hx := exec_sunriseEnd r us hclk hst
    rw [State.sunrise_router hrouter] at hx
    have ho : Only [.regs, .boot] s ((s.bootTime 2 us).tested r) :=
      .chain (State.only_tested _ r) (by decide) ((only_bootTime s 2 us).mono (by decide))
    refine ⟨_, hx, .chain (only_bootFault _ _ _) (by decide) (ho.mono (by decide)), ?_⟩
    exact State.bootFault_is _ (s.boot_tested r us) (n := 1) (by exact congrArg Stage.code hst) rfl rfl
      ((State.rd_tested _ r (by decide) (by decide)).trans (s.rd_bootTime 2 us (by decide))) (by decide)
  case memory =>
    intro s hclk hst
    have hx : exec .memTrainingTimeout s = .next (s.wn (rMem 1) 2) :=
      congrArg Host.Outcome.next ((State.clk_on hclk).trans (if_pos hst))
    exact ⟨_, hx, only_wn _ _ _, State.rn_wn_lt _ _ (by decide), fun k hk => State.rd_wn_ne _ _ hk⟩
  case morning =>
    intro us s hclk hst hdone
    refine Completes.of (only_execMorningEnd us s) (exec_morningEnd us hclk hst hdone) (by decide)
      ⟨?_, s.rn_morningMarked us⟩
    rw [s.boot_morningMarked us]
    rfl
  case supply =>
    intro aon core s hst hlow
    exact completes_bootFault (n := 0) (congrArg Stage.code hst)
      (congrArg Host.Outcome.next (if_pos ⟨hst, hlow⟩)) (by decide) (by decide)
  case fuse =>
    intro w s hst
    exact completes_bootFault (n := 0) (congrArg Stage.code hst)
      (congrArg Host.Outcome.next (if_pos hst)) (by decide) (by decide)
  case image =>
    intro s hclk hst
    exact completes_bootFault (n := 0) (congrArg Stage.code hst)
      (congrArg Host.Outcome.next ((State.clk_on hclk).trans (if_pos hst))) (by decide) (by decide)
  case lockstep =>
    intro pc s hclk hst
    exact completes_bootFault (n := 0) (congrArg Stage.code hst)
      (congrArg Host.Outcome.next ((State.clk_on hclk).trans (if_pos (.inl hst)))) (by decide) (by decide)
  case port =>
    intro p s hp hclk hst hmask htraining
    have hx : exec (.bootStepTimeout (.portTraining p)) s = .next (s.trainingFailed p) :=
      congrArg Host.Outcome.next ((State.clk_on hclk).trans (if_pos ⟨hst, hmask, htraining⟩))
    exact ⟨_, hx, only_trainingFailed s p, s.trainingFailed_is hp⟩

end Sys2Proof.Machine
end

section
/-! PROOF. The commands of the SEC island: the attestation report (12 R427, Table 12.10), the anti-rollback fuses (R405) and the
    customer key (R432). -/

namespace Sys2Proof.Machine

/-! SEC.CMD -/

/-- A value that a table lists reads back, whatever an unlisted key reads as. -/
theorem Tab.get_set_listed {α : Type} [DecidableEq α] {d v : α} (d' : α) (t : Tab α) (k : Nat) (h : v ≠ d) :
    Tab.get d' (Tab.set d t k v) k = v := by
  rw [Tab.set, if_neg h, Tab.get_put_same]

theorem State.blob_of_blobs {s u : State} {n : Nat} (h : (u.pathN n).blobs = (s.pathN n).blobs) (idx sub len : Nat) :
    u.blob n idx sub len = s.blob n idx sub len := by
  rw [State.blob, h, ← State.blob]

theorem State.blob_opened (s : State) (p : Path) (op i j : Nat) (data : Bytes) (n idx sub len : Nat) :
    (s.opened p op i j data).blob n idx sub len = s.blob n idx sub len :=
  State.blob_of_blobs (s.blobs_opened p op i j data n) idx sub len

/-- The report of Table 12.10 does not depend on the paths. -/
theorem State.PathEq.reportBody {s u : State} (h : s.PathEq u) (nonce : Bytes) : u.reportBody nonce = s.reportBody nonce := by
  obtain ⟨X, rfl⟩ := h
  rfl

theorem State.PathEq.signedMode {s u : State} (h : s.PathEq u) : u.signedMode = s.signedMode := by
  rw [State.signedMode, h.fuses, ← State.signedMode]

/-- The report over the nonce of path p, with its signature (Table 12.10). -/
def State.signedReport (s : State) (p : Path) : Bytes :=
  s.reportBody (s.blob (sender p) 0x0C02 1 32) ++
    fixLen 96 (Config.identitySign (s.reportBody (s.blob (sender p) 0x0C02 1 32)))

theorem fixLen_length (n : Nat) (b : Bytes) : (fixLen n b).length = n := by
  unfold fixLen
  rw [List.length_take, List.length_append, List.length_replicate]
  omega

theorem State.signedReport_ne_nil (s : State) (p : Path) : s.signedReport p ≠ [] := by
  refine List.ne_nil_of_length_pos ?_
  rw [State.signedReport, List.length_append, fixLen_length]
  omega

/-- Path p holds the signed report, and its attestation is in progress (R427). -/
def State.attested (s : State) (p : Path) : State :=
  (s.setBlob (sender p) 0x0C02 2 (s.signedReport p)).updPath p fun q => { q with attest := true }

theorem State.path_attested (s : State) (p : Path) : (s.attested p).path p =
    { s.path p with
      blobs := Tab.set [] (s.path p).blobs (blobKey 0x0C02 2) (s.signedReport p), attest := true } := by
  rw [State.attested, State.path_updPath, State.path, State.setBlob, State.pathN_updPathN_same]
  rfl

/-- The answer changes nothing of the path but its operation. -/
theorem State.path_answered (s : State) (p : Path) (st : Status) (b : Bool) (d : Bytes) :
    (s.answer (sender p) st b d).path p = { s.path p with op := some (.answered st b d) } :=
  State.path_updPath s p fun q => { q with op := some (.answered st b d) }

theorem arbAct_blows {s : State} {p : Path} (h : blows p = true) :
    arbAct p s = okAct (s.put_fuses { s.fuses with arb := max s.fuses.arb s.boot.svn }) :=
  guardAct_ok (guard_nil (by simp [h]))

theorem arbAct_far {s : State} {p : Path} (h : blows p = false) : arbAct p s = .refuse .access := by
  unfold arbAct
  rw [h]
  exact guardAct_one .access _ _ (by decide)

section
variable {s : State} {p : Path} (hmode : s.signedMode = false) (hkey : (ecKey (s.blob (sender p) 0x0C02 4 97)).isSome = true)
include hmode hkey

theorem provisionAct_blows (h : blows p = true) : provisionAct p s =
    okAct (s.put_fuses { s.fuses with custHash := sha384 (s.blob (sender p) 0x0C02 4 97) }) :=
  guardAct_ok (guard_nil (by simp [h, hmode, Option.isNone_eq_false_iff.mpr hkey]))

theorem provisionAct_far (h : blows p = false) : provisionAct p s = .refuse .access := by
  unfold provisionAct
  extract_lets k
  rw [h, hmode, show (ecKey k).isNone = false from Option.isNone_eq_false_iff.mpr hkey]
  exact if_neg (by decide)

end

/-- Settles O38: each command of SEC.CMD by what its entry does in the opened window. -/
theorem securityCommands : Obligations.SecurityCommands := by
  refine ⟨?attest, ?arb, ?provision, ?arbFar, ?provisionFar⟩
  case attest =>
    intro p s hs
    generalize hu : s.opened p 2 0x0C02 3 [1] = u
    have hbody : u.reportBody (u.blob (sender p) 0x0C02 1 32) = s.reportBody (s.blob (sender p) 0x0C02 1 32) := by
      rw [← hu, State.blob_opened, (s.pathEq_opened p 2 0x0C02 3 [1]).reportBody]
    refine Completes.done rfl hs (u := u.attested p) (by rw [hu]; rfl) (by decide) ?_
      ⟨State.answered_answer _ _ _ _ _, ?_, ?_⟩
    · rw [hu]
      exact Reply.Only.of_done (only_attestAct p u)
    · rw [State.blob, ← State.path, State.path_answered, State.path_attested, ← hbody]
      exact Tab.get_set_listed _ _ _ (u.signedReport_ne_nil p)
    · rw [State.path_answered, State.path_attested]
  case arb =>
    intro p s hs hblows
    refine Completes.dictOk (only_arbAct p) rfl hs (by decide) (by decide) fun u hu _ =>
      ⟨_, arbAct_blows hblows, fun w hw ha => ⟨ha, ?_⟩⟩
    rw [hw.fuses, ← hu.fuses, ← hu.boot]
    rfl
  case provision =>
    intro p s hs hblows hmode hkey
    refine Completes.dictOk (only_provisionAct p) rfl hs (by decide) (by decide) fun u hu hblobs => ?_
    have hblob := State.blob_of_blobs (hblobs (sender p)) 0x0C02 4 97
    refine ⟨_, provisionAct_blows (hu.signedMode.trans hmode) (by rwa [hblob]) hblows, fun w hw ha => ⟨ha, ?_⟩⟩
    rw [hw.fuses, ← hu.fuses, ← hblob]
    rfl
  case arbFar =>
    intro p s hs hfar
    exact Completes.dictRefuse rfl hs (by decide) rfl (fun u _ => arbAct_far hfar) fun w ha => ha
  case provisionFar =>
    intro p s hs hfar hmode hkey
    have hact : provisionAct p (s.opened p 2 0x0C02 3 [3]) = .refuse .access :=
      provisionAct_far ((s.pathEq_opened p 2 0x0C02 3 [3]).signedMode.trans hmode) (by rwa [State.blob_opened]) hfar
    exact Completes.refuse rfl hs hact (by decide) (State.answered_answer _ _ _ _ _)

end Sys2Proof.Machine
end

section
/-! PROOF. The scrubber and the watchdogs (12 R417 to R419, R434). -/

namespace Sys2Proof.Machine

/-! Registers that a core counts in when it enters FENCED -/

theorem State.rd_foldl {α : Type} {f : State → α → State} {k : Nat} (h : ∀ s a, (f s a).rd k = s.rd k) (l : List α)
    (s : State) : (l.foldl f s).rd k = s.rd k :=
  List.foldlRecOn (motive := fun t : State => t.rd k = s.rd k) l f rfl fun t ht a _ => (h t a).trans ht

theorem State.rd_flightEnd (s : State) (f n k : Nat) : (s.flightEnd f n).rd k = s.rd k :=
  (only_flightEnd s f n).rdEq (by decide) k

/-- FENCE_DROP of tile t, and the registers of the span of MIDNIGHT. -/
def fenceCounts (t : Nat) : List Nat := [rFenceDrop t, rMnTime, rMnMax]

section
variable {t k : Nat} (hk : k ∉ fenceCounts t)
include hk

theorem ne_of_not_fenceCounts : k ≠ rFenceDrop t ∧ k ≠ rMnTime ∧ k ≠ rMnMax := by
  simpa [fenceCounts] using hk

theorem State.rd_dropRings (s : State) (sl : Nat) : (s.dropRings t sl).rd k = s.rd k :=
  State.rd_bumpBy_ne _ _ _ (ne_of_not_fenceCounts hk).1

theorem State.rd_dropHeld (s : State) (sl : Nat) : (s.dropHeld t sl).rd k = s.rd k := by
  unfold State.dropHeld
  rw [State.rd_bumpBy_ne _ _ _ (ne_of_not_fenceCounts hk).1, State.rd_foldl fun u q => State.rd_flightEnd u _ _ k]
  exact State.rd_foldl (fun u i => (only_itemEnd u i).rdEq (by decide) k) _ _

theorem State.rd_nightLeft (s : State) (was : Bool) : (s.nightLeft was).rd k = s.rd k := by
  obtain ⟨-, htime, hmax⟩ := ne_of_not_fenceCounts hk
  unfold State.nightLeft State.nightEnd
  split
  · split
    · rfl
    · refine (State.rd_foldl (fun u n => (only_finish u n _ _ _).rdEq (by decide) k) _ _).trans ?_
      rw [State.rd_hwm_ne _ _ hmax, State.rd_bumpBy_ne _ _ _ htime]
      rfl
  · rfl

end

theorem State.rd_fenceCore (s : State) (j cause : Nat) {k : Nat} (hk : k ∉ fenceCounts (j / 136)) :
    (s.fenceCore j cause).rd k = s.rd k := by
  unfold State.fenceCore
  extract_lets c t was freed fenced set _ marked landed counted emitted dropped
  split
  · rfl
  have hmarked : marked.rd k = s.rd k := by
    unfold marked
    split <;> rfl
  have hlanded : landed.rd k = marked.rd k := State.rd_foldl (fun u q => State.rd_flightEnd u _ _ k) _ _
  have hcounted : counted.rd k = landed.rd k := State.rd_bumpBy_ne _ _ _ (ne_of_not_fenceCounts hk).1
  have hemitted : emitted.rd k = counted.rd k := State.rd_foldl (fun u q => State.rd_flightEnd u _ _ k) _ _
  have hdropped : dropped.rd k = emitted.rd k := by
    unfold dropped
    split
    · exact (State.rd_dropHeld hk _ _).trans (State.rd_dropRings hk _ _)
    · rfl
  exact (State.rd_nightLeft hk _ _).trans
    (hdropped.trans (hemitted.trans (hcounted.trans (hlanded.trans hmarked))))

/-! Cores that are FENCED (03 R126) -/

theorem State.state_fenceCore (s : State) (k cause : Nat) : ((s.fenceCore k cause).core k).state = .fenced := by
  by_cases hf : (s.core k).state = .fenced
  · unfold State.fenceCore
    rwa [if_pos hf]
  · obtain ⟨c, hcore, hstate, -⟩ := s.fenceCore_core k cause hf
    rw [hcore, if_pos rfl, hstate]

theorem State.core_fenceCore_ne (s : State) {j k : Nat} (cause : Nat) (h : j ≠ k) :
    (s.fenceCore k cause).core j = s.core j := by
  by_cases hf : (s.core k).state = .fenced
  · unfold State.fenceCore
    rw [if_pos hf]
  · obtain ⟨c, hcore, -⟩ := s.fenceCore_core k cause hf
    rw [hcore, if_neg h]

theorem State.cause_fenceCore {s : State} {k : Nat} (cause : Nat) (hf : (s.core k).state ≠ .fenced) :
    ((s.fenceCore k cause).core k).cause = BitVec.ofNat 4 cause := by
  obtain ⟨c, hcore, -, hcause, -⟩ := s.fenceCore_core k cause hf
  rw [hcore, if_pos rfl, hcause]

/-- Fencing another core, or this one again, leaves a core FENCED. -/
theorem State.fenced_fenceCore {s : State} {j : Nat} (k cause : Nat) (h : (s.core j).state = .fenced) :
    ((s.fenceCore k cause).core j).state = .fenced := by
  by_cases hjk : j = k
  · subst hjk
    exact s.state_fenceCore j cause
  · rwa [s.core_fenceCore_ne cause hjk]

/-- Every core of a list is fenced in its turn and stays so. -/
theorem State.fenced_foldl {f : Nat → Nat} {c cause : Nat} {l : List Nat} (h : c ∈ l) (s : State) :
    ((l.foldl (fun s c => s.fenceCore (f c) cause) s).core (f c)).state = .fenced := by
  induction l generalizing s with
  | nil => cases h
  | cons a l ih =>
    by_cases hl : c ∈ l
    · exact ih hl _
    · obtain rfl : c = a := (List.mem_cons.mp h).resolve_right hl
      exact List.foldlRecOn (motive := fun t : State => (t.core (f c)).state = .fenced) l _ (s.state_fenceCore (f c) cause)
        fun t ht b _ => State.fenced_fenceCore (f b) cause ht

/-! The scrubber (R417, R418) -/

/-- An uncorrectable word of a core that serves an LCID posts its MEMORY record and fences the core. -/
theorem State.coreUe_serving {s : State} {k l : Nat} (off how : Nat) (hgood : (s.core k).bad.contains (off / 8 * 8) = false)
    (hl : s.lcidOf k = some l) :
    s.coreUe k off how =
      ((s.updCore k fun c => { c with bad := addNew (off / 8 * 8) c.bad }).postMemory
        (w64 (windowAddr l (off / 8 * 8))) 0 how).fenceCore k 3 := by
  unfold State.coreUe
  extract_lets a u
  have hu : u.lcidOf k = some l := hl
  rw [if_neg (Bool.eq_false_iff.mp hgood), hu]

theorem State.posts_postMemory {s u : State} (hlog : u.log = s.log) (hdev : u.straps = s.straps) (htb : u.rd rTB = s.rd rTB)
    (loc : W64) (kind how : Nat) :
    s.Posts (u.postMemory loc kind how) 4 0 0 loc (w64 (kind * 2 ^ 60 + how * 2 ^ 56)) :=
  State.posts_post_of (s := s) (u.bump (rk 0 0x0120 6)) hlog hdev ((State.rd_bumpBy_ne _ _ _ (by decide)).trans htb) _ _ _ _ _

/-- What happens to a serving core with an uncorrectable word that the scrubber finds (Table 12.9). -/
theorem State.coreUe_fences {s : State} {k l off : Nat} (hgood : (s.core k).bad.contains (off / 8 * 8) = false)
    (hstate : (s.core k).state ≠ .fenced) (hl : s.lcidOf k = some l) :
    ((s.coreUe k off 1).core k).state = .fenced ∧ ((s.coreUe k off 1).core k).cause = 3 ∧
      s.Posts (s.coreUe k off 1) 4 0 0 (w64 (windowAddr l (off / 8 * 8))) (w64 (2 ^ 56)) := by
  rw [State.coreUe_serving off 1 hgood hl]
  generalize hu : (s.updCore k fun c => { c with bad := addNew (off / 8 * 8) c.bad }) = u
  have honly : Only [.cores] s u := hu ▸ only_updCore s k _
  have hposts := State.posts_postMemory (u := u) (honly.same .log (by decide)) (honly.same .straps (by decide))
    (honly.rdEq (by decide) rTB) (w64 (windowAddr l (off / 8 * 8))) 0 1
  have hcore : (u.postMemory (w64 (windowAddr l (off / 8 * 8))) 0 1).core k = u.core k := State.core_post _ _ _ _ _ _ _
  have hstate' : ((u.postMemory (w64 (windowAddr l (off / 8 * 8))) 0 1).core k).state ≠ .fenced := by
    rw [hcore, ← hu, State.core_updCore_same]
    exact hstate
  exact ⟨State.state_fenceCore _ _ _, State.cause_fenceCore 3 hstate',
    hposts.congr rfl rfl rfl ((only_fenceCore _ _ _).same .log (by decide))⟩

/-- A scrub pass has ended after `ms` milliseconds: it counts, and one of more than 200 ms counts as late (R417, R434). -/
def State.passEnded (s : State) (ms : Nat) : State :=
  (s.put_scrub_scrubbed (s.scrub - 1) (decide (ms ≤ 200))).bump (rScrub 3)

theorem exec_scrubPassEnd {s : State} (ms : Nat) (h : s.scrub ≠ 0) : exec (.scrubPassEnd ms) s =
    .next (if 200 < ms then (s.passEnded ms).bump32 (rScrub 4) else s.passEnded ms).whyScrub :=
  congrArg Host.Outcome.next (if_neg h)

theorem State.rn_whyScrub (s : State) {k : Nat} (h : k / 256 ≠ 0x0111) : s.whyScrub.rn k = s.rn k :=
  rn_ofrd (State.rd_whyBit _ _ _ h)

theorem exec_scrubPassStart {s : State} (hits : List ScrubHit) (hen : s.rn (rScrub 1) = 1) :
    exec (.scrubPassStart hits) s = .next (hits.foldl (fun s h => s.scrubHit h) s.startScrub) :=
  congrArg Host.Outcome.next (if_pos hen)

theorem State.scrub_scrubHits (s : State) (hits : List ScrubHit) :
    (hits.foldl (fun s h => s.scrubHit h) s.startScrub).scrub = s.scrub + 1 := by
  have ho : Only [.regs, .boot, .cores, .tiles, .nodes, .paths, .log, .flights, .live, .free] s.startScrub
      (hits.foldl (fun s h => s.scrubHit h) s.startScrub) :=
    Only.foldl (.refl _ _) fun u x hu => hu.trans (only_scrubHit u x)
  exact ho.same .scrub (by decide)

theorem State.passEnded_is (s : State) (ms : Nat) :
    (s.passEnded ms).scrub = s.scrub - 1 ∧ (s.passEnded ms).scrubbed = decide (ms ≤ 200) ∧
    (s.passEnded ms).rn (rScrub 3) = min (s.rn (rScrub 3) + 1) (2 ^ 64 - 1) ∧
    (s.passEnded ms).rn (rScrub 4) = s.rn (rScrub 4) :=
  ⟨rfl, rfl, State.rn_bump _ _, State.rn_bumpBy_ne _ _ _ (by decide)⟩

/-- Whether the pass was late does not touch the scrubber's state. -/
theorem State.only_whyScrub_late (s : State) (ms : Nat) :
    Only [.regs] (s.passEnded ms)
      (if 200 < ms then (s.passEnded ms).bump32 (rScrub 4) else s.passEnded ms).whyScrub :=
  .trans (.ite (only_bump32 _ _) (.refl _ _)) (only_whyScrub _)

/-! Watchdogs (R419) -/

/-- Which LCID a core serves is told by the maps, by what drains and by the swap. -/
theorem State.lcidOf_of_maps {s u : State} (hdrains : u.drains = s.drains) (hswap : u.swap = s.swap)
    (htile : ∀ v, u.mapTile v = s.mapTile v) (hcore : ∀ t sl, u.mapCore t sl = s.mapCore t sl) (k : Nat) :
    u.lcidOf k = s.lcidOf k := by
  simp only [State.lcidOf, State.vtOf, State.slotOf, State.swapFrom, State.tileKind, State.tilePt, hdrains, hswap, htile,
    hcore] <;> rfl

/-- WATCHDOG.COUNT. -/
abbrev rWatchdogs : Nat := rk 0 0x0122 1

/-- A watchdog's expiry has counted, and its record is posted (Table 12.9). -/
def State.watchdogPosted (s : State) (loc : W64) (stage : Nat) : State :=
  (s.bump32 rWatchdogs).post 3 0 0 loc (w64 stage)

theorem State.lcidOf_bump32_watchdogs (s : State) (k : Nat) : (s.bump32 rWatchdogs).lcidOf k = s.lcidOf k := by
  have hframe := only_bump32 s rWatchdogs
  refine State.lcidOf_of_maps (s := s) (u := s.bump32 rWatchdogs) (hframe.same .drains (by decide))
    (hframe.same .swap (by decide)) (fun v => ?_) (fun t sl => ?_) k
  · refine State.rd_bumpBy_ne _ _ _ ?_
    exact rk_sub (by decide) (by decide) (by decide)
  · refine State.rn_bumpBy_ne _ _ _ ?_
    unfold rWatchdogs rk
    omega

section
variable (s : State) (loc : W64) (stage : Nat)

theorem State.only_watchdogPosted : Only [.regs, .log] s (s.watchdogPosted loc stage) :=
  .chain (only_post _ _ _ _ _ _) (by decide) ((only_bump32 _ _).mono (by decide))

theorem State.posts_watchdogPosted : s.Posts (s.watchdogPosted loc stage) 3 0 0 loc (w64 stage) :=
  State.posts_post_of (s := s) (s.bump32 rWatchdogs) rfl rfl (State.rd_bumpBy_ne _ _ _ (by decide)) _ _ _ _ _

theorem State.count_watchdogPosted :
    (s.watchdogPosted loc stage).rn rWatchdogs = min (s.rn rWatchdogs + 1) (2 ^ 32 - 1) :=
  (State.rn_post _ _ _ _ _ _ (by decide)).trans (s.rn_bump32 rWatchdogs)

theorem State.rd_watchdogPosted {k : Nat} (hk : k ≠ rWatchdogs) (hwhy : k / 256 ≠ 0x0111) :
    (s.watchdogPosted loc stage).rd k = s.rd k :=
  (State.rd_post _ _ _ _ _ _ hwhy).trans (State.rd_bumpBy_ne _ _ _ hk)

theorem State.watchdog_core (k : Nat) : s.watchdog (.core k) stage =
    (s.watchdogPosted (wdLoc 0 (k / 136) ((s.lcidOf k).getD 0)) stage).fenceCore k 2 := by
  rw [← s.lcidOf_bump32_watchdogs]
  rfl

/-- Every core of tile t is fenced by its watchdog. -/
def State.tileFenced (s : State) (t : Nat) : State :=
  (List.range 136).foldl (fun s c => s.fenceCore (136 * t + c) 2) s

/-- Tile t is marked, its NI being stuck. -/
def State.niMarked (s : State) (t : Nat) : State :=
  s.put_boot { s.boot with markTiles := addNew t s.boot.markTiles, deadNis := addNew t s.boot.deadNis }

theorem State.watchdog_ni (t : Nat) :
    s.watchdog (.ni t) stage = ((s.watchdogPosted (wdLoc 1 t 0) stage).tileFenced t).niMarked t := by
  unfold State.watchdog State.tileFenced State.watchdogPosted
  dsimp only
  generalize List.range 136 = l
  rfl

theorem State.log_tileFenced (t : Nat) : (s.tileFenced t).log = s.log := by
  have ho : Only [.regs, .boot, .cores, .tiles, .nodes, .paths, .flights, .live, .free] s (s.tileFenced t) :=
    Only.foldl (.refl _ _) fun u c h => h.trans (only_fenceCore u _ 2)
  exact ho.same .log (by decide)

/-- Router r is marked as stuck. -/
def State.rtrMarked (s : State) (r : Nat) : State :=
  s.put_boot { s.boot with markTiles := addNew r s.boot.markTiles, deadRtrs := addNew r s.boot.deadRtrs }

theorem State.watchdog_router (r : Nat) :
    s.watchdog (.router r) stage = (s.watchdogPosted (wdLoc 2 r 0) stage).rtrMarked r := rfl

theorem State.watchdog_portBridge (p : Nat) : s.watchdog (.portBridge p) stage =
    if (s.watchdogPosted (wdLoc 3 (70 + p) 0) stage).portState p = 0 then s.watchdogPosted (wdLoc 3 (70 + p) 0) stage
    else (s.watchdogPosted (wdLoc 3 (70 + p) 0) stage).downPort p := rfl

theorem State.portState_watchdogPosted (p : Nat) : (s.watchdogPosted loc stage).portState p = s.portState p := by
  refine rn_ofrd (s.rd_watchdogPosted loc stage ?_ ?_)
  · unfold pReg rWatchdogs rk
    omega
  · unfold pReg rk
    omega

end

theorem State.watchdog_portDown {s : State} {p : Nat} (stage : Nat) (hp : p < 7) :
    (s.watchdog (.portBridge p) stage).portState p = 0 := by
  rw [State.watchdog_portBridge]
  split
  case isTrue h => exact h
  case isFalse => exact (State.downPort_is _ p hp).1

section
variable (s : State) (stage : Nat)

theorem rWatchdogs_not_fenceCounts (t : Nat) : rWatchdogs ∉ fenceCounts t := by
  have hdrop : rWatchdogs ≠ rFenceDrop t := by
    unfold rWatchdogs rFenceDrop niCtr rk
    omega
  have htime : rWatchdogs ≠ rMnTime := by decide
  have hmax : rWatchdogs ≠ rMnMax := by decide
  simp [fenceCounts, hdrop, htime, hmax]

theorem State.watchdog_core_is (k : Nat) :
    s.Posts (s.watchdog (.core k) stage) 3 0 0 (wdLoc 0 (k / 136) ((s.lcidOf k).getD 0)) (w64 stage) ∧
    ((s.watchdog (.core k) stage).core k).state = .fenced ∧
    ((s.core k).state ≠ .fenced → ((s.watchdog (.core k) stage).core k).cause = 2) ∧
    (s.watchdog (.core k) stage).rn rWatchdogs = min (s.rn rWatchdogs + 1) (2 ^ 32 - 1) := by
  rw [s.watchdog_core stage k]
  generalize wdLoc 0 (k / 136) ((s.lcidOf k).getD 0) = loc
  have hfence := only_fenceCore (s.watchdogPosted loc stage) k 2
  have hcore : (s.watchdogPosted loc stage).core k = s.core k :=
    congrArg (fun x => Tab.get Core.reset x k) ((s.only_watchdogPosted loc stage).same .cores (by decide))
  refine ⟨(s.posts_watchdogPosted loc stage).congr rfl rfl rfl (hfence.same .log (by decide)),
    State.state_fenceCore _ _ _, fun hst => State.cause_fenceCore 2 (by rwa [hcore]), ?_⟩
  exact (rn_ofrd (State.rd_fenceCore _ _ _ (rWatchdogs_not_fenceCounts _))).trans (s.count_watchdogPosted loc stage)

theorem State.watchdog_ni_is (n : Nat) :
    s.Posts (s.watchdog (.ni n) stage) 3 0 0 (wdLoc 1 n 0) (w64 stage) ∧
    n ∈ (s.watchdog (.ni n) stage).boot.markTiles ∧ n ∈ (s.watchdog (.ni n) stage).boot.deadNis ∧
    ∀ c, c < 136 → ((s.watchdog (.ni n) stage).core (136 * n + c)).state = .fenced := by
  rw [s.watchdog_ni stage n]
  have hposts := s.posts_watchdogPosted (wdLoc 1 n 0) stage
  have hlog := (s.watchdogPosted (wdLoc 1 n 0) stage).log_tileFenced n
  have hfenced : ∀ c, c < 136 → (((s.watchdogPosted (wdLoc 1 n 0) stage).tileFenced n).core (136 * n + c)).state = .fenced :=
    fun c hc => State.fenced_foldl (f := fun c => 136 * n + c) (List.mem_range.mpr hc) _
  generalize (s.watchdogPosted (wdLoc 1 n 0) stage).tileFenced n = u at hlog hfenced ⊢
  exact ⟨hposts.congr rfl rfl rfl hlog, mem_addNew_self _ _, mem_addNew_self _ _, hfenced⟩

theorem State.watchdog_portUp (p : Nat) (h : s.portState p = 0) :
    s.watchdog (.portBridge p) stage = s.watchdogPosted (wdLoc 3 (70 + p) 0) stage := by
  rw [State.watchdog_portBridge, State.portState_watchdogPosted, if_pos h]

end

end Sys2Proof.Machine
end

section
/-! PROOF. The HKC's lockstep and restart, and the fault ring (12 R420, R423, R424): with them the commands of faults. -/

namespace Sys2Proof.Machine

/-! The HKC's lockstep (R420) -/

/-- LOCKSTEP.COUNT. -/
abbrev rRestarts : Nat := rk 0 0x0121 2

section
variable (s : State) (st : Nat)

theorem State.mon_hkcStops : (s.hkcStops st).mon.sinceT = [] ∧ (s.hkcStops st).mon.sinceV = [] := by
  have ho : Only [.regs] (s.put_mon { s.mon with sinceT := [], sinceV := [] }) (s.hkcStops st) :=
    (only_wn _ _ _).trans ((only_whyBit _ _ _).trans (only_whyBit _ _ _))
  rw [ho.same .mon (by decide)]
  exact ⟨rfl, rfl⟩

theorem State.rd_hkcStops {k : Nat} (hk : k ≠ rHkc) (hwhy : k / 256 ≠ 0x0111) : (s.hkcStops st).rd k = s.rd k :=
  (State.rd_whyBit _ _ _ hwhy).trans ((State.rd_whyBit _ _ _ hwhy).trans (State.rd_wn_ne _ _ hk))

theorem State.hkc_hkcStops (hst : st < 2 ^ 64) : (s.hkcStops st).rn rHkc = st :=
  (rn_ofrd ((State.rd_whyBit _ _ _ (by decide)).trans (State.rd_whyBit _ _ _ (by decide)))).trans (State.rn_wn_lt _ _ hst)

end

/-- The record of a lockstep mismatch is posted, the n-th within a second (Table 12.9). -/
def State.mismatchPosted (s : State) (pc n : Nat) : State := s.post 12 0 0 (w64 pc) (w64 (n % 256))

section
variable {s : State} (pc n : Nat)

theorem State.only_mismatchPosted (s : State) : Only [.regs, .log] s (s.mismatchPosted pc n) := only_post _ _ _ _ _ _

theorem State.lockstep_early (h : s.boot.stage = .dawn ∨ s.boot.stage = .sunrise) :
    s.lockstep pc n = ((s.mismatchPosted pc n).hkcStops 2).bootFault 4 (w64 pc) := by
  refine if_pos ?_
  rwa [show (s.post 12 0 0 (w64 pc) (w64 (n % 256))).boot = s.boot from (only_post _ _ _ _ _ _).same .boot (by decide)]

theorem State.lockstep_early_is (h : s.boot.stage = .dawn ∨ s.boot.stage = .sunrise) :
    (s.lockstep pc n).mon.sinceT = [] ∧ (s.lockstep pc n).mon.sinceV = [] ∧ (s.lockstep pc n).rn rHkc = 2 ∧
      (s.lockstep pc n).boot.stage = .fault ∧ (s.lockstep pc n).rn (rBoot 3) = 4 := by
  rw [State.lockstep_early pc n h]
  generalize hu : (s.mismatchPosted pc n).hkcStops 2 = u
  have hmon : u.mon.sinceT = [] ∧ u.mon.sinceV = [] := hu ▸ State.mon_hkcStops _ 2
  have hhkc : u.rn rHkc = 2 := hu ▸ State.hkc_hkcStops _ 2 (by decide)
  rw [(only_bootFault u 4 (w64 pc)).same .mon (by decide), u.boot_bootFault]
  exact ⟨hmon.1, hmon.2, (rn_ofrd (u.rd_bootFault _ _ (by decide) (by decide))).trans hhkc, rfl,
    u.faultCode_bootFault _ (by decide)⟩

/-- The HKC has stopped with state st once the mismatch is posted and every attestation has ended. -/
def State.hkcStopped (s : State) (pc n st : Nat) : State := (s.mismatchPosted pc n).endAttests.hkcStops st

theorem State.mon_hkcStopped (s : State) (st : Nat) :
    (s.hkcStopped pc n st).mon.sinceT = [] ∧ (s.hkcStopped pc n st).mon.sinceV = [] := State.mon_hkcStops _ st

theorem State.hkc_hkcStopped (s : State) (st : Nat) (hst : st < 2 ^ 64) : (s.hkcStopped pc n st).rn rHkc = st :=
  State.hkc_hkcStops _ st hst

theorem State.only_hkcStopped (s : State) (st : Nat) : Only [.regs, .paths, .log, .mon] s (s.hkcStopped pc n st) :=
  .chain (only_hkcStops _ _) (by decide)
    (.chain (only_endAttests _) (by decide) ((s.only_mismatchPosted pc n).mono (by decide)))

theorem State.rd_hkcStopped (s : State) (st : Nat) {k : Nat} (hk : k ≠ rHkc) (hwhy : k / 256 ≠ 0x0111) :
    (s.hkcStopped pc n st).rd k = s.rd k :=
  (State.rd_hkcStops _ _ hk hwhy).trans
    (((only_endAttests _).rdEq (by decide) k).trans (State.rd_post _ _ _ _ _ _ hwhy))

theorem State.posts_hkcStopped (s : State) (st : Nat) :
    s.Posts (s.hkcStopped pc n st) 12 0 0 (w64 pc) (w64 (n % 256)) := by
  have ho : Only [.regs, .paths, .mon] (s.mismatchPosted pc n) (s.hkcStopped pc n st) :=
    .chain (only_hkcStops _ _) (by decide) ((only_endAttests _).mono (by decide))
  exact (s.posts_post 12 0 0 (w64 pc) (w64 (n % 256))).congr rfl rfl rfl (ho.same .log (by decide))

/-- The HKC restarts: the restart counts, and its path is reset. -/
def State.hkcRestarted (s : State) (pc n : Nat) : State := ((s.hkcStopped pc n 1).bump32 rRestarts).resetPath 3

theorem State.only_hkcRestarted (s : State) :
    Only [.regs, .nodes, .conns, .paths, .mboxes, .sdio, .pcie] (s.hkcStopped pc n 1) (s.hkcRestarted pc n) :=
  .chain (only_resetPath _ _) (by decide) ((only_bump32 _ _).mono (by decide))

theorem State.rn_hkcRestarted (s : State) {k : Nat} (hk : Kept k) :
    (s.hkcRestarted pc n).rn k = ((s.hkcStopped pc n 1).bump32 rRestarts).rn k :=
  rn_ofrd ((State.resetPath_is ((s.hkcStopped pc n 1).bump32 rRestarts) 3 (by decide)).1 k hk)

theorem State.hkc_hkcRestarted (s : State) : (s.hkcRestarted pc n).rn rHkc = 1 :=
  (State.rn_hkcRestarted pc n s (by unfold Kept; decide)).trans
    ((State.rn_bumpBy_ne _ _ _ (by decide)).trans (State.hkc_hkcStopped pc n s 1 (by decide)))

theorem State.restarts_hkcRestarted (s : State) :
    (s.hkcRestarted pc n).rn rRestarts = min (s.rn rRestarts + 1) (2 ^ 32 - 1) := by
  rw [State.rn_hkcRestarted pc n s (by unfold Kept; decide), State.rn_bump32,
    rn_ofrd (State.rd_hkcStopped pc n s 1 (k := rRestarts) (by decide) (by decide))]

theorem State.session_hkcRestarted (s : State) : ((s.hkcRestarted pc n).path .hkc).session = none :=
  (State.resetPath_is ((s.hkcStopped pc n 1).bump32 rRestarts) 3 (by decide)).2.1

/-- Past SUNRISE the HKC stops for good at the third mismatch within a second, and restarts otherwise. -/
theorem State.lockstep_late (h : ¬(s.boot.stage = .dawn ∨ s.boot.stage = .sunrise)) :
    s.lockstep pc n = if 3 ≤ n then s.hkcStopped pc n 2 else s.hkcRestarted pc n := by
  refine if_neg ?_
  rwa [show (s.post 12 0 0 (w64 pc) (w64 (n % 256))).boot = s.boot from (only_post _ _ _ _ _ _).same .boot (by decide)]

end

/-! The restart of the HKC (R420) -/

/-- No command waits for the HKC. -/
theorem State.serveHeld_idle {s : State}
    (h : ∀ m op idx sub d, m ∈ senders → (s.pathN m).op ≠ some (.waiting (.hkc op idx sub d))) : s.serveHeld = s := by
  unfold State.serveHeld
  split
  · rfl
  · refine foldl_id _ s fun m hm => ?_
    split
    case h_1 op idx sub d hop => exact absurd hop (h m op idx sub d hm)
    case h_2 => rfl

theorem State.only_romBooted (s : State) (n : Nat) (i : Image) (a : Nat) :
    Only [.regs, .boot, .log] s (s.romBooted n i a) := by
  have himage := (only_bootImage s n i).mono (W := [.regs, .boot, .log]) (by decide)
  exact .ite (.chain (only_post _ _ _ _ _ _) (by decide) himage) himage

section
variable {s : State} {i0 i1 : Image} (hclk : s.boot.refclk = true) (hhkc : s.rn rHkc = 1) (hon : s.domOn 88 = true)
include hclk hhkc hon

theorem exec_hkcRestartDone_boots {i : Image} {n a b : Nat} (h : romPick s.fuses i0 i1 = (some (n, i), a, b)) :
    exec (.hkcRestartDone i0 i1) s = .next ((s.romBooted n i a).wn rHkc 0).serveHeld := by
  refine congrArg Host.Outcome.next ((State.clk_on hclk).trans ((if_pos ⟨hhkc, hon⟩).trans ?_))
  rw [State.romBoot_some h]

theorem exec_hkcRestartDone_fails {a b : Nat} (h : romPick s.fuses i0 i1 = (none, a, b)) :
    exec (.hkcRestartDone i0 i1) s = .next
      (if s.boot.stage = .morning then (s.wn rHkc 2).bootFault 3 (w64 (a + b * 16)) else s.wn rHkc 2) := by
  refine congrArg Host.Outcome.next ((State.clk_on hclk).trans ((if_pos ⟨hhkc, hon⟩).trans ?_))
  rw [State.romBoot_none h]
  show (if s.boot.stage = .morning then
    (s.wn rHkc 2).bootFault 3 (w64 ((romPick s.fuses i0 i1).2.1 + (romPick s.fuses i0 i1).2.2 * 16)) else _) = _
  rw [h]

end

/-! The fault ring (R423, R424) -/

theorem exec_faultRingWrite {s : State} {r : FRec} {rest : List FRec} (hclk : s.boot.refclk = true)
    (hq : s.log.queue = r :: rest) (hst : s.fState = 1) (hhost : s.hostOk = true) (hup : s.domUp 77 = true) :
    exec .faultRingWrite s = .next (s.ringRecord r rest) := by
  refine congrArg Host.Outcome.next ((State.clk_on hclk).trans ?_)
  rw [hq]
  exact if_pos ⟨hst, hhost, hup⟩

/-- The oldest record has gone to host memory, before FAULT.RING_VEC is raised. -/
def State.ringTaken (s : State) (r : FRec) (rest : List FRec) : State :=
  ((s.put_log { s.log with queue := rest }).toHost (s.rn (fRing 1) + 32 * (s.rn (fRing 6) % s.fSize))
    (recBytes r (lapPhase (s.rn (fRing 6)) s.fSize))).wn (fRing 6) ((s.rn (fRing 6) + 1) % 2 ^ 32)

/-- The oldest record is in host memory, no longer in the queue, and RING_PROD counts it. -/
theorem State.ringRecord_is (s : State) (r : FRec) (rest : List FRec) :
    (s.ringRecord r rest).log = { s.log with queue := rest } ∧
    (s.ringRecord r rest).rn (fRing 6) = (s.rn (fRing 6) + 1) % 2 ^ 32 ∧
    (s.ringRecord r rest).hostMem = s.hostMem.wrBytes (s.rn (fRing 1) + 32 * (s.rn (fRing 6) % s.fSize))
      (recBytes r (lapPhase (s.rn (fRing 6)) s.fSize)) := by
  have hraise : Only [.pcie] (s.ringTaken r rest) (s.ringRecord r rest) := only_raise _ _
  refine ⟨hraise.same .log (by decide), (rn_ofrd (hraise.rdEq (by decide) _)).trans ?_, hraise.same .hostMem (by decide)⟩
  exact State.rn_wn_lt _ _ (by omega)

/-- The ring is enabled and empty. -/
def State.ringEnabled (s : State) : State := (((s.wn (fRing 5) 1).wn (fRing 6) 0).wn (fRing 7) 0).whyRing

theorem faultRingEnableAct_ok {s : State} (hoff : s.rn (fRing 5) ≠ 1) (hrange : s.ringRange (fRing 1) (fRing 2) = false) :
    faultRingEnableAct s = okAct s.ringEnabled :=
  guardAct_ok (guard_nil (by simp [hoff, hrange]))

theorem State.rn_whyRing (s : State) {k : Nat} (hk : k / 256 ≠ 0x0111) : s.whyRing.rn k = s.rn k :=
  rn_ofrd (s.rd_whyRing hk)

theorem State.ringEnabled_is (s : State) :
    s.ringEnabled.rn (fRing 5) = 1 ∧ s.ringEnabled.rn (fRing 6) = 0 ∧ s.ringEnabled.rn (fRing 7) = 0 := by
  refine ⟨?_, ?_, ?_⟩
  · refine (State.rn_whyRing _ (by decide)).trans ((State.rn_wn_ne _ _ (by decide)).trans
      ((State.rn_wn_ne _ _ (by decide)).trans (State.rn_wn_lt _ _ (by decide))))
  · exact (State.rn_whyRing _ (by decide)).trans ((State.rn_wn_ne _ _ (by decide)).trans (State.rn_wn_lt _ _ (by decide)))
  · exact (State.rn_whyRing _ (by decide)).trans (State.rn_wn_lt _ _ (by decide))

/-- Settles O39: the scrubber by its passes, a watchdog by its unit, the HKC by the stage and by what its ROM finds, the fault
    ring by the record that it takes. -/
theorem faultCommands : Obligations.FaultCommands := by
  refine ⟨?pass, ?start, ?ended, ?watchdog, ?lockstep, ?restart, ?ring, ?enable, ?disable⟩
  case pass =>
    intro p s hs
    refine Completes.dictOk only_scrubAct rfl hs (by decide) (by decide) fun u hu _ => ⟨_, rfl, fun w hw ha => ⟨ha, ?_⟩⟩
    rw [hw.scrub, ← hu.scrub]
    rfl
  case start =>
    intro hits s hen
    refine Completes.of (only_execScrubPassStart hits s) (exec_scrubPassStart hits hen) (by decide)
      ⟨s.scrub_scrubHits hits, ?_, ?_⟩
    · rintro rfl
      exact State.rn_bump s.startScrub (rScrub 5)
    · rintro k off rfl hgood hstate l hl
      obtain ⟨hfenced, hcause, hposts⟩ := State.coreUe_fences (s := s.startScrub) hgood hstate hl
      have hfound : [ScrubHit.core k off false].foldl (fun s h => s.scrubHit h) s.startScrub = s.startScrub.coreUe k off 1 :=
        rfl
      rw [hfound]
      exact ⟨hfenced, hcause, hposts.congr (s := s) rfl rfl rfl rfl⟩
  case ended =>
    intro ms s hpass
    obtain ⟨hscrub, hdone, hcount, hlate⟩ := s.passEnded_is ms
    have hframe := s.only_whyScrub_late ms
    refine Completes.of (only_execScrubPassEnd ms s) (exec_scrubPassEnd ms hpass) (by decide)
      ⟨(hframe.same .scrub (by decide)).trans hscrub, (hframe.same .scrubbed (by decide)).trans hdone, ?_, ?_⟩
    · rw [State.rn_whyScrub _ (by decide)]
      split
      · rw [State.bump32, State.rn_bumpBy_ne _ _ _ (by decide), hcount]
      · exact hcount
    · rw [State.rn_whyScrub _ (by decide)]
      split
      · rw [State.rn_bump32, hlate]
      · exact hlate
  case watchdog =>
    intro u stage s
    refine Completes.of (only_execWatchdogExpire u stage s) rfl (by decide) ?_
    cases u with
    | core k => exact s.watchdog_core_is stage.toNat k
    | ni n => exact s.watchdog_ni_is stage.toNat n
    | router r =>
      rw [s.watchdog_router stage.toNat r]
      exact ⟨(s.posts_watchdogPosted _ _).congr rfl rfl rfl rfl, mem_addNew_self _ _, mem_addNew_self _ _⟩
    | portBridge p =>
      refine ⟨State.watchdog_portDown stage.toNat, fun hdown => ?_⟩
      rw [s.watchdog_portUp stage.toNat p hdown]
      exact s.posts_watchdogPosted _ _
    | bridge n => exact ⟨s.posts_watchdogPosted _ _, s.count_watchdogPosted _ _⟩
  case lockstep =>
    intro pc n s hclk hup
    have hx : exec (.lockstepMismatch pc n) s = .next (s.lockstep pc.toNat n) :=
      congrArg Host.Outcome.next ((State.clk_on hclk).trans (if_pos hup))
    refine Completes.of (only_execLockstepMismatch pc n s) hx (by decide) ?_
    by_cases hearly : s.boot.stage = .dawn ∨ s.boot.stage = .sunrise
    · obtain ⟨hmonT, hmonV, hhkc, hstage, hcode⟩ := State.lockstep_early_is pc.toNat n hearly
      exact ⟨hmonT, hmonV, fun _ => ⟨hhkc, hstage, hcode⟩, fun hlate => absurd hearly hlate⟩
    rw [State.lockstep_late pc.toNat n hearly]
    by_cases hn : 3 ≤ n
    · obtain ⟨hmonT, hmonV⟩ := State.mon_hkcStopped pc.toNat n s 2
      simp only [if_pos hn]
      exact ⟨hmonT, hmonV, fun h => absurd h hearly, fun _ =>
        ⟨(State.only_hkcStopped pc.toNat n s 2).same .boot (by decide), State.posts_hkcStopped pc.toNat n s 2,
          State.hkc_hkcStopped pc.toNat n s 2 (by decide), fun hlt => absurd hn (by omega)⟩⟩
    · have hrestart := State.only_hkcRestarted pc.toNat n s
      obtain ⟨hmonT, hmonV⟩ := State.mon_hkcStopped pc.toNat n s 1
      simp only [if_neg hn]
      rw [hrestart.same .mon (by decide)]
      exact ⟨hmonT, hmonV, fun h => absurd h hearly, fun _ =>
        ⟨(hrestart.same .boot (by decide)).trans ((State.only_hkcStopped pc.toNat n s 1).same .boot (by decide)),
          (State.posts_hkcStopped pc.toNat n s 1).congr rfl rfl rfl (hrestart.same .log (by decide)),
          State.hkc_hkcRestarted pc.toNat n s,
          fun _ => ⟨State.restarts_hkcRestarted pc.toNat n s, State.session_hkcRestarted pc.toNat n s⟩⟩⟩
  case restart =>
    intro i0 i1 s hclk hon hhkc hidle
    rcases hpick : romPick s.fuses i0 i1 with ⟨_ | ⟨n, i⟩, a, b⟩
    · refine Completes.of (only_execHkcRestartDone i0 i1 s) (exec_hkcRestartDone_fails hclk hhkc hon hpick) (by decide) ?_
      have hfailed : (s.wn rHkc 2).rn rHkc = 2 := State.rn_wn_lt _ _ (by decide)
      dsimp only
      split
      case isTrue hmorning =>
        obtain ⟨hboot, -, hposts⟩ := State.bootFault_is (s := s) (u := s.wn rHkc 2) (n := s.boot.stage.code) (code := 3)
          (w64 (a + b * 16)) rfl rfl rfl rfl (State.rd_wn_ne _ _ (by decide)) (by decide)
        refine ⟨(rn_ofrd (State.rd_bootFault _ _ _ (by decide) (by decide))).trans hfailed, fun _ => ⟨?_, hposts⟩,
          fun h => absurd hmorning h⟩
        rw [hboot]
      case isFalse hother => exact ⟨hfailed, fun h => absurd h hother, fun _ => ⟨rfl, rfl⟩⟩
    · have hserved : ((s.romBooted n i a).wn rHkc 0).serveHeld = (s.romBooted n i a).wn rHkc 0 := by
        refine State.serveHeld_idle fun m op idx sub d hm => ?_
        have hpath : ((s.romBooted n i a).wn rHkc 0).pathN m = s.pathN m :=
          congrArg (fun x => Tab.get PathSt.reset x m) ((s.only_romBooted n i a).same .paths (by decide))
        rw [hpath]
        exact hidle m op idx sub d hm
      have hx := exec_hkcRestartDone_boots hclk hhkc hon hpick
      rw [hserved] at hx
      refine Completes.of (only_execHkcRestartDone i0 i1 s) hx (by decide) ⟨State.rn_wn_lt _ _ (by decide), ?_, ?_⟩
      · exact congrArg Boot.svn (s.boot_romBooted n i a)
      · have hn := romPick_slot hpick
        rw [State.rn_wn_ne _ _ (by decide), s.slot_romBooted n i a, Nat.mod_eq_of_lt (by omega)]
  case ring =>
    intro r rest s hclk hq hst hhost hup
    exact Completes.of (only_execFaultRingWrite s) (exec_faultRingWrite hclk hq hst hhost hup) (by decide)
      (s.ringRecord_is r rest)
  case enable =>
    intro p s hs hoff hrange
    refine Completes.dictOk only_faultRingEnableAct rfl hs (by decide) (by decide) fun u hu _ =>
      ⟨_, faultRingEnableAct_ok (by rwa [hu.rn]) (by rwa [hu.ringRange]), fun w hw ha => ⟨ha, ?_⟩⟩
    simp only [hw.rn]
    exact u.ringEnabled_is
  case disable =>
    intro p s hs
    refine Completes.dictOk only_faultRingDisableAct rfl hs (by decide) (by decide) fun u hu _ =>
      ⟨_, rfl, fun w hw ha => ⟨ha, ?_, fun k hk hwhy => ?_⟩⟩
    · rw [hw.rn]
      exact (State.rn_whyRing _ (by decide)).trans (State.rn_wn_lt _ _ (by decide))
    · rw [hw.rd, ← hu.rd]
      exact (State.rd_whyRing _ hwhy).trans (State.rd_wn_ne _ _ hk)

end Sys2Proof.Machine
end

section
/-! PROOF. The order in which BOOT.STAGE moves (12 R397, R400, R401). -/

namespace Sys2Proof.Machine

/-- The moves of BOOT.STAGE other than a device reset (R397). -/
def bootMoves : List (Stage × Stage) :=
  [(.dawn, .sunrise), (.sunrise, .morning), (.morning, .noon), (.dawn, .fault), (.sunrise, .fault), (.morning, .fault)]

/-- From s to t the stage stays or moves on. -/
def State.StageMoves (s t : State) : Prop :=
  t.boot.stage = s.boot.stage ∨ (s.boot.stage, t.boot.stage) ∈ bootMoves

namespace State.StageMoves

variable {s t u : State}

theorem refl (s : State) : s.StageMoves s := .inl rfl

theorem moved {a b : Stage} (hs : s.boot.stage = a) (ht : t.boot.stage = b) (h : (a, b) ∈ bootMoves) : s.StageMoves t := by
  subst hs ht
  exact .inr h

theorem of_only {W : List Part} (ho : Only W s t) (hw : W.contains .stage = false) : s.StageMoves t := .inl (ho.same .stage hw)

/-- What waits for REFCLK moves the stage as it does when it runs. -/
theorem clk {f : State → State} (h : s.StageMoves (f s)) : s.StageMoves (s.clk f) := by
  unfold State.clk
  split
  · exact h
  · exact .refl s

/-- FAULT is entered from a stage that boots. -/
theorem bootFault {a : Stage} {code : Nat} {detail : W64} (hs : s.boot.stage = a) (ha : (a, .fault) ∈ bootMoves)
    : s.StageMoves (u.bootFault code detail) :=
  .moved hs (congrArg Boot.stage (u.boot_bootFault code detail)) ha

end State.StageMoves

/-! The commands that move the stage -/

variable {s t : State}

theorem stageMoves_dawnEnd {i0 i1 : Image} {us : Nat} (h : exec (.dawnEnd i0 i1 us) s = .next t) : s.StageMoves t := by
  cases h
  refine .clk ?_
  split
  case isTrue => exact .refl s
  case isFalse hst =>
    have hdawn : s.boot.stage = .dawn := not_not.mp hst
    extract_lets u
    rcases hpick : romPick s.fuses i0 i1 with ⟨_ | ⟨n, i⟩, a, b⟩
    · rw [State.romBoot_none (s := u) hpick]
      exact .bootFault hdawn (by decide)
    · rw [State.romBoot_some (s := u) hpick]
      exact .moved (b := .sunrise) hdawn rfl (by decide)

theorem stageMoves_sunriseEnd {r : Sunrise} {us : Nat} (h : exec (.sunriseEnd r us) s = .next t) : s.StageMoves t := by
  cases h
  refine .clk ?_
  split
  case isTrue => exact .refl s
  case isFalse hst =>
    have hsunrise : s.boot.stage = .sunrise := not_not.mp hst
    cases hrouter : r.router with
    | some n =>
      rw [State.sunrise_router hrouter]
      exact .bootFault hsunrise (by decide)
    | none =>
      cases hbad : (List.range 70).all ((s.bootTime 2 us).tested r).tileBad with
      | true =>
        rw [State.sunrise_noTile hrouter hbad]
        exact .bootFault hsunrise (by decide)
      | false => exact .moved (b := .morning) hsunrise (congrArg Boot.stage (State.boot_sunrise_whole hrouter hbad)) (by decide)

theorem stageMoves_morningEnd {us : Nat} (h : exec (.morningEnd us) s = .next t) : s.StageMoves t := by
  cases h
  refine .clk ?_
  split
  case isTrue hst => exact .moved (b := .noon) hst.1 rfl (by decide)
  case isFalse => exact .refl s

theorem stageMoves_bootStepTimeout {b : BootStep} (h : exec (.bootStepTimeout b) s = .next t) : s.StageMoves t := by
  cases h
  cases b
  case supply aon core =>
    dsimp only
    split
    case isTrue hst => exact .bootFault hst.1 (by decide)
    case isFalse => exact .refl s
  case fuse w =>
    dsimp only
    split
    case isTrue hst => exact .bootFault hst (by decide)
    case isFalse => exact .refl s
  case image =>
    refine .clk ?_
    split
    case isTrue hst => exact .bootFault hst (by decide)
    case isFalse => exact .refl s
  case lockstep pc =>
    refine .clk ?_
    split
    case isTrue hst =>
      rcases hst with hdawn | hsunrise
      · exact .bootFault hdawn (by decide)
      · exact .bootFault hsunrise (by decide)
    case isFalse => exact .refl s
  case portTraining p =>
    refine .clk ?_
    split
    case isTrue => exact .of_only (only_trainingFailed s p) (by decide)
    case isFalse => exact .refl s

theorem stageMoves_lockstepMismatch {pc : BitVec 32} {n : Nat} (h : exec (.lockstepMismatch pc n) s = .next t) :
    s.StageMoves t := by
  cases h
  refine .clk ?_
  split
  case isFalse => exact .refl s
  case isTrue =>
    by_cases hearly : s.boot.stage = .dawn ∨ s.boot.stage = .sunrise
    · obtain ⟨-, -, -, hfault, -⟩ := State.lockstep_early_is pc.toNat n hearly
      rcases hearly with hdawn | hsunrise
      · exact .moved hdawn hfault (by decide)
      · exact .moved hsunrise hfault (by decide)
    · have hstopped (st : Nat) := State.only_hkcStopped pc.toNat n s st
      rw [State.lockstep_late pc.toNat n hearly]
      split
      · exact .of_only (hstopped 2) (by decide)
      · exact .inl (((State.only_hkcRestarted pc.toNat n s).same .stage (by decide)).trans ((hstopped 1).same .stage (by decide)))

theorem stageMoves_hkcRestartDone {i0 i1 : Image} (h : exec (.hkcRestartDone i0 i1) s = .next t) : s.StageMoves t := by
  cases h
  refine .clk ?_
  split
  case isFalse => exact .refl s
  case isTrue =>
    rcases hpick : romPick s.fuses i0 i1 with ⟨_ | ⟨n, i⟩, a, b⟩
    · rw [State.romBoot_none hpick]
      dsimp only
      split
      case isTrue hmorning => exact .bootFault hmorning (by decide)
      case isFalse => exact .refl s
    · rw [State.romBoot_some hpick]
      have hserved := only_serveHeld ((s.romBooted n i a).wn rHkc 0)
      have hbooted : ((s.romBooted n i a).wn rHkc 0).boot.stage = s.boot.stage :=
        (s.only_romBooted n i a).same .stage (by decide)
      exact .inl ((hserved.same .stage (by decide)).trans hbooted)

/-- A command that is no device reset moves the stage in the order of R397. -/
theorem exec_stageMoves {c : Instr} (hc : Instr.mayReset c = false) (hx : exec c s = .next t) : s.StageMoves t := by
  obtain ⟨u, hu, ho⟩ := exec_answers_changes s c
  cases hx.symm.trans hu
  cases c
  case deviceReset | porstPulse | resetDelayExpire | supplyReset => cases hc
  case dawnEnd => exact stageMoves_dawnEnd hx
  case sunriseEnd => exact stageMoves_sunriseEnd hx
  case morningEnd => exact stageMoves_morningEnd hx
  case bootStepTimeout => exact stageMoves_bootStepTimeout hx
  case lockstepMismatch => exact stageMoves_lockstepMismatch hx
  case hkcRestartDone => exact stageMoves_hkcRestartDone hx
  all_goals exact .of_only ho rfl

/-- Settles O7: a tick leaves the stage, a device reset returns it to DAWN, and every other command moves it in order. -/
theorem bootStageOrder : Obligations.BootStageOrder := by
  intro s t h
  rcases step_cases h with rfl | ⟨c, q, hx⟩
  · exact .inl ((only_clockTick s).same .stage (by decide))
  · cases hc : Instr.mayReset c with
    | false => exact (exec_stageMoves hc hx).imp_right .inl
    | true =>
      rcases exec_mayReset hc hx with ⟨k, d, cc, hreset⟩ | ho
      · have hboot := hreset.units.same .boot (by decide)
        exact .inr (.inr ⟨congrArg Boot.stage hboot, q, k, d, cc, hreset⟩)
      · exact .inl (ho.same .stage (by decide))

end Sys2Proof.Machine
end

section
/-! PROOF. The THERMTRIP_N latch: only a power-on reset clears it (13 R451; 12 R398; 14 R479). -/

namespace Sys2Proof.Machine

variable {s t : State}

/-- A device reset keeps the latch, unless the supplies rose (R398). -/
theorem State.IsResetOf.thermtrip {c : ResetCause} {d : BitVec 3} {cc : Bool} (h : s.IsResetOf t c d cc) :
    t.mon.thermtrip = (s.mon.thermtrip && decide (c ≠ .powerOn)) :=
  congrArg Mon.thermtrip h.mon

theorem State.mon_postTemp (s : State) (c : Bool) (i : Nat) (v : Int) : (s.postTemp c i v).mon = s.mon :=
  (only_postTemp s c i v).same .mon (by decide)

/-- A reading at 115 °C latches THERMTRIP_N, and no reading clears it (R451). -/
theorem State.thermtrip_judgeTemp (s : State) (i : Nat) (v : Int) :
    (s.judgeTemp i v).mon.thermtrip = (s.mon.thermtrip || decide (920 ≤ v)) := by
  unfold State.judgeTemp
  dsimp only
  rw [State.mon_postTemp, State.mon_postTemp, State.mon_postTemp]
  split <;> rfl

/-- While REFCLK runs a temperature sample latches as its reading says; while it is lost nothing happens. -/
theorem exec_tempSample_thermtrip {i : Nat} {v : Int} (h : exec (.tempSample i v) s = .next t) :
    t.mon.thermtrip = (s.mon.thermtrip || s.boot.refclk && decide (920 ≤ v)) := by
  cases h
  cases hclk : s.boot.refclk with
  | false => simp [State.clk, hclk]
  | true =>
    rw [State.clk_on hclk, (only_whyTemp _).same .thermtrip (by decide), State.thermtrip_judgeTemp]
    dsimp only
    split <;> rfl

/-- Of the commands that cannot reset the device only a temperature sample reaches the latch, and it never clears it. -/
theorem exec_keepsThermtrip {c : Instr} (hc : Instr.mayReset c = false) (hx : exec c s = .next t)
    (hs : s.mon.thermtrip = true) : t.mon.thermtrip = true := by
  obtain ⟨u, hu, ho⟩ := exec_answers_changes s c
  cases hx.symm.trans hu
  cases c
  case deviceReset | porstPulse | resetDelayExpire | supplyReset => cases hc
  case tempSample => rw [exec_tempSample_thermtrip hx, hs, Bool.true_or]
  all_goals exact (ho.same .thermtrip rfl).trans hs

/-- Settles O10: a tick and every command but a device reset keep the latch, and so does a reset of another cause. -/
theorem thermtripLatchHolds : Obligations.ThermtripLatchHolds := by
  intro s t h hs
  rcases step_cases h with rfl | ⟨c, q, hx⟩
  · exact .inl (((only_clockTick s).same .thermtrip (by decide)).trans hs)
  · cases hc : Instr.mayReset c with
    | false => exact .inl (exec_keepsThermtrip hc hx hs)
    | true =>
      rcases exec_mayReset hc hx with ⟨k, d, cc, hreset⟩ | ho
      · by_cases hk : k = .powerOn
        · subst hk
          exact .inr ⟨q, d, cc, hreset⟩
        · have hlatch := hreset.thermtrip
          rw [hs, decide_eq_true hk] at hlatch
          exact .inl hlatch
      · exact .inl ((ho.same .thermtrip (by decide)).trans hs)

end Sys2Proof.Machine
end

section
/-! PROOF. The straps: DEVNUM and the common-clock strap are read at a device reset only (14 R472). -/

namespace Sys2Proof.Machine

/-- Settles O9: both straps lie outside the parts that a step may change when it is no device reset. -/
theorem strapsHoldUntilReset : Obligations.StrapsHoldUntilReset := by
  intro s t h
  rcases step_steady h with hreset | ho
  · exact .inr hreset
  · exact .inl ⟨ho.same .straps (by decide), ho.same .cc (by decide)⟩

end Sys2Proof.Machine
end
